-- ==== Sys2Proof/Word.lean ====
section
/-! DEFINITION. The word types of the B7: 64-bit scalar words (R24), 32-bit vector lanes (R25), bytes (R7). -/

namespace Sys2Proof

/-- A scalar register, a CSR or an address while it is computed (R24, R28, R29). -/
abbrev Word := BitVec 64

/-- One lane of a vector or accumulator register (R24, R25). -/
abbrev Lane := BitVec 32

/-- The smallest unit of memory (R7). -/
abbrev Byte := BitVec 8

end Sys2Proof
end

