-- ==== Sys2Proof/Config.lean ====
section
/-! DEFINITION. What one implementation fixes, and the free values: constants with no body, of which nothing can be
proved but what holds for every value. Each is named in a log entry under notes/assumptions. -/

namespace Sys2Proof.Config

/-- Free value (log 7): which of the free world tags the n-th reservation takes (R343, R346: allocation depends on
timing). -/
opaque freeTag : Nat → Nat

/-- Free value (log 7): a byte the spec calls unknown: a granule whose host or peer store was answered with an error
(R236), a receive or chaff byte of a collective that faulted (R290). -/
opaque freeByte : Nat → Byte

/-- Free value (log 7): the n-th result that exact evaluation cannot bound; see Machine/Special.lean. -/
opaque freeBits : Nat → BitVec 64

/-- Implementation value (log 9): byte k of Lantern's identity public key (R373). -/
opaque identityByte : Nat → Byte

/-- Implementation value (log 9): byte k of the SLH-DSA signature over a report body (R373). -/
opaque signatureByte : List Byte → Nat → Byte

/-- Which of two neighbouring results a special function would give if its bounds did not decide (R87, R156; log 20): of its fn code,
the format code and the operand. -/
opaque specialSide : Nat → Nat → Nat → Bool

/-- Dies of a module (R10). -/
def dies : Nat := 16

/-- Crofts of a die (R10). -/
def croftsPerDie : Nat := 128

/-- Bytes of device memory behind one die: two stacks of 64 GiB (R10, R370). -/
def dieBytes : Nat := 0x2000000000

/-- Bytes of device memory of the module: 2 TiB (R10). -/
def deviceBytes : Nat := 0x20000000000

/-- Live launches, queues and engines are bounded by the spec's figures: 8 commands a queue (R203, R252, R281). -/
def engineQueue : Nat := 8

/-- VE instruction queue entries (R20). -/
def veQueue : Nat := 32

/-- Store address queue entries (R19). -/
def storeQueue : Nat := 16

/-- Tiles of a queue register (R24). -/
def queueTiles : Nat := 4

/-- World tags of a device (R357). -/
def tags : Nat := 1023

end Sys2Proof.Config
end

