-- ==== Sys2Proof/Syntax.lean ====
section
/-! DEFINITION. The abstract instructions: one constructor per row of spec/opcode_table.json. The first 190 are the
encoded instructions of the B7 (R78) with their fields named as the table names them; the other 72 are the device's
own steps and the events that reach it from outside, whose operands are what the outside supplies. -/

namespace Sys2Proof

/-- An x-register number (R24, R64). -/
abbrev XReg := Fin 32

/-- A vector operand in a source field (R27, codes 0 to 27). -/
inductive VSrc where
  | v (i : Fin 16)
  | q (i : Fin 8)
  | a (i : Fin 4)
deriving DecidableEq, Repr

/-- A vector operand in a destination field (R27: an accumulator view is never a destination). -/
inductive VDst where
  | v (i : Fin 16)
  | q (i : Fin 8)
deriving DecidableEq, Repr

/-- The lane, memory and engine formats (R89, codes 0 to 12). -/
inductive Fmt where
  | fp32 | bf16 | fp16 | e4m3 | e5m2 | d8 | int32 | int16 | int8 | uint8 | int4 | uint4 | uint16
deriving DecidableEq, Repr

/-- The format field of an FPS instruction (R74). -/
inductive FFmt where
  | s | d
deriving DecidableEq, Repr

/-- The rounding field of an FPS instruction (R74): `dyn` takes FCTL[2:0]. -/
inductive FRnd where
  | dyn | rne | rtz | rup | rdn
deriving DecidableEq, Repr

/-- The condition of VCMP (R75). -/
inductive Cond where
  | eq | ne | lt | le | gt | ge | un
deriving DecidableEq, Repr

/-- The scopes of R238. -/
inductive Scope where
  | croft | die | device | fabric
deriving DecidableEq, Repr

/-- The cause codes of R390 that the B7 delivers or reports. -/
inductive Cause where
  | illegal | reservedField | zeroWord | privileged | reservedVector
  | svreqTask | svreqSuper | debugBreak | misalignedData | misalignedFetch
  | fetchPage | loadPage | storePage | loadProt | storeProt | fetchProt
  | loftBacking | addressRange | hostError | peerError | amoScope | amoMisaligned | spillLimit
  | queueUnderflow | queueOverflow | queueRole | accWritten | shape | shapeAffinity | loopNesting | format
  | sparseMeta | symmetryBreak | orbitInvalid | orbitIndex
  | recordMalformed | symmetryMismatch | nestRange | stampOverrun | engineTranslation
  | streamMalformed | streamRate | streamDescriptor | collectiveInvalid | collectiveTimeout
  | worldTags | worldPool | worldExternal | worldDepth | chooseMisuse
  | nondeterministic | queueFull | watchdog | joinUnderflow | expansionAbsent
  | uncorrectable | linkFailure | datapathCheck | dieIsolated
deriving DecidableEq, Repr

/-- The code of a cause (R390). -/
def Cause.code : Cause → Nat
  | .illegal => 0x01 | .reservedField => 0x02 | .zeroWord => 0x03 | .privileged => 0x04 | .reservedVector => 0x05
  | .svreqTask => 0x08 | .svreqSuper => 0x09 | .debugBreak => 0x0A | .misalignedData => 0x0C | .misalignedFetch => 0x0D
  | .fetchPage => 0x10 | .loadPage => 0x11 | .storePage => 0x12 | .loadProt => 0x13 | .storeProt => 0x14
  | .fetchProt => 0x15 | .loftBacking => 0x16 | .addressRange => 0x17 | .hostError => 0x18 | .peerError => 0x19
  | .amoScope => 0x20 | .amoMisaligned => 0x21 | .spillLimit => 0x28
  | .queueUnderflow => 0x30 | .queueOverflow => 0x31 | .queueRole => 0x32 | .accWritten => 0x33 | .shape => 0x34
  | .shapeAffinity => 0x35 | .loopNesting => 0x36 | .format => 0x37 | .sparseMeta => 0x38
  | .symmetryBreak => 0x3A | .orbitInvalid => 0x3B | .orbitIndex => 0x3C
  | .recordMalformed => 0x40 | .symmetryMismatch => 0x41 | .nestRange => 0x42 | .stampOverrun => 0x44
  | .engineTranslation => 0x45 | .streamMalformed => 0x48 | .streamRate => 0x49 | .streamDescriptor => 0x4A
  | .collectiveInvalid => 0x4C | .collectiveTimeout => 0x4D
  | .worldTags => 0x50 | .worldPool => 0x51 | .worldExternal => 0x52 | .worldDepth => 0x53 | .chooseMisuse => 0x54
  | .nondeterministic => 0x60 | .queueFull => 0x61 | .watchdog => 0x62 | .joinUnderflow => 0x63
  | .expansionAbsent => 0x68 | .uncorrectable => 0x70 | .linkFailure => 0x71 | .datapathCheck => 0x72
  | .dieIsolated => 0x73

/-- One Uluwin frame as it arrives at a port (R293). `tagOk` is the verdict of its GCM tag (R294). -/
structure Frame where
  seq : Nat
  src : BitVec 32
  dst : BitVec 32
  chunk : BitVec 32
  keyPhase : Bool
  level : Fin 4
  group : BitVec 8
  ackSeq : Nat
  payload : List (BitVec 8)
  tagOk : Bool
deriving DecidableEq, Repr

/-- The matched command of another member of a collective group, with the buffers it supplies (R284 to R287). -/
structure PeerCmd where
  member : Nat
  kind : Nat
  op : Nat
  fmt : Nat
  winnow : Nat
  count : Nat
  peer : Nat
  send : List (BitVec 8)
  chaff : List (BitVec 8)
deriving DecidableEq, Repr

/-- The PCI Express AtomicOps the B7 completes on BAR2 (R416). -/
inductive AtomicKind where
  | swap | fetchAdd | cas
deriving DecidableEq, Repr

/-- A register written by REGISTER_WRITE: a CSR, or a BAR0 register of a partition's function (R366, R418). -/
inductive RegTarget where
  | csr (n : BitVec 12)
  | bar0 (part : Fin 16) (offset : Nat)
deriving DecidableEq, Repr

/-- A partition configuration as firmware applies it (R370): number, dies, contexts, ports and the measurement of
its configuration record (R372). -/
structure PartCfg where
  num : Fin 16
  firstDie : Fin 16
  dies : Nat
  contexts : List (Fin 64)
  ports : List (Fin 32)
  digest : List (BitVec 8)
deriving DecidableEq, Repr

/-- An expansion set: its measurement and the errata whose old behaviour it keeps (R60, R83). -/
structure XSet where
  measure : List (BitVec 8)
  keeps : List (Fin 256)
deriving DecidableEq, Repr

/-- What bring-up meets (R426): whether the firmware image passes and whether its management firmware starts, at first or after step
1 is repeated; the measurements of the image and of its slot 0 set, and the other slots whose set the image holds (R84); the
configuration requests that come before step 6; the dies that fail training, the stored partition record and the ports that fail
their bring-up. -/
structure Boot where
  firmwareOk : Bool
  managementOk : Bool
  managementRetry : Bool
  firmware : List (BitVec 8)
  set0 : XSet
  held : List (Fin 4)
  requests : Nat
  badDies : List (Fin 16)
  parts : List PartCfg
  downPorts : List (Fin 32)
deriving DecidableEq, Repr

/-- The power states of R378. -/
inductive PowerState where
  | run | idle | nap | off
deriving DecidableEq, Repr

/-- The lifecycle states of R376. -/
inductive Lifecycle where
  | blank | develop | production | returned
deriving DecidableEq, Repr

/-- The debug levels of R377. -/
inductive DebugLevel where
  | off | observe | invasive
deriving DecidableEq, Repr

/-- A debug token (R377): the identity digest and signature verdicts, the partition, the level and the nonce. -/
structure DebugToken where
  identityOk : Bool
  signatureOk : Bool
  part : Fin 16
  level : DebugLevel
  nonce : Nat
deriving DecidableEq, Repr

/-- The line an uncorrectable error strikes (R400, R403): device memory or the running task's loft. -/
inductive ErrorSite where
  | device (pa : Nat)
  | loft (offset : Nat)
deriving DecidableEq, Repr

/-- The instructions of the B7 and the steps of the device. -/
inductive Instr where
  /-- ADD (R111). Writes the sum of two x registers, modulo 2^64. -/
  | add (d a b : XReg)
  /-- SUB (R111). Writes the difference of two x registers, modulo 2^64. -/
  | sub (d a b : XReg)
  /-- AND (R111). Writes the bitwise AND of two x registers. -/
  | andR (d a b : XReg)
  /-- OR (R111). Writes the bitwise OR of two x registers. -/
  | orR (d a b : XReg)
  /-- XOR (R111). Writes the bitwise XOR of two x registers. -/
  | xorR (d a b : XReg)
  /-- SLL (R111). Shifts left by x[rs2][5:0]. -/
  | sll (d a b : XReg)
  /-- SRL (R111). Shifts right logically by x[rs2][5:0]. -/
  | srl (d a b : XReg)
  /-- SRA (R111). Shifts right arithmetically by x[rs2][5:0]. -/
  | sra (d a b : XReg)
  /-- SLT (R111). Writes 1 if x[rs1] is less than x[rs2] as signed values, else 0. -/
  | slt (d a b : XReg)
  /-- SLTU (R111). Writes 1 if x[rs1] is less than x[rs2] as unsigned values, else 0. -/
  | sltu (d a b : XReg)
  /-- MIN (R111). Writes the signed minimum. -/
  | min (d a b : XReg)
  /-- MAX (R111). Writes the signed maximum. -/
  | max (d a b : XReg)
  /-- MINU (R111). Writes the unsigned minimum. -/
  | minu (d a b : XReg)
  /-- MAXU (R111). Writes the unsigned maximum. -/
  | maxu (d a b : XReg)
  /-- MUL (R111). Writes the low 64 bits of the exact product. -/
  | mul (d a b : XReg)
  /-- MHIS (R111). Writes bits 127 to 64 of the signed product. -/
  | mhis (d a b : XReg)
  /-- MHIU (R111). Writes bits 127 to 64 of the unsigned product. -/
  | mhiu (d a b : XReg)
  /-- DIV (R112). Writes the signed quotient, truncated toward zero and saturating, without faulting. -/
  | div (d a b : XReg)
  /-- DIVU (R112). Writes the unsigned quotient, saturating on a divisor of zero. -/
  | divu (d a b : XReg)
  /-- REM (R112). Writes the signed remainder, with the sign of the dividend. -/
  | rem (d a b : XReg)
  /-- REMU (R112). Writes the unsigned remainder. -/
  | remu (d a b : XReg)
  /-- CLZ (R111). Counts the leading zero bits of x[rs1]. -/
  | clz (d a : XReg)
  /-- CTZ (R111). Counts the trailing zero bits of x[rs1]. -/
  | ctz (d a : XReg)
  /-- POPC (R111). Counts the one bits of x[rs1]. -/
  | popc (d a : XReg)
  /-- SEL (R111). Writes x[rs1] if the old x[rd] is non-zero, else x[rs2]. -/
  | sel (d a b : XReg)
  /-- ADDI (R113). Adds a sign-extended immediate. -/
  | addi (d a : XReg) (i : BitVec 16)
  /-- ANDI (R113). ANDs with a zero-extended immediate. -/
  | andi (d a : XReg) (i : BitVec 16)
  /-- ORI (R113). ORs with a zero-extended immediate. -/
  | ori (d a : XReg) (i : BitVec 16)
  /-- XORI (R113). XORs with a zero-extended immediate. -/
  | xori (d a : XReg) (i : BitVec 16)
  /-- SLTI (R113). Writes 1 if x[rs1] is less than the signed immediate, else 0. -/
  | slti (d a : XReg) (i : BitVec 16)
  /-- SLTIU (R113). Writes 1 if x[rs1] is less than the zero-extended immediate as unsigned values, else 0. -/
  | sltiu (d a : XReg) (i : BitVec 16)
  /-- SLLI (R114). Shifts left by an immediate amount. -/
  | slli (d a : XReg) (n : BitVec 6)
  /-- SRLI (R114). Shifts right logically by an immediate amount. -/
  | srli (d a : XReg) (n : BitVec 6)
  /-- SRAI (R114). Shifts right arithmetically by an immediate amount. -/
  | srai (d a : XReg) (n : BitVec 6)
  /-- LUI (R115). Writes the sign-extended imm21 times 0x1_0000. -/
  | lui (d : XReg) (i : BitVec 21)
  /-- LUIPC (R115). Writes the pc's 64 KiB block base plus imm21 times 0x1_0000. -/
  | luipc (d : XReg) (i : BitVec 21)
  /-- LB (R116). Loads a sign-extended byte. -/
  | lb (d a : XReg) (i : BitVec 16)
  /-- LBU (R116). Loads a zero-extended byte. -/
  | lbu (d a : XReg) (i : BitVec 16)
  /-- LH (R116). Loads a sign-extended halfword. -/
  | lh (d a : XReg) (i : BitVec 16)
  /-- LHU (R116). Loads a zero-extended halfword. -/
  | lhu (d a : XReg) (i : BitVec 16)
  /-- LW (R116). Loads a sign-extended word. -/
  | lw (d a : XReg) (i : BitVec 16)
  /-- LWU (R116). Loads a zero-extended word. -/
  | lwu (d a : XReg) (i : BitVec 16)
  /-- LD (R116). Loads a doubleword. -/
  | ld (d a : XReg) (i : BitVec 16)
  /-- SB (R116). Stores the low byte of x[rs2]. -/
  | sb (b a : XReg) (i : BitVec 16)
  /-- SH (R116). Stores the low halfword of x[rs2]. -/
  | sh (b a : XReg) (i : BitVec 16)
  /-- SW (R116). Stores the low word of x[rs2]. -/
  | sw (b a : XReg) (i : BitVec 16)
  /-- SD (R116). Stores the doubleword x[rs2]. -/
  | sd (b a : XReg) (i : BitVec 16)
  /-- AMOSWAP (R242). Atomically swaps memory with x[rs2] and returns the old value. -/
  | amoswap (d a b : XReg) (c : Scope) (q l w : Bool)
  /-- AMOADD (R242). Atomically adds x[rs2] to memory and returns the old value. -/
  | amoadd (d a b : XReg) (c : Scope) (q l w : Bool)
  /-- AMOAND (R242). Atomically ANDs x[rs2] into memory. -/
  | amoand (d a b : XReg) (c : Scope) (q l w : Bool)
  /-- AMOOR (R242). Atomically ORs x[rs2] into memory. -/
  | amoor (d a b : XReg) (c : Scope) (q l w : Bool)
  /-- AMOXOR (R242). Atomically XORs x[rs2] into memory. -/
  | amoxor (d a b : XReg) (c : Scope) (q l w : Bool)
  /-- AMOMIN (R242). Atomically writes the signed minimum. -/
  | amomin (d a b : XReg) (c : Scope) (q l w : Bool)
  /-- AMOMAX (R242). Atomically writes the signed maximum. -/
  | amomax (d a b : XReg) (c : Scope) (q l w : Bool)
  /-- AMOMINU (R242). Atomically writes the unsigned minimum. -/
  | amominu (d a b : XReg) (c : Scope) (q l w : Bool)
  /-- AMOMAXU (R242). Atomically writes the unsigned maximum. -/
  | amomaxu (d a b : XReg) (c : Scope) (q l w : Bool)
  /-- AMOCAS (R242). Atomically writes x[rs2] if memory equals the old x[rd]. -/
  | amocas (d a b : XReg) (c : Scope) (q l w : Bool)
  /-- AMOFADD (R245). Atomically adds floating values, rounded once in RNE; faults under DET. -/
  | amofadd (d a b : XReg) (c : Scope) (q l w : Bool)
  /-- FENCE (R247). Waits for vector stores and, as the options select, for engines and host stores, then releases and acquires. -/
  | fence (s : Scope) (e h : Bool)
  /-- IFLUSH (R248). Invalidates decoded-op and instruction cache entries over a range or for the whole croft. -/
  | iflush (a b : XReg)
  /-- HARVEST (R368). Copies the dirty-page records into a bitmap, clears them and revokes write ownership. -/
  | harvest (a b : XReg)
  /-- TLBINV (R369). Removes matching translations throughout the partition and waits for accesses that used them. -/
  | tlbinv (a b : XReg)
  /-- BEQ (R119). Branches if the two registers are equal. -/
  | beq (b a : XReg) (i : BitVec 16)
  /-- BNE (R119). Branches if the two registers differ. -/
  | bne (b a : XReg) (i : BitVec 16)
  /-- BLT (R119). Branches if x[rs1] is less than x[rs2], signed. -/
  | blt (b a : XReg) (i : BitVec 16)
  /-- BGE (R119). Branches if x[rs1] is greater than or equal to x[rs2], signed. -/
  | bge (b a : XReg) (i : BitVec 16)
  /-- BLTU (R119). Branches if x[rs1] is less than x[rs2], unsigned. -/
  | bltu (b a : XReg) (i : BitVec 16)
  /-- BGEU (R119). Branches if x[rs1] is greater than or equal to x[rs2], unsigned. -/
  | bgeu (b a : XReg) (i : BitVec 16)
  /-- JAL (R120). Writes the link and jumps by a word offset. -/
  | jal (d : XReg) (i : BitVec 21)
  /-- JALR (R120). Writes the link and jumps to x[rs1] plus the offset. -/
  | jalr (d a : XReg) (i : BitVec 16)
  /-- LOOP (R122). Sets a hardware loop level with its count taken from a register. -/
  | loop (l : Fin 2) (a : XReg) (o : BitVec 16)
  /-- LOOPI (R122). Sets a hardware loop level with an immediate count. -/
  | loopi (l : Fin 2) (c : BitVec 9) (o : BitVec 16)
  /-- PUSHM (R127). Stores a range of x or v registers all-or-nothing, at a base or on the spill stack. -/
  | pushm (f l b : XReg) (k : Bool)
  /-- POPM (R127). Loads a range of x or v registers all-or-nothing, from a base or from the spill stack. -/
  | popm (f l b : XReg) (k : Bool)
  /-- SPAWN (R312). Releases and appends a copy of a task record to the launch queue. -/
  | spawn (d a : XReg)
  /-- JOIN (R314). Releases, atomically decrements a join counter and enqueues its waiter at zero. -/
  | join (d a : XReg)
  /-- JINIT (R313). Writes a join counter's count and waiter with one atomic store. -/
  | jinit (d a b : XReg)
  /-- WAITT (R317). Holds the sequencer until TIME reaches x[rs1]. -/
  | waitt (a : XReg)
  /-- FORKW (R346). Drains, reserves tags, saves and suspends the task, and creates 2 to 8 rivals. -/
  | forkw (d a : XReg)
  /-- YIELDW (R351). Ends an explicit rival with a score and keeps its view until CHOOSE. -/
  | yieldw (a : XReg)
  /-- CHOOSE (R355). Ends the pending choice, commits the selected rival's view and frees the rest. -/
  | choose (d a : XReg)
  /-- WID (R345). Writes WORLD to x[rd]. -/
  | wid (d : XReg)
  /-- SETSHP (R136). Requests or releases a shape grant and writes the resulting SH. -/
  | setshp (d a : XReg)
  /-- GETSHP (R138). Writes SH to x[rd]. -/
  | getshp (d : XReg)
  /-- MXQ (R203). Checks a Thresher command record and enqueues a copy of it. -/
  | mxq (a : XReg)
  /-- CPQ (R252). Checks a copy record and enqueues a copy of it to a channel. -/
  | cpq (a b : XReg)
  /-- CLQ (R281). Checks a collective record and enqueues a copy of it. -/
  | clq (a : XReg)
  /-- STRM (R328). Validates a stream descriptor and attaches the stream to a STREAM-bound queue register. -/
  | strm (a b : XReg)
  /-- UNSTRM (R329). Detaches a stream and empties its queue register. -/
  | unstrm (a : XReg)
  /-- QBIND (R251). Gives a queue register the LOAD, STORE or STREAM role. -/
  | qbind (a b : XReg)
  /-- ENGSEQ (R267). Writes the completion sequence number of the selected engine. -/
  | engseq (d a : XReg)
  /-- SKWAIT (R264). Waits until a stook's phase equals x[rs1][0]. -/
  | skwait (a : XReg) (k : Fin 16)
  /-- SKADD (R264). Adds to a stook's count and flips its phase at each multiple of the target. -/
  | skadd (a : XReg) (k : Fin 16)
  /-- SKSET (R264). Clears a stook's count and phase and sets its target. -/
  | skset (a : XReg) (k : Fin 16)
  /-- SKRD (R264). Reads a stook's phase, target and count. -/
  | skrd (d : XReg) (k : Fin 16)
  /-- WPWAIT (R266). Waits until a channel's write pointer reaches x[rs1]. -/
  | wpwait (a : XReg) (k : Fin 4)
  /-- CSRR (R364). Reads a CSR. -/
  | csrr (d : XReg) (c : BitVec 12)
  /-- CSRW (R364). Replaces a CSR, returning its old value unless rd is x0. -/
  | csrw (d a : XReg) (c : BitVec 12)
  /-- CSRS (R364). Sets the masked bits of a CSR and returns its old value. -/
  | csrs (d a : XReg) (c : BitVec 12)
  /-- CSRC (R364). Clears the masked bits of a CSR and returns its old value. -/
  | csrc (d a : XReg) (c : BitVec 12)
  /-- FADD (R132). Scalar floating add in FP32 or FP64. -/
  | fadd (d a b : XReg) (f : FFmt) (r : FRnd)
  /-- FSUB (R132). Scalar floating subtract. -/
  | fsub (d a b : XReg) (f : FFmt) (r : FRnd)
  /-- FMUL (R132). Scalar floating multiply. -/
  | fmul (d a b : XReg) (f : FFmt) (r : FRnd)
  /-- FDIV (R132). Scalar floating divide. -/
  | fdiv (d a b : XReg) (f : FFmt) (r : FRnd)
  /-- FSQRT (R132). Scalar floating square root. -/
  | fsqrt (d a : XReg) (f : FFmt) (r : FRnd)
  /-- FMIN (R132). Scalar floating minimum. -/
  | fmin (d a b : XReg) (f : FFmt)
  /-- FMAX (R132). Scalar floating maximum. -/
  | fmax (d a b : XReg) (f : FFmt)
  /-- FLT (R132). Scalar floating less-than comparison, giving 0 or 1. -/
  | flt (d a b : XReg) (f : FFmt)
  /-- FEQ (R132). Scalar floating equality comparison, giving 0 or 1. -/
  | feq (d a b : XReg) (f : FFmt)
  /-- FLE (R132). Scalar floating less-or-equal comparison, giving 0 or 1. -/
  | fle (d a b : XReg) (f : FFmt)
  /-- FCVTFI (R132). Converts a signed 64-bit integer to floating. -/
  | fcvtfi (d a : XReg) (f : FFmt) (r : FRnd)
  /-- FCVTIF (R132). Converts floating to a saturated signed 64-bit integer. -/
  | fcvtif (d a : XReg) (f : FFmt) (r : FRnd)
  /-- FCVTFF (R132). Converts between FP64 and FP32. -/
  | fcvtff (d a : XReg) (f : FFmt) (r : FRnd)
  /-- FMADD (R132). Fused multiply-add with one rounding, using the old rd as addend. -/
  | fmadd (d a b : XReg) (f : FFmt) (r : FRnd)
  /-- ORBOFF (R187). Evaluates an orbit descriptor's offset at a packed index. -/
  | orboff (d a b : XReg)
  /-- ORBSGN (R187). Evaluates an orbit descriptor's sign at a packed index. -/
  | orbsgn (d a b : XReg)
  /-- ORBMUL (R187). Evaluates an orbit descriptor's multiplicity at a packed index. -/
  | orbmul (d a b : XReg)
  /-- VADD (R148). Element-wise add. -/
  | vadd (d : VDst) (a b : VSrc)
  /-- VSUB (R148). Element-wise subtract. -/
  | vsub (d : VDst) (a b : VSrc)
  /-- VMUL (R148). Element-wise multiply. -/
  | vmul (d : VDst) (a b : VSrc)
  /-- VDIV (R148). Element-wise divide. -/
  | vdiv (d : VDst) (a b : VSrc)
  /-- VMIN (R148). Element-wise minimum. -/
  | vmin (d : VDst) (a b : VSrc)
  /-- VMAX (R148). Element-wise maximum. -/
  | vmax (d : VDst) (a b : VSrc)
  /-- VABS (R148). Element-wise absolute value. -/
  | vabs (d : VDst) (a : VSrc)
  /-- VNEG (R148). Element-wise negation. -/
  | vneg (d : VDst) (a : VSrc)
  /-- VADDSAT (R148). Element-wise saturating integer add. -/
  | vaddsat (d : VDst) (a b : VSrc)
  /-- VSUBSAT (R148). Element-wise saturating integer subtract. -/
  | vsubsat (d : VDst) (a b : VSrc)
  /-- VFMA (R150). Element-wise a×b+c with one rounding. -/
  | vfma (d : VDst) (a b c : VSrc)
  /-- VFMS (R150). Element-wise a×b−c with one rounding. -/
  | vfms (d : VDst) (a b c : VSrc)
  /-- VFNMA (R150). Element-wise −(a×b)+c with one rounding. -/
  | vfnma (d : VDst) (a b c : VSrc)
  /-- VAND (R152). Element-wise bitwise AND. -/
  | vand (d : VDst) (a b : VSrc)
  /-- VOR (R152). Element-wise bitwise OR. -/
  | vor (d : VDst) (a b : VSrc)
  /-- VXOR (R152). Element-wise bitwise XOR. -/
  | vxor (d : VDst) (a b : VSrc)
  /-- VNOT (R152). Element-wise bitwise complement. -/
  | vnot (d : VDst) (a : VSrc)
  /-- VSHL (R152). Element-wise shift left. -/
  | vshl (d : VDst) (a b : VSrc)
  /-- VSHR (R152). Element-wise logical shift right. -/
  | vshr (d : VDst) (a b : VSrc)
  /-- VSRA (R152). Element-wise arithmetic shift right. -/
  | vsra (d : VDst) (a b : VSrc)
  /-- VCMP (R153). Element-wise comparison under a condition, writing all ones or zero. -/
  | vcmp (d : VDst) (a b : VSrc) (c : Cond)
  /-- VSEL (R154). Element-wise selection of a or b by the raw bits of c. -/
  | vsel (d : VDst) (a b c : VSrc)
  /-- VCVT (R155). Converts each element from SH.FMT to the named format. -/
  | vcvt (d : VDst) (a : VSrc) (f : Fmt)
  /-- VEXP2 (R156). Element-wise 2^a, rounded to nearest even. -/
  | vexp2 (d : VDst) (a : VSrc)
  /-- VLOG2 (R156). Element-wise base-2 logarithm. -/
  | vlog2 (d : VDst) (a : VSrc)
  /-- VRCP (R156). Element-wise reciprocal. -/
  | vrcp (d : VDst) (a : VSrc)
  /-- VRSQ (R156). Element-wise reciprocal square root. -/
  | vrsq (d : VDst) (a : VSrc)
  /-- VSQRT (R156). Element-wise square root. -/
  | vsqrt (d : VDst) (a : VSrc)
  /-- VTANH (R156). Element-wise hyperbolic tangent. -/
  | vtanh (d : VDst) (a : VSrc)
  /-- VSIGM (R156). Element-wise logistic sigmoid. -/
  | vsigm (d : VDst) (a : VSrc)
  /-- VROTC (R169). Rotates rows within the granted rows. -/
  | vrotc (d : VDst) (a : VSrc) (s : XReg)
  /-- VROTR (R169). Rotates columns within the granted columns. -/
  | vrotr (d : VDst) (a : VSrc) (s : XReg)
  /-- VBCC (R169). Broadcasts one row down every column. -/
  | vbcc (d : VDst) (a : VSrc) (s : XReg)
  /-- VBCR (R169). Broadcasts one column across every row. -/
  | vbcr (d : VDst) (a : VSrc) (s : XReg)
  /-- VREDC_ADD (R170). Sums each active column into row 0 with one rounding. -/
  | vredcAdd (d : VDst) (a : VSrc)
  /-- VREDC_MAX (R170). Maximum of each active column into row 0. -/
  | vredcMax (d : VDst) (a : VSrc)
  /-- VREDC_MIN (R170). Minimum of each active column into row 0. -/
  | vredcMin (d : VDst) (a : VSrc)
  /-- VREDR_ADD (R170). Sums each active row into column 0 with one rounding. -/
  | vredrAdd (d : VDst) (a : VSrc)
  /-- VREDR_MAX (R170). Maximum of each active row into column 0. -/
  | vredrMax (d : VDst) (a : VSrc)
  /-- VREDR_MIN (R170). Minimum of each active row into column 0. -/
  | vredrMin (d : VDst) (a : VSrc)
  /-- VTRN (R169). Transposes each 16 by 16 block in place. -/
  | vtrn (d : VDst) (a : VSrc)
  /-- VIOTA (R171). Writes the row, column or linear index into each active element. -/
  | viota (d : VDst) (u : Fin 32) (s : XReg)
  /-- VDOT4 (R173). Adds each group of four column products to an addend, with one rounding or saturation. -/
  | vdot4 (d : VDst) (a b c : VSrc) (g h t : Bool)
  /-- VCMP48 (R175). Keeps the four largest magnitudes of each group of eight and writes metadata. -/
  | vcmp48 (d : VDst) (a : VSrc) (b : Fin 16) (g h t : Bool)
  /-- VSMV (R177). Checks the metadata, then multiplies a pruned tile by a dense row vector. -/
  | vsmv (d : VDst) (a b c : VSrc) (g h t : Bool)
  /-- VSPLAT (R157). Writes a captured scalar into every active element. -/
  | vsplat (d : VDst) (u : Fin 32) (s : XReg)
  /-- VINS (R158). Writes a captured scalar into one element and keeps the others. -/
  | vins (d : VDst) (u : Fin 32) (s t : XReg)
  /-- VEXT (R159). Reads one element into an x register after the VE has reached it. -/
  | vext (d : XReg) (a : VSrc) (t : XReg)
  /-- VQNT (R160). Scales by 2^e and rounds each element into a named format. -/
  | vqnt (d : VDst) (a : VSrc) (s t : XReg)
  /-- VDQ (R161). Reads each element in a named format, scales it and rounds into SH.FMT. -/
  | vdq (d : VDst) (a : VSrc) (s t : XReg)
  /-- VADDX (R151). Adds a captured scalar to each element. -/
  | vaddx (d : VDst) (a : VSrc) (s : XReg)
  /-- VSUBX (R151). Subtracts a captured scalar from each element. -/
  | vsubx (d : VDst) (a : VSrc) (s : XReg)
  /-- VMULX (R151). Multiplies each element by a captured scalar. -/
  | vmulx (d : VDst) (a : VSrc) (s : XReg)
  /-- VMAXX (R151). Takes the maximum of each element and a captured scalar. -/
  | vmaxx (d : VDst) (a : VSrc) (s : XReg)
  /-- VMINX (R151). Takes the minimum of each element and a captured scalar. -/
  | vminx (d : VDst) (a : VSrc) (s : XReg)
  /-- VSHLX (R151). Shifts each element left by a captured amount. -/
  | vshlx (d : VDst) (a : VSrc) (s : XReg)
  /-- VSHRX (R151). Shifts each element right logically by a captured amount. -/
  | vshrx (d : VDst) (a : VSrc) (s : XReg)
  /-- VSRAX (R151). Shifts each element right arithmetically by a captured amount. -/
  | vsrax (d : VDst) (a : VSrc) (s : XReg)
  /-- VPEEK (R146). Copies a queue register's head tile without popping it. -/
  | vpeek (d : VDst) (a : Fin 8)
  /-- VLD (R162). Loads a strided tile and pushes it into a LOAD-bound queue register. -/
  | vld (q : Fin 8) (b s : XReg) (m : Fmt)
  /-- VST (R162). Reserves a store address queue entry and writes the matching STORE-queue tile. -/
  | vst (q : Fin 8) (b s : XReg) (m : Fmt)
  /-- VLDO (R191). Loads a dense tile through an orbit descriptor, reading each representative once. -/
  | vldo (q : Fin 8) (b s : XReg) (m : Fmt)
  /-- VSTO (R192). Stores a tile through an orbit descriptor under the symmetry-breaking store rule. -/
  | vsto (q : Fin 8) (b s : XReg) (m : Fmt)
  /-- VLDB (R163). Loads one row of elements and pushes a tile with it in every active row. -/
  | vldb (q : Fin 8) (b : XReg) (m : Fmt)
  /-- VRNGB (R179). Writes the top bits of the generator's draw into each active element. -/
  | vrngb (d : VDst) (u : Fin 32) (s t : XReg)
  /-- VRNGU (R179). Writes a uniform FP32 draw in [0, 1) into each active element. -/
  | vrngu (d : VDst) (u : Fin 32) (s t : XReg)
  /-- STAMP_OVERRUN (R206). A stamped command not issued by STAMP plus DSLACK faults 0x44. -/
  | stampOverrun (engine : Fin 5)
  /-- COPY (R255). Copy command that copies, and optionally converts, elements over its nest. -/
  | copyCmd (ch : Fin 4)
  /-- FILL (R255). Copy command that writes a fill value at every nest point. -/
  | fillCmd (ch : Fin 4)
  /-- GATHER (R255). Copy command that reads through an index array. -/
  | gatherCmd (ch : Fin 4)
  /-- SCATTER (R255). Copy command that writes through an index array. -/
  | scatterCmd (ch : Fin 4)
  /-- PACKO (R255). Copy command that packs dense elements into orbit representatives. -/
  | packoCmd (ch : Fin 4)
  /-- UNPACKO (R255). Copy command that expands orbit representatives into dense elements with signs. -/
  | unpackoCmd (ch : Fin 4)
  /-- ALLREDUCE (R286). Collective that folds every member's send buffer level by level into every receive buffer. -/
  | allreduce (group : BitVec 32) (peers : List PeerCmd)
  /-- REDUCESCATTER (R285). Collective that reduces and scatters one slice to each member. -/
  | reducescatter (group : BitVec 32) (peers : List PeerCmd)
  /-- ALLGATHER (R285). Collective that gathers every member's send buffer to every member. -/
  | allgather (group : BitVec 32) (peers : List PeerCmd)
  /-- BROADCAST (R285). Collective that copies the root's send buffer to every member. -/
  | broadcast (group : BitVec 32) (peers : List PeerCmd)
  /-- SEND (R285). Collective that sends elements to a matched RECV. -/
  | sendCmd (group : BitVec 32) (peers : List PeerCmd)
  /-- RECV (R285). Collective that receives elements from a matched SEND. -/
  | recvCmd (group : BitVec 32) (peers : List PeerCmd)
  /-- COLLECTIVE_TIMEOUT (R291). A matched exchange that makes no progress for TMO ms faults 0x4D. -/
  | collectiveTimeout (group : BitVec 32)
  /-- CHUNK_ATTEMPT (R336). The stream unit tries one Bale chunk, decodes it, checks it and pushes completed tiles. -/
  | chunkAttempt (q : Fin 8)
  /-- LAUNCH_PACKET (R299). The Gleaner admits, refuses or drops an arriving launch packet. -/
  | launchPacket (ctx : Fin 64)
  /-- LAUNCH_COMPLETE (R301). A launch with an empty queue and no tasks left releases and writes its completion record. -/
  | launchComplete (id : BitVec 12)
  /-- DIE_ISOLATION (R411). A die whose links or checks fail is isolated, and its tasks and memory are handled accordingly. -/
  | dieIsolation (die : Fin 16)
  /-- DATA (R295). A received Uluwin DATA frame is authenticated and handed over in SEQ order. -/
  | dataFrame (port : Fin 32) (frame : Frame)
  /-- ACK (R295). A received ACK frame releases acknowledged frames from the replay store. -/
  | ackFrame (port : Fin 32) (frame : Frame)
  /-- NACK (R295). A received NACK frame makes the sender resend the wanted frames from its replay store. -/
  | nackFrame (port : Fin 32) (frame : Frame)
  /-- REKEY (R294). A REKEY frame renews the port's keys while traffic continues. -/
  | rekeyFrame (port : Fin 32) (frame : Frame)
  /-- IDLE (R293). An IDLE frame carries no payload. -/
  | idleFrame (port : Fin 32) (frame : Frame)
  /-- KEY_RENEWAL (R294). Keys are renewed after 2^31 frames or 30 s. -/
  | keyRenewal (port : Fin 32)
  /-- PORT_BRING_UP (R294). A port reads its entries, agrees keys and checks the peer identity. -/
  | portBringUp (port : Fin 32) (peer : Nat) (digest : BitVec 64)
  /-- BAR2_READ (R273). A host read through BAR2 is a plain read in the total order. -/
  | bar2Read (part : Fin 16) (offset len : Nat)
  /-- BAR2_WRITE (R273). A host write through BAR2 takes its place as a plain write. -/
  | bar2Write (part : Fin 16) (offset : Nat) (bytes : List (BitVec 8))
  /-- ATOMICOP (R416). A PCI Express AtomicOp completed on BAR2. -/
  | atomicop (part : Fin 16) (offset : Nat) (op : AtomicKind) (wide : Bool) (value compare : BitVec 64)
  /-- FLR (R427). A Function Level Reset discards the partition's launches, resets its registers and rekeys its memory. -/
  | flr (part : Fin 16)
  /-- RESET (R426). After power-good or PERST# the B7 brings itself up in order. -/
  | reset (boot : Boot)
  /-- PTP_LOCK (R425). The PTP port locks to a grandmaster, stepping TIME only before the first launch. -/
  | ptpLock (time : BitVec 64)
  /-- TAIL (R420). A doorbell write that is accepted or refused, after which the ring's slots are read. -/
  | tailWrite (ctx : Fin 64) (value : BitVec 32)
  /-- RCFG (R419). A write to the ring configuration that clamps LOGN and clears ERR on a written 1. -/
  | rcfgWrite (ctx : Fin 64) (value : BitVec 64)
  /-- EVCFG (R421). A write to the event ring configuration that keeps LOGN in range. -/
  | evcfgWrite (part : Fin 16) (value : BitVec 64)
  /-- REGISTER_WRITE (R366). A write to a CSR or BAR0 register that has no row of its own. -/
  | registerWrite (target : RegTarget) (value : BitVec 64)
  /-- FCTL (R99). A write to FCTL that stalls for the VE and never holds rounding mode 6 or 7. -/
  | fctlWrite (value : BitVec 64)
  /-- SLIP (R21). A write to SLIP, clamped into 1 to 32. -/
  | slipWrite (value : BitVec 64)
  /-- LCFG (R224). A write to LCFG that drains the task's work and then moves the scratchpad limit. -/
  | lcfgWrite (value : BitVec 64)
  /-- STATUS (R363). A write to STATUS, limited to clearing SB in task mode. -/
  | statusWrite (value : BitVec 64)
  /-- LOOP_REGISTER_WRITE (R125). A write to a loop register, checked for nesting when both levels are active. -/
  | loopRegisterWrite (which : Fin 6) (value : BitVec 64)
  /-- XSET (R366). A supervisor write that binds the context to an expansion-set slot. -/
  | xsetWrite (value : BitVec 64)
  /-- DSEED (R181). A supervisor write to the device seed, which affects only later launches. -/
  | dseedWrite (value : BitVec 64)
  /-- LSUB (R320). A supervisor write that submits a launch packet. -/
  | lsubWrite (value : BitVec 64)
  /-- LEND (R320). A supervisor write that ends a live launch with a given code. -/
  | lendWrite (value : BitVec 64)
  /-- ATTREQ (R373). A supervisor write that requests a signed attestation report. -/
  | attreqWrite (value : BitVec 64)
  /-- FWGRANT (R375). A write that sets firmware's device memory grant. -/
  | fwgrantWrite (value : BitVec 64)
  /-- PREEMPT (R395). Management command that requests pre-emption, which saves the task into its context frame. -/
  | preempt (part : Fin 16) (launch : Option (BitVec 12))
  /-- CELLAR (R414). Management command that takes a snapshot event of the partition's memory and starts its drain. -/
  | cellar (part : Fin 16) (block : BitVec 64)
  /-- CELLAR_DRAIN_END (R415). The drain finishes, releases and writes the status and an event. -/
  | cellarDrainEnd (part : Fin 16)
  /-- TARGET_UNREACHABLE (R415). After 1 s without acceptance the drain stops with status 2. -/
  | targetUnreachable (part : Fin 16)
  /-- POWER (R378). Management command that changes the power state. -/
  | power (target : PowerState)
  /-- PARTITION (R370). Management command that configures partitions and rekeys their memory. -/
  | partition (cfgs : List PartCfg)
  /-- CAP (R424). Management command that sets the core current limit. -/
  | cap (amps : Nat)
  /-- ATTEST (R373). Management command that requests an attestation report. -/
  | attest (part : Fin 16) (block : BitVec 64)
  /-- XUNLOAD (R84). Management command that withdraws an expansion set from its slot. -/
  | xunload (slot : Fin 4)
  /-- CURRENT_SAMPLE (R424). Every 100 ns the limiter measures core current and holds Thresher steps and VE issue while it is above the limit. -/
  | currentSample (amps : Nat)
  /-- LIFECYCLE_ADVANCE (R376). The lifecycle moves forward, blowing a fuse and extending MEAS3. -/
  | lifecycleAdvance (target : Lifecycle)
  /-- DEBUG_TOKEN (R377). A debug token is accepted once, and the partition is zeroised and rekeyed before the level rises. -/
  | debugToken (token : DebugToken)
  /-- EXPANSION_SET_LOAD (R83). Firmware or the device loader loads a signed expansion set into a free or unbound slot, invalidating its cache entries and extending MEAS1. -/
  | expansionSetLoad (slot : Fin 4) (set : XSet) (signed : Bool)
  /-- UNCORRECTABLE_ERROR (R403). A stored line suffers an error beyond its code and becomes uncorrectable. -/
  | uncorrectableError (site : ErrorSite)
  /-- CROFT_DATAPATH_CHECK (R407). A croft hardware check or queue-register parity error raises cause 0x72, which traps or triggers re-execution. -/
  | croftDatapathCheck (queue : Option (Fin 8))
  /-- DEBUG_LEVEL_CHANGE (R379). A partition's debug level is raised without a token where none is needed, or returns to OFF. -/
  | debugLevelChange (part : Fin 16) (level : DebugLevel)
  -- Those without operands stand last: compiled code can build only the first 245 constructors that have some.
  /-- SVREQ (R388). Completes and traps as a supervisor request. -/
  | svreq
  /-- DBGBRK (R388). Completes and traps as a debug break. -/
  | dbgbrk
  /-- TRET (R387). Ends a trap: may discard the queue-precise instruction, restores the held VE queue and the mode, and returns or saves the task. -/
  | tret
  /-- WAITI (R389). Waits until an asynchronous cause or a pre-emption request is pending. -/
  | waiti
  /-- EXIT (R315). Drains the task's work, decrements its join counter or releases, and ends the task. -/
  | exit
  /-- YIELD (R316). Saves the task as a saved entry if a higher-priority launch is waiting, else does nothing. -/
  | yield
  /-- ABORTW (R352). Ends an explicit rival as ineligible and discards its work and view. -/
  | abortw
  /-- MMA (R207). Thresher command that runs its nest of multiply-accumulate steps in rakes. -/
  | mma
  /-- DIST (R207). Thresher command that accumulates squared differences over its nest. -/
  | dist
  /-- TOPK (R211). Thresher command that writes the k smallest or largest elements of each accumulator row with their indices. -/
  | topk
  /-- DRAIN (R208). Thresher command that converts accumulator rows into the loft, directly or through a C descriptor. -/
  | drain
  /-- LOADACC (R210). Thresher command that loads loft rows into accumulator rows. -/
  | loadacc
  /-- POP (R307). The Gleaner chooses one queue entry and starts or resumes its task on an idle croft. -/
  | pop
  /-- WATCHDOG (R318). A task whose cycle count exceeds its budget faults 0x62. -/
  | watchdog
  /-- TRAP (R382). An asynchronous cause is taken at an instruction boundary and enters the handler. -/
  | trap
  /-- GRANDMASTER_LOST (R425). When no grandmaster is heard, TIME holds over on the reference clock and STAT[1] is cleared. -/
  | grandmasterLost
  /-- LOSS_OF_POWER (R378). Loss of power puts the module in OFF, losing all state and zeroising the memory and link keys. -/
  | lossOfPower
deriving DecidableEq, Repr

end Sys2Proof
end

