-- ==== Sys2Proof/WellFormed.lean ====
section
/-! DEFINITION. Which abstract instructions are well formed: the field limits of R63, R73 and R74 that the operand
types do not already carry, and the limits the spec gives the data an event brings. -/

namespace Sys2Proof

/-- A payload of 1 to 256 whole flits of 64 bytes and a 48-bit sequence number (R293). -/
def Frame.wf (f : Frame) : Bool :=
  f.payload.length % 64 == 0 && 64 ≤ f.payload.length && f.payload.length ≤ 16384 && f.seq < 2 ^ 48 && f.ackSeq < 2 ^ 48

/-- A partition of 1, 2, 4, 8 or 16 dies that starts at a multiple of its size (R370), with a 32-byte measurement. -/
def PartCfg.wf (p : PartCfg) : Bool :=
  (p.dies == 1 || p.dies == 2 || p.dies == 4 || p.dies == 8 || p.dies == 16) && p.firstDie.val % p.dies == 0
    && p.digest.length == 32

/-- A well-formed instruction or event. -/
def Instr.wf : Instr → Bool
  | .loop _ _ o => o != 0
  | .loopi _ _ o => o != 0
  | .pushm f l _ k => f.val ≤ l.val && (!k || l.val < 16)
  | .popm f l _ k => f.val ≤ l.val && (!k || l.val < 16)
  | .fcvtff _ _ f r => f == .s || r == .dyn
  | .dataFrame _ f => f.wf
  | .ackFrame _ f => f.wf
  | .nackFrame _ f => f.wf
  | .rekeyFrame _ f => f.wf
  | .idleFrame _ f => f.wf
  | .partition cfgs => cfgs.all PartCfg.wf
  | .reset b => b.parts.all PartCfg.wf && b.firmware.length == 32 && b.set0.measure.length == 32
  | .expansionSetLoad _ s _ => s.measure.length == 32
  | .bar2Read _ _ n => 0 < n
  | .bar2Write _ _ bs => 0 < bs.length
  | _ => true

end Sys2Proof
end

