-- ==== Sys2Proof/Decode.lean ====
section
/-! DEFINITION. Decoding of instruction words (R61 to R81): total on every word, in the check order of R79, each
word either one instruction or one cause; and after it the encoder, written from the same tables. -/

namespace Sys2Proof

/-- What decoding a word gives: one instruction, or the one cause it raises (R81). -/
inductive Decoded where
  | instr (i : Instr)
  | fault (c : Cause)
deriving DecidableEq, Repr

/-- The major opcode, bits [31:26]. -/
def fOp (w : Nat) : Nat := w / 67108864 % 64
/-- Bits [25:21]: rd, rs2 of format B, xf, vd, vq. -/
def fD (w : Nat) : Nat := w / 2097152 % 32
/-- Bits [20:16]: rs1, xl, va, xb of VM. -/
def fA (w : Nat) : Nat := w / 65536 % 32
/-- Bits [15:11]: rs2, xb of STK, vb, xs. -/
def fB (w : Nat) : Nat := w / 2048 % 32
/-- Bits [10:6]: vc, xt. -/
def fC (w : Nat) : Nat := w / 64 % 32
/-- Bits [10:0]: fn of format R. -/
def fFn (w : Nat) : Nat := w % 2048
/-- Bits [5:0]: fn of formats V3 and VX. -/
def fFn6 (w : Nat) : Nat := w % 64

/-- An x-register field. -/
def xr (n : Nat) : XReg := Fin.ofNat 32 n
/-- Bits [15:0] as an immediate. -/
def imm16 (w : Nat) : BitVec 16 := BitVec.ofNat 16 (w % 65536)
/-- Bits [20:0] as an immediate. -/
def imm21 (w : Nat) : BitVec 21 := BitVec.ofNat 21 (w % 2097152)

/-- A vector source from its operand code (R27); codes above 27 never reach it. -/
def VSrc.ofCode (n : Nat) : VSrc :=
  if n < 16 then .v (Fin.ofNat 16 n) else if n < 24 then .q (Fin.ofNat 8 (n - 16)) else .a (Fin.ofNat 4 (n - 24))
/-- A vector destination from its operand code (R27); codes above 23 never reach it. -/
def VDst.ofCode (n : Nat) : VDst := if n < 16 then .v (Fin.ofNat 16 n) else .q (Fin.ofNat 8 (n - 16))
/-- The operand code of a source (R27). -/
def VSrc.code : VSrc → Nat
  | .v i => i.val
  | .q i => i.val + 16
  | .a i => i.val + 24
/-- The operand code of a destination (R27). -/
def VDst.code : VDst → Nat
  | .v i => i.val
  | .q i => i.val + 16

/-- The format with a code (R89); 13 and above are reserved. -/
def Fmt.ofCode : Nat → Option Fmt
  | 0 => some .fp32 | 1 => some .bf16 | 2 => some .fp16 | 3 => some .e4m3 | 4 => some .e5m2 | 5 => some .d8
  | 6 => some .int32 | 7 => some .int16 | 8 => some .int8 | 9 => some .uint8 | 10 => some .int4
  | 11 => some .uint4 | 12 => some .uint16 | _ => none
/-- The code of a format (R89). -/
def Fmt.code : Fmt → Nat
  | .fp32 => 0 | .bf16 => 1 | .fp16 => 2 | .e4m3 => 3 | .e5m2 => 4 | .d8 => 5 | .int32 => 6 | .int16 => 7
  | .int8 => 8 | .uint8 => 9 | .int4 => 10 | .uint4 => 11 | .uint16 => 12
/-- The scope with a code (R238). -/
def Scope.ofCode : Nat → Scope
  | 0 => .croft | 1 => .die | 2 => .device | _ => .fabric
/-- The code of a scope (R238). -/
def Scope.code : Scope → Nat
  | .croft => 0 | .die => 1 | .device => 2 | .fabric => 3
/-- The FPS format field (R74). -/
def FFmt.code : FFmt → Nat
  | .s => 0 | .d => 1
/-- The FPS rounding field (R74). -/
def FRnd.code : FRnd → Nat
  | .dyn => 0 | .rne => 1 | .rtz => 2 | .rup => 3 | .rdn => 4
/-- The FPS rounding with a code (R74). -/
def FRnd.ofCode : Nat → FRnd
  | 1 => .rne | 2 => .rtz | 3 => .rup | 4 => .rdn | _ => .dyn
/-- The condition of VCMP with a code (R75). -/
def Cond.ofCode : Nat → Cond
  | 0 => .eq | 1 => .ne | 2 => .lt | 3 => .le | 4 => .gt | 5 => .ge | _ => .un
/-- The code of a condition (R75). -/
def Cond.code : Cond → Nat
  | .eq => 0 | .ne => 1 | .lt => 2 | .le => 3 | .gt => 4 | .ge => 5 | .un => 6

/-- Continue when a field that must be zero is zero, else 0x02 (R65). -/
def zeroField (n : Nat) (k : Decoded) : Decoded := if n = 0 then k else .fault .reservedField
/-- Continue when a field limit of check 5 holds, else 0x02. -/
def needField (b : Bool) (k : Decoded) : Decoded := if b then k else .fault .reservedField

/-- Format R with rd, rs1 and rs2. -/
def decR3 (w : Nat) (f : XReg → XReg → XReg → Instr) : Decoded := .instr (f (xr (fD w)) (xr (fA w)) (xr (fB w)))
/-- Format R with rd and rs1. -/
def decR2 (w : Nat) (f : XReg → XReg → Instr) : Decoded :=
  zeroField (fB w) (.instr (f (xr (fD w)) (xr (fA w))))
/-- Format R with rd only. -/
def decRd (w : Nat) (f : XReg → Instr) : Decoded := zeroField (fA w + fB w) (.instr (f (xr (fD w))))
/-- Format R with rs1 only. -/
def decRa (w : Nat) (f : XReg → Instr) : Decoded := zeroField (fD w + fB w) (.instr (f (xr (fA w))))
/-- Format R with rs1 and rs2. -/
def decRab (w : Nat) (f : XReg → XReg → Instr) : Decoded :=
  zeroField (fD w) (.instr (f (xr (fA w)) (xr (fB w))))
/-- Format R with no register. -/
def decR0 (w : Nat) (i : Instr) : Decoded := zeroField (fD w + fA w + fB w) (.instr i)

/-- OPR (R68). -/
def decodeOpr (w : Nat) : Decoded :=
  match fFn w with
  | 0 => decR3 w .add | 1 => decR3 w .sub | 2 => decR3 w .andR | 3 => decR3 w .orR | 4 => decR3 w .xorR
  | 5 => decR3 w .sll | 6 => decR3 w .srl | 7 => decR3 w .sra | 8 => decR3 w .slt | 9 => decR3 w .sltu
  | 10 => decR3 w .min | 11 => decR3 w .max | 12 => decR3 w .minu | 13 => decR3 w .maxu
  | 16 => decR3 w .mul | 17 => decR3 w .mhis | 18 => decR3 w .mhiu | 19 => decR3 w .div | 20 => decR3 w .divu
  | 21 => decR3 w .rem | 22 => decR3 w .remu
  | 24 => decR2 w .clz | 25 => decR2 w .ctz | 26 => decR2 w .popc
  | 28 => decR3 w .sel
  | _ => .fault .illegal

/-- The I-format majors without a function field (R66). -/
def decI (w : Nat) (f : XReg → XReg → BitVec 16 → Instr) : Decoded :=
  .instr (f (xr (fD w)) (xr (fA w)) (imm16 w))

/-- SHI (R67). -/
def decodeShi (w : Nat) : Decoded :=
  let k (f : XReg → XReg → BitVec 6 → Instr) : Decoded :=
    zeroField (w / 64 % 256) (.instr (f (xr (fD w)) (xr (fA w)) (BitVec.ofNat 6 (w % 64))))
  match w / 16384 % 4 with
  | 0 => k .slli | 1 => k .srli | 2 => k .srai | _ => .fault .illegal

/-- AMO (R69). -/
def decodeAmo (w : Nat) : Decoded :=
  let k (f : XReg → XReg → XReg → Scope → Bool → Bool → Bool → Instr) : Decoded :=
    .instr (f (xr (fD w)) (xr (fA w)) (xr (fB w)) (.ofCode (w / 512 % 4)) (w / 256 % 2 == 1) (w / 128 % 2 == 1)
      (w / 64 % 2 == 1))
  match fFn6 w with
  | 0 => k .amoswap | 1 => k .amoadd | 2 => k .amoand | 3 => k .amoor | 4 => k .amoxor | 5 => k .amomin
  | 6 => k .amomax | 7 => k .amominu | 8 => k .amomaxu | 9 => k .amocas | 10 => k .amofadd | _ => .fault .illegal

/-- Continue in supervisor mode, else 0x04 (check 4 of R79). -/
def superOnly (sup : Bool) (k : Decoded) : Decoded := if sup then k else .fault .privileged

/-- SYS (R70). -/
def decodeSys (sup : Bool) (w : Nat) : Decoded :=
  let z := w % 64
  match fC w with
  | 0 => zeroField (fD w + fA w + fB w + w % 4)
      (.instr (.fence (.ofCode (w / 16 % 4)) (w / 8 % 2 == 1) (w / 4 % 2 == 1)))
  | 1 => zeroField z (decRab w .iflush)
  | 2 => zeroField z (decR0 w .svreq)
  | 3 => zeroField z (decR0 w .dbgbrk)
  | 4 => superOnly sup (zeroField z (decR0 w .tret))
  | 5 => superOnly sup (zeroField z (decR0 w .waiti))
  | 6 => superOnly sup (zeroField z (decRab w .harvest))
  | 7 => superOnly sup (zeroField z (decRab w .tlbinv))
  | _ => .fault .illegal

/-- Stores and branches, format B (R62): rs2 in [25:21], rs1 in [20:16]. -/
def decB (w : Nat) (f : XReg → XReg → BitVec 16 → Instr) : Decoded :=
  .instr (f (xr (fD w)) (xr (fA w)) (imm16 w))

/-- Format J (R62). -/
def decJ (w : Nat) (f : XReg → BitVec 21 → Instr) : Decoded := .instr (f (xr (fD w)) (imm21 w))

/-- LOOP (R62, R63). -/
def decodeLoop (w : Nat) : Decoded :=
  zeroField (w / 2097152 % 16) (needField (w % 65536 != 0)
    (.instr (.loop (Fin.ofNat 2 (w / 33554432 % 2)) (xr (fA w)) (imm16 w))))
/-- LOOPI (R62, R63). -/
def decodeLoopi (w : Nat) : Decoded :=
  needField (w % 65536 != 0)
    (.instr (.loopi (Fin.ofNat 2 (w / 33554432 % 2)) (BitVec.ofNat 9 (w / 65536 % 512)) (imm16 w)))

/-- STK (R73). -/
def decodeStk (w : Nat) : Decoded :=
  let k := w / 2 % 2 == 1
  zeroField (w / 4 % 512) (needField (fD w ≤ fA w && (!k || fA w < 16))
    (if w % 2 = 0 then .instr (.pushm (xr (fD w)) (xr (fA w)) (xr (fB w)) k)
     else .instr (.popm (xr (fD w)) (xr (fA w)) (xr (fB w)) k)))

/-- TASK (R71). -/
def decodeTask (w : Nat) : Decoded :=
  match fFn w with
  | 0 => decR2 w .spawn | 1 => decR2 w .join | 2 => decR3 w .jinit | 3 => decR0 w .exit | 4 => decR0 w .yield
  | 5 => decRa w .waitt | _ => .fault .illegal
/-- WORLD (R71). -/
def decodeWorld (w : Nat) : Decoded :=
  match fFn w with
  | 0 => decR2 w .forkw | 1 => decRa w .yieldw | 2 => decR2 w .choose | 3 => decR0 w .abortw | 4 => decRd w .wid
  | _ => .fault .illegal
/-- SHAPE (R71). -/
def decodeShape (w : Nat) : Decoded :=
  match fFn w with
  | 0 => decR2 w .setshp | 1 => decRd w .getshp | _ => .fault .illegal
/-- ENG (R71). -/
def decodeEng (w : Nat) : Decoded :=
  match fFn w with
  | 0 => decRa w .mxq | 1 => decRab w .cpq | 2 => decRa w .clq | 3 => decRab w .strm | 4 => decRa w .unstrm
  | 5 => decRab w .qbind | 6 => decR2 w .engseq | _ => .fault .illegal
/-- SYNC (R71). -/
def decodeSync (w : Nat) : Decoded :=
  let obj := w / 64 % 16
  let z := w / 1024 % 2
  let ra (f : XReg → Fin 16 → Instr) : Decoded :=
    zeroField (z + fD w + fB w) (.instr (f (xr (fA w)) (Fin.ofNat 16 obj)))
  match fFn6 w with
  | 0 => ra .skwait | 1 => ra .skadd | 2 => ra .skset
  | 3 => zeroField (z + fA w + fB w) (.instr (.skrd (xr (fD w)) (Fin.ofNat 16 obj)))
  | 4 => zeroField (z + fD w + fB w) (needField (obj < 4) (.instr (.wpwait (xr (fA w)) (Fin.ofNat 4 obj))))
  | _ => .fault .illegal
/-- CSR (R72). -/
def decodeCsr (w : Nat) : Decoded :=
  let n := BitVec.ofNat 12 (w / 16 % 4096)
  match w % 16 with
  | 0 => zeroField (fA w) (.instr (.csrr (xr (fD w)) n))
  | 1 => .instr (.csrw (xr (fD w)) (xr (fA w)) n)
  | 2 => .instr (.csrs (xr (fD w)) (xr (fA w)) n)
  | 3 => .instr (.csrc (xr (fD w)) (xr (fA w)) n)
  | _ => .fault .illegal

/-- FPS (R74). -/
def decodeFps (w : Nat) : Decoded :=
  let f : FFmt := if w / 256 % 8 = 0 then .s else .d
  let rc := w / 2 % 8
  let r := FRnd.ofCode rc
  let bin (g : XReg → XReg → XReg → FFmt → FRnd → Instr) : Decoded :=
    zeroField (w % 2) (.instr (g (xr (fD w)) (xr (fA w)) (xr (fB w)) f r))
  let un (g : XReg → XReg → FFmt → FRnd → Instr) : Decoded :=
    zeroField (w % 2 + fB w) (.instr (g (xr (fD w)) (xr (fA w)) f r))
  let exact (g : XReg → XReg → XReg → FFmt → Instr) : Decoded :=
    zeroField (w % 2 + rc) (.instr (g (xr (fD w)) (xr (fA w)) (xr (fB w)) f))
  if w / 256 % 8 ≥ 2 || rc ≥ 5 then .fault .illegal
  else match w / 16 % 16 with
    | 0 => bin .fadd | 1 => bin .fsub | 2 => bin .fmul | 3 => bin .fdiv | 4 => un .fsqrt
    | 5 => exact .fmin | 6 => exact .fmax | 7 => exact .flt | 8 => exact .feq | 9 => exact .fle
    | 10 => un .fcvtfi | 11 => un .fcvtif
    | 12 => needField (f == .s || rc == 0) (un .fcvtff)
    | 13 => bin .fmadd
    | _ => .fault .illegal

/-- ORB (R71). -/
def decodeOrb (w : Nat) : Decoded :=
  match fFn w with
  | 0 => decR3 w .orboff | 1 => decR3 w .orbsgn | 2 => decR3 w .orbmul | _ => .fault .illegal

/-- Checks 6 and 7 of R79: `codes` are the vector operand codes the instruction uses, `dst` its destination code. -/
def vcheck (codes : List Nat) (dst : Nat) (k : Decoded) : Decoded :=
  if (dst :: codes).any (28 ≤ ·) then .fault .reservedVector
  else if 24 ≤ dst then .fault .accWritten else k

/-- V3 with va only. -/
def decV1 (w : Nat) (f : VDst → VSrc → Instr) : Decoded :=
  zeroField (fB w + fC w) (vcheck [fA w] (fD w) (.instr (f (.ofCode (fD w)) (.ofCode (fA w)))))
/-- V3 with va and vb. -/
def decV2 (w : Nat) (f : VDst → VSrc → VSrc → Instr) : Decoded :=
  zeroField (fC w) (vcheck [fA w, fB w] (fD w) (.instr (f (.ofCode (fD w)) (.ofCode (fA w)) (.ofCode (fB w)))))
/-- V3 with va, vb and vc. -/
def decV3 (w : Nat) (f : VDst → VSrc → VSrc → VSrc → Instr) : Decoded :=
  vcheck [fA w, fB w, fC w] (fD w)
    (.instr (f (.ofCode (fD w)) (.ofCode (fA w)) (.ofCode (fB w)) (.ofCode (fC w))))

/-- VAR (R75). -/
def decodeVar (w : Nat) : Decoded :=
  match fFn6 w with
  | 0 => decV2 w .vadd | 1 => decV2 w .vsub | 2 => decV2 w .vmul | 3 => decV2 w .vdiv | 4 => decV2 w .vmin
  | 5 => decV2 w .vmax | 6 => decV1 w .vabs | 7 => decV1 w .vneg | 8 => decV2 w .vaddsat | 9 => decV2 w .vsubsat
  | _ => .fault .illegal
/-- VFM (R75). -/
def decodeVfm (w : Nat) : Decoded :=
  match fFn6 w with
  | 0 => decV3 w .vfma | 1 => decV3 w .vfms | 2 => decV3 w .vfnma | _ => .fault .illegal
/-- VBIT (R75). -/
def decodeVbit (w : Nat) : Decoded :=
  match fFn6 w with
  | 0 => decV2 w .vand | 1 => decV2 w .vor | 2 => decV2 w .vxor | 3 => decV1 w .vnot | 4 => decV2 w .vshl
  | 5 => decV2 w .vshr | 6 => decV2 w .vsra | _ => .fault .illegal
/-- VCMPG (R75). -/
def decodeVcmpg (w : Nat) : Decoded :=
  let c := w / 8 % 8
  match w % 8 with
  | 0 => if c = 7 then .fault .illegal else decV2 w (.vcmp · · · (.ofCode c))
  | 1 => zeroField c (decV3 w .vsel)
  | _ => .fault .illegal
/-- VCV (R75): vb is a format code (R64), and 13 to 31 fault 0x37 (check 8). -/
def decodeVcv (w : Nat) : Decoded :=
  if fFn6 w = 0 then
    zeroField (fC w) (vcheck [fA w] (fD w)
      (match Fmt.ofCode (fB w) with
       | some f => .instr (.vcvt (.ofCode (fD w)) (.ofCode (fA w)) f)
       | none => .fault .format))
  else .fault .illegal
/-- VSF (R75). -/
def decodeVsf (w : Nat) : Decoded :=
  match fFn6 w with
  | 0 => decV1 w .vexp2 | 1 => decV1 w .vlog2 | 2 => decV1 w .vrcp | 3 => decV1 w .vrsq | 4 => decV1 w .vsqrt
  | 5 => decV1 w .vtanh | 6 => decV1 w .vsigm | _ => .fault .illegal
/-- VDT (R75): SAT in [2], va signed in [3], vb signed in [4], [5] zero. -/
def decodeVdt (w : Nat) : Decoded :=
  let g := w / 16 % 2 == 1
  let h := w / 8 % 2 == 1
  let t := w / 4 % 2 == 1
  let z := w / 32 % 2
  match w % 4 with
  | 0 => zeroField z (decV3 w (.vdot4 · · · · g h t))
  | 1 => zeroField (z + fC w)
      (if 28 ≤ fD w || 28 ≤ fA w || 28 ≤ fB w then .fault .reservedVector
       else if 24 ≤ fD w || 24 ≤ fB w then .fault .accWritten
       else if 16 ≤ fB w then .fault .queueRole
       else .instr (.vcmp48 (.ofCode (fD w)) (.ofCode (fA w)) (Fin.ofNat 16 (fB w)) g h t))
  | 2 => zeroField z (decV3 w (.vsmv · · · · g h t))
  | _ => .fault .illegal

/-- VX with va and xs. -/
def decXs (w : Nat) (f : VDst → VSrc → XReg → Instr) : Decoded :=
  zeroField (fC w) (vcheck [fA w] (fD w) (.instr (f (.ofCode (fD w)) (.ofCode (fA w)) (xr (fB w)))))
/-- VX with va, xs and xt. -/
def decXst (w : Nat) (f : VDst → VSrc → XReg → XReg → Instr) : Decoded :=
  vcheck [fA w] (fD w) (.instr (f (.ofCode (fD w)) (.ofCode (fA w)) (xr (fB w)) (xr (fC w))))
/-- VX whose va field is unused and ignored (R76), with xs. -/
def decUs (w : Nat) (f : VDst → Fin 32 → XReg → Instr) : Decoded :=
  zeroField (fC w) (vcheck [] (fD w) (.instr (f (.ofCode (fD w)) (Fin.ofNat 32 (fA w)) (xr (fB w)))))
/-- VX whose va field is unused and ignored (R76), with xs and xt. -/
def decUst (w : Nat) (f : VDst → Fin 32 → XReg → XReg → Instr) : Decoded :=
  vcheck [] (fD w) (.instr (f (.ofCode (fD w)) (Fin.ofNat 32 (fA w)) (xr (fB w)) (xr (fC w))))

/-- VAX (R76). -/
def decodeVax (w : Nat) : Decoded :=
  match fFn6 w with
  | 0 => decXs w .vrotc | 1 => decXs w .vrotr | 2 => decXs w .vbcc | 3 => decXs w .vbcr
  | 4 => decV1 w .vredcAdd | 5 => decV1 w .vredcMax | 6 => decV1 w .vredcMin
  | 7 => decV1 w .vredrAdd | 8 => decV1 w .vredrMax | 9 => decV1 w .vredrMin
  | 10 => decV1 w .vtrn | 11 => decUs w .viota | _ => .fault .illegal
/-- VXS (R76). -/
def decodeVxs (w : Nat) : Decoded :=
  match fFn6 w with
  | 0 => decUs w .vsplat
  | 1 => decUst w .vins
  | 2 => zeroField (fB w) (if 28 ≤ fA w then .fault .reservedVector
      else .instr (.vext (xr (fD w)) (.ofCode (fA w)) (xr (fC w))))
  | 3 => decXst w .vqnt | 4 => decXst w .vdq
  | 5 => decXs w .vaddx | 6 => decXs w .vsubx | 7 => decXs w .vmulx | 8 => decXs w .vmaxx | 9 => decXs w .vminx
  | 10 => decXs w .vshlx | 11 => decXs w .vshrx | 12 => decXs w .vsrax
  | 13 => zeroField (fB w + fC w) (vcheck [fA w] (fD w)
      (if 16 ≤ fA w && fA w < 24 then .instr (.vpeek (.ofCode (fD w)) (Fin.ofNat 8 (fA w - 16)))
       else .fault .queueRole))
  | _ => .fault .illegal
/-- VRNG (R76). -/
def decodeVrng (w : Nat) : Decoded :=
  match fFn6 w with
  | 0 => decUst w .vrngb | 1 => decUst w .vrngu | _ => .fault .illegal

/-- VMEM (R77): codes 28 to 31 of vq are 0x05, any other code that is no queue 0x32, a reserved mf 0x37. -/
def decodeVmem (w : Nat) : Decoded :=
  let vq := fD w
  let k (f : Fin 8 → Fmt → Instr) : Decoded :=
    if 28 ≤ vq then .fault .reservedVector
    else if vq < 16 || 24 ≤ vq then .fault .queueRole
    else match Fmt.ofCode (w / 128 % 16) with
      | some m => .instr (f (Fin.ofNat 8 (vq - 16)) m)
      | none => .fault .format
  match w % 128 with
  | 0 => k fun q m => .vld q (xr (fA w)) (xr (fB w)) m
  | 1 => k fun q m => .vst q (xr (fA w)) (xr (fB w)) m
  | 2 => k fun q m => .vldo q (xr (fA w)) (xr (fB w)) m
  | 3 => k fun q m => .vsto q (xr (fA w)) (xr (fB w)) m
  | 4 => zeroField (fB w) (k fun q m => .vldb q (xr (fA w)) m)
  | _ => .fault .illegal

/-- Decode one word, in supervisor mode when `sup` (R66, R79). -/
def decode (sup : Bool) (w : Nat) : Decoded :=
  if w = 0 then .fault .zeroWord
  else match fOp w with
    | 0x01 => decodeOpr w
    | 0x02 => decI w .addi | 0x03 => decI w .andi | 0x04 => decI w .ori | 0x05 => decI w .xori
    | 0x06 => decI w .slti | 0x07 => decI w .sltiu
    | 0x08 => decodeShi w
    | 0x09 => decJ w .lui | 0x0A => decJ w .luipc
    | 0x0B => decI w .lb | 0x0C => decI w .lbu | 0x0D => decI w .lh | 0x0E => decI w .lhu | 0x0F => decI w .lw
    | 0x10 => decI w .lwu | 0x11 => decI w .ld
    | 0x12 => decB w .sb | 0x13 => decB w .sh | 0x14 => decB w .sw | 0x15 => decB w .sd
    | 0x16 => decodeAmo w
    | 0x17 => decodeSys sup w
    | 0x18 => decB w .beq | 0x19 => decB w .bne | 0x1A => decB w .blt | 0x1B => decB w .bge
    | 0x1C => decB w .bltu | 0x1D => decB w .bgeu
    | 0x1E => decJ w .jal | 0x1F => decI w .jalr
    | 0x20 => decodeLoop w | 0x21 => decodeLoopi w | 0x22 => decodeStk w
    | 0x23 => decodeTask w | 0x24 => decodeWorld w | 0x25 => decodeShape w | 0x26 => decodeEng w
    | 0x27 => decodeSync w | 0x28 => decodeCsr w | 0x29 => decodeFps w | 0x2A => decodeOrb w
    | 0x30 => decodeVar w | 0x31 => decodeVfm w | 0x32 => decodeVbit w | 0x33 => decodeVcmpg w
    | 0x34 => decodeVcv w | 0x35 => decodeVsf w | 0x36 => decodeVax w | 0x37 => decodeVdt w
    | 0x38 => decodeVxs w | 0x39 => decodeVmem w | 0x3A => decodeVrng w
    | _ => .fault .illegal

/-- The word in four little-endian bytes (R61). -/
def wordOfBytes : List Byte → Nat
  | [] => 0
  | b :: bs => b.toNat + 256 * wordOfBytes bs

/-- The bytes of a word, the byte at the lowest address first (R7, R61). -/
def bytesOfWord (w : Nat) : List Byte :=
  [BitVec.ofNat 8 w, BitVec.ofNat 8 (w / 256), BitVec.ofNat 8 (w / 65536), BitVec.ofNat 8 (w / 16777216)]

/-- The instruction the decoder reads from the bits the opcode table gives a row: the word's four bytes as stored,
decoded in supervisor mode, where every instruction of the table decodes. -/
def decodeTableWord (nbits w : Nat) : Option Instr :=
  if nbits ≤ 32 then
    match decode true (wordOfBytes (bytesOfWord w)) with
    | .instr i => some i
    | .fault _ => none
  else none

/-- The word of an instruction (R62 to R77); an event of the device has none. -/
def encode : Instr → Option Nat
  | .add d a b => some (0x04000000 + d.val * 2097152 + a.val * 65536 + b.val * 2048)
  | .sub d a b => some (0x04000001 + d.val * 2097152 + a.val * 65536 + b.val * 2048)
  | .andR d a b => some (0x04000002 + d.val * 2097152 + a.val * 65536 + b.val * 2048)
  | .orR d a b => some (0x04000003 + d.val * 2097152 + a.val * 65536 + b.val * 2048)
  | .xorR d a b => some (0x04000004 + d.val * 2097152 + a.val * 65536 + b.val * 2048)
  | .sll d a b => some (0x04000005 + d.val * 2097152 + a.val * 65536 + b.val * 2048)
  | .srl d a b => some (0x04000006 + d.val * 2097152 + a.val * 65536 + b.val * 2048)
  | .sra d a b => some (0x04000007 + d.val * 2097152 + a.val * 65536 + b.val * 2048)
  | .slt d a b => some (0x04000008 + d.val * 2097152 + a.val * 65536 + b.val * 2048)
  | .sltu d a b => some (0x04000009 + d.val * 2097152 + a.val * 65536 + b.val * 2048)
  | .min d a b => some (0x0400000A + d.val * 2097152 + a.val * 65536 + b.val * 2048)
  | .max d a b => some (0x0400000B + d.val * 2097152 + a.val * 65536 + b.val * 2048)
  | .minu d a b => some (0x0400000C + d.val * 2097152 + a.val * 65536 + b.val * 2048)
  | .maxu d a b => some (0x0400000D + d.val * 2097152 + a.val * 65536 + b.val * 2048)
  | .mul d a b => some (0x04000010 + d.val * 2097152 + a.val * 65536 + b.val * 2048)
  | .mhis d a b => some (0x04000011 + d.val * 2097152 + a.val * 65536 + b.val * 2048)
  | .mhiu d a b => some (0x04000012 + d.val * 2097152 + a.val * 65536 + b.val * 2048)
  | .div d a b => some (0x04000013 + d.val * 2097152 + a.val * 65536 + b.val * 2048)
  | .divu d a b => some (0x04000014 + d.val * 2097152 + a.val * 65536 + b.val * 2048)
  | .rem d a b => some (0x04000015 + d.val * 2097152 + a.val * 65536 + b.val * 2048)
  | .remu d a b => some (0x04000016 + d.val * 2097152 + a.val * 65536 + b.val * 2048)
  | .clz d a => some (0x04000018 + d.val * 2097152 + a.val * 65536)
  | .ctz d a => some (0x04000019 + d.val * 2097152 + a.val * 65536)
  | .popc d a => some (0x0400001A + d.val * 2097152 + a.val * 65536)
  | .sel d a b => some (0x0400001C + d.val * 2097152 + a.val * 65536 + b.val * 2048)
  | .addi d a i => some (0x08000000 + d.val * 2097152 + a.val * 65536 + i.toNat)
  | .andi d a i => some (0x0C000000 + d.val * 2097152 + a.val * 65536 + i.toNat)
  | .ori d a i => some (0x10000000 + d.val * 2097152 + a.val * 65536 + i.toNat)
  | .xori d a i => some (0x14000000 + d.val * 2097152 + a.val * 65536 + i.toNat)
  | .slti d a i => some (0x18000000 + d.val * 2097152 + a.val * 65536 + i.toNat)
  | .sltiu d a i => some (0x1C000000 + d.val * 2097152 + a.val * 65536 + i.toNat)
  | .slli d a n => some (0x20000000 + d.val * 2097152 + a.val * 65536 + n.toNat)
  | .srli d a n => some (0x20004000 + d.val * 2097152 + a.val * 65536 + n.toNat)
  | .srai d a n => some (0x20008000 + d.val * 2097152 + a.val * 65536 + n.toNat)
  | .lui d i => some (0x24000000 + d.val * 2097152 + i.toNat)
  | .luipc d i => some (0x28000000 + d.val * 2097152 + i.toNat)
  | .lb d a i => some (0x2C000000 + d.val * 2097152 + a.val * 65536 + i.toNat)
  | .lbu d a i => some (0x30000000 + d.val * 2097152 + a.val * 65536 + i.toNat)
  | .lh d a i => some (0x34000000 + d.val * 2097152 + a.val * 65536 + i.toNat)
  | .lhu d a i => some (0x38000000 + d.val * 2097152 + a.val * 65536 + i.toNat)
  | .lw d a i => some (0x3C000000 + d.val * 2097152 + a.val * 65536 + i.toNat)
  | .lwu d a i => some (0x40000000 + d.val * 2097152 + a.val * 65536 + i.toNat)
  | .ld d a i => some (0x44000000 + d.val * 2097152 + a.val * 65536 + i.toNat)
  | .sb b a i => some (0x48000000 + b.val * 2097152 + a.val * 65536 + i.toNat)
  | .sh b a i => some (0x4C000000 + b.val * 2097152 + a.val * 65536 + i.toNat)
  | .sw b a i => some (0x50000000 + b.val * 2097152 + a.val * 65536 + i.toNat)
  | .sd b a i => some (0x54000000 + b.val * 2097152 + a.val * 65536 + i.toNat)
  | .amoswap d a b c q l w => some (0x58000000 + d.val * 2097152 + a.val * 65536 + b.val * 2048 + c.code * 512 + q.toNat * 256 + l.toNat * 128 + w.toNat * 64)
  | .amoadd d a b c q l w => some (0x58000001 + d.val * 2097152 + a.val * 65536 + b.val * 2048 + c.code * 512 + q.toNat * 256 + l.toNat * 128 + w.toNat * 64)
  | .amoand d a b c q l w => some (0x58000002 + d.val * 2097152 + a.val * 65536 + b.val * 2048 + c.code * 512 + q.toNat * 256 + l.toNat * 128 + w.toNat * 64)
  | .amoor d a b c q l w => some (0x58000003 + d.val * 2097152 + a.val * 65536 + b.val * 2048 + c.code * 512 + q.toNat * 256 + l.toNat * 128 + w.toNat * 64)
  | .amoxor d a b c q l w => some (0x58000004 + d.val * 2097152 + a.val * 65536 + b.val * 2048 + c.code * 512 + q.toNat * 256 + l.toNat * 128 + w.toNat * 64)
  | .amomin d a b c q l w => some (0x58000005 + d.val * 2097152 + a.val * 65536 + b.val * 2048 + c.code * 512 + q.toNat * 256 + l.toNat * 128 + w.toNat * 64)
  | .amomax d a b c q l w => some (0x58000006 + d.val * 2097152 + a.val * 65536 + b.val * 2048 + c.code * 512 + q.toNat * 256 + l.toNat * 128 + w.toNat * 64)
  | .amominu d a b c q l w => some (0x58000007 + d.val * 2097152 + a.val * 65536 + b.val * 2048 + c.code * 512 + q.toNat * 256 + l.toNat * 128 + w.toNat * 64)
  | .amomaxu d a b c q l w => some (0x58000008 + d.val * 2097152 + a.val * 65536 + b.val * 2048 + c.code * 512 + q.toNat * 256 + l.toNat * 128 + w.toNat * 64)
  | .amocas d a b c q l w => some (0x58000009 + d.val * 2097152 + a.val * 65536 + b.val * 2048 + c.code * 512 + q.toNat * 256 + l.toNat * 128 + w.toNat * 64)
  | .amofadd d a b c q l w => some (0x5800000A + d.val * 2097152 + a.val * 65536 + b.val * 2048 + c.code * 512 + q.toNat * 256 + l.toNat * 128 + w.toNat * 64)
  | .fence s e h => some (0x5C000000 + s.code * 16 + e.toNat * 8 + h.toNat * 4)
  | .iflush a b => some (0x5C000040 + a.val * 65536 + b.val * 2048)
  | .svreq => some (0x5C000080)
  | .dbgbrk => some (0x5C0000C0)
  | .tret => some (0x5C000100)
  | .waiti => some (0x5C000140)
  | .harvest a b => some (0x5C000180 + a.val * 65536 + b.val * 2048)
  | .tlbinv a b => some (0x5C0001C0 + a.val * 65536 + b.val * 2048)
  | .beq b a i => some (0x60000000 + b.val * 2097152 + a.val * 65536 + i.toNat)
  | .bne b a i => some (0x64000000 + b.val * 2097152 + a.val * 65536 + i.toNat)
  | .blt b a i => some (0x68000000 + b.val * 2097152 + a.val * 65536 + i.toNat)
  | .bge b a i => some (0x6C000000 + b.val * 2097152 + a.val * 65536 + i.toNat)
  | .bltu b a i => some (0x70000000 + b.val * 2097152 + a.val * 65536 + i.toNat)
  | .bgeu b a i => some (0x74000000 + b.val * 2097152 + a.val * 65536 + i.toNat)
  | .jal d i => some (0x78000000 + d.val * 2097152 + i.toNat)
  | .jalr d a i => some (0x7C000000 + d.val * 2097152 + a.val * 65536 + i.toNat)
  | .loop l a o => some (0x80000000 + l.val * 33554432 + a.val * 65536 + o.toNat)
  | .loopi l c o => some (0x84000000 + l.val * 33554432 + c.toNat * 65536 + o.toNat)
  | .pushm f l b k => some (0x88000000 + f.val * 2097152 + l.val * 65536 + b.val * 2048 + k.toNat * 2)
  | .popm f l b k => some (0x88000001 + f.val * 2097152 + l.val * 65536 + b.val * 2048 + k.toNat * 2)
  | .spawn d a => some (0x8C000000 + d.val * 2097152 + a.val * 65536)
  | .join d a => some (0x8C000001 + d.val * 2097152 + a.val * 65536)
  | .jinit d a b => some (0x8C000002 + d.val * 2097152 + a.val * 65536 + b.val * 2048)
  | .exit => some (0x8C000003)
  | .yield => some (0x8C000004)
  | .waitt a => some (0x8C000005 + a.val * 65536)
  | .forkw d a => some (0x90000000 + d.val * 2097152 + a.val * 65536)
  | .yieldw a => some (0x90000001 + a.val * 65536)
  | .choose d a => some (0x90000002 + d.val * 2097152 + a.val * 65536)
  | .abortw => some (0x90000003)
  | .wid d => some (0x90000004 + d.val * 2097152)
  | .setshp d a => some (0x94000000 + d.val * 2097152 + a.val * 65536)
  | .getshp d => some (0x94000001 + d.val * 2097152)
  | .mxq a => some (0x98000000 + a.val * 65536)
  | .cpq a b => some (0x98000001 + a.val * 65536 + b.val * 2048)
  | .clq a => some (0x98000002 + a.val * 65536)
  | .strm a b => some (0x98000003 + a.val * 65536 + b.val * 2048)
  | .unstrm a => some (0x98000004 + a.val * 65536)
  | .qbind a b => some (0x98000005 + a.val * 65536 + b.val * 2048)
  | .engseq d a => some (0x98000006 + d.val * 2097152 + a.val * 65536)
  | .skwait a k => some (0x9C000000 + a.val * 65536 + k.val * 64)
  | .skadd a k => some (0x9C000001 + a.val * 65536 + k.val * 64)
  | .skset a k => some (0x9C000002 + a.val * 65536 + k.val * 64)
  | .skrd d k => some (0x9C000003 + d.val * 2097152 + k.val * 64)
  | .wpwait a k => some (0x9C000004 + a.val * 65536 + k.val * 64)
  | .csrr d c => some (0xA0000000 + d.val * 2097152 + c.toNat * 16)
  | .csrw d a c => some (0xA0000001 + d.val * 2097152 + a.val * 65536 + c.toNat * 16)
  | .csrs d a c => some (0xA0000002 + d.val * 2097152 + a.val * 65536 + c.toNat * 16)
  | .csrc d a c => some (0xA0000003 + d.val * 2097152 + a.val * 65536 + c.toNat * 16)
  | .fadd d a b f r => some (0xA4000000 + d.val * 2097152 + a.val * 65536 + b.val * 2048 + f.code * 256 + r.code * 2)
  | .fsub d a b f r => some (0xA4000010 + d.val * 2097152 + a.val * 65536 + b.val * 2048 + f.code * 256 + r.code * 2)
  | .fmul d a b f r => some (0xA4000020 + d.val * 2097152 + a.val * 65536 + b.val * 2048 + f.code * 256 + r.code * 2)
  | .fdiv d a b f r => some (0xA4000030 + d.val * 2097152 + a.val * 65536 + b.val * 2048 + f.code * 256 + r.code * 2)
  | .fsqrt d a f r => some (0xA4000040 + d.val * 2097152 + a.val * 65536 + f.code * 256 + r.code * 2)
  | .fmin d a b f => some (0xA4000050 + d.val * 2097152 + a.val * 65536 + b.val * 2048 + f.code * 256)
  | .fmax d a b f => some (0xA4000060 + d.val * 2097152 + a.val * 65536 + b.val * 2048 + f.code * 256)
  | .flt d a b f => some (0xA4000070 + d.val * 2097152 + a.val * 65536 + b.val * 2048 + f.code * 256)
  | .feq d a b f => some (0xA4000080 + d.val * 2097152 + a.val * 65536 + b.val * 2048 + f.code * 256)
  | .fle d a b f => some (0xA4000090 + d.val * 2097152 + a.val * 65536 + b.val * 2048 + f.code * 256)
  | .fcvtfi d a f r => some (0xA40000A0 + d.val * 2097152 + a.val * 65536 + f.code * 256 + r.code * 2)
  | .fcvtif d a f r => some (0xA40000B0 + d.val * 2097152 + a.val * 65536 + f.code * 256 + r.code * 2)
  | .fcvtff d a f r => some (0xA40000C0 + d.val * 2097152 + a.val * 65536 + f.code * 256 + r.code * 2)
  | .fmadd d a b f r => some (0xA40000D0 + d.val * 2097152 + a.val * 65536 + b.val * 2048 + f.code * 256 + r.code * 2)
  | .orboff d a b => some (0xA8000000 + d.val * 2097152 + a.val * 65536 + b.val * 2048)
  | .orbsgn d a b => some (0xA8000001 + d.val * 2097152 + a.val * 65536 + b.val * 2048)
  | .orbmul d a b => some (0xA8000002 + d.val * 2097152 + a.val * 65536 + b.val * 2048)
  | .vadd d a b => some (0xC0000000 + d.code * 2097152 + a.code * 65536 + b.code * 2048)
  | .vsub d a b => some (0xC0000001 + d.code * 2097152 + a.code * 65536 + b.code * 2048)
  | .vmul d a b => some (0xC0000002 + d.code * 2097152 + a.code * 65536 + b.code * 2048)
  | .vdiv d a b => some (0xC0000003 + d.code * 2097152 + a.code * 65536 + b.code * 2048)
  | .vmin d a b => some (0xC0000004 + d.code * 2097152 + a.code * 65536 + b.code * 2048)
  | .vmax d a b => some (0xC0000005 + d.code * 2097152 + a.code * 65536 + b.code * 2048)
  | .vabs d a => some (0xC0000006 + d.code * 2097152 + a.code * 65536)
  | .vneg d a => some (0xC0000007 + d.code * 2097152 + a.code * 65536)
  | .vaddsat d a b => some (0xC0000008 + d.code * 2097152 + a.code * 65536 + b.code * 2048)
  | .vsubsat d a b => some (0xC0000009 + d.code * 2097152 + a.code * 65536 + b.code * 2048)
  | .vfma d a b c => some (0xC4000000 + d.code * 2097152 + a.code * 65536 + b.code * 2048 + c.code * 64)
  | .vfms d a b c => some (0xC4000001 + d.code * 2097152 + a.code * 65536 + b.code * 2048 + c.code * 64)
  | .vfnma d a b c => some (0xC4000002 + d.code * 2097152 + a.code * 65536 + b.code * 2048 + c.code * 64)
  | .vand d a b => some (0xC8000000 + d.code * 2097152 + a.code * 65536 + b.code * 2048)
  | .vor d a b => some (0xC8000001 + d.code * 2097152 + a.code * 65536 + b.code * 2048)
  | .vxor d a b => some (0xC8000002 + d.code * 2097152 + a.code * 65536 + b.code * 2048)
  | .vnot d a => some (0xC8000003 + d.code * 2097152 + a.code * 65536)
  | .vshl d a b => some (0xC8000004 + d.code * 2097152 + a.code * 65536 + b.code * 2048)
  | .vshr d a b => some (0xC8000005 + d.code * 2097152 + a.code * 65536 + b.code * 2048)
  | .vsra d a b => some (0xC8000006 + d.code * 2097152 + a.code * 65536 + b.code * 2048)
  | .vcmp d a b c => some (0xCC000000 + d.code * 2097152 + a.code * 65536 + b.code * 2048 + c.code * 8)
  | .vsel d a b c => some (0xCC000001 + d.code * 2097152 + a.code * 65536 + b.code * 2048 + c.code * 64)
  | .vcvt d a f => some (0xD0000000 + d.code * 2097152 + a.code * 65536 + f.code * 2048)
  | .vexp2 d a => some (0xD4000000 + d.code * 2097152 + a.code * 65536)
  | .vlog2 d a => some (0xD4000001 + d.code * 2097152 + a.code * 65536)
  | .vrcp d a => some (0xD4000002 + d.code * 2097152 + a.code * 65536)
  | .vrsq d a => some (0xD4000003 + d.code * 2097152 + a.code * 65536)
  | .vsqrt d a => some (0xD4000004 + d.code * 2097152 + a.code * 65536)
  | .vtanh d a => some (0xD4000005 + d.code * 2097152 + a.code * 65536)
  | .vsigm d a => some (0xD4000006 + d.code * 2097152 + a.code * 65536)
  | .vrotc d a s => some (0xD8000000 + d.code * 2097152 + a.code * 65536 + s.val * 2048)
  | .vrotr d a s => some (0xD8000001 + d.code * 2097152 + a.code * 65536 + s.val * 2048)
  | .vbcc d a s => some (0xD8000002 + d.code * 2097152 + a.code * 65536 + s.val * 2048)
  | .vbcr d a s => some (0xD8000003 + d.code * 2097152 + a.code * 65536 + s.val * 2048)
  | .vredcAdd d a => some (0xD8000004 + d.code * 2097152 + a.code * 65536)
  | .vredcMax d a => some (0xD8000005 + d.code * 2097152 + a.code * 65536)
  | .vredcMin d a => some (0xD8000006 + d.code * 2097152 + a.code * 65536)
  | .vredrAdd d a => some (0xD8000007 + d.code * 2097152 + a.code * 65536)
  | .vredrMax d a => some (0xD8000008 + d.code * 2097152 + a.code * 65536)
  | .vredrMin d a => some (0xD8000009 + d.code * 2097152 + a.code * 65536)
  | .vtrn d a => some (0xD800000A + d.code * 2097152 + a.code * 65536)
  | .viota d u s => some (0xD800000B + d.code * 2097152 + u.val * 65536 + s.val * 2048)
  | .vdot4 d a b c g h t => some (0xDC000000 + d.code * 2097152 + a.code * 65536 + b.code * 2048 + c.code * 64 + g.toNat * 16 + h.toNat * 8 + t.toNat * 4)
  | .vcmp48 d a b g h t => some (0xDC000001 + d.code * 2097152 + a.code * 65536 + b.val * 2048 + g.toNat * 16 + h.toNat * 8 + t.toNat * 4)
  | .vsmv d a b c g h t => some (0xDC000002 + d.code * 2097152 + a.code * 65536 + b.code * 2048 + c.code * 64 + g.toNat * 16 + h.toNat * 8 + t.toNat * 4)
  | .vsplat d u s => some (0xE0000000 + d.code * 2097152 + u.val * 65536 + s.val * 2048)
  | .vins d u s t => some (0xE0000001 + d.code * 2097152 + u.val * 65536 + s.val * 2048 + t.val * 64)
  | .vext d a t => some (0xE0000002 + d.val * 2097152 + a.code * 65536 + t.val * 64)
  | .vqnt d a s t => some (0xE0000003 + d.code * 2097152 + a.code * 65536 + s.val * 2048 + t.val * 64)
  | .vdq d a s t => some (0xE0000004 + d.code * 2097152 + a.code * 65536 + s.val * 2048 + t.val * 64)
  | .vaddx d a s => some (0xE0000005 + d.code * 2097152 + a.code * 65536 + s.val * 2048)
  | .vsubx d a s => some (0xE0000006 + d.code * 2097152 + a.code * 65536 + s.val * 2048)
  | .vmulx d a s => some (0xE0000007 + d.code * 2097152 + a.code * 65536 + s.val * 2048)
  | .vmaxx d a s => some (0xE0000008 + d.code * 2097152 + a.code * 65536 + s.val * 2048)
  | .vminx d a s => some (0xE0000009 + d.code * 2097152 + a.code * 65536 + s.val * 2048)
  | .vshlx d a s => some (0xE000000A + d.code * 2097152 + a.code * 65536 + s.val * 2048)
  | .vshrx d a s => some (0xE000000B + d.code * 2097152 + a.code * 65536 + s.val * 2048)
  | .vsrax d a s => some (0xE000000C + d.code * 2097152 + a.code * 65536 + s.val * 2048)
  | .vpeek d a => some (0xE000000D + d.code * 2097152 + (a.val + 16) * 65536)
  | .vld q b s m => some (0xE4000000 + (q.val + 16) * 2097152 + b.val * 65536 + s.val * 2048 + m.code * 128)
  | .vst q b s m => some (0xE4000001 + (q.val + 16) * 2097152 + b.val * 65536 + s.val * 2048 + m.code * 128)
  | .vldo q b s m => some (0xE4000002 + (q.val + 16) * 2097152 + b.val * 65536 + s.val * 2048 + m.code * 128)
  | .vsto q b s m => some (0xE4000003 + (q.val + 16) * 2097152 + b.val * 65536 + s.val * 2048 + m.code * 128)
  | .vldb q b m => some (0xE4000004 + (q.val + 16) * 2097152 + b.val * 65536 + m.code * 128)
  | .vrngb d u s t => some (0xE8000000 + d.code * 2097152 + u.val * 65536 + s.val * 2048 + t.val * 64)
  | .vrngu d u s t => some (0xE8000001 + d.code * 2097152 + u.val * 65536 + s.val * 2048 + t.val * 64)
  | .mma => none
  | .dist => none
  | .topk => none
  | .drain => none
  | .loadacc => none
  | .stampOverrun _ => none
  | .copyCmd _ => none
  | .fillCmd _ => none
  | .gatherCmd _ => none
  | .scatterCmd _ => none
  | .packoCmd _ => none
  | .unpackoCmd _ => none
  | .allreduce _ _ => none
  | .reducescatter _ _ => none
  | .allgather _ _ => none
  | .broadcast _ _ => none
  | .sendCmd _ _ => none
  | .recvCmd _ _ => none
  | .collectiveTimeout _ => none
  | .chunkAttempt _ => none
  | .launchPacket _ => none
  | .pop => none
  | .launchComplete _ => none
  | .watchdog => none
  | .trap => none
  | .dieIsolation _ => none
  | .dataFrame _ _ => none
  | .ackFrame _ _ => none
  | .nackFrame _ _ => none
  | .rekeyFrame _ _ => none
  | .idleFrame _ _ => none
  | .keyRenewal _ => none
  | .portBringUp _ _ _ => none
  | .bar2Read _ _ _ => none
  | .bar2Write _ _ _ => none
  | .atomicop _ _ _ _ _ _ => none
  | .flr _ => none
  | .reset _ => none
  | .ptpLock _ => none
  | .tailWrite _ _ => none
  | .rcfgWrite _ _ => none
  | .evcfgWrite _ _ => none
  | .registerWrite _ _ => none
  | .fctlWrite _ => none
  | .slipWrite _ => none
  | .lcfgWrite _ => none
  | .statusWrite _ => none
  | .loopRegisterWrite _ _ => none
  | .xsetWrite _ => none
  | .dseedWrite _ => none
  | .lsubWrite _ => none
  | .lendWrite _ => none
  | .attreqWrite _ => none
  | .fwgrantWrite _ => none
  | .preempt _ _ => none
  | .cellar _ _ => none
  | .cellarDrainEnd _ => none
  | .targetUnreachable _ => none
  | .power _ => none
  | .partition _ => none
  | .cap _ => none
  | .attest _ _ => none
  | .xunload _ => none
  | .currentSample _ => none
  | .lifecycleAdvance _ => none
  | .debugToken _ => none
  | .grandmasterLost => none
  | .lossOfPower => none
  | .expansionSetLoad _ _ _ => none
  | .uncorrectableError _ => none
  | .croftDatapathCheck _ => none
  | .debugLevelChange _ _ => none

/-- The word as TVAL shows it (R390): zero-extended. -/
def instrWord (i : Instr) : Word := BitVec.ofNat 64 ((encode i).getD 0)

end Sys2Proof
end

