-- ==== Sys2Proof/Machine/Bits.lean ====
section
/-! DEFINITION. Bit fields, sign extension and byte order (R6, R7). -/

namespace Sys2Proof.Machine

/-- x[hi:lo] of a number (R6). -/
def bitsN (x hi lo : Nat) : Nat := x / 2 ^ lo % 2 ^ (hi + 1 - lo)

/-- x[hi:lo] of a word (R6). -/
def bits (x : Word) (hi lo : Nat) : Nat := bitsN x.toNat hi lo

/-- x[n] of a word (R6). -/
def bit (x : Word) (n : Nat) : Bool := x.getLsbD n

/-- The low `w` bits read as a two's-complement number. -/
def signed (w x : Nat) : Int :=
  let v := x % 2 ^ w
  if 2 * v < 2 ^ w then (v : Int) else (v : Int) - (2 ^ w : Nat)

/-- An integer modulo 2^w, as the low `w` bits. -/
def wrapN (w : Nat) (v : Int) : Nat := (v % (2 ^ w : Nat)).toNat

/-- An integer modulo 2^64. -/
def ofInt (v : Int) : Word := BitVec.ofInt 64 v

/-- A number as a word. -/
def wd (n : Nat) : Word := BitVec.ofNat 64 n

/-- Little-endian value of bytes, the first at the lowest address (R7). -/
def leValue (bs : List Byte) : Nat := wordOfBytes bs

/-- `n` little-endian bytes of a value (R7). -/
def leBytes : Nat → Nat → List Byte
  | 0, _ => []
  | n + 1, v => BitVec.ofNat 8 v :: leBytes n (v / 256)

/-- The doublewords of a structure in memory (R7). -/
def dwords (bs : List Byte) : List Word :=
  (List.range (bs.length / 8)).map fun k => wd (leValue ((bs.drop (8 * k)).take 8))

/-- Doubleword `n` of a record, 0 past its end. -/
def dw (r : List Word) (n : Nat) : Word := r.getD n 0

/-- The bytes of a list of doublewords (R7). -/
def dwBytes (ws : List Word) : List Byte := ws.flatMap fun w => leBytes 8 w.toNat

/-- Set bits [hi:lo] of a word. -/
def setBits (x : Word) (hi lo v : Nat) : Word :=
  let n := x.toNat
  let width := hi + 1 - lo
  wd (n - bitsN n hi lo * 2 ^ lo + v % 2 ^ width * 2 ^ lo)

/-- Keep the low 56 address bits and wrap: an address modulo 2^64 (R29). -/
def addrAdd (a : Word) (k : Int) : Word := a + ofInt k

end Sys2Proof.Machine
end

