-- ==== Sys2Proof/Machine/Number.lean ====
section
/-! DEFINITION. The number formats and the one rounding of every result (R89 to R109): decoding each format to an exact
value, exact sums and products, and rounding once into any format with its flags. -/

namespace Sys2Proof

/-- The width of a format in bits (R89). -/
def Fmt.width : Fmt → Nat
  | .fp32 => 32 | .bf16 => 16 | .fp16 => 16 | .e4m3 => 8 | .e5m2 => 8 | .d8 => 8 | .int32 => 32 | .int16 => 16
  | .int8 => 8 | .uint8 => 8 | .int4 => 4 | .uint4 => 4 | .uint16 => 16

/-- Whether a format is an integer format (R96). -/
def Fmt.isInt : Fmt → Bool
  | .int32 | .int16 | .int8 | .uint8 | .int4 | .uint4 | .uint16 => true
  | .fp32 | .bf16 | .fp16 | .e4m3 | .e5m2 | .d8 => false

/-- Whether an integer format is signed (R96). -/
def Fmt.isSigned : Fmt → Bool
  | .uint8 | .uint4 | .uint16 => false
  | _ => true

/-- The bytes of one element; INT4 and UINT4 take a nibble and count as 1 (R164). -/
def Fmt.bytes (f : Fmt) : Nat := if f.width = 4 then 1 else f.width / 8

end Sys2Proof

namespace Sys2Proof.Machine

/-- The rounding modes of R97. -/
inductive RM where
  | rne | rtz | rup | rdn | rna | stoch
deriving DecidableEq, Repr

/-- A mode with a code of R97; 6 and 7 are never held (R99). -/
def RM.ofCode : Nat → RM
  | 0 => .rne | 1 => .rtz | 2 => .rup | 3 => .rdn | 4 => .rna | _ => .stoch

/-- The exception flags of one or more elements, as FCTL[7:3]: NV DZ OF UF NX from bit 4 down (R101). -/
abbrev Flags := BitVec 5

/-- Invalid operation. -/
def fNV : Flags := 0b10000
/-- Division by zero. -/
def fDZ : Flags := 0b01000
/-- Overflow. -/
def fOF : Flags := 0b00100
/-- Underflow. -/
def fUF : Flags := 0b00010
/-- Inexact. -/
def fNX : Flags := 0b00001

/-- A value read from a format or computed exactly. `fin neg m e sticky` is the magnitude m × 2^e, or with `sticky` a
magnitude strictly between m × 2^e and (m + 1) × 2^e whose further bits no rounding here can tell apart. -/
inductive Num where
  | nan (signalling : Bool)
  | inf (neg : Bool)
  | fin (neg : Bool) (m : Nat) (e : Int) (sticky : Bool)
deriving DecidableEq, Repr

/-- An exact finite value. -/
def Num.exact (neg : Bool) (m : Nat) (e : Int) : Num := .fin neg m e false
/-- +0. -/
def Num.zero : Num := .fin false 0 0 false
/-- An integer. -/
def Num.ofInt (v : Int) : Num := .fin (v < 0) v.natAbs 0 false
/-- Whether the value is a NaN. -/
def Num.isNaN : Num → Bool
  | .nan _ => true
  | _ => false
/-- Whether the value is a signalling NaN (R91). -/
def Num.isSignalling : Num → Bool
  | .nan s => s
  | _ => false
/-- Whether the value is a zero of either sign. -/
def Num.isZero : Num → Bool
  | .fin _ 0 _ false => true
  | _ => false
/-- The sign of a value; a NaN has none. -/
def Num.neg? : Num → Bool
  | .nan _ => false
  | .inf n => n
  | .fin n _ _ _ => n
/-- The value with the other sign. -/
def Num.negate : Num → Num
  | .nan s => .nan s
  | .inf n => .inf (!n)
  | .fin n m e s => .fin (!n) m e s
/-- The value times 2^k, exactly (R106). -/
def Num.scale (k : Int) : Num → Num
  | .fin n m e s => .fin n m (if m = 0 then e else e + k) s
  | x => x

/-- A binary floating format (R90): exponent bits, fraction bits, whether the top exponent is for infinities and NaNs. -/
structure FloatFmt where
  eb : Nat
  mb : Nat
  ieeeTop : Bool
deriving DecidableEq, Repr

/-- FP64. -/
def ff64 : FloatFmt := ⟨11, 52, true⟩
/-- FP32. -/
def ff32 : FloatFmt := ⟨8, 23, true⟩
/-- BF16. -/
def ffBf16 : FloatFmt := ⟨8, 7, true⟩
/-- FP16. -/
def ff16 : FloatFmt := ⟨5, 10, true⟩
/-- E4M3: no infinity, one NaN body. -/
def ffE4m3 : FloatFmt := ⟨4, 3, false⟩
/-- E5M2. -/
def ffE5m2 : FloatFmt := ⟨5, 2, true⟩

/-- The exponent bias (R90). -/
def FloatFmt.bias (F : FloatFmt) : Nat := 2 ^ (F.eb - 1) - 1
/-- The exponent of the smallest normal (R90). -/
def FloatFmt.emin (F : FloatFmt) : Int := 1 - (F.bias : Int)
/-- The width in bits. -/
def FloatFmt.width (F : FloatFmt) : Nat := 1 + F.eb + F.mb
/-- The bits of the largest finite magnitude (R90). -/
def FloatFmt.maxBits (F : FloatFmt) : Nat :=
  if F.ieeeTop then (2 ^ F.eb - 1) * 2 ^ F.mb - 1 else 2 ^ (F.eb + F.mb) - 2
/-- The canonical NaN (R91). -/
def FloatFmt.nanBits (F : FloatFmt) : Nat :=
  if F.ieeeTop then (2 ^ F.eb - 1) * 2 ^ F.mb + 2 ^ (F.mb - 1) else 2 ^ (F.eb + F.mb) - 1
/-- The bits of +∞, where the format has one. -/
def FloatFmt.infBits (F : FloatFmt) : Nat := (2 ^ F.eb - 1) * 2 ^ F.mb
/-- The sign bit as a number. -/
def FloatFmt.signBit (F : FloatFmt) (neg : Bool) : Nat := if neg then 2 ^ (F.eb + F.mb) else 0

/-- Read bits of a binary floating format (R90). Only FP64, FP32, BF16 and FP16 have signalling NaNs (R91). -/
def FloatFmt.decode (F : FloatFmt) (b : Nat) : Num :=
  let neg := b / 2 ^ (F.eb + F.mb) % 2 == 1
  let ex := b / 2 ^ F.mb % 2 ^ F.eb
  let fr := b % 2 ^ F.mb
  if F.ieeeTop && ex == 2 ^ F.eb - 1 then
    if fr = 0 then .inf neg else .nan (fr < 2 ^ (F.mb - 1) && 7 ≤ F.mb)
  else if !F.ieeeTop && b % 2 ^ (F.eb + F.mb) == 2 ^ (F.eb + F.mb) - 1 then .nan false
  else if ex = 0 then .fin neg fr (F.emin - F.mb) false
  else .fin neg (2 ^ F.mb + fr) ((ex : Int) - F.bias - F.mb) false

/-- The magnitude of a positive finite code as (m, e). -/
def FloatFmt.magnitude (F : FloatFmt) (b : Nat) : Nat × Int :=
  match F.decode b with
  | .fin _ m e _ => (m, e)
  | _ => (0, 0)

/-- Compare the magnitudes m1 × 2^e1 and m2 × 2^e2. -/
def cmpMag (m1 : Nat) (e1 : Int) (m2 : Nat) (e2 : Int) : Ordering :=
  if m1 = 0 || m2 = 0 then compare m1 m2
  else
    let t1 := e1 + m1.log2
    let t2 := e2 + m2.log2
    if t1 < t2 then .lt else if t2 < t1 then .gt
    else if e1 ≤ e2 then compare m1 (m2 * 2 ^ (e2 - e1).toNat)
    else compare (m1 * 2 ^ (e1 - e2).toNat) m2

/-- Compare two values that are no NaN, with −0 equal to +0; a sticky value is above its m × 2^e in magnitude. -/
def Num.cmp (a b : Num) : Ordering :=
  match a, b with
  | .inf n, .inf k => if n == k then .eq else if n then .lt else .gt
  | .inf n, _ => if n then .lt else .gt
  | _, .inf k => if k then .gt else .lt
  | .fin n m e s, .fin k m' e' s' =>
    let mag : Ordering :=
      match cmpMag m e m' e' with
      | .eq => if s == s' then .eq else if s then .gt else .lt
      | o => o
    if m = 0 && m' = 0 && !s && !s' then .eq
    else if n && !k then .lt else if !n && k then .gt
    else if n then mag.swap else mag
  | _, _ => .eq

/-- Round m × 2^e (with its sticky tail) to a whole number of units 2^u. `draw` is t of R98. The answer is the
rounded count of units and whether it is exact. -/
def roundAt (mode : RM) (neg : Bool) (draw : Nat) (m : Nat) (e : Int) (sticky : Bool) (u : Int) : Nat × Bool :=
  if u ≤ e then (m * 2 ^ (e - u).toNat, !sticky)
  else
    let k := (u - e).toNat
    let far := m.log2 + 64 < k
    let q := if far then 0 else m / 2 ^ k
    let r := if far then 0 else m % 2 ^ k
    let exact := if far then m == 0 && !sticky else r == 0 && !sticky
    let vsHalf : Ordering :=
      if far then .lt
      else match compare (2 * r) (2 ^ k) with
        | .eq => if sticky then .gt else .eq
        | o => o
    let f24 := if far then 0 else r * 2 ^ 24 / 2 ^ k
    if exact then (q, true)
    else
      let up : Bool :=
        match mode with
        | .rne => match vsHalf with
          | .gt => true
          | .eq => q % 2 == 1
          | .lt => false
        | .rtz => false
        | .rup => !neg
        | .rdn => neg
        | .rna => match vsHalf with
          | .lt => false
          | _ => true
        | .stoch => decide (f24 > draw)
      (if up then q + 1 else q, false)

/-- The bits of ±(overflow) in a binary floating format (R105). -/
def FloatFmt.overflowBits (F : FloatFmt) (mode : RM) (neg : Bool) : Nat :=
  let toMax : Bool :=
    if F.mb < 7 then true
    else match mode with
      | .rtz => true
      | .rup => neg
      | .rdn => !neg
      | _ => false
  F.signBit neg + (if toMax then F.maxBits else F.infBits)

/-- Round one value into a binary floating format, once, with its flags (R97, R102, R105). -/
def FloatFmt.round (F : FloatFmt) (mode : RM) (draw : Nat) (x : Num) : Nat × Flags :=
  match x with
  | .nan s => (F.nanBits, if s then fNV else 0)
  | .inf n => if F.ieeeTop then (F.signBit n + F.infBits, 0) else (F.nanBits, fNV)
  | .fin n m e s =>
    if m = 0 && !s then (F.signBit n, 0)
    else
      let top : Int := e + m.log2
      let u0 : Int := top - F.mb
      let lo : Int := F.emin - F.mb
      let u := if u0 < lo then lo else u0
      let (M, exact) := roundAt mode n draw m e s u
      let (mm, me) := F.magnitude F.maxBits
      if cmpMag M u mm me == .gt then (F.overflowBits mode n, fOF ||| fNX)
      else
        let (M0, _) := roundAt mode n draw m e s u0
        let tiny := cmpMag M0 u0 1 F.emin == .lt && M0 != 0
        let b := if M = 0 then 0 else ((u + F.mb + F.bias).toNat * 2 ^ F.mb + M) - 2 ^ F.mb
        (F.signBit n + b, if exact then 0 else if tiny then fUF ||| fNX else fNX)

/-- Mantissa bits of the D8 values with exponent x (R93). -/
def d8Bits (x : Int) : Nat :=
  if -2 ≤ x && x ≤ 1 then 4 else if -4 ≤ x && x ≤ 3 then 3 else if -8 ≤ x && x ≤ 7 then 1 else 0

/-- The D8 code of 2^x × (1 + M / 2^(d8Bits x)), by the table of R93. -/
def d8Code (x : Int) (M : Nat) : Nat :=
  if -2 ≤ x && x ≤ 1 then 0x40 + 16 * (x + 2).toNat + M
  else if 2 ≤ x && x ≤ 3 then 0x30 + 8 * (x - 2).toNat + M
  else if -4 ≤ x && x ≤ -3 then 0x20 + 8 * (x + 4).toNat + M
  else if 4 ≤ x && x ≤ 7 then 0x18 + 2 * (x - 4).toNat + M
  else if -8 ≤ x && x ≤ -5 then 0x10 + 2 * (x + 8).toNat + M
  else if 8 ≤ x && x ≤ 11 then 0x0C + (x - 8).toNat
  else if -12 ≤ x && x ≤ -9 then 0x08 + (x + 12).toNat
  else if 12 ≤ x && x ≤ 13 then 0x06 + (x - 12).toNat
  else if -14 ≤ x && x ≤ -13 then 0x04 + (x + 14).toNat
  else if x = 14 then 0x03 else if x = -15 then 0x02 else 0x01

/-- Read a D8 byte (R93). -/
def d8Decode (b : Nat) : Num :=
  let s := b / 128 % 2 == 1
  let B := b % 128
  if B = 0 then if s then .nan false else .zero
  else
    let p := B.log2
    let F := B % 2 ^ p
    match p with
    | 6 => .fin s (16 + F % 16) ((F / 16 : Nat) - 2 - 4 : Int) false
    | 5 => .fin s (8 + F % 8) ((if F / 16 = 1 then 2 + (F / 8 % 2 : Nat) else -4 + (F / 8 % 2 : Nat) : Int) - 3) false
    | 4 => .fin s (2 + F % 2) ((if F / 8 = 1 then 4 + (F / 2 % 4 : Nat) else -8 + (F / 2 % 4 : Nat) : Int) - 1) false
    | 3 => .fin s 1 (if F / 4 = 1 then 8 + (F % 4 : Nat) else -12 + (F % 4 : Nat) : Int) false
    | 2 => .fin s 1 (if F / 2 = 1 then 12 + (F % 2 : Nat) else -14 + (F % 2 : Nat) : Int) false
    | 1 => .fin s 1 (if F = 1 then 14 else -15 : Int) false
    | _ => .fin s 1 15 false

/-- Whether a value whose stored magnitude compares so with a bound lies above the bound, given its sticky tail. -/
def isAbove (o : Ordering) (sticky : Bool) : Bool :=
  match o with
  | .gt => true
  | .eq => sticky
  | .lt => false

/-- The choice of the upper of two D8 neighbours, from the comparison with the midpoint and the codes (R94). -/
def d8Up (o : Ordering) (sticky : Bool) (lower upper : Nat) : Bool :=
  match o with
  | .gt => true
  | .lt => false
  | .eq => sticky || (lower % 2 == 1 && upper % 2 == 0)

/-- Round one value into D8 by the nearest rule of R94. -/
def d8Round (x : Num) : Nat × Flags :=
  match x with
  | .nan s => (0x80, if s then fNV else 0)
  | .inf _ => (0x80, fNV)
  | .fin n m e s =>
    let sg := if n then 0x80 else 0
    if m = 0 && !s then (0, 0)
    else
      let top : Int := e + m.log2
      if isAbove (cmpMag m e 1 15) s then (sg + 0x01, fOF ||| fNX)
      else if top < -15 then
        -- between +0 and 2^-15; the midpoint 2^-16 goes to +0
        (if isAbove (cmpMag m e 1 (-16)) s then sg + 0x02 else 0, fUF ||| fNX)
      else
        let mb := d8Bits top
        let u : Int := top - mb
        let (q, exact) := roundAt .rtz n 0 m e s u
        let lower := d8Code top (q - 2 ^ mb)
        if exact then (sg + lower, 0)
        else
          let upper := if q + 1 = 2 ^ (mb + 1) then d8Code (top + 1) 0 else d8Code top (q + 1 - 2 ^ mb)
          (sg + (if d8Up (cmpMag m e (2 * q + 1) (u - 1)) s lower upper then upper else lower), fNX)

/-- The least value of an integer format (R96). -/
def intMin (f : Fmt) : Int := if f.isSigned then -(2 ^ (f.width - 1) : Nat) else 0
/-- The greatest value of an integer format (R96). -/
def intMax (f : Fmt) : Int := if f.isSigned then (2 ^ (f.width - 1) - 1 : Nat) else (2 ^ f.width - 1 : Nat)

/-- The binary floating layout of a format; D8 and the integers have none. -/
def floatOf : Fmt → Option FloatFmt
  | .fp32 => some ff32 | .bf16 => some ffBf16 | .fp16 => some ff16 | .e4m3 => some ffE4m3 | .e5m2 => some ffE5m2
  | _ => none

/-- Read the low bits of a lane in an integer format (R25, R96). -/
def readInt (f : Fmt) (b : Nat) : Int := if f.isSigned then signed f.width b else ((b % 2 ^ f.width : Nat) : Int)

/-- Read the low bits of a lane in any format, exactly (R25, R89). -/
def readNum (f : Fmt) (b : Nat) : Num :=
  match floatOf f with
  | some F => F.decode (b % 2 ^ F.width)
  | none => if f == .d8 then d8Decode (b % 256) else .ofInt (readInt f b)

/-- Round to an integer under the mode and saturate to [lo, hi] (R104, R105). R105 does not say whether a value is outside the range
before or after rounding: after it is the model's choice, so that 127.4 into INT8 is 127 with NX (log 66). -/
def roundInt (mode : RM) (draw : Nat) (lo hi : Int) (x : Num) : Int × Flags :=
  match x with
  | .nan _ => (0, fNV)
  | .inf n => (if n then lo else hi, fNV)
  | .fin n m e s =>
    if 80 < e + m.log2 && m != 0 then (if n then lo else hi, fNV)
    else
      let (M, exact) := roundAt mode n draw m e s 0
      let v : Int := if n then -(M : Int) else M
      if v < lo then (lo, fNV) else if hi < v then (hi, fNV) else (v, if exact then 0 else fNX)

/-- The canonical NaN of a floating format (R91). -/
def nanOf (f : Fmt) : Nat :=
  match floatOf f with
  | some F => F.nanBits
  | none => 0x80

/-- Round a value into any format, once, with its flags (R97, R102 to R105). -/
def roundTo (f : Fmt) (mode : RM) (draw : Nat) (x : Num) : Nat × Flags :=
  match floatOf f with
  | some F => F.round mode draw x
  | none =>
    if f == .d8 then d8Round x
    else
      let (v, fl) := roundInt mode draw (intMin f) (intMax f) x
      (wrapN f.width v, fl)

/-- An exact sum over a list, with the special values of R108. With a NaN among the terms NV comes of a signalling one alone, infinities of
both signs or not: R108 leaves that open and the choice is the model's (log 73). -/
def sumNum (mode : RM) (ts : List Num) : Num × Flags :=
  let sig : Flags := if ts.any Num.isSignalling then fNV else 0
  if ts.any Num.isNaN then (.nan false, sig)
  else
    let isInf (k : Bool) (t : Num) : Bool := match t with
      | .inf n => n == k
      | _ => false
    let pos := ts.any (isInf false)
    let neg := ts.any (isInf true)
    if pos && neg then (.nan false, fNV)
    else if pos then (.inf false, 0)
    else if neg then (.inf true, 0)
    else
      -- zero terms carry no exponent
      let emin : Int := ts.foldl (fun acc t => match t with
        | .fin _ m e _ => if m != 0 && e < acc then e else acc
        | _ => acc) (ts.foldl (fun acc t => match t with
          | .fin _ m e _ => if m != 0 then e else acc
          | _ => acc) 0)
      let total : Int := ts.foldl (fun acc t => match t with
        | .fin n m e _ => if m = 0 then acc
            else acc + (if n then -1 else 1) * ((m * 2 ^ (e - emin).toNat : Nat) : Int)
        | _ => acc) 0
      if total = 0 then
        let allNeg := ts.all fun t => t.isZero && t.neg?
        (.exact (!ts.isEmpty && (allNeg || mode == .rdn)) 0 0, 0)
      else (.exact (total < 0) total.natAbs emin, 0)

/-- An exact product (R92). An exact zero takes the XOR of the signs in every mode: R132 sends a zero result to R108, which speaks of
sums alone, so for products, quotients and FCVTFI this is the model's choice (log 66). -/
def mulNum (a b : Num) : Num × Flags :=
  let sig : Flags := if a.isSignalling || b.isSignalling then fNV else 0
  match a, b with
  | .nan _, _ => (.nan false, sig)
  | _, .nan _ => (.nan false, sig)
  | .inf n, .inf k => (.inf (n != k), 0)
  | .inf n, y => if y.isZero then (.nan false, fNV) else (.inf (n != y.neg?), 0)
  | x, .inf k => if x.isZero then (.nan false, fNV) else (.inf (x.neg? != k), 0)
  | .fin n m e _, .fin k m' e' _ => (.exact (n != k) (m * m') (e + e'), 0)

/-- a × b + c, exact, with one later rounding (R107, R150, R132). -/
def fmaNum (mode : RM) (a b c : Num) : Num × Flags :=
  let (p, f1) := mulNum a b
  let (r, f2) := sumNum mode [p, c]
  (r, f1 ||| f2)

/-- a / b, with a sticky tail when the quotient does not end (R92). A DZ flag marks a finite value divided by zero. -/
def divNum (a b : Num) : Num × Flags :=
  let sig : Flags := if a.isSignalling || b.isSignalling then fNV else 0
  match a, b with
  | .nan _, _ => (.nan false, sig)
  | _, .nan _ => (.nan false, sig)
  | .inf _, .inf _ => (.nan false, fNV)
  | .inf n, y => (.inf (n != y.neg?), 0)
  | x, .inf k => (.exact (x.neg? != k) 0 0, 0)
  | .fin n m e _, .fin k m' e' _ =>
    if m' = 0 then if m = 0 then (.nan false, fNV) else (.inf (n != k), fDZ)
    else if m = 0 then (.exact (n != k) 0 0, 0)
    else
      let sh := 192 + m'.log2 - m.log2
      let num := m * 2 ^ sh
      (.fin (n != k) (num / m') (e - e' - sh) (num % m' != 0), 0)

/-- Bit-by-bit integer square root of n, given bits `k-1 .. 0` still to decide. -/
def isqrtBits (n : Nat) : Nat → Nat → Nat
  | 0, r => r
  | k + 1, r => isqrtBits n k (if (r + 2 ^ k) * (r + 2 ^ k) ≤ n then r + 2 ^ k else r)

/-- The square root of an exact value (R92). -/
def sqrtNum (a : Num) : Num × Flags :=
  match a with
  | .nan s => (.nan false, if s then fNV else 0)
  | .inf n => if n then (.nan false, fNV) else (.inf false, 0)
  | .fin n m e _ =>
    if m = 0 then (.exact n 0 0, 0)
    else if n then (.nan false, fNV)
    else
      let sh := (400 - m.log2) + (if (e - ((400 - m.log2 : Nat) : Int)) % 2 = 0 then 0 else 1)
      let N := m * 2 ^ sh
      let r := isqrtBits N (N.log2 / 2 + 1) 0
      (.fin false r ((e - sh) / 2) (r * r != N), 0)

/-- Order two values that are no NaN with −0 below +0 (R132, R148). -/
def leqSigned (a b : Num) : Bool :=
  match a.cmp b with
  | .lt => true
  | .gt => false
  | .eq => a.neg? || !b.neg?

/-- The bits of the smaller (or larger) operand, with the NaN rule of R132 and R148. -/
def minMaxBits (nan : Nat) (wantMax : Bool) (a b : Num) (ba bb : Nat) : Nat × Flags :=
  if a.isNaN || b.isNaN then (nan, if a.isSignalling || b.isSignalling then fNV else 0)
  else if leqSigned a b then (if wantMax then bb else ba, 0) else (if wantMax then ba else bb, 0)

/-- A quotient delivered into a format; a zero divisor gives the largest finite value where there is no infinity (R92). -/
def divTo (f : Fmt) (mode : RM) (draw : Nat) (a b : Num) : Nat × Flags :=
  let (q, fl) := divNum a b
  if fl == fDZ && f == .d8 then ((if q.neg? then 0x81 else 0x01), fDZ)
  else if fl == fDZ && f == .e4m3 then (ffE4m3.signBit q.neg? + ffE4m3.maxBits, fDZ)
  else
    let (r, g) := roundTo f mode draw q
    (r, fl ||| g)

/-- The generator G of R178. -/
def gen (seed stream counter : Word) : Word :=
  let z := seed ^^^ (stream * 0x9E3779B97F4A7C15#64) ^^^ (counter * 0xD1B54A32D192ED03#64)
  let z := (z ^^^ (z >>> 30)) * 0xBF58476D1CE4E5B9#64
  let z := (z ^^^ (z >>> 27)) * 0x94D049BB133111EB#64
  z ^^^ (z >>> 31)

/-- t of R98: bits [63:40] of G. -/
def stochDraw (seed stream counter : Word) : Nat := bits (gen seed stream counter) 63 40

/-- Negation of an element in its memory format without rounding (R190). -/
def negateBits (f : Fmt) (b : Nat) : Nat :=
  let v := b % 2 ^ f.width
  if f.isInt then wrapN f.width (-(v : Int))
  else if f == .d8 then if v % 128 = 0 then v else (v + 128) % 256
  else (v + 2 ^ (f.width - 1)) % 2 ^ f.width

/-- Whether an element is a zero of its format: +0, −0 and the D8 code 0x00 (R192). -/
def isZeroBits (f : Fmt) (b : Nat) : Bool :=
  let v := b % 2 ^ f.width
  if f.isInt || f == .d8 then v == 0 else v % 2 ^ (f.width - 1) == 0

end Sys2Proof.Machine
end

