-- ==== Sys2Proof/Machine/State.lean ====
section
/-! DEFINITION. The state of one B7 module with one modelled croft: every piece of state the spec names, as plain data.
INVENTORY.md lists each field with its rule and its reset value. -/

namespace Sys2Proof.Machine

/-- Sparse memory: (address, byte) pairs, addresses strictly rising, no byte 0; an unlisted address reads 0 (R371: a
partition's range is written with zeros before it runs; R30: loft space is demand-zero). -/
abbrev Mem := List Host.Cell

/-- The canonical form: addresses strictly rise from `lo` and no entry holds 0. -/
def Mem.wfFrom : Nat → Mem → Bool
  | _, [] => true
  | lo, (a, b) :: m => lo ≤ a && b != 0 && Mem.wfFrom (a + 1) m

/-- The canonical form of a memory. -/
def Mem.wf (m : Mem) : Bool := Mem.wfFrom 0 m

/-- A vector tile: element (r, c) at r × 64 + c (R24, R141). -/
abbrev Tile := Vector Lane 1024

/-- The tile of zero lanes. -/
def Tile.zero : Tile := Vector.replicate 1024 0

/-- A stook (R263). -/
structure Stook where
  count : BitVec 32
  target : BitVec 31
  phase : Bool
deriving DecidableEq, Repr

/-- The roles of a queue register (R251). -/
inductive QRole where
  | load | store | stream
deriving DecidableEq, Repr

/-- A stream attached to a queue register, with its decoder state (R326 to R340). `sup` is the mode it was attached in
(R232), `chunk` the next chunk (without BALE the next input byte), `attempt` its attempt, `ordinal` the output elements built
so far, `carry` the input nibbles not yet used, `skip` the nibbles of the next input to pass over after a resumption (R340),
`waiting` the built lanes not yet pushed, `ulens` the lengths of the chunks decoded so far, `table` the PREFIX table of the
current chunk, `built` whether every element was built, and `after` the number of vector stores before its STRM (R337). -/
structure Stream where
  desc : List Word
  daddr : Word
  sh : Word
  sup : Bool
  chunk : Nat
  attempt : Nat
  ordinal : Nat
  carry : List (BitVec 4)
  skip : Nat
  waiting : List Lane
  ulens : List Nat
  table : List Byte
  built : Bool
  stopped : Bool
  after : Nat
deriving DecidableEq, Repr

/-- A queue register (R24, R143, R144). -/
structure QueueReg where
  role : QRole
  tiles : List Tile
  stream : Option Stream
deriving DecidableEq, Repr

/-- A dispatched VE instruction with its captured values (R20, R100). `issued` is the number of MXQs before it in
program order (R216); `roleOk` says that its queue registers had the roles it needs at dispatch (R143, R144). -/
structure VeEntry where
  instr : Instr
  addr : Word
  xs : Word
  xt : Word
  sh : Word
  arow : BitVec 2
  rm : BitVec 3
  stoch : Nat
  issued : Nat
  roleOk : Bool
deriving DecidableEq, Repr

/-- Where a byte lies once its virtual address is resolved (R29, R235). -/
inductive Place where
  | loft (offset : Nat)
  | device (pa : Nat)
  | host (addr : Nat)
  | peer (entry offset : Nat)
deriving DecidableEq, Repr

/-- A store address queue entry (R19, R162, R192): the VST or VSTO with what it captured, the granules it still
reserves, by address and place, and in `left` those it has still to reserve (R268). `num` is its number among the task's vector stores and `issued` counts the MXQs before
it (R215); `begun` is set once its tile has passed its checks (R192) and granules are being written; `stopped` is set
while a fault of this store waits for its TRET (R391). -/
structure StoreEntry where
  instr : Instr
  addr : Word
  base : Word
  stride : Word
  sh : Word
  desc : List Word
  granules : List (Nat × Place)
  left : List (Nat × Place)
  num : Nat
  issued : Nat
  begun : Bool
  stopped : Bool
deriving DecidableEq, Repr

/-- A Thresher command (R203, R206): its record, the record's loft address, the captured DSLACK, its ordinal and its
progress. `descs` holds the A, B, C and ORB descriptors once read; `point` is the linear index of the next nest point, level 0
fastest (R204). -/
structure ThrCmd where
  record : List Word
  addr : Word
  dslack : Nat
  ordinal : Nat
  started : Bool
  stampDone : Bool
  descs : Option (List (List Word))
  point : Nat
deriving DecidableEq, Repr

/-- The latched B tile (R200, R398 section 12), with the loft offsets its 64 rows were read from; none for one read through a
descriptor. -/
structure Latch where
  base : Nat
  fmt : Nat
  scale : Nat
  rows : List Nat
  bytes : List Byte
deriving DecidableEq, Repr

/-- The Thresher's queue, accumulator space, class bits, latch and sequence numbers (R199 to R206). `halted` is set
while a delivered fault waits for its TRET (R218). -/
structure Thresher where
  cmds : List ThrCmd
  acc : Vector Lane 16384
  cls : BitVec 256
  latch : Option Latch
  issued : Nat
  done : Nat
  halted : Bool
deriving DecidableEq, Repr

/-- A copy command (R252 to R261). `sup` is the mode it was issued in (R232), `after` the number of vector stores before its
CPQ (R240), `desc` its descriptor once read, `pos` the next element in nest order, and `w0` the write pointer at its start. -/
structure CopyCmd where
  record : List Word
  addr : Word
  dslack : Nat
  ordinal : Nat
  sup : Bool
  after : Nat
  started : Bool
  stampDone : Bool
  desc : Option (List Word)
  pos : Nat
  w0 : Word
  crc : BitVec 32
deriving DecidableEq, Repr

/-- A copy channel (R252, R257, R258). -/
structure Channel where
  cmds : List CopyCmd
  wp : Word
  issued : Nat
  done : Nat
  halted : Bool
deriving DecidableEq, Repr

/-- A cause waiting at the sequencer (R384): its code and TVAL. -/
structure Raised where
  cause : Cause
  tval : Word
deriving DecidableEq, Repr

/-- The pending asynchronous causes by source (R385). `veAt` is the address VEPC will name. -/
structure Pending where
  hw : Bool
  watchdog : Bool
  ve : Option Raised
  veAt : Word
  thresher : Option Raised
  ch : Vector (Option Raised) 4
  stream : Vector (Option Raised) 8
  coll : List Raised
deriving DecidableEq, Repr

/-- What a trap holds aside until its TRET (R382, R391): the VE instruction queue, the number of the vector store whose fault it
delivered, a queue-precise cause of a held instruction that is still pending, with its VEPC (R385), and the queue register of the
stream whose fault it delivered (R338). -/
structure HeldLevel where
  ves : List VeEntry
  store : Option Nat
  cause : Option (Raised × Word)
  stream : Option (Fin 8)
deriving DecidableEq, Repr

/-- A vector load or a register list part-way through (R195, R221, R268): its accesses still to make, by address and place,
and the bytes read so far. `desc` is the descriptor of a VLDO as read. -/
structure Partial where
  instr : Instr
  desc : List Word
  left : List (Nat × Place)
  got : List (Nat × List Byte)
deriving DecidableEq, Repr

/-- The CSRs held per task, in the order of frame section 1 (R398). -/
structure Csrs where
  status : Word
  fctl : Word
  ls0 : Word
  le0 : Word
  lc0 : Word
  ls1 : Word
  le1 : Word
  lc1 : Word
  sh : Word
  rsh : Word
  arow : Word
  slip : Word
  ssp : Word
  sslim : Word
  dslack : Word
  lcfg : Word
  scratch : Word
  cause : Word
  epc : Word
  tval : Word
  vepc : Word
deriving DecidableEq, Repr

/-- One rival of a FORKW as its parent knows it (R351, R355): its world, whether it ended, and its score if eligible. -/
structure Rival where
  rank : Nat
  world : Nat
  ended : Bool
  score : Option Word
deriving DecidableEq, Repr

/-- A pending choice (R354), with the register that the parent's resumption has still to write. -/
structure Choice where
  rivals : List Rival
  rd : Option XReg
deriving DecidableEq, Repr

/-- A task record with the address it was read from (R302). -/
structure Entry where
  record : List Word
  src : Word
deriving DecidableEq, Repr

/-- What a task is outside its registers (R302, R308, R318, R343, R397, R408). `tid` names it inside the model, `world`
is the number of its world (0 the root), `parent` the tid of the task that forked it, `attempts` its re-executions,
`pair` its LPOOL pair with the address of its first slot, and `unfilled` the loft pages still to be refilled from it (R226,
R227). `birth` is the die cycle at which FRAME reads 0, none before the first instruction, and `savedAt` the die cycle of the
last save (R322). -/
structure Ident where
  tid : Nat
  launch : BitVec 12
  cid : Fin 64
  entry : Entry
  world : Nat
  worldCsr : Word
  forked : Bool
  parent : Nat
  stoch : Nat
  wdog : Nat
  wdogDone : Bool
  birth : Option Int
  savedAt : Nat
  attempts : Nat
  snapshot : Option (List Byte)
  restart : Bool
  exitDone : Bool
  choice : Option Choice
  pair : Option (Nat × Nat)
  unfilled : List Nat
deriving DecidableEq, Repr

/-- The state of one task (R18, R33). `stores` counts its vector stores, `part` holds the access it is in the middle of, and
`loftPages` has bit p set once loft page p was written (R397, PAGES). -/
structure Task where
  pc : Word
  x : Vector Word 32
  csr : Csrs
  v : Vector Tile 16
  q : Vector QueueReg 8
  stooks : Vector Stook 16
  veQ : List VeEntry
  held : List HeldLevel
  storeQ : List StoreEntry
  stores : Nat
  part : Option Partial
  thr : Thresher
  ch : Vector Channel 4
  pend : Pending
  loft : Mem
  loftPages : BitVec 32
  badLoft : List Nat
  id : Ident
deriving DecidableEq, Repr

/-- A TLB entry (R233): context, whether global, page number and size of the page, and the leaf PTE it came from. -/
structure TlbEntry where
  cid : Fin 64
  base : Nat
  size : Nat
  pte : Word
deriving DecidableEq, Repr

/-- A block of the decoded-op cache (R85): context, expansion-set slot, the world whose view it was fetched in (R342), block
address and its 64 bytes, with the size and the G bit of the page it was fetched through (R369). -/
structure OpBlock where
  cid : Fin 64
  slot : Fin 4
  world : Nat
  va : Nat
  size : Nat
  global : Bool
  bytes : List Byte
deriving DecidableEq, Repr

/-- A line of the instruction byte cache beneath it (R85), which has no expansion-set tag. -/
structure ByteLine where
  cid : Fin 64
  world : Nat
  va : Nat
  size : Nat
  global : Bool
  bytes : List Byte
deriving DecidableEq, Repr

/-- A launch ring block (R419). -/
structure Ring where
  base : Word
  cfg : Word
  tail : BitVec 32
  head : BitVec 32
  drops : BitVec 32
deriving DecidableEq, Repr

/-- A context (R32): its CSRs of R367, its expansion-set slot, its launch ring and the LPOOL pairs in use (R227). -/
structure Context where
  ptbase : Word
  tvec : Word
  lpool : Word
  wpool : Word
  wtrap : Word
  xset : Fin 4
  ring : Ring
  pairs : List Nat
deriving DecidableEq, Repr

/-- A Cellar in progress (R413 to R415): its request block and its address, the memory and bad lines at the event, the 4 KiB
granules the drain has sent, those copied into the reserve, in the order of their first writes (R414), and those sent as zeros
because they were lost (R415). `owed` names the 64-byte granules that a vector store had reserved before the event and has still to
write, with its task and its number among that task's stores (R268, R414). -/
structure Cellar where
  block : List Word
  blockAt : Nat
  snapshot : Mem
  lost : List Nat
  sent : List Nat
  copied : List Nat
  gone : List Nat
  owed : List (Nat × Nat × Nat)
deriving DecidableEq, Repr

/-- An attestation request Lantern has not yet answered (R373). -/
structure Attest where
  nonce : List Byte
  report : Word
  status : Word
  cid : Option (Fin 64)
deriving DecidableEq, Repr

/-- A partition (R370) with its CSRs, its pop pointers and counters (R307) and its event ring (R421).
`preempt` holds the tids of the tasks a request names (R395). -/
structure Partition where
  present : Bool
  firstDie : Nat
  dies : Nat
  contexts : List (Fin 64)
  ports : List (Fin 32)
  digest : List Byte
  coltab : Word
  lendId : BitVec 12
  fwgrant : Word
  ptr : Vector Nat 4
  ctr : Vector Nat 4
  evBase : Word
  evCfg : Word
  evTail : Nat
  evHead : Nat
  evLost : Nat
  debug : DebugLevel
  invasiveOnce : Bool
  cellar : Option Cellar
  attest : Option Attest
  preempt : List Nat
deriving DecidableEq, Repr

/-- A part whose corrected errors are counted (R402). -/
inductive EccUnit where
  | die (d : Fin 16)
  | stack (k : Fin 32)
  | port (j : Fin 32)
deriving DecidableEq, Repr

/-- The counts of corrected errors (R402). -/
structure Corrected where
  dies : Vector Nat 16
  hbms : Vector Nat 32
  ports : Vector Nat 32
deriving DecidableEq, Repr

/-- The configuration space of the endpoint (R416): the virtual functions enabled (0: SR-IOV is disabled), the size of
BAR2, ATS, and ECRC generation and checking. No rule gives the enables of ATS and of ECRC generation an effect on an access (log 79). -/
structure Pcie where
  vfs : Nat
  bar2 : Nat
  ats : Bool
  ecrcGen : Bool
  ecrcCheck : Bool
deriving DecidableEq, Repr

/-- What the module holds outside crofts, contexts and partitions. `cycle` counts die cycles since reset, `timeBase`
the ns added to them in TIME (R305, R425); `debugKey` is the
digest of the owner's debug key (R376), `nonces` those Lantern issued and `usedNonces` those a token has used (R377);
`refusals` counts the firmware accesses refused and reported to Lantern (R375). -/
structure Device where
  dseed : Word
  cycle : Nat
  timeBase : Int
  launched : Bool
  ready : Bool
  ptpLocked : Bool
  everLocked : Bool
  dark : Bool
  slots : Vector (Option XSet) 4
  lifecycle : Lifecycle
  keys : Bool
  zeroised : Nat
  meas : Vector (List Byte) 4
  power : PowerState
  cap : Nat
  limiting : Bool
  isolated : List (Fin 16)
  colmax : List (List Nat)
  debugKey : Option (List Byte)
  nonces : List Nat
  usedNonces : List Nat
  refusals : Nat
  pcie : Pcie
  corrected : Corrected
deriving DecidableEq, Repr

/-- An entry saved in a launch (R308): a task to resume, or a logged record to run again (R408). -/
inductive Saved where
  | task (t : Task)
  | again (e : Entry) (attempts : Nat)
deriving DecidableEq, Repr

/-- A parent suspended at FORKW (R346, R354), with the register its resumption writes. -/
structure Parent where
  task : Task
  rd : XReg
  rivals : List Rival
deriving DecidableEq, Repr

/-- A live launch (R298, R299, R306, R308, R318). `queue` holds in arrival order the records waiting (an `again` with no attempt made)
and the saved entries other than YIELD's; `saved` holds those YIELD saved, which go first. -/
structure Launch where
  id : BitVec 12
  cid : Fin 64
  part : Fin 16
  prio : Nat
  det : Bool
  stamped : Bool
  start : Word
  preds : List (BitVec 12)
  seed : Word
  qbase : Word
  capacity : Nat
  hwm : Nat
  budget : Nat
  done : Word
  queue : List Saved
  saved : List Saved
  parked : List Parent
  tasks : Nat
deriving DecidableEq, Repr

/-- A world other than the root (R343, R349): its number, parent, tag, depth, rank, launch, the 4 KiB granules it holds a copy
of, and the bytes and bad lines of those copies. -/
structure World where
  num : Nat
  parent : Nat
  tag : Nat
  depth : Nat
  rank : Nat
  cid : Fin 64
  launch : BitVec 12
  granules : List Nat
  bytes : Mem
  bad : List Nat
deriving DecidableEq, Repr

/-- A group as a member sees it: its extents, this member's place, its timeout in ms and its directory (R278, R279). -/
structure Group where
  n0 : Nat
  n1 : Nat
  n2 : Nat
  site : Nat
  module : Nat
  part : Nat
  tmo : Nat
  dir : List Nat
deriving DecidableEq, Repr

/-- A collective command in its unit (R281, R284, R292): its record, loft address and issuing task and launch, its ordinal,
whether its issuer was in supervisor mode (R232), and the number of vector stores before its CLQ (R240). `group` is the group
it read when it started, none before (R280), and `since` the die cycle of its last progress (R291). -/
structure CollCmd where
  record : List Word
  addr : Word
  tid : Nat
  cid : Fin 64
  launch : BitVec 12
  part : Fin 16
  sup : Bool
  ordinal : Nat
  after : Nat
  group : Option Group
  since : Nat
deriving DecidableEq, Repr

/-- The collective unit: queued commands, the ordinals given per partition, group, peer and direction (R284), and the
broken groups (R290). -/
structure Collective where
  cmds : List CollCmd
  ordinals : List ((Nat × Nat × Nat) × Nat)
  broken : List (Nat × Nat)
deriving DecidableEq, Repr

/-- A frame's contents as its sender lays them (R293): TYPE, SEQ, the member indices, the chunk, the level and the group, and the
payload of whole flits. -/
structure Packet where
  kind : Nat
  seq : Nat
  dst : Nat
  src : Nat
  chunk : Nat
  level : Nat
  group : Nat
  payload : List Byte
deriving DecidableEq, Repr

/-- An Uluwin port (R279, R293 to R296). `peer` is the peer map entry read at bring-up (R280), `replay` the replay store and
`stalled` what waits for room in it (R295), `cursor` where in its area at RBASE the next frame is stored in long-haul mode; `early` holds frames received ahead of a missing one, with their TYPE; `keyAge` is
the die cycle of the last key agreement. -/
structure Port where
  enabled : Bool
  longHaul : Bool
  rsize : Nat
  rbase : Nat
  up : Bool
  down : Bool
  peer : Nat
  sendSeq : Nat
  expect : Nat
  replay : List Packet
  stalled : List Packet
  cursor : Nat
  early : List (Nat × Frame)
  fails : Nat
  keyPhase : Bool
  frames : Nat
  keyAge : Nat
  resets : Nat
deriving DecidableEq, Repr

/-- A frame handed to the wire: what it holds, FLITS, the acknowledged sequence number and the key phase (R293). -/
structure Sent where
  port : Fin 32
  packet : Packet
  flits : Nat
  ack : Nat
  keyPhase : Bool
deriving DecidableEq, Repr

/-- An error the endpoint reports through AER (R416, R417). -/
inductive Aer where
  | unsupported (part : Fin 16) (offset : Nat)
  | aborted (part : Fin 16) (offset : Nat)
  | ecrc
deriving DecidableEq, Repr

/-- What the module has shown the outside (R417, R421, R422, R293): MSI-X messages, AER reports, bytes answered to host
reads, configuration requests answered with Request Retry Status (R426), management answers, frames sent, and data frames
handed to the collective unit. -/
structure Outside where
  msix : List (Fin 16 × Nat)
  aer : List Aer
  reads : List (List Byte)
  retries : Nat
  answers : List Nat
  sent : List Sent
  handed : List (Fin 32 × Frame)
deriving DecidableEq, Repr

/-- Which agent moves (log 3): the model's own field, data that stands for every interleaving and timing the spec leaves
open. `corrected` is a corrected error (R402). `tlbFill` and `opFill` let a translation or a fetch block be retained (R233,
R250), `tlbDrop`, `opDrop` and `lineDrop` let one go, `cycles` lets time pass, and `slew` lets it pass while TIME gains or loses some ns (R305). `drain` sends one
granule of a Cellar (R415), `idle` is the automatic entry to IDLE (R378), `nonce` Lantern's issue of a nonce (R377), `badFrame` a
frame of TYPE 5 to 15 (R293), `firmware` a read or a write by firmware (R375), `bar0Read` a host read of the BAR0 of function 0 (none) or a virtual
function (R418), and
`pcie`, `config` and `badEcrc` are a write of the endpoint's configuration, a configuration request and a request whose ECRC
fails (R416). -/
inductive Turn where
  | sequencer | ve | store | thresher
  | copy (ch : Fin 4)
  | stream (q : Fin 8)
  | lantern (part : Fin 16)
  | event (i : Instr)
  | corrected (u : EccUnit)
  | tlbFill (va : Word)
  | opFill (va : Word)
  | tlbDrop (va : Word)
  | opDrop (va : Word)
  | lineDrop (va : Word)
  | drain (part : Fin 16) (granule : Nat)
  | idle
  | nonce (n : Nat)
  | badFrame (j : Fin 32) (kind : Nat) (f : Frame)
  | firmware (part : Fin 16) (pa n : Nat) (bytes : Option (List Byte))
  | bar0Read (fn : Option (Fin 16)) (offset : Nat)
  | pcie (p : Pcie)
  | config
  | badEcrc
  | cycles (n : Nat)
  | slew (n : Nat) (ns : Int)
deriving DecidableEq, Repr

/-- A write that the module makes itself and that waits (R268, R414): the Gleaner's at a virtual address of a context, one at a device
address, or an event record of a partition. -/
inductive LateWrite where
  | glean (cid : Fin 64) (va : Word) (bytes : List Byte)
  | root (pa : Nat) (bytes : List Byte)
  | event (part : Fin 16) (bytes : List Byte)
deriving DecidableEq, Repr

/-- The machine. `late` holds the module's own writes that wait, in order (R268, R414). `posted` holds the host accesses that wait
at a reserved granule and those behind them, in issue order (R273). -/
structure State where
  task : Task
  running : Bool
  die : Fin 16
  pos : Fin 128
  mem : Mem
  host : Mem
  peer : Mem
  badLines : List Nat
  hostErr : List Nat
  peerErr : List Nat
  dirty : List Nat
  tlb : List TlbEntry
  ops : List OpBlock
  lines : List ByteLine
  ctxs : Vector Context 64
  parts : Vector Partition 16
  dev : Device
  launches : List Launch
  nextTid : Nat
  worlds : List World
  nextWorld : Nat
  coll : Collective
  ports : Vector Port 32
  out : Outside
  late : List LateWrite
  posted : List Instr
  schedule : List Turn
  fresh : Nat
deriving DecidableEq, Repr

/-- Reasons the machine stops. -/
inductive Fault where
  /-- Raised by a page walk that would read a page-table entry outside the 2 TiB of installed device memory, an address
  the spec says does not exist (R10, R370): no effect is given for it. Safe: the hardware may go on, the model stops. -/
  | noSuchMemory (pa : Nat)
deriving DecidableEq, Repr

/-- Reasons an instruction has no meaning here. -/
inductive Refusal where
  /-- Raised only by an arm of Machine/Dispatch.lean for an instruction without a meaning. Safe: nothing is claimed. -/
  | notModelled (mnemonic : String)
deriving DecidableEq, Repr

/-- What a step answers. -/
abbrev Result := Host.Outcome State Fault Refusal

/-- A stook at task start (R18). -/
def Stook.start : Stook := ⟨0, 0, false⟩

/-- The queue registers at task start: q0–q3 LOAD, q4–q5 STORE, q6–q7 LOAD, all empty (R18). -/
def QueueReg.start : Vector QueueReg 8 :=
  let l : QueueReg := ⟨.load, [], none⟩
  let s : QueueReg := ⟨.store, [], none⟩
  #v[l, l, l, l, s, s, l, l]

/-- The CSRs at task start (R28) on a croft whose column maximum field reads `cmax`. -/
def Csrs.start (det : Bool) (cmax : Nat) : Csrs :=
  { status := if det then 0x10 else 0, fctl := 0, ls0 := 0, le0 := 0, lc0 := 0, ls1 := 0, le1 := 0, lc1 := 0
    sh := BitVec.ofNat 64 (cmax * 0x1000000), rsh := 0, arow := 0, slip := 32
    ssp := 0x00F00000001C0000#64, sslim := 0x00F00000001B0000#64, dslack := 64, lcfg := 4
    scratch := 0, cause := 0, epc := 0, tval := 0, vepc := 0 }

/-- The Thresher at task start (R18, R199). -/
def Thresher.start : Thresher :=
  { cmds := [], acc := Vector.replicate 16384 0, cls := 0, latch := none, issued := 0, done := 0, halted := false }

/-- A copy channel at task start (R18). -/
def Channel.start : Channel := { cmds := [], wp := 0, issued := 0, done := 0, halted := false }

/-- No cause pending. -/
def Pending.none : Pending :=
  { hw := false, watchdog := false, ve := Option.none, veAt := 0, thresher := Option.none
    ch := Vector.replicate 4 Option.none, stream := Vector.replicate 8 Option.none, coll := [] }

/-- The identity of no task. -/
def Ident.none : Ident :=
  { tid := 0, launch := 0, cid := 0, entry := ⟨[0, 0, 0, 0], 0⟩, world := 0, worldCsr := 0, forked := false, parent := 0
    stoch := 0, wdog := 0, wdogDone := false, birth := Option.none, savedAt := 0, attempts := 0, snapshot := Option.none, restart := false
    exitDone := false, choice := Option.none, pair := Option.none, unfilled := [] }

/-- A task before its first instruction (R18). -/
def Task.start (pc fp join arg : Word) (det : Bool) (cmax : Nat) (id : Ident) : Task :=
  { pc := pc, x := (((Vector.replicate 32 0).set 2 fp).set 3 join).set 4 arg, csr := Csrs.start det cmax
    v := Vector.replicate 16 Tile.zero, q := QueueReg.start, stooks := Vector.replicate 16 Stook.start
    veQ := [], held := [], storeQ := [], stores := 0, part := none, thr := Thresher.start, ch := Vector.replicate 4 Channel.start
    pend := Pending.none, loft := [], loftPages := 0, badLoft := [], id := id }

/-- A ring block at reset (R419). -/
def Ring.reset : Ring := ⟨0, 0, 0, 0, 0⟩

/-- A context at reset (R227, R229, R344, R381). The expansion-set binding is log 5. -/
def Context.reset : Context :=
  { ptbase := 0, tvec := 0, lpool := 0, wpool := 0, wtrap := 0, xset := 0, ring := Ring.reset, pairs := [] }

/-- A partition that is not configured. -/
def Partition.absent : Partition :=
  { present := false, firstDie := 0, dies := 0, contexts := [], ports := [], digest := [], coltab := 0, lendId := 0
    fwgrant := 0, ptr := Vector.replicate 4 4095, ctr := Vector.replicate 4 0, evBase := 0, evCfg := 0, evTail := 0
    evHead := 0, evLost := 0, debug := .off, invasiveOnce := false, cellar := none, attest := none, preempt := [] }

/-- The one partition of log 1: all 16 dies, all 64 contexts and all 32 ports. -/
def Partition.whole : Partition :=
  { Partition.absent with
    present := true, firstDie := 0, dies := 16, contexts := List.ofFn id, ports := List.ofFn id
    digest := List.replicate 32 0 }

/-- A port that has not been brought up (R279). -/
def Port.reset : Port :=
  { enabled := false, longHaul := false, rsize := 0, rbase := 0, up := false, down := false, peer := 0, sendSeq := 0
    expect := 0, replay := [], stalled := [], cursor := 0, early := [], fails := 0, keyPhase := false, frames := 0, keyAge := 0, resets := 0 }

/-- The production expansion set of slot 0 (R83); its measurement is log 5. -/
def XSet.production : XSet := ⟨List.replicate 32 0, []⟩

/-- The endpoint at reset (R416, R417): SR-IOV disabled; the rest is log 5. -/
def Pcie.reset : Pcie := { vfs := 0, bar2 := 0x20000000000, ats := false, ecrcGen := false, ecrcCheck := false }

/-- The device after bring-up (R425, R426). -/
def Device.reset : Device :=
  { dseed := 0, cycle := 0, timeBase := 0, launched := false, ready := true, ptpLocked := false, everLocked := false, dark := false
    slots := #v[some XSet.production, none, none, none], lifecycle := .production, keys := true, zeroised := 0
    meas := Vector.replicate 4 (List.replicate 32 0), power := .run, cap := 30000, limiting := false, isolated := []
    colmax := List.replicate 16 (List.replicate 128 64), debugKey := none, nonces := [], usedNonces := [], refusals := 0
    pcie := Pcie.reset, corrected := ⟨Vector.replicate 16 0, Vector.replicate 32 0, Vector.replicate 32 0⟩ }

/-- Nothing shown to the outside yet. -/
def Outside.none : Outside := ⟨[], [], [], 0, [], [], []⟩

/-- The machine right after reset: bring-up (R426) is done, no launch is live and the croft is idle. Every register
holds its task-start value (R18, R28) or its reset value; log 1 and log 5 name those the spec does not give. -/
def State.reset : State :=
  { task := Task.start 0 0 0 0 false 64 Ident.none, running := false, die := 0, pos := 0
    mem := [], host := [], peer := [], badLines := [], hostErr := [], peerErr := [], dirty := []
    tlb := [], ops := [], lines := [], ctxs := Vector.replicate 64 Context.reset
    parts := (Vector.replicate 16 Partition.absent).set 0 Partition.whole
    dev := Device.reset, launches := [], nextTid := 1, worlds := [], nextWorld := 1
    coll := ⟨[], [], []⟩, ports := Vector.replicate 32 Port.reset, out := Outside.none, late := [], posted := [], schedule := [], fresh := 0 }

/-- The column maxima of a PW-B7: every croft enabled at 64 (R14). -/
def fusedB7 (t : List (List Nat)) : Bool := t.length == 16 && t.all fun d => d.length == 128 && d.all (· == 64)

/-- The column maxima of a PW-B7-H: 120 enabled crofts on every die, at most 16 of them at 32 columns and every other at 64
(R14). A disabled croft reads 0. -/
def fusedB7H (t : List (List Nat)) : Bool :=
  t.length == 16 && t.all fun d =>
    d.length == 128 && d.all (fun c => c == 0 || c == 32 || c == 64) && d.countP (· != 0) == 120 && d.countP (· == 32) ≤ 16

/-- The machine right after reset with fused column maxima (R14): those of its model, which no step changes. -/
def State.resetFused (t : List (List Nat)) : State :=
  let cmax := (t.headD []).headD 0
  { State.reset with
    dev := { Device.reset with colmax := t }
    task := { State.reset.task with csr := Csrs.start false cmax } }

end Sys2Proof.Machine
end

