-- ==== Sys2Proof/Machine/Memory.lean ====
section
/-! DEFINITION. Memory as data (R7, R222), the views of worlds (R275, R349), uncorrectable lines (R403, R404) and dirty
records (R234): the named operations every access goes through. -/

namespace Sys2Proof.Machine

/-- The byte at an address; an unlisted address reads 0. -/
def Mem.get : Mem → Nat → Byte
  | [], _ => 0
  | (k, v) :: m, a => if a = k then v else Mem.get m a

/-- Write one byte, keeping the canonical form. -/
def Mem.put : Mem → Nat → Byte → Mem
  | [], a, b => if b = 0 then [] else [(a, b)]
  | (k, v) :: m, a, b =>
    if k < a then (k, v) :: Mem.put m a b
    else if k = a then if b = 0 then m else (a, b) :: m
    else if b = 0 then (k, v) :: m else (a, b) :: (k, v) :: m

/-- Read `n` bytes at rising addresses. -/
def Mem.getBytes (m : Mem) (a : Nat) : Nat → List Byte
  | 0 => []
  | n + 1 => m.get a :: Mem.getBytes m (a + 1) n

/-- `n` bytes at rising addresses of a memory that lists none below the first. -/
def Mem.run : Nat → Nat → Mem → List Byte
  | 0, _, _ => []
  | n + 1, a, [] => 0 :: Mem.run n (a + 1) []
  | n + 1, a, (k, v) :: m => if k = a then v :: Mem.run n (a + 1) m else 0 :: Mem.run n (a + 1) ((k, v) :: m)

/-- The cells below an address, and those at or above it. -/
def Mem.cut : Mem → Nat → Mem × Mem
  | [], _ => ([], [])
  | (k, v) :: m, a =>
    if k < a then
      let (lo, hi) := Mem.cut m a
      ((k, v) :: lo, hi)
    else ([], (k, v) :: m)

/-- The cells of the addresses lo ≤ a < hi. -/
def Mem.slice (m : Mem) (lo hi : Nat) : Mem := (Mem.cut (Mem.cut m lo).2 hi).1

/-- The memory with the addresses lo ≤ a < hi holding exactly the cells `r` (whose addresses lie there). -/
def Mem.replace (m : Mem) (lo hi : Nat) (r : Mem) : Mem := (Mem.cut m lo).1 ++ r ++ (Mem.cut m hi).2

/-- The cells that hold bytes laid at rising addresses. -/
def Mem.ofBytes : Nat → List Byte → Mem
  | _, [] => []
  | a, b :: bs => if b = 0 then Mem.ofBytes (a + 1) bs else (a, b) :: Mem.ofBytes (a + 1) bs

/-- Write bytes at rising addresses. -/
def Mem.putBytes (m : Mem) (a : Nat) (bs : List Byte) : Mem := m.replace a (a + bs.length) (Mem.ofBytes a bs)

/-- The cells moved up by `d`. -/
def Mem.shiftUp (m : Mem) (d : Nat) : Mem := m.map fun c => (c.1 + d, c.2)

/-- The cells moved down by `d`. -/
def Mem.shiftDown (m : Mem) (d : Nat) : Mem := m.map fun c => (c.1 - d, c.2)

/-- The next n unknown bytes (log 7). -/
def State.freeBytes (s : State) (n : Nat) : List Byte := (List.range n).map fun k => Config.freeByte (s.fresh + k)

/-- Insert into a rising list of numbers. -/
def insertNat : List Nat → Nat → List Nat
  | [], n => [n]
  | k :: l, n => if k < n then k :: insertNat l n else if k = n then k :: l else n :: k :: l

/-- Memory as an array of cells of one granule is 64 bytes (R221). -/
def granule (a : Nat) : Nat := a / 64 * 64

/-- The world with a number. -/
def State.world? (s : State) (w : Nat) : Option World := s.worlds.find? (·.num == w)

/-- Replace a world's record by number. -/
def State.setWorld (s : State) (w : World) : State :=
  { s with worlds := s.worlds.map fun k => if k.num == w.num then w else k }

/-- The nearest world, going up from `w`, that holds a copy of the 4 KiB granule `g`; none is the root (R275, R349).
`fuel` bounds the nesting, which is at most 4 (R15). -/
def State.holder (s : State) : Nat → Nat → Nat → Option World
  | 0, _, _ => none
  | fuel + 1, w, g =>
    match s.world? w with
    | none => none
    | some k => if k.granules.contains g then some k else State.holder s fuel k.parent g

/-- Whether a world lies under `w` (or is it), climbing at most as many parents as there is fuel (R15). -/
def State.under (s : State) (w : Nat) : Nat → Nat → Bool
  | 0, _ => false
  | fuel + 1, k => k == w || (match s.world? k with
    | some r => State.under s w fuel r.parent
    | none => false)

/-- The memory in which world `w` finds the byte at a device physical address. -/
def State.viewOf (s : State) (w pa : Nat) : Mem :=
  match s.holder 6 w (pa / 4096) with
  | some k => k.bytes
  | none => s.mem

/-- Bytes of a device physical range, all inside one 4 KiB granule, as world `w` sees them (R349). -/
def State.readDevice (s : State) (w pa n : Nat) : List Byte := (s.viewOf w pa).getBytes pa n

/-- Whether the 64-byte line at a device physical address is uncorrectable in the view of world `w` (R349, R403). -/
def State.badDevice (s : State) (w pa : Nat) : Bool :=
  match s.holder 6 w (pa / 4096) with
  | some k => k.bad.contains (granule pa)
  | none => s.badLines.contains (granule pa)

/-- The die whose stacks hold a device physical address (R370). -/
def dieOf (pa : Nat) : Nat := pa / Config.dieBytes

/-- Whether a device physical address lies in a stack of an isolated die (R411). -/
def State.isolatedAt (s : State) (pa : Nat) : Bool := s.dev.isolated.any fun d => d.val == dieOf pa

/-- Whether a byte of n at a device physical address lies in a stack of an isolated die (R411). -/
def State.isolatedIn (s : State) (pa n : Nat) : Bool :=
  s.dev.isolated.any fun d => pa < (d.val + 1) * Config.dieBytes && d.val * Config.dieBytes < pa + n

/-- The lines a write of n bytes at `a` covers whole become good (R404). -/
def healed (bad : List Nat) (a n : Nat) : List Nat :=
  bad.filter fun l => !(a ≤ l && l + 64 ≤ a + n)

/-- The loft's doublewords a write of n bytes at `a` covers whole become good: its code is per 64 bits (R400; log 70). -/
def loftHealed (bad : List Nat) (a n : Nat) : List Nat :=
  bad.filter fun l => !(a ≤ l && l + 8 ≤ a + n)

/-- The dirty records after write ownership of n bytes at `pa` was granted (R234). -/
def dirtied (d : List Nat) (pa n : Nat) : List Nat :=
  (List.range ((pa % 0x10000 + n + 0xFFFF) / 0x10000)).foldl (fun d k => insertNat d (pa / 0x10000 + k)) d

/-! ### The reserve of a Cellar (R414) -/

/-- A granule is still to be copied: neither sent nor in the reserve. -/
def Cellar.pending (c : Cellar) (g : Nat) : Bool := !c.sent.contains g && !c.copied.contains g

/-- The reserve holds as many granules as its size allows. -/
def Cellar.full (c : Cellar) : Bool := bits (dw c.block 1) 31 0 * 512 ≤ c.copied.length

/-- The first byte of a partition's device range, and the first past it (R370). -/
def Partition.range (p : Partition) : Nat × Nat :=
  (p.firstDie * Config.dieBytes, (p.firstDie + p.dies) * Config.dieBytes)

/-- Whether n bytes at a device physical address lie in a partition's range. -/
def Partition.owns (p : Partition) (pa n : Nat) : Bool := p.range.1 ≤ pa && pa + n ≤ p.range.2

/-- The partition whose running Cellar covers a device address. -/
def State.cellarOf (s : State) (pa : Nat) : Option (Fin 16 × Cellar) :=
  (List.ofFn (n := 16) id).findSome? fun i =>
    if s.parts[i].present && s.parts[i].owns pa 1 then s.parts[i].cellar.map fun c => (i, c) else none

/-- A write to a granule that has no room in a full reserve stalls until the granule is drained. -/
def State.reserveFull (s : State) (pa : Nat) : Bool :=
  match s.cellarOf pa with
  | some (_, c) => c.pending (pa / 4096) && c.full
  | none => false

/-- The reserve has room for the copies that writes to some 4 KiB granules of one partition make. -/
def State.granRoom (s : State) (gs : List Nat) : Bool :=
  match gs.head?.bind fun g => s.cellarOf (4096 * g) with
  | some (_, c) => (gs.filter c.pending).length + c.copied.length ≤ bits (dw c.block 1) 31 0 * 512
  | none => true

/-- The 4 KiB granules that n bytes at a device address meet. -/
def granulesAt (pa n : Nat) : List Nat := (List.range ((pa % 4096 + n + 4095) / 4096)).map fun k => pa / 4096 + k

/-- The parts of n bytes at an address that lie in one granule each: address and length. -/
def partsAt (pa n : Nat) : List (Nat × Nat) :=
  (List.range ((pa % 64 + n + 63) / 64)).map fun k =>
    let lo := if k = 0 then pa else granule pa + 64 * k
    (lo, Nat.min (granule lo + 64) (pa + n) - lo)

/-- Where the copy of a granule lies: the k-th lies 4,096 × k bytes into the reserve (log 24). -/
def Cellar.copyAt (c : Cellar) (g : Nat) : Option Nat := (c.copied.idxOf? g).map fun k => (dw c.block 0).toNat + 4096 * k

/-- Copy the memory and the line state of 4 KiB from one device address to another, with ownership (R234, R403). -/
def State.copyRoot (s : State) (src dst : Nat) : State :=
  { s with
    mem := s.mem.replace dst (dst + 4096) (Mem.shiftUp (Mem.shiftDown (s.mem.slice src (src + 4096)) src) dst)
    badLines := (s.badLines.filter fun l => !(dst ≤ l && l < dst + 4096))
      ++ (s.badLines.filter fun l => src ≤ l && l < src + 4096).map fun l => l - src + dst
    dirty := dirtied s.dirty dst 4096 }

/-- The uncorrectable lines of a 4 KiB granule as they stand. -/
def State.badIn (s : State) (g : Nat) : List Nat := s.badLines.filter fun l => l / 4096 == g

/-- A Cellar's record after lines of a granule were found uncorrectable before it was drained. -/
def Cellar.losing (c : Cellar) (ls : List Nat) : Cellar := { c with lost := c.lost ++ ls.filter fun l => !c.lost.contains l }

/-- Before its first write, a granule that a Cellar has not drained is copied into the reserve with its line state; the k-th copy
lies 4,096 × k bytes on (log 24). -/
def State.reserveCopy (s : State) (pa : Nat) : State :=
  match s.cellarOf pa with
  | some (i, c) =>
    if c.pending (pa / 4096) && !c.full then
      let s1 := s.copyRoot (pa / 4096 * 4096) ((dw c.block 0).toNat + 4096 * c.copied.length)
      { s1 with parts := s1.parts.set i { s1.parts[i] with cellar := some { c.losing (s.badIn (pa / 4096)) with
        copied := c.copied ++ [pa / 4096] } } }
    else s
  | none => s

/-- A Cellar is running. -/
def State.cellars (s : State) : Bool := s.parts.toList.any fun p => p.present && p.cellar.isSome

/-- What running Cellars keep of n bytes at `pa` before they are written (R414). -/
def State.keepOld (s : State) (pa n : Nat) : State :=
  if s.cellars then
    (List.range ((pa % 4096 + n + 4095) / 4096)).foldl (fun s k => s.reserveCopy (pa / 4096 * 4096 + 4096 * k)) s
  else s

/-- Put bytes into device memory at the root, with ownership and line state. -/
def State.putRoot (s : State) (pa : Nat) (bs : List Byte) : State :=
  { s with mem := s.mem.putBytes pa bs, badLines := healed s.badLines pa bs.length,
           dirty := dirtied s.dirty pa bs.length }

/-- Write bytes into device memory at the root (R234, R404, R414). -/
def State.writeRoot (s : State) (pa : Nat) (bs : List Byte) : State := (s.keepOld pa bs.length).putRoot pa bs

/-- Granules of the context's pool still free (R344): (SIZE − 1) × 512 less those the context's worlds hold. -/
def State.poolFree (s : State) (cid : Fin 64) : Nat :=
  let p := s.ctxs[cid].wpool
  let size := bits p 15 0
  let cap := if bit p 16 && 2 ≤ size then (size - 1) * 512 else 0
  cap - (s.worlds.foldl (fun n k => if k.cid == cid then n + k.granules.length else n) 0)

/-- Claim a copy of granule `g` for world `w`, filled from the view it has so far (R349); none when the pool is
exhausted (R353). The root claims nothing. -/
def State.claim (s : State) (w : Nat) (g : Nat) : Option State :=
  match s.world? w with
  | none => some s
  | some k =>
    if k.granules.contains g then some s
    else if s.poolFree k.cid = 0 then none
    else
      let lo := g * 4096
      let hi := lo + 4096
      let src := s.holder 5 k.parent g
      let from_ := match src with
        | some p => p.bytes.slice lo hi
        | none => s.mem.slice lo hi
      let bad := (match src with
        | some p => p.bad
        | none => s.badLines).filter fun l => lo ≤ l && l < hi
      some (s.setWorld { k with granules := insertNat k.granules g, bytes := k.bytes.replace lo hi from_,
                                bad := k.bad ++ bad })

/-- Write bytes, all inside one claimed granule, as world `w` does. -/
def State.writeDevice (s : State) (w pa : Nat) (bs : List Byte) : State :=
  match s.world? w with
  | none => s.writeRoot pa bs
  | some k => s.setWorld { k with bytes := k.bytes.putBytes pa bs, bad := healed k.bad pa bs.length }

/-- The key of a peer byte: entry and offset (R235). -/
def peerKey (entry off : Nat) : Nat := entry * 0x20000000000 + off

/-- The pages that n bytes at a loft offset meet (R226). -/
def loftPagesOf (o n : Nat) : List Nat := (List.range ((o % 0x10000 + n + 0xFFFF) / 0x10000)).map fun k => o / 0x10000 + k

/-- Whether a write of n loft bytes meets a row of a latched tile (R200). -/
def Latch.meets (l : Latch) (o n : Nat) : Bool := l.rows.any fun r => r < o + n && o < r + l.bytes.length / 64

/-- The latch after a write of n loft bytes: a tile of which a byte has been written is latched no more (R200). -/
def Thresher.written (t : Thresher) (o n : Nat) : Thresher := { t with latch := t.latch.filter fun l => !l.meets o n }

/-- Write bytes into the loft (R200, R226). -/
def Task.putLoft (t : Task) (o : Nat) (bs : List Byte) : Task :=
  { t with thr := t.thr.written o bs.length, loft := t.loft.putBytes o bs, badLoft := loftHealed t.badLoft o bs.length,
           loftPages := (loftPagesOf o bs.length).foldl (fun m p => m ||| BitVec.ofNat 32 (2 ^ p)) t.loftPages }

/-- Read n bytes at a resolved place for the running task. -/
def State.readPlace (s : State) (w : Nat) (p : Place) (n : Nat) : List Byte :=
  match p with
  | .loft o => s.task.loft.getBytes o n
  | .device pa => s.readDevice w pa n
  | .host a => s.host.getBytes a n
  | .peer e o => s.peer.getBytes (peerKey e o) n

/-- Write bytes at a resolved place for the running task; a device granule has been claimed first. -/
def State.writePlace (s : State) (w : Nat) (p : Place) (bs : List Byte) : State :=
  match p with
  | .loft o => { s with task := s.task.putLoft o bs }
  | .device pa => s.writeDevice w pa bs
  | .host a => { s with host := s.host.putBytes a bs }
  | .peer e o => { s with peer := s.peer.putBytes (peerKey e o) bs }

/-- The 64-byte granule of a place. -/
def Place.granule : Place → Place
  | .loft o => .loft (Machine.granule o)
  | .device pa => .device (Machine.granule pa)
  | .host a => .host (Machine.granule a)
  | .peer e o => .peer e (Machine.granule o)

/-- The offset of a place in its granule. -/
def Place.offset : Place → Nat
  | .loft o => o % 64
  | .device pa => pa % 64
  | .host a => a % 64
  | .peer _ o => o % 64

/-- The place k bytes on. -/
def Place.add (p : Place) (k : Nat) : Place :=
  match p with
  | .loft o => .loft (o + k)
  | .device pa => .device (pa + k)
  | .host a => .host (a + k)
  | .peer e o => .peer e (o + k)

/-- Whether a place is in the loft. -/
def Place.isLoft : Place → Bool
  | .loft _ => true
  | _ => false

/-- Whether a place is behind a type-2 page. -/
def Place.isWindow : Place → Bool
  | .host _ => true
  | .peer _ _ => true
  | _ => false

end Sys2Proof.Machine
end

