-- ==== Sys2Proof/Machine/Orbit.lean ====
section
/-! DEFINITION. Orbit descriptors: layout (R183), validity (R184), clauses (R185), resolution (R186), negation by sign
(R190), the place of an element, and the inferred symmetry (R197, R198). -/

namespace Sys2Proof.Machine

/-- A clause of a descriptor (R183). -/
structure Clause where
  kind : Nat
  a : Nat
  b : Nat
  c : Nat
deriving DecidableEq, Repr

/-- An orbit descriptor's fields (R183), extents and strides by axis or coordinate. -/
structure Desc where
  fmt : Nat
  policy : Nat
  rank : Nat
  c1 : Clause
  c2 : Clause
  e : List Nat
  st : List Nat
  base : Word
deriving DecidableEq, Repr

/-- Four 16-bit fields of a doubleword, lowest first. -/
def quarters (w : Word) : List Nat := [bits w 15 0, bits w 31 16, bits w 47 32, bits w 63 48]

/-- The descriptor in four doublewords (R183). -/
def Desc.ofDwords (ws : List Word) : Desc :=
  let d := dw ws 0
  { fmt := bits d 43 40, policy := bits d 36 35, rank := bits d 34 32
    c1 := ⟨bits d 3 0, bits d 7 4, bits d 11 8, bits d 15 12⟩
    c2 := ⟨bits d 19 16, bits d 23 20, bits d 27 24, bits d 31 28⟩
    e := quarters (dw ws 1), st := quarters (dw ws 2), base := dw ws 3 }

/-- How many axes a clause kind names (R185). -/
def clauseAxes (kind : Nat) : Nat :=
  if kind = 0 then 0 else if kind = 3 then 3 else if kind = 6 || kind = 7 then 1 else 2

/-- The axes a clause uses. -/
def Clause.axes (k : Clause) : List Nat := [k.a, k.b, k.c].take (clauseAxes k.kind)

/-- The extent of an axis. -/
def Desc.ext (D : Desc) (k : Nat) : Nat := D.e.getD k 0

/-- Strictly ascending. -/
def ascends : List Nat → Bool
  | a :: b :: l => a < b && ascends (b :: l)
  | _ => true

/-- The conditions of R184 on one clause. -/
def Desc.clauseOk (D : Desc) (k : Clause) : Bool :=
  let n := clauseAxes k.kind
  k.kind ≤ 7 && k.axes.all (· < D.rank) && ascends k.axes && ([k.a, k.b, k.c].drop n).all (· == 0)
    && (!(k.kind = 1 || k.kind = 2 || k.kind = 3 || k.kind = 4) || k.axes.all fun x => D.ext x == D.ext k.a)
    && (!(k.kind = 2 || k.kind = 7) || match Fmt.ofCode D.fmt with
        | some f => !(f.isInt && !f.isSigned)
        | none => false)

/-- The number of storage coordinates (R186). -/
def Desc.coords (D : Desc) : Nat :=
  let n (k : Clause) := if k.kind = 0 then 0 else 1
  D.rank - (D.c1.axes.length + D.c2.axes.length) + n D.c1 + n D.c2

/-- A valid descriptor (R184), from its four doublewords. -/
def Desc.valid (ws : List Word) : Bool :=
  let D := Desc.ofDwords ws
  let d := dw ws 0
  bits d 63 44 = 0 && bits d 39 37 = 0 && D.policy ≤ 1 && 1 ≤ D.rank && D.rank ≤ 4 && D.fmt ≤ 12
    && (D.c1.kind != 0 || D.c2.kind == 0) && D.clauseOk D.c1 && D.clauseOk D.c2
    && D.c1.axes.all (fun x => !D.c2.axes.contains x)
    && (List.range 4).all (fun k => if k < D.rank then 1 ≤ D.ext k else D.ext k == 0)
    && (List.range 4).all (fun k => k < D.coords || D.st.getD k 0 == 0)

/-- The packed index word of a tuple (R186). An index above 65,535 is taken modulo 2^16: the fields hold 16 bits and the spec is silent on
larger ones, so this is the model's choice (log 67). -/
def packIndex (i : List Nat) : Word :=
  wd (i.getD 0 0 % 0x10000 + i.getD 1 0 % 0x10000 * 0x10000 + i.getD 2 0 % 0x10000 * 2 ^ 32 + i.getD 3 0 % 0x10000 * 2 ^ 48)

/-- Whether a tuple lies outside the extents (R186). -/
def Desc.outside (D : Desc) (i : List Nat) : Bool := (List.range D.rank).any fun k => D.ext k ≤ i.getD k 0

/-- Three indices in falling order. -/
def sort3 (i j k : Nat) : Nat × Nat × Nat :=
  let hi := Nat.max i (Nat.max j k)
  let lo := Nat.min i (Nat.min j k)
  (hi, i + j + k - hi - lo, lo)

/-- The clause table of R185: packed coordinate, sign, multiplicity. -/
def Desc.clauseAt (D : Desc) (k : Clause) (idx : List Nat) : Nat × Int × Nat :=
  let i := idx.getD k.a 0
  let j := idx.getD k.b 0
  let n := D.ext k.a
  let m := D.ext k.b
  let p := Nat.max i j
  let q := Nat.min i j
  match k.kind with
  | 1 => (p * (p + 1) / 2 + q, 1, if i = j then 1 else 2)
  | 2 => (p * (p - 1) / 2 + q, if j < i then 1 else if i < j then -1 else 0, if i = j then 1 else 2)
  | 3 =>
    let l := idx.getD k.c 0
    let (x, y, z) := sort3 i j l
    (x * (x + 1) * (x + 2) / 6 + y * (y + 1) / 2 + z, 1,
      if i = j && j = l then 1 else if i = j || j = l || i = l then 3 else 6)
  | 4 => ((j + n - i % n) % n, 1, n)
  | 5 =>
    let L := i * m + j
    (Nat.min L (n * m - 1 - L), 1, if L = n * m - 1 - L then 1 else 2)
  | 6 => (Nat.min i (n - 1 - i), 1, if i = n - 1 - i then 1 else 2)
  | 7 => (Nat.min i (n - 1 - i), if i < n - 1 - i then 1 else if n - 1 - i < i then -1 else 0,
      if i = n - 1 - i then 1 else 2)
  | _ => (0, 1, 1)

/-- The storage coordinates of a tuple: one per axis in no clause at its position, one per clause at its lowest axis, in
rising position (R186). -/
def Desc.coordsAt (D : Desc) (i : List Nat) : List Nat :=
  (List.range D.rank).filterMap fun k =>
    if D.c1.kind != 0 && D.c1.a = k then some (D.clauseAt D.c1 i).1
    else if D.c2.kind != 0 && D.c2.a = k then some (D.clauseAt D.c2 i).1
    else if D.c1.axes.contains k || D.c2.axes.contains k then none
    else some (i.getD k 0)

/-- The exact sum of products of two lists. -/
def dotNat : List Nat → List Nat → Nat
  | a :: as, b :: bs => a * b + dotNat as bs
  | _, _ => 0

/-- Offset, sign and multiplicity of a tuple inside the extents (R186). -/
def Desc.resolve (D : Desc) (i : List Nat) : Nat × Int × Nat :=
  let (_, s1, m1) := D.clauseAt D.c1 i
  let (_, s2, m2) := D.clauseAt D.c2 i
  (dotNat (D.coordsAt i) D.st, s1 * s2, m1 * m2)

/-- The storage count of a clause (R185). -/
def Desc.clauseCount (D : Desc) (k : Clause) : Nat :=
  let n := D.ext k.a
  match k.kind with
  | 1 => n * (n + 1) / 2
  | 2 => n * (n - 1) / 2
  | 3 => n * (n + 1) * (n + 2) / 6
  | 4 => n
  | 5 => (n * D.ext k.b + 1) / 2
  | 6 => (n + 1) / 2
  | 7 => n / 2
  | _ => 1

/-- One past the highest offset the descriptor maps a tuple to. -/
def Desc.span (D : Desc) : Nat :=
  let counts := (List.range D.rank).filterMap fun k =>
    if D.c1.kind != 0 && D.c1.a = k then some (D.clauseCount D.c1)
    else if D.c2.kind != 0 && D.c2.a = k then some (D.clauseCount D.c2)
    else if D.c1.axes.contains k || D.c2.axes.contains k then none
    else some (D.ext k)
  dotNat (counts.map (· - 1)) D.st + 1

/-- The address of the element at an offset, and its nibble in a 4-bit format: 0 the low one (R186). -/
def Desc.elemAt (D : Desc) (f : Fmt) (off : Nat) : Word × Nat :=
  if f.width = 4 then (D.base + wd (off / 2), off % 2) else (D.base + wd (off * f.bytes), 0)

/-- Apply a sign to an element's bits in its memory format (R190). -/
def applySign (f : Fmt) (sign : Int) (b : Nat) : Nat := if sign = 0 then 0 else if sign < 0 then negateBits f b else b

/-- The inferred symmetry of C = A·B (R197): 0 NONE, 1 SYM2, 4 CIRC. `same` says the operands are the same operand. -/
def inferred (dist tb same : Bool) (a b : Option Desc) : Nat :=
  let onAxes01 (k : Nat) (D : Desc) := D.c1.kind = k && D.c1.a = 0 && D.c1.b = 1 && D.c2.kind = 0
  let is (k : Nat) : Option Desc → Bool
    | some D => onAxes01 k D
    | none => false
  if dist then if same && tb then 1 else 0
  else if same && tb && !(a.any fun D => (D.c1.kind = 1 || D.c1.kind = 4) && !(D.c1.a = 0 && D.c1.b = 1)) then 1
  else if same && (is 1 a || is 2 a) then 1
  else if !tb && is 4 a && is 4 b && (a.map (·.ext 0)) == (b.map (·.ext 0)) then 4
  else 0

/-- A destination descriptor is consistent with an inference (R198). -/
def Desc.consistent (D : Desc) (kind : Nat) : Bool :=
  D.c1.kind = 0 || (kind != 0 && D.c1.kind = kind && D.c1.a = 0 && D.c1.b = 1 && D.c2.kind = 0)

end Sys2Proof.Machine
end

