-- ==== Sys2Proof/Machine/Elements.lean ====
section
/-! DEFINITION. The captured shape of a vector instruction (R135, R139, R141) and the elements in memory that a vector load or store
names (R162, R164, R189, R191). -/

namespace Sys2Proof.Machine

/-! ### Shapes -/

/-- ROWS of a shape word (R135). -/
def shRows (sh : Word) : Nat := min 16 (bits sh 7 0)
/-- COLS of a shape word. -/
def shCols (sh : Word) : Nat := min 64 (bits sh 15 8)
/-- FMT of a shape word; a shape never holds a reserved code (R136). -/
def shFmt (sh : Word) : Fmt := (Fmt.ofCode (bits sh 19 16)).getD .fp32

/-- Element k, by linear index, is active under a shape (R141). -/
def activeIn (sh : Word) (k : Nat) : Bool := k / 64 < shRows sh && k % 64 < shCols sh

/-- The linear indices of the active elements in row-major order (R141). -/
def activeList (sh : Word) : List Nat :=
  (List.range (shRows sh)).flatMap fun r => (List.range (shCols sh)).map fun c => r * 64 + c

/-! ### Dense elements -/

/-- An element in memory: its linear index in the tile, its byte address, and in a 4-bit format its nibble. -/
structure MemElem where
  k : Nat
  addr : Word
  nib : Nat
deriving DecidableEq, Repr

/-- The elements of rows of a shape at a base and a stride (R162, R164). -/
def denseElems (sh base stride : Word) (rows : Nat) (m : Fmt) : List MemElem :=
  (List.range rows).flatMap fun r =>
    (List.range (shCols sh)).map fun c =>
      let row := base + wd r * stride
      if m.width = 4 then { k := r * 64 + c, addr := row + wd (c / 2), nib := c % 2 }
      else { k := r * 64 + c, addr := row + wd (c * m.bytes), nib := 0 }

/-- The distinct granules of some elements of `w` bytes, rising: those of every byte of each (R165). -/
def granulesOf (w : Nat) (es : List MemElem) : List Nat :=
  es.foldl (fun l e => insertNat (insertNat l (granule e.addr.toNat)) (granule (e.addr + wd (w - 1)).toNat)) []

/-! ### Orbit elements -/

/-- An active element with its tuple resolved (R186, R189). -/
structure OrbElem where
  k : Nat
  off : Nat
  sign : Int
deriving DecidableEq, Repr

/-- The tuple of the element at a linear index, from the origin (R189). -/
def originTuple (origin : Word) (k : Nat) : List Nat :=
  [bits origin 15 0 + k / 64, bits origin 31 16 + k % 64, bits origin 47 32, bits origin 63 48]

/-- The resolved elements of a shape. -/
def orbElems (D : Desc) (sh origin : Word) : List OrbElem :=
  (activeList sh).map fun k =>
    let r := D.resolve (originTuple origin k)
    { k := k, off := r.1, sign := r.2.1 }

/-- The distinct offsets of the elements whose sign is not 0, as elements in memory, rising (R191). -/
def representatives (D : Desc) (m : Fmt) (os : List OrbElem) : List MemElem :=
  let offs := os.foldl (fun l o => if o.sign = 0 then l else insertNat l o.off) []
  offs.map fun off => { k := off, addr := (D.elemAt m off).1, nib := (D.elemAt m off).2 }

/-- The packed index word of the element at a linear index. -/
def originIndex (origin : Word) (k : Nat) : Word := packIndex (originTuple origin k)

/-! ### Store entries -/

/-- The memory format of an entry. -/
def StoreEntry.fmt (e : StoreEntry) : Fmt :=
  match e.instr with
  | .vst _ _ _ m => m
  | .vsto _ _ _ m => m
  | _ => .fp32

/-- The elements an entry writes: those of a VST, or the representatives of a VSTO (R162, R192). -/
def StoreEntry.elems (e : StoreEntry) : List MemElem :=
  match e.instr with
  | .vst _ _ _ m => denseElems e.sh e.base e.stride (shRows e.sh) m
  | .vsto _ _ _ m => representatives (Desc.ofDwords e.desc) m (orbElems (Desc.ofDwords e.desc) e.sh e.stride)
  | _ => []

/-- Whether an entry writes one of n bytes from an offset on in its granule at a virtual address. -/
def StoreEntry.meets (e : StoreEntry) (g off n : Nat) : Bool :=
  e.elems.any fun x => granule x.addr.toNat == g && x.addr.toNat % 64 < off + n && off < x.addr.toNat % 64 + e.fmt.bytes

end Sys2Proof.Machine
end

