-- ==== Sys2Proof/Machine/VeNames.lean ====
section
/-! DEFINITION. Which operands and queue registers a VE or vector memory instruction names (R27, R66, R143 to R146), and
which causes re-execute a task (R407). -/

namespace Sys2Proof

/-- The vector sources of a VE instruction (R27, R66). -/
def Instr.vsrcs : Instr → List VSrc
  | .vadd _ a b => [a, b] | .vsub _ a b => [a, b] | .vmul _ a b => [a, b] | .vdiv _ a b => [a, b]
  | .vmin _ a b => [a, b] | .vmax _ a b => [a, b] | .vabs _ a => [a] | .vneg _ a => [a]
  | .vaddsat _ a b => [a, b] | .vsubsat _ a b => [a, b]
  | .vfma _ a b c => [a, b, c] | .vfms _ a b c => [a, b, c] | .vfnma _ a b c => [a, b, c]
  | .vand _ a b => [a, b] | .vor _ a b => [a, b] | .vxor _ a b => [a, b] | .vnot _ a => [a]
  | .vshl _ a b => [a, b] | .vshr _ a b => [a, b] | .vsra _ a b => [a, b]
  | .vcmp _ a b _ => [a, b] | .vsel _ a b c => [a, b, c] | .vcvt _ a _ => [a]
  | .vexp2 _ a => [a] | .vlog2 _ a => [a] | .vrcp _ a => [a] | .vrsq _ a => [a] | .vsqrt _ a => [a]
  | .vtanh _ a => [a] | .vsigm _ a => [a]
  | .vrotc _ a _ => [a] | .vrotr _ a _ => [a] | .vbcc _ a _ => [a] | .vbcr _ a _ => [a]
  | .vredcAdd _ a => [a] | .vredcMax _ a => [a] | .vredcMin _ a => [a]
  | .vredrAdd _ a => [a] | .vredrMax _ a => [a] | .vredrMin _ a => [a] | .vtrn _ a => [a]
  | .vdot4 _ a b c _ _ _ => [a, b, c] | .vcmp48 _ a _ _ _ _ => [a] | .vsmv _ a b c _ _ _ => [a, b, c]
  | .vext _ a _ => [a] | .vqnt _ a _ _ => [a] | .vdq _ a _ _ => [a]
  | .vaddx _ a _ => [a] | .vsubx _ a _ => [a] | .vmulx _ a _ => [a] | .vmaxx _ a _ => [a] | .vminx _ a _ => [a]
  | .vshlx _ a _ => [a] | .vshrx _ a _ => [a] | .vsrax _ a _ => [a]
  | .vpeek _ a => [.q a]
  | _ => []

/-- The vector destination of a VE instruction. -/
def Instr.vdst : Instr → Option VDst
  | .vadd d _ _ => some d | .vsub d _ _ => some d | .vmul d _ _ => some d | .vdiv d _ _ => some d | .vmin d _ _ => some d | .vmax d _ _ => some d
  | .vabs d _ => some d | .vneg d _ => some d | .vaddsat d _ _ => some d | .vsubsat d _ _ => some d
  | .vfma d _ _ _ => some d | .vfms d _ _ _ => some d | .vfnma d _ _ _ => some d
  | .vand d _ _ => some d | .vor d _ _ => some d | .vxor d _ _ => some d | .vnot d _ => some d
  | .vshl d _ _ => some d | .vshr d _ _ => some d | .vsra d _ _ => some d | .vcmp d _ _ _ => some d | .vsel d _ _ _ => some d | .vcvt d _ _ => some d
  | .vexp2 d _ => some d | .vlog2 d _ => some d | .vrcp d _ => some d | .vrsq d _ => some d | .vsqrt d _ => some d | .vtanh d _ => some d
  | .vsigm d _ => some d | .vrotc d _ _ => some d | .vrotr d _ _ => some d | .vbcc d _ _ => some d | .vbcr d _ _ => some d
  | .vredcAdd d _ => some d | .vredcMax d _ => some d | .vredcMin d _ => some d
  | .vredrAdd d _ => some d | .vredrMax d _ => some d | .vredrMin d _ => some d | .vtrn d _ => some d | .viota d _ _ => some d
  | .vdot4 d _ _ _ _ _ _ => some d | .vcmp48 d _ _ _ _ _ => some d | .vsmv d _ _ _ _ _ _ => some d
  | .vsplat d _ _ => some d | .vins d _ _ _ => some d | .vqnt d _ _ _ => some d | .vdq d _ _ _ => some d
  | .vaddx d _ _ => some d | .vsubx d _ _ => some d | .vmulx d _ _ => some d | .vmaxx d _ _ => some d | .vminx d _ _ => some d
  | .vshlx d _ _ => some d | .vshrx d _ _ => some d | .vsrax d _ _ => some d | .vpeek d _ => some d
  | .vrngb d _ _ _ => some d | .vrngu d _ _ _ => some d
  | _ => none

/-- The queue registers a VE instruction pops or peeks, each once (R145). -/
def Instr.popped (i : Instr) : List (Fin 8) :=
  (i.vsrcs.filterMap fun | .q n => some n | _ => none).eraseDups

/-- The queue register a VE instruction pushes (R144). -/
def Instr.pushed (i : Instr) : Option (Fin 8) :=
  match i.vdst with
  | some (.q n) => some n
  | _ => none

/-- Whether a VE instruction names a queue register. -/
def Instr.namesQ (i : Instr) (q : Fin 8) : Bool := i.popped.contains q || i.pushed == some q

/-- The accumulator tiles a VE instruction reads (R216). -/
def Instr.readsAcc (i : Instr) : List Nat := i.vsrcs.filterMap fun | .a n => some n.val | _ => none

/-- The queue register of a vector store or load. -/
def Instr.memQ : Instr → Option (Fin 8)
  | .vld q _ _ _ => some q | .vst q _ _ _ => some q | .vldo q _ _ _ => some q | .vsto q _ _ _ => some q | .vldb q _ _ => some q
  | _ => none

/-- The causes that re-execute a task (R407). -/
def Cause.hardware (c : Cause) : Bool := c == .uncorrectable || c == .datapathCheck || c == .watchdog

end Sys2Proof
end

