-- ==== Sys2Proof/Machine/Reserve.lean ====
section
/-! DEFINITION. The reservations of vector stores (R268): which accesses wait for a granule that a VST or VSTO has still to write, and
whether its tile will come (R269). -/

namespace Sys2Proof.Machine

/-! ### Tiles to come -/

/-- VE instructions dispatched and not completed, those held aside included (R391). -/
def Task.dispatched (t : Task) : List VeEntry := t.held.flatMap (·.ves) ++ t.veQ

/-- How many of some VE instructions push a queue register. -/
def pushersIn (es : List VeEntry) (q : Fin 8) : Nat := (es.filter fun e => e.instr.pushed == some q).length

/-- How many dispatched VE instructions will push a queue register. -/
def Task.pushers (t : Task) (q : Fin 8) : Nat := pushersIn t.dispatched q

/-- The position of the n-th store entry among those of its queue register, from 1. -/
def Task.storeRank (t : Task) (n : Nat) (q : Fin 8) : Nat :=
  ((t.storeQ.take (n + 1)).filter fun e => e.instr.memQ == some q).length

/-- Whether the tile of the n-th store entry has arrived, or a dispatched VE instruction will push it (R269). -/
def Task.tileComing (t : Task) (n : Nat) (q : Fin 8) : Bool := t.storeRank n q ≤ t.q[q].tiles.length + t.pushers q

/-- The n-th store entry is stopped by a fault, or stands behind one of its queue register that is (R19, R391). -/
def Task.storeBehind (t : Task) (n : Nat) (q : Fin 8) : Bool :=
  (t.storeQ.take (n + 1)).any fun e => e.stopped && e.instr.memQ == some q

/-- Whether the n-th store entry will never get its tile: it has not come and no dispatched instruction pushes it (R269). An instruction
that is dispatched counts as one that will push the tile even while it is itself held by an empty queue register, or held aside by a
trap: the model's choice (log 69). -/
def Task.storeDead (t : Task) (n : Nat) : Bool :=
  match t.storeQ[n]?.bind fun e => e.instr.memQ with
  | some q => !t.tileComing n q
  | none => false

/-- A stream has pushed its last tile (R331, R339). -/
def Stream.finished (d : Stream) : Bool := d.built && d.waiting.isEmpty

/-- A queue register that only a later load can fill: empty, with no unfinished stream (R392). -/
def QueueReg.dry (k : QueueReg) : Bool := k.tiles.isEmpty && match k.stream with
  | some d => d.finished
  | none => true

/-! ### Reserved granules -/

/-- Whether an entry still reserves what an access of n bytes at a place must wait for (R268): a read the same bytes, a write
the granule; in the loft both the same bytes (R215). -/
def StoreEntry.holds (e : StoreEntry) (p : Place) (n : Nat) (write : Bool) : Bool :=
  e.granules.any fun g => g.2 == p.granule && ((write && !p.isLoft) || e.meets g.1 p.offset n)

/-- The first store entry that an access must wait for. -/
def Task.blocker (t : Task) (p : Place) (n : Nat) (write : Bool) : Option Nat := t.storeQ.findIdx? fun e => e.holds p n write

/-- The tasks that launches keep: saved entries and suspended parents (R308, R348). -/
def State.keptTasks (s : State) : List Task :=
  s.launches.flatMap fun L => ((L.saved ++ L.queue).filterMap fun e => match e with
    | .task t => some t
    | .again _ _ => none) ++ L.parked.map (·.task)

/-- Whether two worlds find a device granule in the same copy (R349). -/
def State.sameCopy (s : State) (w1 w2 pa : Nat) : Bool :=
  ((s.holder 6 w1 (pa / 4096)).map (·.num)) == ((s.holder 6 w2 (pa / 4096)).map (·.num))

/-- Whether a vector store of a task, one of its first `upTo`, holds back an access of world `w` to device memory (R268). -/
def State.heldBy (s : State) (t : Task) (upTo : Nat) (w pa n : Nat) (write : Bool) : Bool :=
  t.storeQ.any (fun e => e.num < upTo && e.holds (.device pa) n write) && s.sameCopy t.id.world w pa

/-- Whether a kept task holds back an access: its reservations stay in force (R268). -/
def State.heldByKept (s : State) (w pa n : Nat) (write : Bool) : Bool :=
  s.keptTasks.any fun t => s.heldBy t t.stores w pa n write

/-- Whether any task of the module holds back an access to device memory (R268). -/
def State.reserved (s : State) (w pa n : Nat) (write : Bool) : Bool :=
  (s.running && s.heldBy s.task s.task.stores w pa n write) || s.heldByKept w pa n write

/-- Whether some vector store still reserves a part of a 4 KiB granule as world `w` sees it (R268). -/
def State.reservedPage (s : State) (w g : Nat) : Bool :=
  (s.keptTasks ++ if s.running then [s.task] else []).any fun t =>
    s.sameCopy t.id.world w (4096 * g) && t.storeQ.any fun e => e.granules.any fun x => match x.2 with
      | .device pa => pa / 4096 == g
      | _ => false

/-! ### What a handler's waits count (R391) -/

/-- Whether the n-th store entry counts for a wait of R391: in a handler only those whose tile has arrived or will be pushed by an
instruction dispatched since the last trap entry, and which no stopped store is in front of. -/
def Task.storeCounts (t : Task) (n : Nat) (e : StoreEntry) : Bool :=
  t.held.isEmpty || match e.instr.memQ with
    | some q => !t.storeBehind n q && t.storeRank n q ≤ t.q[q].tiles.length + pushersIn t.veQ q
    | none => true

/-- An entry stores to a type-2 page. -/
def StoreEntry.isWindow (e : StoreEntry) : Bool := (e.granules ++ e.left).any (·.2.isWindow)

/-- Whether the first n entries hold a store to a type-2 page that later accesses wait for (R236). -/
def Task.windowBefore (t : Task) (n : Nat) : Bool :=
  ((t.storeQ.zip (List.range t.storeQ.length)).take n).any fun (e, k) => e.isWindow && t.storeCounts k e

/-- What stands in an access's way, by its place in program order. -/
inductive Busy where
  | free | wait | dead
deriving DecidableEq, Repr

/-- Whether a later access of the task waits for a vector store to a type-2 page, as none is performed before it (R236); or never ends,
as its tile will never come (log 57). In a handler the stores that only TRET sets going do not count. -/
def Task.windowBusy (t : Task) : Busy :=
  let open_ := (t.storeQ.zip (List.range t.storeQ.length)).filter fun (e, k) => e.isWindow && t.storeCounts k e
  if open_.isEmpty then .free else if open_.any fun (_, k) => t.storeDead k then .dead else .wait

end Sys2Proof.Machine
end

