-- ==== Sys2Proof/Machine/Translate.lean ====
section
/-! DEFINITION. Addresses: loft space and the address checks (R29, R30, R117), the page walk (R229 to R233), the host and
peer windows (R235, R236), loft backing (R226, R227), and the fetch of an instruction word (R61, R79, R85). -/

namespace Sys2Proof.Machine

/-- What an access is for (R117, R232, R243). -/
inductive Acc where
  | fetch | load | store | amo
deriving DecidableEq, Repr

/-- On whose behalf an access is made: context, partition, world (R228), whether the T test applies (R232), whether
an engine makes it, and how many of the running task's vector stores come before it in program order (R240, R268); none for the
Gleaner, whose accesses are outside that order. -/
structure Who where
  cid : Fin 64
  part : Fin 16
  world : Nat
  needT : Bool
  engine : Bool
  after : Option Nat
deriving DecidableEq, Repr

/-- The uncorrectable line a check met, for its event (R405). -/
inductive Line where
  | device (pa : Nat)
  | loft
deriving DecidableEq, Repr

/-- A failed check: the cause, its TVAL, and the uncorrectable line if one was consumed. -/
structure Raise where
  cause : Cause
  tval : Word
  line : Option Line
deriving DecidableEq, Repr

/-- A checked value: it holds, a check failed, a vector store must first write what the check reads (R268), or the machine
stops. -/
inductive Chk (α : Type) where
  | ok (a : α)
  | bad (r : Raise)
  | wait
  | stop (f : Fault)
deriving Repr

/-- A failed check that consumed no line. -/
def Chk.fail {α : Type} (c : Cause) (tval : Word) : Chk α := .bad ⟨c, tval, none⟩

/-- Continue after a check. -/
def Chk.bind {α β : Type} (x : Chk α) (f : α → Chk β) : Chk β :=
  match x with
  | .ok a => f a
  | .bad r => .bad r
  | .wait => .wait
  | .stop g => .stop g

/-- Go on only if a condition holds. -/
def Chk.need (b : Bool) (c : Cause) (tval : Word) : Chk Unit := if b then .ok () else .fail c tval

/-- The running task's partition: the one that holds its context (R32). -/
def State.partOfCtx (s : State) (cid : Fin 64) : Fin 16 :=
  ((List.ofFn (n := 16) id).find? fun p => s.parts[p].present && s.parts[p].contexts.contains cid).getD 0

/-- The virtual address of a loft offset (R29). -/
def loftVa (o : Nat) : Word := wd (0x00F0000000000000 + o)

/-- The first loft offset past the scratchpad (R30, R223). -/
def Task.loftLimit (t : Task) : Nat := (32 - bits t.csr.lcfg 4 0) * 0x10000

/-- The kinds of address (R29). -/
inductive AddrKind where
  | loft (off : Nat)
  | global
  | out
deriving DecidableEq, Repr

/-- Classify one byte address (R29, R30). -/
def Task.addrKind (t : Task) (a : Word) : AddrKind :=
  if bits a 63 56 ≠ 0 then .out
  else if bits a 55 52 = 0xF then
    if bits a 51 21 = 0 && bits a 20 0 < t.loftLimit then .loft (bits a 20 0) else .out
  else .global

/-- What a walk ends in (R232): a leaf with the level it stands at, no valid translation, an uncorrectable PTE or one in
an isolated die (R403, R411), a PTE that an earlier vector store has still to write (R233, R268), or a PTE outside the
installed memory. -/
inductive Walk where
  | leaf (pte : Word) (level : Nat)
  | invalid
  | poisoned (pa : Nat)
  | isolated
  | reserved (pa : Nat)
  | nowhere (pa : Nat)
deriving DecidableEq, Repr

/-- The number of address bits a page at a level maps (R230). -/
def pageBits (level : Nat) : Nat := 16 + 10 * level

/-- Whether a valid leaf PTE at a level is accepted for a partition (R232, R235). -/
def leafOk (p : Partition) (pte : Word) (level : Nat) : Bool :=
  let pa := bits pte 51 16 * 0x10000
  let type := bits pte 7 6
  level ≠ 3 && !(bit pte 2 && !bit pte 1) && type ≠ 3 && pa % 2 ^ pageBits level == 0
    && (if type = 2 then bits pte 51 50 < 2 else p.owns pa (2 ^ pageBits level))

/-- Whether a vector store holds back the reading of a PTE for an access (R233, R268); every one does for the Gleaner. -/
def State.pteHeld (s : State) (w : Who) (pa : Nat) : Bool :=
  match w.after with
  | some n => (s.running && s.heldBy s.task n 0 pa 8 false) || s.heldByKept 0 pa 8 false
  | none => s.reserved 0 pa 8 false

/-- The walk of `va` from a table at level `n − 1` (R230, R232). The walker reads PTEs at the root, in the order of R221 (R233). -/
def State.walkFrom (s : State) (w : Who) (p : Partition) (va : Nat) : Nat → Nat → Walk
  | 0, _ => .invalid
  | level + 1, table =>
    let pa := table + 8 * (va / 2 ^ pageBits level % 1024)
    if Config.deviceBytes < pa + 8 then .nowhere pa
    else if s.pteHeld w pa then .reserved pa
    else if s.isolatedAt pa then .isolated
    else if s.badLines.contains (granule pa) then .poisoned pa
    else
      let pte := wd (leValue (s.mem.getBytes pa 8))
      if !bit pte 0 || bits pte 63 52 ≠ 0 || bits pte 15 9 ≠ 0 then .invalid
      else if bit pte 8 then if leafOk p pte level then .leaf pte level else .invalid
      else if level = 0 || bits pte 7 1 ≠ 0 then .invalid
      else s.walkFrom w p va level (bits pte 51 16 * 0x10000)

/-- Whether a TLB entry translates `va` for a context (R233). -/
def TlbEntry.covers (e : TlbEntry) (cid : Fin 64) (va : Nat) : Bool :=
  (e.cid == cid || bit e.pte 5) && e.base ≤ va && va < e.base + e.size

/-- The level of a page of a size. -/
def levelOfSize (n : Nat) : Nat := if n = 0x10000 then 0 else if n = 0x4000000 then 1 else 2

/-- The translation of a global address: a TLB entry that covers it, else a walk (R229, R233). -/
def State.lookup (s : State) (w : Who) (va : Nat) : Walk :=
  match s.tlb.find? (·.covers w.cid va) with
  | some e => .leaf e.pte (levelOfSize e.size)
  | none => s.walkFrom w s.parts[w.part] va 4 (bits s.ctxs[w.cid].ptbase 51 16 * 0x10000)

/-- The place a leaf gives an address (R231, R235). -/
def placeOf (pte : Word) (level va : Nat) : Place :=
  let pa := bits pte 51 16 * 0x10000 + va % 2 ^ pageBits level
  if bits pte 7 6 = 2 then
    if bits pte 51 50 = 0 then .host (bitsN pa 49 0) else .peer (bitsN pa 49 41) (bitsN pa 40 0)
  else .device pa

/-- The cause of check 3 (R117, R232). -/
def pageCause (w : Who) : Acc → Cause
  | .fetch => if w.engine then .engineTranslation else .fetchPage
  | .load => if w.engine then .engineTranslation else .loadPage
  | .store => if w.engine then .engineTranslation else .storePage
  | .amo => .storePage

/-- The cause of check 4 (R117, R232). -/
def protCause (w : Who) : Acc → Cause
  | .fetch => if w.engine then .engineTranslation else .fetchProt
  | .load => if w.engine then .engineTranslation else .loadProt
  | .store => if w.engine then .engineTranslation else .storeProt
  | .amo => .storeProt

/-- The permissions of R232. -/
def permitted (w : Who) (acc : Acc) (pte : Word) : Bool :=
  (match acc with
    | .fetch => bit pte 3
    | .load => bit pte 1
    | .store => bit pte 2
    | .amo => bit pte 1 && bit pte 2) && (!w.needT || bit pte 4)

/-- The address of the granule that holds an address (R221). -/
def granuleVa (a : Word) : Word := wd (granule a.toNat)

/-- The TVAL of a failed translation: the granule's address for the sequencer, the faulting address for an engine (R390). -/
def Who.tval (w : Who) (a : Word) : Word := if w.engine then a else granuleVa a

/-- The running task's vector store that reserves a PTE will never get its tile (R269). -/
def State.pteDead (s : State) (w : Who) (pa : Nat) : Bool :=
  !w.engine && w.after.isSome && match s.task.blocker (.device pa) 8 false with
    | some n => s.task.storeDead n
    | none => false

/-- Checks 3 and 4 of R117 for a global address. A walk that waits for a tile that never comes is the deadlock of R269. -/
def State.translate (s : State) (w : Who) (acc : Acc) (a : Word) : Chk Place :=
  match s.lookup w a.toNat with
  | .invalid => .fail (pageCause w acc) (w.tval a)
  | .poisoned pa => .bad ⟨.uncorrectable, granuleVa a, some (.device (granule pa))⟩
  | .isolated => .fail .uncorrectable (granuleVa a)
  | .reserved pa => if s.pteDead w pa then .fail .queueUnderflow a else .wait
  | .nowhere pa => .stop (.noSuchMemory pa)
  | .leaf pte level => if permitted w acc pte then .ok (placeOf pte level a.toNat) else .fail (protCause w acc) (w.tval a)

/-- Bytes 16 × `i` of a table based at a device physical address, as doublewords (R279). -/
def State.tableDwords (s : State) (pa n : Nat) : List Word := dwords (s.mem.getBytes pa (8 * n))

/-- Whether a port of a partition is up to the peer of a peer map entry, as its bring-up read the entry (R235, R279, R280,
R412). -/
def State.peerUp (s : State) (part : Fin 16) (entry : Nat) : Bool :=
  s.parts[part].ports.any fun j => s.ports[j].up && !s.ports[j].down && s.ports[j].peer == entry

/-- Check 6 of R117: the error a host or peer target reports (R236). -/
def State.windowCheck (s : State) (w : Who) (a : Word) : Place → Chk Unit
  | .host h => .need (!s.hostErr.contains (granule h)) .hostError (w.tval a)
  | .peer e o => .need (s.peerUp w.part e && !s.peerErr.contains (peerKey e (granule o))) .peerError (w.tval a)
  | _ => .ok ()

/-- The address of the first slot of a pair in the pool as LPOOL gives it now (R227). -/
def Context.slotOf (c : Context) (pair : Nat) : Nat := bits c.lpool 51 21 * 0x200000 + pair * 0x400000

/-- The first slot of a pair taken at an address still backs the loft: the pool is valid and holds the slot, which is installed memory
(R227). A later change of BASE does not move it (R366). -/
def Context.slotLive (c : Context) (pair slot : Nat) : Bool :=
  bit c.lpool 16 && 2 * pair + 1 ≤ bits c.lpool 15 0 && slot + 0x200000 ≤ Config.deviceBytes

/-- Check 5 of R117 and the refill of a page on its first access (R226, R227, R403). -/
def State.refill (s : State) (cid : Fin 64) (off : Nat) (a : Word) : Chk State :=
  let page := off / 0x10000
  if !s.task.id.unfilled.contains page then .ok s
  else
    match s.task.id.pair with
    | none => .fail .loftBacking a
    | some (k, slot) =>
      let src := slot + page * 0x10000
      if !s.ctxs[cid].slotLive k slot then .fail .loftBacking a
      else if s.isolatedAt src then .fail .uncorrectable (granuleVa a)
      else
        match s.badLines.find? fun l => src ≤ l && l < src + 0x10000 with
        | some l => .bad ⟨.uncorrectable, granuleVa a, some (.device l)⟩
        | none =>
          let cells := Mem.shiftUp (Mem.shiftDown (s.mem.slice src (src + 0x10000)) src) (page * 0x10000)
          .ok { s with task := { s.task with
            loft := s.task.loft.replace (page * 0x10000) (page * 0x10000 + 0x10000) cells,
            id := { s.task.id with unfilled := s.task.id.unfilled.filter (· != page) } } }

/-- A device address of the die whose stacks hold the bytes a world finds at a device address: the context's world pool for a
copy (R344, R349), else the address itself. -/
def State.copyDie (s : State) (w pa : Nat) : Nat :=
  match s.holder 6 w (pa / 4096) with
  | some k => bits s.ctxs[k.cid].wpool 51 21 * 0x200000
  | none => pa

/-- Uncorrectable data stand in n bytes of the loft, whose code is per doubleword (R400, R403). -/
def Task.loftBad (t : Task) (o n : Nat) : Bool := t.badLoft.any fun l => l < o + n && o < l + 8

/-- Check 7 of R117 for n bytes: an isolated die for every access, uncorrectable data for a read: the line in device memory, the
doublewords in the loft (R400, R403, R411). -/
def State.lineCheck (s : State) (w : Who) (acc : Acc) (a : Word) (n : Nat) : Place → Chk Unit
  | .device pa =>
    if s.isolatedAt (s.copyDie w.world pa) then .fail .uncorrectable (granuleVa a)
    else if acc != .store && s.badDevice w.world pa then .bad ⟨.uncorrectable, granuleVa a, some (.device (granule pa))⟩
    else .ok ()
  | .loft o =>
    if acc != .store && s.task.loftBad o n then .bad ⟨.uncorrectable, granuleVa a, some .loft⟩ else .ok ()
  | _ => .ok ()

/-- Check 1 of R117 for one byte. -/
def Task.rangeCheck (t : Task) (a : Word) : Chk Unit := .need (t.addrKind a != .out) .addressRange a

/-- Checks 3 to 5 of R117 for an access inside one granule whose address passed check 1, in order, with the rule of R350
for a rival's write to a type-2 page. -/
def State.placeFind (s : State) (w : Who) (acc : Acc) (a : Word) : Chk (State × Place) :=
  match s.task.addrKind a with
  | .out => .fail .addressRange a
  | .loft o => (s.refill w.cid o a).bind fun s' => .ok (s', .loft o)
  | .global =>
    (s.translate w acc a).bind fun p =>
      (Chk.need (w.world = 0 || acc == .load || acc == .fetch || !p.isWindow) .worldExternal a).bind fun _ => .ok (s, p)

/-- Checks 3 to 6 of R117. -/
def State.placeCheck (s : State) (w : Who) (acc : Acc) (a : Word) : Chk (State × Place) :=
  (s.placeFind w acc a).bind fun r => (r.1.windowCheck w a r.2).bind fun _ => .ok r

/-- Checks 3 to 7 of R117 for an access outside the loft. -/
def State.accessCheck (s : State) (w : Who) (acc : Acc) (a : Word) : Chk (State × Place) :=
  (s.placeCheck w acc a).bind fun r => (r.1.lineCheck w acc a 1 r.2).bind fun _ => .ok r

/-- A claim would be made of world `w` for a device address, in a pool of an isolated die (R411). -/
def State.poolIsolated (s : State) (w pa : Nat) : Bool :=
  match s.world? w with
  | some k => !k.granules.contains (pa / 4096) && s.isolatedAt (bits s.ctxs[k.cid].wpool 51 21 * 0x200000)
  | none => false

/-- Claim the granule of a write in the writer's world (R349); 0x51 when the pool is exhausted (R353), 0x70 when its die is isolated
(R411). -/
def State.claimCheck (s : State) (w : Who) (a : Word) : Place → Chk State
  | .device pa =>
    match s.claim w.world (pa / 4096) with
    | some s' => if s.poolIsolated w.world pa then .fail .uncorrectable (granuleVa a) else .ok s'
    | none => .fail .worldPool a
  | _ => .ok s

/-- Who the running task is for an access in a mode (R232). -/
def State.who (s : State) (sup : Bool) : Who :=
  { cid := s.task.id.cid, part := s.partOfCtx s.task.id.cid, world := s.task.id.world, needT := !sup, engine := false
    after := some s.task.stores }

/-- Who the Gleaner is for its own accesses in a context: the R and W permissions without T, at the root (R299). -/
def State.gleaner (s : State) (cid : Fin 64) : Who :=
  { cid := cid, part := s.partOfCtx cid, world := 0, needT := false, engine := false, after := none }

/-- The expansion-set slot of a context holds a set (R84, R86). -/
def State.slotHeld (s : State) (cid : Fin 64) : Bool := s.dev.slots[s.ctxs[cid].xset].isSome

/-- Whether words fetched in the view of world `b` may serve a task of world `w` (R342, R345): its own view, or one it inherits. -/
def State.servesWorld (s : State) (b w : Nat) : Bool := s.under b 6 w

/-- The decoded-op cache block that serves a fetch (R85). -/
def State.cachedBlock (s : State) (cid : Fin 64) (a : Nat) : Option OpBlock :=
  s.ops.find? fun b =>
    b.cid == cid && b.slot == s.ctxs[cid].xset && b.va == granule a && s.servesWorld b.world s.task.id.world

/-- The line of the instruction byte cache that serves a fetch the decoded-op cache does not (R85). -/
def State.cachedLine (s : State) (cid : Fin 64) (a : Nat) : Option ByteLine :=
  s.lines.find? fun b => b.cid == cid && b.va == granule a && s.servesWorld b.world s.task.id.world

/-- The bytes of a fetch block that a cache holds for the running task, the decoded-op cache first (R85). -/
def State.heldBlock (s : State) (a : Nat) : Option (List Byte) :=
  match s.cachedBlock s.task.id.cid a with
  | some b => some b.bytes
  | none => (s.cachedLine s.task.id.cid a).map (·.bytes)

/-! ### Room in the caches (R85) -/

/-- Remove the first entry for which a test holds. -/
def dropFirst {α : Type} (f : α → Bool) : List α → List α
  | [] => []
  | a :: l => if f a then l else a :: dropFirst f l

/-- The decoded-op cache holds 2,048 entries, 16 to a block, and the instruction byte cache 64 KiB (R85). -/
def opBlocks : Nat := 128

/-- Lines of the instruction byte cache (R85). -/
def byteLines : Nat := 1024

/-- A full cache loses its oldest entry, but not one of the block that the sequencer is passing through (R85). -/
def makeRoom {α : Type} (limit : Nat) (stays : α → Bool) (l : List α) : List α :=
  if l.length ≤ limit then l else dropFirst (fun b => !stays b) l

/-- The block that the sequencer is passing through (R85). -/
def State.passing (s : State) (va : Nat) : Bool := s.running && granule s.task.pc.toNat == va

/-- Put a line into the instruction byte cache (R85). -/
def State.addLine (s : State) (k : ByteLine) : State :=
  { s with lines := makeRoom byteLines (fun b => s.passing b.va) (s.lines ++ [k]) }

/-- The bytes of the block that the sequencer is passing through stay in the byte cache while blocks leave the decoded-op cache, so that
the pass goes on with the words of one fetch (R85, R250). -/
def State.keepPassing (s : State) : State :=
  let va := granule s.task.pc.toNat
  let cid := s.task.id.cid
  match s.running && (s.cachedLine cid va).isNone, s.cachedBlock cid va with
  | true, some b => s.addLine { cid := b.cid, world := b.world, va := b.va, size := b.size, global := b.global, bytes := b.bytes }
  | _, _ => s

/-! ### Fetch -/

/-- Fetch the word at an address in a mode (R30, R61, R79, R117): the range and then the alignment as R117 orders them for data,
then the loft, where R30 lets nothing be fetched; then translation, X and T, the target's errors and uncorrectable data. R18, R29
and R30 give the causes 0x0D, 0x17 and 0x15 and no order: 0x17 before 0x0D before 0x15 is the model's choice (log 63). -/
def State.fetchWord (s : State) (sup : Bool) (a : Word) : Chk Nat :=
  (s.task.rangeCheck a).bind fun _ =>
    (Chk.need (bits a 1 0 = 0) .misalignedFetch a).bind fun _ =>
      match s.task.addrKind a with
      | .global =>
        (s.accessCheck (s.who sup) .fetch a).bind fun r =>
          match s.heldBlock a.toNat with
          | some bs => .ok (leValue ((bs.drop (a.toNat % 64)).take 4))
          | none => .ok (leValue (s.readPlace s.task.id.world r.2 4))
      | _ => .fail .fetchProt a

end Sys2Proof.Machine
end

