-- ==== Sys2Proof/Machine/Frame.lean ====
section
/-! DEFINITION. The context frame of R397 and R398, byte by byte: as a save writes it with the loft pages of R226, and as a
resumption reads it back (R399). -/

namespace Sys2Proof.Machine

/-- Iterations of a nest level: 0 means 1 (R202, R253). -/
def count1 (n : Nat) : Nat := if n = 0 then 1 else n

/-- The indices of the nest point with a linear index, level 0 first and fastest (R204, R254). -/
def nestIndex : List Nat → Nat → List Nat
  | [], _ => []
  | c :: cs, p => p % c :: nestIndex cs (p / c)

/-- The nest counters of a frame for a linear index (R398): the outermost is not reduced, so that a nest whose points are all done
is told from one that has not begun (R399). -/
def nestFrame : List Nat → Nat → List Nat
  | [], _ => []
  | [_], p => [p]
  | c :: cs, p => p % c :: nestFrame cs (p / c)

/-- The counts of the six levels of a Thresher record (R202). -/
def thrCounts (r : List Word) : List Nat := (List.range 6).map fun l => count1 (bits (dw r (5 + l)) 15 0)

/-- The counts a command steps through: with ORB a step runs the whole contraction level (R214). -/
def thrWalk (r : List Word) : List Nat :=
  if bit (dw r 0) 10 then (thrCounts r).set (bits (dw r 11) 3 0) 1 else thrCounts r

/-- The counts of the four levels of a copy record (R253). -/
def copyCounts (r : List Word) : List Nat := (List.range 4).map fun l => count1 (bits (dw r (4 + l)) 15 0)

/-- Bytes padded with zeros to a size. -/
def padTo (n : Nat) (bs : List Byte) : List Byte := bs ++ List.replicate (n - bs.length) 0

/-- A stook in the SKRD layout (R264). -/
def Stook.word (k : Stook) : Word :=
  wd ((if k.phase then 2 ^ 63 else 0) + k.target.toNat * 2 ^ 32 + k.count.toNat)

/-- The CSRs of frame section 1, in its order (R398). -/
def Csrs.list (c : Csrs) : List Word :=
  [c.status, c.fctl, c.ls0, c.le0, c.lc0, c.ls1, c.le1, c.lc1, c.sh, c.rsh, c.arow, c.slip, c.ssp, c.sslim, c.dslack,
    c.lcfg, c.scratch, c.cause, c.epc, c.tval, c.vepc]

/-- The low word of an instruction with the valid bit (R398). -/
def validWord (i : Instr) : Nat := 2 ^ 63 + (instrWord i).toNat % 2 ^ 32

/-- An entry of frame section 3 (R398). -/
def VeEntry.frame (e : VeEntry) : List Byte :=
  dwBytes [wd (validWord e.instr + e.arow.toNat * 2 ^ 36 + e.rm.toNat * 2 ^ 32), e.addr, e.xs, e.xt, e.sh, wd e.stoch, 0, 0]

/-- An entry of frame section 4 (R398). -/
def StoreEntry.frame (e : StoreEntry) : List Byte :=
  dwBytes ([wd (validWord e.instr), e.addr, e.base, e.stride, e.sh, 0, 0, 0]
    ++ (List.range 4).map (dw e.desc) ++ [0, 0, 0, 0])

/-- Frame section 5 for one queue register (R398). -/
def QueueReg.frame (q : QueueReg) : List Byte :=
  let role := match q.role with
    | .load => 0
    | .store => 1
    | .stream => 2
  dwBytes [wd ((if q.stream.isSome then 256 else 0) + q.tiles.length * 4 + role), 0]

/-- The lanes of a tile, row by row, as bytes (R127, R398). -/
def tileBytes (t : Tile) : List Byte := t.toList.flatMap fun l => leBytes 4 l.toNat

/-- A 16-bit-per-level packing of nest counters. -/
def packNest (is : List Nat) : Nat := is.foldr (fun i acc => i % 0x10000 + acc * 0x10000) 0

/-- Frame section 6 (R398). -/
def Thresher.frame (t : Thresher) : List Byte :=
  let cmds := t.cmds.flatMap fun c => dwBytes c.record
  let is := match t.cmds with
    | c :: _ => nestFrame (thrWalk c.record) c.point
    | [] => []
  let latch := match t.latch with
    | some b => 2 ^ 33 + b.scale % 256 * 2 ^ 25 + b.fmt * 2 ^ 21 + b.base
    | none => 0
  padTo 1280 (padTo 1024 cmds ++ dwBytes [wd t.cmds.length, wd (packNest (is.take 4)), wd (packNest (is.drop 4)), wd latch])

/-- Frame sections 7 to 10 for one channel (R398). -/
def Channel.frame (c : Channel) : List Byte :=
  let cmds := c.cmds.flatMap fun k => dwBytes k.record
  let (is, crc, w0) := match c.cmds with
    | k :: _ => (nestFrame (copyCounts k.record) k.pos, k.crc, k.w0)
    | [] => ([], 0, c.wp)
  padTo 1280 (padTo 1024 cmds ++ dwBytes [wd c.cmds.length, wd (packNest is), wd crc.toNat, w0])

/-- The operators of a stream, OP0 first, without the empty fields (R326). -/
def streamOps (desc : List Word) : List Nat :=
  ((List.range 4).map fun k => bits (dw desc 3) (8 * k + 7) (8 * k)).filter (· != 0)

/-- A stream reads Bale chunks (R326). -/
def Stream.bale (d : Stream) : Bool := (streamOps d.desc).contains 1

/-- A stream expands pruned groups (R330). -/
def Stream.expands (d : Stream) : Bool := (streamOps d.desc).contains 3

/-- The nibbles of an input element (R330). -/
def Stream.inNibbles (d : Stream) : Nat :=
  match Fmt.ofCode (bits (dw d.desc 4) 3 0) with
  | some f => f.width / 4
  | none => 2

/-- The active elements of a tile of a stream (R331). -/
def Stream.tileLen (d : Stream) : Nat := bits d.sh 7 0 * bits d.sh 15 8

/-- The output ordinal of the first element not yet pushed (R340, TSTART). -/
def Stream.tstart (d : Stream) : Nat := d.ordinal - d.waiting.length

/-- The chunk and the nibble within it at a nibble of the input stream, from the chunks' lengths (R340). -/
def inChunks : List Nat → Nat → Nat → Nat × Nat
  | [], i, n => (i, n)
  | u :: us, i, n => if n < 2 * u then (i, n) else inChunks us (i + 1) (n - 2 * u)

/-- RCHUNK and ROFF (R340). -/
def Stream.restartAt (d : Stream) : Nat × Nat :=
  let nib := (if d.expands then d.tstart / 2 else d.tstart) * d.inNibbles
  if d.bale then inChunks d.ulens 0 nib else (nib / 2, nib % 2)

/-- The attempt of the chunk at which a resumed stream decodes again: that of the current chunk if it is the same one (R340). -/
def Stream.restartTry (d : Stream) : Nat := if d.restartAt.1 = d.chunk then d.attempt else 0

/-- A stream section (R340). -/
def Stream.frame (d : Stream) : List Byte :=
  let state := d.restartTry % 4 + (if d.stopped then 4 else 0) + (if d.finished then 8 else 0)
  padTo 1024 (dwBytes ((List.range 8).map (dw d.desc) ++ [d.daddr, d.sh, wd d.tstart, wd d.restartAt.1])
    ++ leBytes 4 d.restartAt.2 ++ leBytes 4 state ++ padTo 128 d.table)

/-- Frame section 11 (R398). -/
def Task.streamFrames (t : Task) : List Byte :=
  t.q.toList.flatMap fun q => match q.stream with
    | some d => d.frame
    | none => List.replicate 1024 0

/-- Frame section 12 (R398). -/
def Thresher.latchFrame (t : Thresher) : List Byte :=
  let tile := match t.latch with
    | some b =>
      let row := b.bytes.length / 64
      (List.range 64).flatMap fun r => padTo 128 ((b.bytes.drop (r * row)).take row)
    | none => []
  padTo 8192 tile ++ leBytes 32 t.cls.toNat

/-- Frame section 15 (R398). -/
def Task.tileFrames (t : Task) : List Byte :=
  t.q.toList.flatMap fun q => padTo 0x4000 (q.tiles.flatMap tileBytes)

/-- The sections of the frame of a task, with their numbers and offsets (R398). A section other than 0, 1, 2 and 5 is
present when it differs from its task-start state (log 17). -/
def Task.sections (t : Task) : List (Nat × Nat × List Byte) :=
  let when_ (b : Bool) (s : Nat × Nat × List Byte) := if b then [s] else []
  [(0, 0x100, dwBytes t.x.toList), (1, 0x200, padTo 256 (dwBytes t.csr.list)),
    (2, 0x300, padTo 256 (dwBytes ((t.stooks.toList.map Stook.word) ++ (t.ch.toList.map (·.wp))
      ++ [wd t.thr.done] ++ t.ch.toList.map fun c => wd c.done)))]
    ++ when_ (!t.veQ.isEmpty) (3, 0x400, padTo 2048 (t.veQ.flatMap VeEntry.frame))
    ++ when_ (!t.storeQ.isEmpty) (4, 0xC00, padTo 2048 (t.storeQ.flatMap StoreEntry.frame))
    ++ [(5, 0x1400, padTo 256 (t.q.toList.flatMap QueueReg.frame))]
    ++ when_ (!t.thr.cmds.isEmpty || t.thr.latch.isSome) (6, 0x1500, t.thr.frame)
    ++ (List.range 4).flatMap (fun k =>
        match t.ch.toList[k]? with
        | some c => when_ (!c.cmds.isEmpty) (7 + k, 0x1A00 + 0x500 * k, c.frame)
        | none => [])
    ++ when_ (t.q.toList.any (·.stream.isSome)) (11, 0x2E00, t.streamFrames)
    ++ when_ (t.thr.latch.isSome || t.thr.cls != 0) (12, 0x4E00, t.thr.latchFrame)
    ++ when_ (t.v.toList.any (· != Tile.zero)) (13, 0x8000, t.v.toList.flatMap tileBytes)
    ++ when_ (t.thr.acc.toList.any (· != 0)) (14, 0x18000, t.thr.acc.toList.flatMap fun l => leBytes 4 l.toNat)
    ++ when_ (t.q.toList.any (!·.tiles.isEmpty)) (15, 0x28000, t.tileFrames)

/-- FRAME (R322): 0 until the first instruction. -/
def Ident.frame (i : Ident) (now : Nat) : Nat :=
  match i.birth with
  | some b => ((now : Int) - b).toNat
  | Option.none => 0

/-- The 32 header doublewords (R397). -/
def frameHeader (t : Task) (pc world : Word) (xset : Fin 4) (now slot : Nat) (ss : List (Nat × Nat × List Byte)) :
    List Word :=
  let total := ss.foldl (fun m s => Nat.max m (s.2.1 + s.2.2.length)) 0x100
  let present := ss.foldl (fun m s => m + 2 ^ s.1) 0
  let choice := match t.id.choice with
    | some c => c.rivals.length * 0x10000 + 1
    | none => 0
  [wd (total * 2 ^ 32 + xset.val * 0x10000 + 1), wd present, pc, wd (t.id.cid.val * 2 ^ 32 + t.id.launch.toNat)]
    ++ (List.range 4).map (dw t.id.entry.record)
    ++ [world, wd t.id.stoch, wd t.id.wdog, wd (t.id.frame now), wd slot, wd t.loftPages.toNat,
        wd (choice + if t.id.exitDone then 2 else 0)]
    ++ List.replicate 17 0

/-- Write a task's frame into the second slot of its pair and its pinned loft pages into the first (R226, R397). `slot`
is the first slot's address. -/
def State.writeFrame (s : State) (t : Task) (pc : Word) (slot : Nat) : State :=
  let ss := t.sections
  let head := frameHeader t pc t.id.worldCsr s.ctxs[t.id.cid].xset s.dev.cycle slot ss
  let s1 := s.writeRoot (slot + 0x200000) (dwBytes head)
  let s2 := ss.foldl (fun s k => s.writeRoot (slot + 0x200000 + k.2.1) k.2.2) s1
  (List.range 32).foldl (fun s p =>
    if t.loftPages.getLsbD p && !t.id.unfilled.contains p then
      let lo := p * 0x10000
      let k := s.keepOld (slot + lo) 0x10000
      { k with
        mem := k.mem.replace (slot + lo) (slot + lo + 0x10000)
          (Mem.shiftUp (Mem.slice t.loft lo (lo + 0x10000)) slot)
        badLines := (k.badLines.filter fun l => !(slot + lo ≤ l && l < slot + lo + 0x10000))
          ++ ((t.badLoft.filter fun l => lo ≤ l && l < lo + 0x10000).map fun l => granule l + slot).eraseDups
        dirty := dirtied k.dirty (slot + lo) 0x10000 }
    else s) s2

/-- The pages a save leaves to be refilled (R226). -/
def Task.savedPages (t : Task) : List Nat := (List.range 32).filter fun p => t.loftPages.getLsbD p

/-- The causes a save keeps pending: those of a vector store, the Thresher, a copy channel, a stream or a VE instruction are raised again
when their source restarts (R396), but nothing raises a parity error of a queue register again, so it stays; a collective fault is
delivered at the resumption (R290). -/
def Pending.kept (p : Pending) : Pending :=
  { Pending.none with
    hw := p.hw, watchdog := p.watchdog, coll := p.coll, ve := p.ve.filter (·.cause == .datapathCheck), veAt := p.veAt }

/-- The task as its launch keeps it: its loft pages are in the backing slot (R226), and its engines restart from what their frame
sections hold (R396). -/
def Task.unpinned (t : Task) (pc : Word) (now : Nat) (pair : Nat × Nat) : Task :=
  { t with pc := pc, loft := [], badLoft := [], part := none, pend := t.pend.kept,
           storeQ := t.storeQ.map fun e => { e with stopped := false }
           id := { t.id with pair := some pair, unfilled := t.savedPages, savedAt := now } }

/-! ### Backing pairs (R227) -/

/-- Whether a page table maps a byte of [lo, hi) of device memory, from a table at level `n − 1` (R230 to R232). -/
def State.mapsInto (s : State) (lo hi : Nat) : Nat → Nat → Bool
  | 0, _ => false
  | level + 1, table =>
    let cells := s.mem.slice table (table + 8192)
    (cells.map fun c => (c.1 - table) / 8).eraseDups.any fun k =>
      let pte := wd (leValue (cells.getBytes (table + 8 * k) 8))
      let pa := bits pte 51 16 * 0x10000
      bit pte 0 && (if bit pte 8 then bits pte 7 6 != 2 && pa < hi && lo < pa + 2 ^ pageBits level
        else s.mapsInto lo hi level pa)

/-- A pair's slots may be used by a context: they lie in its partition and no other context of it maps a part of them, so that
what a badly placed pool does stays with its context (R2, R227; log 64). -/
def State.pairConfined (s : State) (cid : Fin 64) (slot : Nat) : Bool :=
  let p := s.parts[s.partOfCtx cid]
  p.owns slot 0x400000
    && !p.contexts.any fun c => c != cid && s.mapsInto slot (slot + 0x400000) 4 (bits s.ctxs[c].ptbase 51 16 * 0x10000)

/-- The lowest free pair of a context's pool, with its address; none while the pool is invalid or holds no free one (R227). -/
def Context.freePair (c : Context) : Option (Nat × Nat) :=
  ((List.range (c.pairs.length + 1)).find? fun k => !c.pairs.contains k).bind fun k =>
    if 2 * k + 2 ≤ bits c.lpool 15 0 then some (k, c.slotOf k) else none

/-- The pair a save of a task uses (R227), with its address: the one it holds, whatever SLOTS says now, else the lowest free one; none
while V is 0. Its slots are installed memory, confined to the context, and not of an isolated die (R2, R411; log 64). -/
def State.pairFor (s : State) (t : Task) : Option (Nat × Nat) :=
  let c := s.ctxs[t.id.cid]
  (if t.id.pair.isSome then t.id.pair else c.freePair).bind fun p =>
    if bit c.lpool 16 && p.2 + 0x400000 ≤ Config.deviceBytes && s.pairConfined t.id.cid p.2 && !s.isolatedAt p.2 then some p else none

/-- Record a pair as taken. -/
def State.takePair (s : State) (cid : Fin 64) (k : Nat) : State :=
  { s with ctxs := s.ctxs.set cid { s.ctxs[cid] with pairs := insertNat s.ctxs[cid].pairs k } }

/-- Release a task's pair (R227). -/
def State.releasePair (s : State) (t : Task) : State :=
  match t.id.pair with
  | none => s
  | some (k, _) =>
    { s with ctxs := s.ctxs.set t.id.cid { s.ctxs[t.id.cid] with pairs := s.ctxs[t.id.cid].pairs.filter (· != k) } }

/-- Save a task into its frame (R395 to R398): none when no pair can be had; else the state with the frame written and
the task as its launch keeps it, to go on at `pc`. -/
def State.saveFrame (s : State) (t : Task) (pc : Word) : Option (State × Task) :=
  (s.pairFor t).map fun p => ((s.takePair t.id.cid p.1).writeFrame t pc p.2, t.unpinned pc s.dev.cycle p)

/-! ### Reading a frame back (R399) -/

/-- The 32-bit lanes of bytes (R127). -/
def lanesOf : List Byte → List Lane
  | a :: b :: c :: d :: l => BitVec.ofNat 32 (leValue [a, b, c, d]) :: lanesOf l
  | _ => []

/-- A vector of lanes from bytes. -/
def lanesVec (n : Nat) (bs : List Byte) : Vector Lane n :=
  let ls := (lanesOf bs).toArray
  Vector.ofFn fun i => ls.getD i.val 0

/-- A tile from its 4,096 bytes (R127). -/
def tileOfBytes (bs : List Byte) : Tile := lanesVec 1024 bs

/-- A frame in memory, by the bytes at its offsets. -/
structure FrameView where
  bytes : Nat → Nat → List Byte

/-- A doubleword of a frame. -/
def FrameView.dw (f : FrameView) (off : Nat) : Word := wd (leValue (f.bytes off 8))

/-- `n` doublewords of a frame. -/
def FrameView.dws (f : FrameView) (off n : Nat) : List Word := dwords (f.bytes off (8 * n))

/-- A section is present (R397). -/
def FrameView.has (f : FrameView) (n : Nat) : Bool := bit (f.dw 8) n

/-- A stook from the SKRD layout (R264). -/
def Stook.ofWord (w : Word) : Stook := ⟨BitVec.ofNat 32 (bits w 31 0), BitVec.ofNat 31 (bits w 62 32), bit w 63⟩

/-- The CSRs of frame section 1, their zero fields zero (R4) and SLIP and LCFG inside their ranges (R21, R223). -/
def Csrs.ofList (l : List Word) : Csrs :=
  let g (n : Nat) : Word := l.getD n 0
  let at4 (n : Nat) : Word := setBits (g n) 1 0 0
  let slip := g 11
  { status := g 0 &&& 0x3F, fctl := g 1 &&& if bits (g 1) 2 0 < 6 then 0xFF else 0xF8, ls0 := at4 2, le0 := at4 3, lc0 := g 4, ls1 := at4 5, le1 := at4 6, lc1 := g 7
    sh := g 8 &&& 0xFF0FFFFF, rsh := g 9 &&& 0x1FFFFF, arow := g 10 &&& 3
    slip := if slip = 0 then 1 else if 32 < slip.toNat then 32 else slip
    ssp := g 12, sslim := g 13, dslack := g 14 &&& 0xFFFFFFFF, lcfg := if bits (g 15) 4 0 ≤ 16 then wd (bits (g 15) 4 0) else 4
    scratch := g 16, cause := g 17 &&& 0x7FFF, epc := setBits (g 18) 1 1 0, tval := g 19, vepc := g 20 }

/-- The instruction of a queue entry's word (R398). -/
def entryInstr (w : Word) : Option Instr :=
  match decode true (bits w 31 0) with
  | .instr i => some i
  | .fault _ => none

/-- The VE queue of frame section 3; what the section does not hold comes from the entry the launch kept. -/
def FrameView.veQueue (f : FrameView) (kept : List VeEntry) : List VeEntry :=
  (List.range 32).filterMap fun k =>
    let ws := f.dws (0x400 + 64 * k) 8
    if bit (Machine.dw ws 0) 63 then
      (entryInstr (Machine.dw ws 0)).map fun i : Instr =>
        { instr := i, addr := Machine.dw ws 1, xs := Machine.dw ws 2, xt := Machine.dw ws 3, sh := Machine.dw ws 4, arow := BitVec.ofNat 2 (bits (Machine.dw ws 0) 37 36)
          rm := BitVec.ofNat 3 (bits (Machine.dw ws 0) 34 32), stoch := (Machine.dw ws 5).toNat
          issued := (kept[k]?.map (·.issued)).getD 0, roleOk := (kept[k]?.map (·.roleOk)).getD true }
    else none

/-- The store address queue of frame section 4, its reservations those that stayed in force (R268). -/
def FrameView.storeQueue (f : FrameView) (kept : List StoreEntry) : List StoreEntry :=
  (List.range 16).filterMap fun k =>
    let ws := f.dws (0xC00 + 128 * k) 16
    if bit (Machine.dw ws 0) 63 then
      (entryInstr (Machine.dw ws 0)).map fun i : Instr =>
        { instr := i, addr := Machine.dw ws 1, base := Machine.dw ws 2, stride := Machine.dw ws 3, sh := Machine.dw ws 4
          desc := if (ws.drop 8).all (· == 0) then [] else (ws.drop 8).take 4
          granules := (kept[k]?.map (·.granules)).getD [], left := [], num := (kept[k]?.map (·.num)).getD 0
          issued := (kept[k]?.map (·.issued)).getD 0, begun := (kept[k]?.map (·.begun)).getD false, stopped := false }
    else none

/-- A stream from its section (R340): it decodes again from RCHUNK and ROFF. -/
def Stream.ofFrame (f : FrameView) (off : Nat) (kept : Option Stream) : Stream :=
  let state := leValue (f.bytes (off + 100) 4)
  let done := state / 8 % 2 = 1
  let chunk := (f.dw (off + 88)).toNat
  { desc := f.dws off 8, daddr := f.dw (off + 64), sh := f.dw (off + 72), sup := (kept.map (·.sup)).getD false
    chunk := chunk, attempt := state % 4, ordinal := (f.dw (off + 80)).toNat, carry := [], skip := leValue (f.bytes (off + 96) 4)
    waiting := [], ulens := ((kept.map (·.ulens)).getD []).take chunk, table := f.bytes (off + 104) 128
    built := done, stopped := false, after := (kept.map (·.after)).getD 0 }

/-- The queue registers of frame sections 5, 11 and 15. -/
def FrameView.queue (f : FrameView) (kept : Vector QueueReg 8) (q : Fin 8) : QueueReg :=
  let d := f.dw (0x1400 + 16 * q.val)
  { role := if bits d 1 0 = 0 then .load else if bits d 1 0 = 1 then .store else .stream
    tiles := if f.has 15 then
        (List.range (Nat.min 4 (bits d 4 2))).map fun e => tileOfBytes (f.bytes (0x28000 + 0x4000 * q.val + 0x1000 * e) 4096)
      else []
    stream := if f.has 11 && bit d 8 then some (Stream.ofFrame f (0x2E00 + 0x400 * q.val) kept[q].stream) else none }

/-- The linear index of nest counters: the inverse of `nestFrame`. -/
def nestPoint : List Nat → List Nat → Nat
  | c :: cs, i :: is => i + c * nestPoint cs is
  | _, _ => 0

/-- The 16-bit nest counters in a doubleword. -/
def nestCounters (w : Word) : List Nat := [bits w 15 0, bits w 31 16, bits w 47 32, bits w 63 48]

/-- The commands held at a frame offset: `n` records of 128 bytes. -/
def FrameView.records (f : FrameView) (off n : Nat) : List (List Word) := (List.range (Nat.min 8 n)).map fun k => f.dws (off + 128 * k) 16

/-- The Thresher of frame sections 6, 12 and 14, with its sequence number of section 2. -/
def FrameView.thresher (f : FrameView) (kept : Thresher) : Thresher :=
  let n := if f.has 6 then bits (f.dw 0x1900) 3 0 else 0
  let is := nestCounters (f.dw 0x1908) ++ [bits (f.dw 0x1910) 15 0, bits (f.dw 0x1910) 31 16]
  let lw := f.dw 0x1918
  let row := match Fmt.ofCode (bits lw 24 21) with
    | some m => 8 * m.width
    | none => 0
  { kept with
    cmds := ((f.records 0x1500 n).zip (List.range 8)).map fun (r, k) =>
      let c := kept.cmds[k]?
      { record := r, addr := (c.map (·.addr)).getD 0, dslack := (c.map (·.dslack)).getD 0
        ordinal := (c.map (·.ordinal)).getD (kept.done + 1 + k), started := (c.map (·.started)).getD false
        stampDone := (c.map (·.stampDone)).getD false, descs := none
        point := if k = 0 then nestPoint (thrWalk r) is else 0 }
    acc := if f.has 14 then lanesVec 16384 (f.bytes 0x18000 0x10000) else Vector.replicate 16384 0
    cls := if f.has 12 then BitVec.ofNat 256 (leValue (f.bytes 0x6E00 32)) else 0
    latch := if f.has 6 && f.has 12 && bit lw 33 then
        some { base := bits lw 20 0, fmt := bits lw 24 21, scale := bits lw 32 25, rows := (kept.latch.map (·.rows)).getD []
               bytes := (List.range 64).flatMap fun r => f.bytes (0x4E00 + 128 * r) row }
      else none
    done := (f.dw 0x3A0).toNat, halted := false }

/-- A copy channel of frame sections 7 to 10, with its write pointer and sequence number of section 2. -/
def FrameView.channel (f : FrameView) (kept : Vector Channel 4) (k : Fin 4) : Channel :=
  let off := 0x1A00 + 0x500 * k.val
  let n := if f.has (7 + k.val) then bits (f.dw (off + 0x400)) 3 0 else 0
  { kept[k] with
    cmds := ((f.records off n).zip (List.range 8)).map fun (r, j) =>
      let c := kept[k].cmds[j]?
      { record := r, addr := (c.map (·.addr)).getD 0, dslack := (c.map (·.dslack)).getD 0
        ordinal := (c.map (·.ordinal)).getD (kept[k].done + 1 + j), sup := (c.map (·.sup)).getD false
        after := (c.map (·.after)).getD 0, started := (c.map (·.started)).getD false
        stampDone := (c.map (·.stampDone)).getD false, desc := none
        pos := if j = 0 then nestPoint (copyCounts r) (nestCounters (f.dw (off + 0x408))) else 0
        w0 := if j = 0 then f.dw (off + 0x418) else 0
        crc := if j = 0 then BitVec.ofNat 32 (bits (f.dw (off + 0x410)) 31 0) else 0xFFFFFFFF#32 }
    wp := f.dw (0x380 + 8 * k.val), done := (f.dw (0x3A8 + 8 * k.val)).toNat, halted := false }

/-- A task as its frame restores it (R399): every section and header field; what the frame does not hold is what its launch entry
kept. An absent section is in its task-start state (R398). -/
def Task.ofFrame (t : Task) (f : FrameView) : Task :=
  let regs := (f.dws 0x100 32).toArray
  { t with
    pc := f.dw 0x10
    x := Vector.ofFn fun i => if i.val = 0 then 0 else regs.getD i.val 0
    csr := Csrs.ofList (f.dws 0x200 21)
    stooks := Vector.ofFn fun i => Stook.ofWord (f.dw (0x300 + 8 * i.val))
    veQ := if f.has 3 then f.veQueue t.veQ else []
    storeQ := if f.has 4 then f.storeQueue t.storeQ else []
    q := Vector.ofFn fun i => f.queue t.q i
    thr := f.thresher t.thr
    ch := Vector.ofFn fun i => f.channel t.ch i
    v := Vector.ofFn fun i => if f.has 13 then tileOfBytes (f.bytes (0x8000 + 0x1000 * i.val) 4096) else Tile.zero
    loftPages := BitVec.ofNat 32 (bits (f.dw 0x68) 31 0)
    id := { t.id with
      entry := { t.id.entry with record := f.dws 0x20 4 }
      stoch := (f.dw 0x48).toNat, wdog := (f.dw 0x50).toNat, birth := t.id.birth.map fun _ => (t.id.savedAt : Int) - (f.dw 0x58).toNat
      exitDone := bit (f.dw 0x70) 1
      unfilled := (List.range 32).filter fun p => bit (f.dw 0x68) p } }

/-- The frame at a slot of device memory. -/
def State.frameAt (s : State) (slot : Nat) : FrameView :=
  let cells := s.mem.slice (slot + 0x200000) (slot + 0x248000)
  { bytes := fun off n =>
      let a := slot + 0x200000 + off
      Mem.run n a (cells.slice a (a + n)) }

/-- The bytes of the frame at a slot by its header (R397), the header at least. -/
def FrameView.size (f : FrameView) : Nat := max 0x100 (bits (f.dw 0) 63 32)

/-- What keeps a saved task's frame from being read: an isolated die, or an uncorrectable line (R403, R411). -/
def State.frameLost (s : State) (t : Task) : Option (Option Line) :=
  match t.id.pair with
  | none => none
  | some (_, slot) =>
    let lo := slot + 0x200000
    if s.isolatedAt lo then some none
    else (s.badLines.find? fun l => lo ≤ l && l < lo + (s.frameAt slot).size).map fun l => some (.device l)

/-- SH of a saved task: its frame's (R398, R399), or its own where it was never saved. -/
def State.savedSh (s : State) (t : Task) : Word :=
  match t.id.pair with
  | some (_, slot) => (s.frameAt slot).dw 0x240
  | none => t.csr.sh

/-- A parent's first resumption writes −1 to its register (R354). -/
def Task.wakeParent (t : Task) : Task :=
  match t.id.choice with
  | some c =>
    match c.rd with
    | some r => { if r = 0 then t else { t with x := t.x.set r (-1) } with id := { t.id with choice := some { c with rd := none } } }
    | none => t
  | none => t

/-- The task of a saved entry as the Gleaner resumes it: from the frame in its pair (R399). A task that was never saved, a rival
before its first pop (R347), has no frame and is as FORKW made it. -/
def State.resumed (s : State) (t : Task) : Task :=
  match t.id.pair with
  | some (_, slot) => (t.ofFrame (s.frameAt slot)).wakeParent
  | none => t

end Sys2Proof.Machine
end

