-- ==== Sys2Proof/Machine/CopyRecord.lean ====
section
/-! DEFINITION. Copy records: their fields (R253), the nest (R254) and the checks of R256. Positions are counted in nibbles, so
that one count serves every element size (R89, R254). -/

namespace Sys2Proof.Machine

/-- KIND: 0 COPY, 1 FILL, 2 GATHER, 3 SCATTER, 4 PACKO, 5 UNPACKO (R253). -/
def copyKind (r : List Word) : Nat := bits (dw r 0) 7 0
/-- SFMT. -/
def copySfmt (r : List Word) : Nat := bits (dw r 8) 3 0
/-- DFMT. -/
def copyDfmt (r : List Word) : Nat := bits (dw r 8) 7 4
/-- SCALE. -/
def copyScale (r : List Word) : Int := signed 8 (bits (dw r 8) 15 8)
/-- RND. -/
def copyRnd (r : List Word) : Nat := bits (dw r 8) 18 16
/-- Whether the command converts (R254). -/
def copyConverts (r : List Word) : Bool := copyKind r != 1 && (copySfmt r != copyDfmt r || copyScale r != 0)
/-- Whether level 0 counts bytes (R254). -/
def copyByBytes (r : List Word) : Bool := copyKind r == 0 && !copyConverts r

/-- The nibbles of an element of a format code. -/
def fmtNibbles (code : Nat) : Nat :=
  match Fmt.ofCode code with
  | some f => f.width / 4
  | none => 2

/-- The nibbles of a source (false) or destination (true) element. -/
def copyUnit (r : List Word) (dst : Bool) : Nat :=
  if copyByBytes r then 2 else fmtNibbles (if dst then copyDfmt r else copySfmt r)

/-- A stride of a level in bytes. -/
def copyStride (r : List Word) (dst : Bool) (l : Nat) : Int :=
  signed 24 (if dst then bits (dw r (4 + l)) 63 40 else bits (dw r (4 + l)) 39 16)

/-- The step of a level in nibbles: level 0 steps by its stride if that is not zero, else by one element (R254). -/
def copyStep (r : List Word) (dst : Bool) (l : Nat) : Int :=
  if l = 0 && copyStride r dst 0 == 0 then copyUnit r dst else 2 * copyStride r dst l

/-- The nibble position of the element at nest indices (R254). -/
def copyPos (r : List Word) (dst : Bool) (is : List Nat) : Int :=
  2 * ((dw r (if dst then 3 else 2)).toNat : Int)
    + ((is.zip (List.range is.length)).map fun (i, l) => (i : Int) * copyStep r dst l).foldl (· + ·) 0

/-- The number of elements of the nest. -/
def copyTotal (r : List Word) : Nat := (copyCounts r).foldl (· * ·) 1

/-- The corners of the nest as index lists. -/
def corners : List Nat → List (List Nat)
  | [] => [[]]
  | c :: cs => (corners cs).flatMap fun t => if c = 1 then [0 :: t] else [0 :: t, (c - 1) :: t]

/-- Check 1 of R117 for the bytes from nibble position `p` on (R256). -/
def Task.spanOut (t : Task) (p : Int) (nibbles : Nat) : Bool :=
  let lo := p / 2
  let hi := (p + nibbles - 1) / 2
  [lo, hi].any fun a => a < 0 || (2 ^ 64 : Nat) ≤ a || t.addrKind (ofInt a) == .out

/-- Check 1 of R256. -/
def copyMalformed (r : List Word) : Bool :=
  let k := copyKind r
  let d0 := dw r 0
  let d8 := dw r 8
  let zeros : Bool := bits d0 31 15 != 0 || bits (dw r 1) 63 48 != 0 || bits (dw r 1) 15 6 != 0 || bits d8 31 19 != 0
    || (List.range 4).any (fun j => dw r (11 + j) != 0) || bits (dw r 15) 63 8 != 0
  let kinds : Bool := 5 < k || bits (dw r 15) 7 0 != 1 || (bits d0 63 32 != 0 && !bit d0 14)
  let fields : Bool := ((k == 1 || k == 5) && dw r 2 != 0) || (k == 4 && dw r 3 != 0) || (k != 1 && bits d8 63 32 != 0)
    || (k == 1 && copySfmt r != 0) || (k ≤ 1 && dw r 9 != 0) || (!bit d0 9 && dw r 10 != 0)
  let codes : Bool := 5 < copyRnd r || 12 < copySfmt r || 12 < copyDfmt r
    || (k == 1 && (copyScale r != 0 || copyRnd r != 0))
    || (k == 2 && (List.range 4).any fun l => copyStride r false l != 0)
    || (k == 3 && (List.range 4).any fun l => copyStride r true l != 0)
  zeros || kinds || fields || codes

/-- Check 2 of R256. -/
def copySignalBad (r : List Word) : Bool :=
  (bit (dw r 0) 8 && (!bit (dw r 1) 20 || bits (dw r 1) 47 21 != 0)) || (dw r 10).toNat % 4 != 0

/-- A 4-bit format code. -/
def isFour (code : Nat) : Bool := code == 10 || code == 11

/-- Check 3 of R256. -/
def copyFourBad (r : List Word) : Bool :=
  let odd : Bool := (copyCounts r).headD 1 % 2 == 1
  (copyConverts r && (isFour (copySfmt r) || isFour (copyDfmt r))
      && (copyStride r false 0 != 0 || copyStride r true 0 != 0 || odd))
    || (copyKind r == 1 && isFour (copyDfmt r) && (copyStride r true 0 != 0 || odd))

/-- The kinds whose destinations are the nest's own. -/
def copyDstNest (r : List Word) : Bool := copyKind r ≤ 2 || copyKind r == 5
/-- The kinds whose sources are the nest's own. -/
def copySrcNest (r : List Word) : Bool := copyKind r == 0 || copyKind r == 3 || copyKind r == 4

/-- Whether destination positions strictly ascend in nest order (check 4 of R256). -/
def copyAscends (r : List Word) : Bool :=
  let cs := copyCounts r
  (List.range 4).all fun l =>
    let back := (List.range l).foldl (fun n m => n + ((cs.getD m 1 : Int) - 1) * copyStep r true m) 0
    cs.getD l 1 == 1 || 0 < copyStep r true l - back

/-- Check 5 of R256. -/
def copyMisaligned (r : List Word) : Bool :=
  let k := copyKind r
  let size (dst : Bool) := Nat.max (copyUnit r dst / 2) 1
  (dw r 2).toNat % size false != 0 || (dw r 3).toNat % size true != 0
    || ((k == 2 || k == 3) && (dw r 9).toNat % 4 != 0) || (4 ≤ k && (dw r 9).toNat % 32 != 0)

/-- Check 6 of R256: the corner elements, the index words, the descriptor and the CRC word. -/
def Task.copyOut (t : Task) (r : List Word) : Bool :=
  let k := copyKind r
  let aux : Int := 2 * ((dw r 9).toNat : Int)
  let cs := corners (copyCounts r)
  (copySrcNest r && cs.any fun is => t.spanOut (copyPos r false is) (copyUnit r false))
    || (copyDstNest r && cs.any fun is => t.spanOut (copyPos r true is) (copyUnit r true))
    || ((k == 2 || k == 3) && (t.spanOut aux 8 || t.spanOut (aux + 8 * ((copyTotal r : Int) - 1)) 8))
    || (4 ≤ k && t.spanOut aux 64)
    || (bit (dw r 0) 9 && t.spanOut (2 * ((dw r 10).toNat : Int)) 8)

/-- The virtual addresses a command may write, as intervals (R253, R255, R260): its nest's destinations, every word an index can reach
for SCATTER, the descriptor's elements for PACKO (anywhere while it is not read), and its CRC word. -/
def copyWrites (desc : Option (List Word)) (r : List Word) : List (Int × Int) :=
  let u : Int := copyUnit r true
  let dst : Int := (dw r 3).toNat
  let out : Int × Int :=
    if copyKind r = 3 then (dst, dst + (2 ^ 32 : Nat) * u / 2 + 1)
    else if copyKind r = 4 then
      match desc with
      | some ws => ((Desc.ofDwords ws).base.toNat, (Desc.ofDwords ws).base.toNat + (Desc.ofDwords ws).span * ((copyUnit r true + 1) / 2 : Nat))
      | none => (0, (2 ^ 64 : Nat))
    else
      let ps := (corners (copyCounts r)).map (copyPos r true)
      (ps.foldl min (2 * dst) / 2, (ps.foldl max (2 * dst) + u - 1) / 2 + 1)
  out :: if bit (dw r 0) 9 then [(((dw r 10).toNat : Int), (dw r 10).toNat + 4)] else []

/-- The checks of R256 on a copied record, in order. -/
def Task.copyCheck (t : Task) (r : List Word) : Option Cause :=
  if copyMalformed r || copySignalBad r || copyFourBad r || (copyDstNest r && !copyAscends r) then some .recordMalformed
  else if copyMisaligned r then some .misalignedData
  else if t.copyOut r then some .addressRange
  else none

end Sys2Proof.Machine
end

