-- ==== Sys2Proof/Machine/Launch.lean ====
section
/-! DEFINITION. What the Gleaner and the management side do to launches and worlds: TIME, events (R405, R421), completion
records (R300, R301), the end of a launch (R304, R320, R383), the end of a rival (R351, R352, R354) and re-execution
(R407, R408). -/

namespace Sys2Proof.Machine

/-- TIME in ns (R305, R425): the die clock runs at 2.7 GHz. -/
def State.time (s : State) : Nat := (s.dev.timeBase + (s.dev.cycle * 10 / 27 : Nat)).toNat

/-- An event to be logged (R405, R406). -/
structure Event where
  kind : Nat
  code : Nat
  die : Nat
  port : Nat
  detail : Word
  count : Nat
  launch : BitVec 12
deriving DecidableEq, Repr

/-- The bytes of an event record (R406). -/
def State.eventBytes (s : State) (part : Fin 16) (e : Event) : List Byte :=
  dwBytes [wd (e.launch.toNat * 2 ^ 48 + e.port * 2 ^ 32 + e.die * 2 ^ 24 + part.val * 2 ^ 16 + e.code * 2 ^ 8 + e.kind),
    wd s.time, e.detail, wd (e.count % 2 ^ 32)]

/-- Replace a partition. -/
def State.setPart (s : State) (i : Fin 16) (p : Partition) : State := { s with parts := s.parts.set i p }

/-- Send an MSI-X message (R421). -/
def State.msix (s : State) (part : Fin 16) (vector : Nat) : State :=
  { s with out := { s.out with msix := s.out.msix ++ [(part, vector)] } }

/-- Where a partition's next event record goes, if its ring takes one (R421). -/
def State.eventSlot (s : State) (part : Fin 16) : Option Nat :=
  let p := s.parts[part]
  let logn := bits p.evCfg 4 0
  let at_ := p.evBase.toNat + 32 * (p.evTail % 2 ^ logn)
  if bit p.evCfg 8 && 4 ≤ logn && logn ≤ 16 && p.evBase.toNat % 32 = 0 && p.owns p.evBase.toNat 32 && p.owns at_ 32
      && !s.isolatedAt at_ && (p.evTail + 2 ^ 64 - p.evHead) % 2 ^ 64 ≠ 2 ^ logn then some at_
  else none

/-- Write an event record into a partition's ring, or count it lost (R405, R421). -/
def State.putEvent (s : State) (part : Fin 16) (bs : List Byte) : State :=
  match s.eventSlot part with
  | some at_ =>
    let s1 := s.writeRoot at_ bs
    (s1.setPart part { s1.parts[part] with evTail := (s.parts[part].evTail + 1) % 2 ^ 64 }).msix part 0
  | none => s.setPart part { s.parts[part] with evLost := s.parts[part].evLost + 1 }

/-- The event of a consumed uncorrectable line of memory (R405 KIND 1). -/
def State.lineEvent (s : State) (detail : Word) : Event :=
  { kind := 1, code := 0x70, die := s.die.val, port := 0, detail := detail, count := 0, launch := 0 }

/-! ### Accesses of the Gleaner (R299) -/

/-- The place of a Gleaner access in a context, if its checks pass (R299): inside one granule, in global space. -/
def State.gleanPlace (s : State) (cid : Fin 64) (acc : Acc) (a : Word) : Option Place :=
  if s.task.addrKind a = .global then
    match s.accessCheck (s.gleaner cid) acc a with
    | .ok (_, p) => some p
    | _ => none
  else none

/-- The pages that n bytes from an address on meet, each by its first byte in the range. -/
def pagesOf (a n : Nat) : List Nat :=
  (List.range ((a % 0x10000 + n + 0xFFFF) / 0x10000)).map fun k => if k = 0 then a else (a / 0x10000 + k) * 0x10000

/-- How the Gleaner's walk of the pages of a range of global space ends at the first that has no translation (R403, R405). -/
def State.gleanWalk (s : State) (cid : Fin 64) (a n : Nat) : Option Walk :=
  let w := s.gleaner cid
  (pagesOf a n).findSome? fun k => match if s.task.addrKind (wd k) = .global then s.lookup w k else .invalid with
    | .leaf _ _ => none
    | x => some x

/-- The uncorrectable PTE that ends the Gleaner's walk of a range. -/
def State.gleanPoison (s : State) (cid : Fin 64) (a n : Nat) : Option Nat :=
  match s.gleanWalk cid a n with
  | some (.poisoned pa) => some (granule pa)
  | _ => none

/-- The Gleaner's walk of a range waits for a PTE that a vector store has still to write (R233, R268). -/
def State.walkHeld (s : State) (cid : Fin 64) (a n : Nat) : Bool :=
  match s.gleanWalk cid a n with
  | some (.reserved _) => true
  | _ => false

/-- Read `n` granule-aligned bytes at a virtual address in a context as the Gleaner (R299). -/
def State.gleanRead (s : State) (cid : Fin 64) (a : Word) (n : Nat) : Option (List Byte) :=
  (partsAt a.toNat n).foldl (fun acc g =>
    acc.bind fun bs => (s.gleanPlace cid .load (wd g.1)).map fun p => bs ++ s.readPlace 0 p g.2) (some [])

/-- A Gleaner access to n bytes waits: for a PTE or a granule that a vector store has still to write, or a write for the reserve of a
Cellar (R233, R268, R414). -/
def State.gleanHeld (s : State) (cid : Fin 64) (a n : Nat) (write : Bool) : Bool :=
  s.walkHeld cid a n || (partsAt a n).any fun g => match s.gleanPlace cid (if write then .store else .load) (wd g.1) with
    | some (.device pa) => s.reserved 0 pa g.2 write || (write && s.reserveFull pa)
    | _ => false

/-- Write bytes at a virtual address in a context as the Gleaner; a granule that cannot be written is passed over. -/
def State.gleanPut (s : State) (cid : Fin 64) (a : Word) (bs : List Byte) : State :=
  (partsAt a.toNat bs.length).foldl (fun s g => match s.gleanPlace cid .store (wd g.1) with
    | some p => s.writePlace 0 p ((bs.drop (g.1 - a.toNat)).take g.2)
    | none => s) s

/-! ### Writes of the module that may wait (R268, R414) -/

/-- n bytes at a device address cannot be written yet: a vector store has reserved some, or the reserve of a Cellar has no room. -/
def State.rootHeld (s : State) (pa n : Nat) : Bool :=
  ((s.cellars || (s.task :: s.keptTasks).any (!·.storeQ.isEmpty)) && (partsAt pa n).any fun g => s.reserved 0 g.1 g.2 true)
    || !s.granRoom (granulesAt pa n)

/-- A write of the module waits. -/
def State.lateHeld (s : State) : LateWrite → Bool
  | .glean c a bs => s.gleanHeld c a.toNat bs.length true
  | .root pa bs => s.rootHeld pa bs.length
  | .event part _ => match s.eventSlot part with
    | some at_ => s.rootHeld at_ 32
    | none => false

/-- Put an event record, or let it wait behind the writes that wait already. -/
def State.postEvent (s : State) (part : Fin 16) (bs : List Byte) : State :=
  if s.late.isEmpty && !s.lateHeld (.event part bs) then s.putEvent part bs else { s with late := s.late ++ [.event part bs] }

/-- Make a write of the module; an uncorrectable PTE that the Gleaner's walk meets is logged (R403, R405). -/
def State.makeLate (s : State) : LateWrite → State
  | .glean c a bs =>
    let s1 := s.gleanPut c a bs
    match s.gleanPoison c a.toNat bs.length with
    | some pa => s1.postEvent (s.partOfCtx c) (s.eventBytes (s.partOfCtx c) (s.lineEvent (wd pa)))
    | none => s1
  | .root pa bs => s.writeRoot pa bs
  | .event part bs => s.putEvent part bs

/-- A write of the module is made at once, or waits for its bytes and behind the writes that wait already. -/
def State.post (s : State) (w : LateWrite) : State :=
  if s.late.isEmpty && !s.lateHeld w then s.makeLate w else { s with late := s.late ++ [w] }

/-- What waited behind a write, after what the write left to wait. -/
def State.behind (s : State) (rest : List LateWrite) : State := { s with late := s.late ++ rest }

/-- The writes that wait are made in order as far as they can be; `fuel` bounds them. -/
def State.deliverLate : State → Nat → State
  | s, 0 => s
  | s, fuel + 1 =>
    match s.late with
    | [] => s
    | w :: rest => if s.lateHeld w then s else ((({ s with late := [] } : State).makeLate w).behind rest).deliverLate fuel

/-- Append an event record to a partition's ring, or count it lost (R405, R421). -/
def State.logEvent (s : State) (part : Fin 16) (e : Event) : State := s.postEvent part (s.eventBytes part e)

/-- The event of a consumed uncorrectable line (R405 KIND 1). The physical address of a loft line is a free value: the
spec gives lofts no physical addresses (log 7). -/
def State.logLine (s : State) (part : Fin 16) : Option Line → State
  | none => s
  | some (.device pa) => s.logEvent part (s.lineEvent (wd pa))
  | some .loft => { s with fresh := s.fresh + 1 }.logEvent part (s.lineEvent (Config.freeBits s.fresh))

/-- The event of an uncorrectable PTE that ends the Gleaner's walk of a range, if it met one (R403, R405). -/
def State.gleanLog (s : State) (cid : Fin 64) (a n : Nat) : State :=
  match s.gleanPoison cid a n with
  | some pa => s.logLine (s.partOfCtx cid) (some (.device pa))
  | none => s

/-- The Gleaner writes bytes at a virtual address in a context (R299, R268). -/
def State.gleanWrite (s : State) (cid : Fin 64) (a : Word) (bs : List Byte) : State := s.post (.glean cid a bs)

/-- The completion record (R300). -/
def completionBytes (id : BitVec 12) (status code : Nat) (time tasks : Nat) (frec : Word) : List Byte :=
  dwBytes [wd (code % 128 * 2 ^ 24 + status * 2 ^ 16 + id.toNat), wd time, wd tasks, frec]

/-- Write a completion record at DONE in a context, if it can be written (R300, R301). -/
def State.writeCompletion (s : State) (cid : Fin 64) (done : Word) (id : BitVec 12) (status code tasks : Nat)
    (frec : Word) : State :=
  s.gleanWrite cid done (completionBytes id status code s.time tasks frec)

/-- A croft with no task. -/
def Task.idle : Task := Task.start 0 0 0 0 false 64 Ident.none

/-- Stop and discard the running task with its VE work, its engine commands and its reserved granules (R268, R320); its
backing pair is released (R227) and its collective commands are stopped. -/
def State.stopTask (s : State) : State :=
  let s1 := s.releasePair s.task
  { s1 with running := false, task := Task.idle
            coll := { s1.coll with cmds := s1.coll.cmds.filter fun c => c.tid != s.task.id.tid } }

/-- A launch of a partition. -/
def State.launch? (s : State) (part : Fin 16) (id : BitVec 12) : Option Launch :=
  s.launches.find? fun L => L.part == part && L.id == id

/-- Replace a live launch's record. -/
def State.setLaunch (s : State) (L : Launch) : State :=
  { s with launches := s.launches.map fun k => if k.part == L.part && k.id == L.id then L else k }

/-- The partition of the running task. -/
def State.myPart (s : State) : Fin 16 := s.partOfCtx s.task.id.cid

/-- The running task's launch. -/
def State.myLaunch (s : State) : Option Launch := s.launch? s.myPart s.task.id.launch

/-- Whether the running task belongs to a launch. -/
def State.runs (s : State) (L : Launch) : Bool := s.running && s.task.id.launch == L.id && s.myPart == L.part

/-- Release the backing pairs of what a launch keeps (R227). -/
def State.releaseKept (s : State) (L : Launch) : State :=
  let s1 := (L.saved ++ L.queue).foldl (fun s e => match e with
    | .task t => s.releasePair t
    | .again _ _ => s) s
  L.parked.foldl (fun s p => s.releasePair p.task) s1

/-- Discard everything of a launch: its running task, its entries, its parents, its worlds and its collective commands
(R320, R358); it is no longer live. -/
def State.dropLaunch (s : State) (L : Launch) : State :=
  let s1 := (if s.runs L then s.stopTask else s).releaseKept L
  { s1 with
    worlds := s1.worlds.filter fun w => !(w.launch == L.id && s1.partOfCtx w.cid == L.part)
    coll := { s1.coll with cmds := s1.coll.cmds.filter fun c => !(c.launch == L.id && c.part == L.part) }
    launches := s1.launches.filter fun k => !(k.part == L.part && k.id == L.id) }

/-- End a live launch with a status (R301, R304, R320): everything of it is discarded and its record written; successors
of a completed launch wait for it no more, those of a failed one fail with its code. `fuel` bounds the chain. -/
def State.endLaunch : Nat → State → Fin 16 → BitVec 12 → Nat → Nat → Word → State
  | 0, s, _, _, _, _, _ => s
  | fuel + 1, s, part, id, status, code, frec =>
    match s.launch? part id with
    | none => s
    | some L =>
      let s1 := (s.dropLaunch L).writeCompletion L.cid L.done L.id status code L.tasks frec
      let waiting := s1.launches.filter fun k => k.part == part && k.preds.contains id
      let s2 := { s1 with launches := s1.launches.map fun k =>
        if k.part == part then { k with preds := k.preds.filter (· != id) } else k }
      if status = 1 then
        waiting.foldl (fun s k => State.endLaunch fuel s part k.id 1 code 0) s2
      else s2

/-- Fail a launch with a code and the record whose fault failed it (R300, R383). -/
def State.failLaunch (s : State) (part : Fin 16) (id : BitVec 12) (code : Nat) (frec : Word) : State :=
  s.endLaunch (s.launches.length + 1) part id 1 code frec

/-- Discard a world and every world under it, with their tags and copies. -/
def State.dropWorld (s : State) (w : Nat) : State :=
  if w = 0 then s else { s with worlds := s.worlds.filter fun k => !s.under w 6 k.num }

/-- Discard the worlds under `w`, the views a pending choice still holds. -/
def State.dropBelow (s : State) (w : Nat) (rivals : List Rival) : State :=
  rivals.foldl (fun s r => if r.world = w then s else s.dropWorld r.world) s

/-- The rivals whose choice a task still has pending (R354). -/
def Task.pendingRivals (t : Task) : List Rival :=
  match t.id.choice with
  | some c => c.rivals
  | none => []

/-- Discard a world's view, keeping its tag until CHOOSE (R352, R355). -/
def State.emptyWorld (s : State) (w : Nat) : State :=
  match s.world? w with
  | some k => s.setWorld { k with granules := [], bytes := [], bad := [] }
  | none => s

/-- Write x[r] of a task; x0 is never written (R24). -/
def Task.setX (t : Task) (r : XReg) (v : Word) : Task := if r = 0 then t else { t with x := t.x.set r v }

/-- A parent that resumes after its last rival (R354). -/
def Parent.resumed (p : Parent) : Task :=
  { p.task with id := { p.task.id with choice := some ⟨p.rivals, some p.rd⟩ } }

/-- Record in its parent that a rival ended, with its score if it is eligible; the last one resumes the parent as a saved
entry of the launch (R351, R352, R354). -/
def State.rivalEnded (s : State) (t : Task) (score : Option Word) : State :=
  match s.launch? (s.partOfCtx t.id.cid) t.id.launch with
  | none => s
  | some L =>
    let mark (p : Parent) : Parent := if p.task.id.tid == t.id.parent then
        { p with rivals := p.rivals.map fun r => if r.world == t.id.world then { r with ended := true, score := score } else r }
      else p
    let parked := L.parked.map mark
    let done := parked.filter fun p => p.rivals.all (·.ended)
    s.setLaunch { L with parked := parked.filter fun p => !p.rivals.all (·.ended)
                         queue := L.queue ++ done.map fun p => Saved.task p.resumed }

/-- End the running rival as ABORTW does (R352): its work is discarded, its view dropped, and the parent told. -/
def State.abortRival (s : State) : State :=
  let t := s.task
  ((s.dropBelow t.id.world t.pendingRivals).emptyWorld t.id.world).stopTask.rivalEnded t none

/-- The GUARD flag of a task's record (R302). -/
def Task.guarded (t : Task) : Bool := bit (dw t.id.entry.record 3) 17

/-- Whether hardware faults re-execute the task (R407, R408): RESTART with its snapshot and not dropped, or GUARD; for a rival, what
the record says as popped. -/
def Task.reruns (t : Task) : Bool :=
  t.guarded || if t.id.forked then bit (dw t.id.entry.record 3) 16 else t.id.restart

/-- Restore the snapshot of a RESTART task at its frame pointer (R408). -/
def State.restore (s : State) (t : Task) : State :=
  match t.id.snapshot with
  | some bs => s.gleanWrite t.id.cid (dw t.id.entry.record 1) bs
  | none => s

/-- Re-execute the running task after a hardware fault (R408): stop it, undo its view or its frame, and queue its logged
record again, at most twice. -/
def State.reexecute (s : State) (cause : Cause) : State :=
  let t := s.task
  let part := s.myPart
  let s1 := (s.dropBelow t.id.world t.pendingRivals).stopTask
  let s2 := if t.guarded then s1.dropWorld t.id.world else s1.restore t
  let n := t.id.attempts + 1
  if n > 2 then s2.failLaunch part t.id.launch cause.code t.id.entry.src
  else
    match s2.launch? part t.id.launch with
    | none => s2
    | some L =>
      (s2.setLaunch { L with queue := L.queue ++ [.again t.id.entry n] }).logEvent part
        { kind := 5, code := cause.code, die := s.die.val, port := 0, detail := t.id.entry.src, count := n,
          launch := t.id.launch }

/-- Stop the running task for good: a forked rival is aborted and its launch goes on (R352, R383), any other task's launch
fails. -/
def State.failTask (s : State) (code : Nat) : State :=
  if s.task.id.forked then s.abortRival else s.failLaunch s.myPart s.task.id.launch code s.task.id.entry.src

end Sys2Proof.Machine
end

