-- ==== Sys2Proof/Machine/Record.lean ====
section
/-! DEFINITION. Thresher command records: fields (R202), the nest (R204), the checks of R205, and the loft bytes and tiles
a command touches, for the range checker (R215, R216). -/

namespace Sys2Proof.Machine

/-- KIND of a Thresher record: 0 MMA, 1 DIST, 2 TOPK, 3 DRAIN, 4 LOADACC (R202). -/
def thrKind (r : List Word) : Nat := bits (dw r 0) 7 0
/-- MMA or DIST. -/
def thrMul (r : List Word) : Bool := thrKind r ≤ 1
/-- DESC_VALID bit k: 0 A, 1 B, 2 C, 3 ORB (R202). -/
def thrDesc (r : List Word) (k : Nat) : Bool := bit (dw r 13) (21 + k)
/-- Loft offset of descriptor k: A, B, C, ORB (R202). -/
def thrDescAt (r : List Word) (k : Nat) : Nat :=
  if k = 0 then bits (dw r 12) 20 0 else if k = 1 then bits (dw r 12) 41 21
  else if k = 2 then bits (dw r 12) 62 42 else bits (dw r 13) 20 0
/-- An A (0) or B (1) operand's FMT code (R202). -/
def opndFmt (r : List Word) (k : Nat) : Nat := bits (dw r (2 + k)) 60 57
/-- An operand's PITCH field. -/
def opndPitch (r : List Word) (k : Nat) : Nat := bits (dw r (2 + k)) 36 21
/-- An operand's BASE. -/
def opndBase (r : List Word) (k : Nat) : Nat := bits (dw r (2 + k)) 20 0
/-- An operand's quarter pitch Q in bytes (R204). -/
def opndQ (r : List Word) (k : Nat) : Nat :=
  let t := bits (dw r (2 + k)) 52 37
  if t = 0 then 16 * opndPitch r k else 64 * t
/-- A step field of a level: 0 ASTEP, 1 BSTEP, 2 CSTEP. -/
def thrStepField (r : List Word) (which l : Nat) : Nat := bits (dw r (5 + l)) (16 * which + 31) (16 * which + 16)
/-- A signed step of a level. -/
def thrStep (r : List Word) (which l : Nat) : Int := signed 16 (thrStepField r which l)
/-- A signed half of a step: 0 the row half [7:0], 1 the column half [15:8] (R204). -/
def thrHalf (r : List Word) (which half l : Nat) : Int := signed 8 (thrStepField r which l / 2 ^ (8 * half))
/-- The first accumulator row. -/
def thrAccRow (r : List Word) : Nat := bits (dw r 4) 7 0
/-- LOFT_BASE. -/
def thrLoft (r : List Word) : Nat := bits (dw r 4) 28 8
/-- LOFT_PITCH. -/
def thrPitch (r : List Word) : Nat := bits (dw r 4) 44 29
/-- DRAIN_FMT. -/
def thrDrainFmt (r : List Word) : Nat := bits (dw r 4) 48 45
/-- TOPK_K. -/
def thrTopK (r : List Word) : Nat := bits (dw r 4) 56 49
/-- ZK_LEVEL. -/
def thrZk (r : List Word) : Nat := bits (dw r 11) 3 0
/-- A signed 8-bit field of dw11: 8 A_SCALE, 16 B_SCALE, 24 DRAIN_SCALE. -/
def thrScale (r : List Word) (lo : Nat) : Int := signed 8 (bits (dw r 11) (lo + 7) lo)

/-- Σ index × step over the levels (R204). -/
def nestSum (is : List Nat) (step : Nat → Int) : Int :=
  ((is.zip (List.range is.length)).map fun (i, l) => (i : Int) * step l).foldl (· + ·) 0

/-- The least and the greatest value of base + Σ i_l × step_l over the nest's corners (R205). -/
def nestRange (counts : List Nat) (base : Int) (step : Nat → Int) : Int × Int :=
  ((counts.zip (List.range counts.length)).map fun (c, l) => ((c : Int) - 1) * step l).foldl
    (fun (lo, hi) x => (lo + min 0 x, hi + max 0 x)) (base, base)

/-- Bytes of a row of 64 elements (R202). -/
def rowBytes (fmt : Nat) : Nat :=
  match Fmt.ofCode fmt with
  | some f => 8 * f.width
  | none => 0

/-- The classes of R201: 1 floating, 2 integer, 0 neither. -/
def thrClass (fmt : Nat) : Nat :=
  match Fmt.ofCode fmt with
  | some .fp32 => 0
  | some .int32 => 0
  | some f => if f.isInt then 2 else 1
  | none => 0

/-- A half-open range of loft bytes. -/
abbrev Span := Int × Int

/-- The dense operand bytes over the whole nest. -/
def opndSpan (r : List Word) (k : Nat) : Span :=
  let (lo, hi) := nestRange (thrCounts r) 0 (thrStep r k)
  let b : Int := opndBase r k
  (b + 64 * lo, b + 64 * hi + (3 * opndQ r k + 15 * opndPitch r k + rowBytes (opndFmt r k) : Nat))

/-- The loft rows of DRAIN, LOADACC and TOPK over the whole nest. -/
def loftSpan (r : List Word) : Span :=
  let (lo, hi) := nestRange (thrCounts r) 0 (thrStep r 2)
  let b : Int := thrLoft r
  let ext := if thrKind r = 2 then 384 * thrTopK r else 63 * thrPitch r + rowBytes (thrDrainFmt r)
  (b + 64 * lo, b + 64 * hi + (ext : Nat))

/-- The accumulator row of the first row of a step, least and greatest over the nest. -/
def accRange (r : List Word) : Int × Int :=
  nestRange (thrCounts r) (thrAccRow r) (thrStep r (if thrMul r then 2 else 0))

/-- The bytes of a descriptor. -/
def descSpan (r : List Word) (k : Nat) : Span := (thrDescAt r k, thrDescAt r k + 32)

/-- The loft bytes a record names itself: reads, then writes. -/
def thrSpans (r : List Word) : List Span × List Span :=
  let descs := ((List.range 4).filter (thrDesc r)).map (descSpan r)
  if thrMul r then
    (((List.range 2).filter fun k => !thrDesc r k).map (opndSpan r) ++ descs, [])
  else if thrKind r = 4 then (loftSpan r :: descs, [])
  else if thrKind r = 3 && thrDesc r 2 then (descs, [])
  else (descs, [loftSpan r])

/-- Whether a record is malformed: the conditions of checks 1 to 4 of R205, all 0x40. Where A and B are of different classes, A's decides
whether A_SCALE and B_SCALE must be zero: the model's choice (log 68). -/
def thrMalformed (r : List Word) : Bool :=
  let k := thrKind r
  let d0 := dw r 0
  let mul := thrMul r
  let kinds : Bool := 4 < k || bits (dw r 15) 7 0 != 1
  let zeros : Bool := bits d0 31 19 != 0 || bits (dw r 1) 63 48 != 0 || bits (dw r 1) 15 6 != 0 || bits (dw r 2) 63 61 != 0
    || bits (dw r 3) 63 61 != 0 || bits (dw r 4) 63 57 != 0 || bits (dw r 11) 63 35 != 0 || bits (dw r 11) 7 4 != 0
    || bit (dw r 12) 63 || bits (dw r 13) 63 25 != 0 || dw r 14 != 0 || bits (dw r 15) 63 8 != 0
  let other : Bool := (k != 2 && (bit d0 18 || thrTopK r != 0)) || (!mul && bits d0 12 8 &&& 0b11111 != 0)
    || (bits d0 63 32 != 0 && !bit d0 17)
    || (!mul && (List.range 6).any fun l => thrStepField r 1 l != 0)
    || (k == 2 && thrPitch r != 0) || (k == 3 && thrDesc r 2 && thrLoft r != 0)
    || (List.range 2).any fun o => thrDesc r o && (bits (dw r (2 + o)) 52 37 != 0 || opndBase r o != 0)
  let codes : Bool := 12 < opndFmt r 0 || 12 < opndFmt r 1 || 12 < thrDrainFmt r || 5 < bits (dw r 11) 34 32 || 5 < thrZk r
    || (k == 2 && (thrTopK r == 0 || 64 < thrTopK r))
  let align : Bool := (mul && (List.range 2).any fun o => !thrDesc r o
        && (opndPitch r o % 32 != 0 || opndPitch r o < rowBytes (opndFmt r o) || opndBase r o % 64 != 0))
    || (!mul && !(k == 3 && thrDesc r 2) && (thrLoft r % 64 != 0 || (k != 2 && thrPitch r % 32 != 0)))
    || (List.range 4).any (fun o => thrDesc r o && thrDescAt r o % 32 != 0)
    || (mul && thrClass (opndFmt r 0) == 2 && (thrScale r 8 != 0 || thrScale r 16 != 0))
  let descs : Bool := ((thrDesc r 0 || thrDesc r 1) && !mul) || (thrDesc r 2 && (k == 4 || k == 2))
    || thrDesc r 3 != bit d0 10 || (bit d0 11 && !thrDesc r 2)
    || (bit d0 10 && thrStepField r 2 (thrZk r) != 0)
  kinds || zeros || other || codes || align || descs

/-- The format rules of check 5 of R205. -/
def thrFormatBad (r : List Word) : Bool :=
  thrMul r && (thrClass (opndFmt r 0) == 0 || thrClass (opndFmt r 0) != thrClass (opndFmt r 1)
    || (bit (dw r 0) 9 && thrClass (opndFmt r 0) == 1))

/-- The least origin block the nest reaches. -/
def thrBlocksBad (r : List Word) : Bool :=
  let low (b : Nat) (which half : Nat) : Bool := (nestRange (thrCounts r) (b : Int) (thrHalf r which half)).1 < 0
  (thrMul r && (List.range 2).any fun o => thrDesc r o
      && (low (opndPitch r o % 256) o 0 || low (opndPitch r o / 256) o 1))
    || (thrKind r = 3 && thrDesc r 2 && (low (thrPitch r % 256) 2 0 || low (thrPitch r / 256) 2 1))

/-- The checks of R205 on a copied record, under a scratchpad limit. -/
def thrCheck (r : List Word) (limit : Nat) : Option Cause :=
  let spans := (thrSpans r).1 ++ (thrSpans r).2
  let (clo, chi) := accRange r
  if thrMalformed r then some .recordMalformed
  else if thrFormatBad r then some .format
  else if clo < 0 || 255 < chi + 63 || thrBlocksBad r || spans.any (fun s => s.1 < 0 || 0x200000 < s.2) then some .nestRange
  else if spans.any (fun s => (limit : Int) < s.2) then some .addressRange
  else none

/-! ### What a command touches (R215, R216) -/

/-- The sums m + i × d over i < c of a set of numbers held as the bits of `m`, by doubling. -/
def spread : Nat → Nat → Nat → Nat → Nat
  | 0, m, _, _ => m
  | fuel + 1, m, d, c =>
    if c ≤ 1 then m
    else
      let h := (c + 1) / 2
      let a := spread fuel m d h
      a ||| (a <<< (d * (c - h)))

/-- The set of Σ i_l × step_l over a nest, as bits counted from its least value. -/
def nestMask : List Nat → (Nat → Int) → Nat → Nat
  | [], _, _ => 1
  | c :: cs, step, l => spread 17 (nestMask cs step (l + 1)) (step l).natAbs c

/-- A family of equal runs of loft bytes: `n` bytes from `base` + 64 × v + row for each v of a set whose least value is `low`
and each row offset. -/
structure Runs where
  base : Int
  low : Int
  mask : Nat
  rows : List Nat
  n : Nat

/-- Whether one of the runs meets the 64-byte granule at an offset. -/
def Runs.meets (x : Runs) (off : Nat) : Bool :=
  x.rows.any fun row =>
    -- base + 64 v + row < granule + 64 and granule < base + 64 v + row + n
    let first : Int := ((granule off : Int) - x.base - row - x.n) / 64 + 1
    (List.range (x.n / 64 + 2)).any fun k =>
      let v : Int := first + (k : Nat)
      let at_ : Int := x.base + 64 * v + row
      x.low ≤ v && x.mask.testBit (v - x.low).toNat && at_ < (granule off : Int) + 64 && (granule off : Int) < at_ + x.n

/-- The runs of a nest with a step. -/
def thrRuns (r : List Word) (which base : Nat) (rows : List Nat) (n : Nat) : Runs :=
  { base := base, low := (nestRange (thrCounts r) 0 (thrStep r which)).1, mask := nestMask (thrCounts r) (thrStep r which) 0
    rows := rows, n := n }

/-- The rows of a dense operand over the nest. -/
def opndRuns (r : List Word) (k : Nat) : Runs :=
  thrRuns r k (opndBase r k) ((List.range 64).map fun row => row / 16 * opndQ r k + row % 16 * opndPitch r k) (rowBytes (opndFmt r k))

/-- The loft rows of DRAIN, LOADACC and TOPK over the nest. -/
def loftRuns (r : List Word) : Runs :=
  if thrKind r = 2 then thrRuns r 2 (thrLoft r) [0] (384 * thrTopK r)
  else thrRuns r 2 (thrLoft r) ((List.range 64).map (· * thrPitch r)) (rowBytes (thrDrainFmt r))

/-- Whether a span meets the 64-byte granule at an offset (R215). -/
def spanMeets (off : Nat) (s : Span) : Bool := s.1 < (granule off : Int) + 64 && (granule off : Int) < s.2

/-- The descriptors a record names meet a granule. -/
def descsMeet (r : List Word) (off : Nat) : Bool := (List.range 4).any fun k => thrDesc r k && spanMeets off (descSpan r k)

/-- The loft bytes that hold the elements of an operand's descriptor: all of the loft while it is not known, and none where the command
faults on it, as it then touches no element (R209, R212, R218). -/
def storageSpan (fmt : Nat) (desc : Option (List Word)) : Span :=
  match desc with
  | none => (0, 0x200000)
  | some ws =>
    let D := Desc.ofDwords ws
    match Fmt.ofCode D.fmt with
    | some f =>
      if Desc.valid ws && D.rank == 2 && D.fmt == fmt && bits D.base 63 21 = 0xF0000000 * 8 then
        let lo := bits D.base 20 0
        ((lo : Int), (lo + D.span * f.bytes : Nat))
      else (0, 0)
    | none => (0, 0)

/-- The loft granule a command reads (R215): operand rows, descriptors and LOADACC rows; `desc k` is descriptor k as it will read
it, if that is known. -/
def thrReads (desc : Nat → Option (List Word)) (r : List Word) (off : Nat) : Bool :=
  descsMeet r off
    || (thrMul r && (List.range 2).any fun k =>
        if thrDesc r k then spanMeets off (storageSpan (opndFmt r k) (desc k)) else (opndRuns r k).meets off)
    || (thrKind r = 4 && (loftRuns r).meets off)

/-- The loft granule a command writes (R215): DRAIN and TOPK outputs. -/
def thrWrites (desc : Nat → Option (List Word)) (r : List Word) (off : Nat) : Bool :=
  (thrKind r = 2 && (loftRuns r).meets off)
    || (thrKind r = 3 && if thrDesc r 2 then spanMeets off (storageSpan (thrDrainFmt r) (desc 2)) else (loftRuns r).meets off)

/-- The tiles a command writes a row of (R216): a list of 0 to 3. -/
def thrTiles (r : List Word) : List Nat :=
  if thrMul r || thrKind r = 4 then
    let which := if thrMul r then 2 else 0
    let low := (nestRange (thrCounts r) 0 (thrStep r which)).1
    let mask := nestMask (thrCounts r) (thrStep r which) 0
    (List.range 4).filter fun t =>
      (List.range 127).any fun k =>
        -- a first row from 63 below the tile to its last
        let v : Int := 64 * (t : Int) - 63 + (k : Nat) - thrAccRow r - low
        0 ≤ v && mask.testBit v.toNat
  else []

end Sys2Proof.Machine
end

