-- ==== Sys2Proof/Machine/Ops.lean ====
section
/-! DEFINITION. The shared operations of the sequencer: the outcome of an instruction, registers (R24), the end of an
instruction (R123), memory accesses (R116 to R118, R268, R269, R215), waits (R391 to R393), taking a trap (R382 to R385,
R407) and returning from one (R387). -/

namespace Sys2Proof.Machine

/-- The outcome of an instruction's work: a value; a precise trap, with the state it leaves; a wait; a wait for the VE
(R392); or a stop. -/
inductive Res (α : Type) where
  | ok (a : α)
  | trap (s : State) (r : Raise)
  | wait
  | held
  | stop (f : Fault)

/-- Continue with a value. -/
def Res.bind {α β : Type} (x : Res α) (f : α → Res β) : Res β :=
  match x with
  | .ok a => f a
  | .trap s r => .trap s r
  | .wait => .wait
  | .held => .held
  | .stop g => .stop g

/-- A checked value, with the state a failure leaves. -/
def Res.ofChk {α : Type} (s : State) (x : Chk α) : Res α :=
  match x with
  | .ok a => .ok a
  | .bad r => .trap s r
  | .wait => .wait
  | .stop f => .stop f

/-- A precise fault. -/
def Res.fail {α : Type} (s : State) (c : Cause) (tval : Word) : Res α := .trap s ⟨c, tval, none⟩

/-- Fault unless a condition holds. -/
def Res.need (s : State) (b : Bool) (c : Cause) (tval : Word) : Res Unit := if b then .ok () else .fail s c tval

/-- A fault leaves the state as it was before the instruction (R129, R165). -/
def Res.undo {α : Type} (s : State) (x : Res α) : Res α :=
  match x with
  | .trap _ r => .trap s r
  | y => y

/-- Wait until a condition holds. -/
def Res.until (b : Bool) : Res Unit := if b then .ok () else .wait

/-- Wait for the VE until a condition holds (R392). -/
def Res.untilVe (b : Bool) : Res Unit := if b then .ok () else .held

/-- Do something for each of a list, in order, until one fails. -/
def Res.each {α σ : Type} (f : σ → α → Res σ) : List α → σ → Res σ
  | [], s => .ok s
  | a :: l, s => (f s a).bind fun s1 => Res.each f l s1

/-! ### Registers and mode -/

/-- Update the running task. -/
def State.setTask (s : State) (f : Task → Task) : State := { s with task := f s.task }

/-- Read x[r]; x0 reads 0 (R24). -/
def State.x (s : State) (r : XReg) : Word := if r = 0 then 0 else s.task.x[r]

/-- Write x[r]; a write to x0 is discarded (R24). -/
def State.setX (s : State) (r : XReg) (v : Word) : State := s.setTask fun t => t.setX r v

/-- STATUS.MODE is supervisor (R363). -/
def State.sup (s : State) : Bool := bit s.task.csr.status 0

/-- STATUS.DET (R321, R363). -/
def State.det (s : State) : Bool := bit s.task.csr.status 4

/-- The task runs in a rival or in a GUARD task's world (R342). -/
def State.inRival (s : State) : Bool := s.task.id.world != 0

/-- Replace the CSRs of the running task. -/
def State.setCsr (s : State) (c : Csrs) : State := s.setTask fun t => { t with csr := c }

/-- OR flags into FCTL[7:3] (R101, R133). -/
def Csrs.addFlags (c : Csrs) (f : Flags) : Csrs :=
  { c with fctl := c.fctl ||| (BitVec.zeroExtend 64 f <<< 3) }

/-- Set STATUS.SB (R194). -/
def Csrs.setSb (c : Csrs) : Csrs := { c with status := c.status ||| 0x20 }

/-! ### The end of an instruction -/

/-- One level of the loop-end check of R123: none when the level does not step back, with LC cleared if it falls through. -/
def loopLevel (ls le lc e : Word) : Word × Option Word :=
  if lc != 0 && le == e then if lc != 1 then (lc - 1, some ls) else (0, none) else (lc, none)

/-- The loop-end check of R123 for an instruction at `e`, level 1 first; the next pc is `next` unless a level steps back. -/
def Csrs.loopEnd (c : Csrs) (e next : Word) : Csrs × Word :=
  match loopLevel c.ls1 c.le1 c.lc1 e with
  | (lc1, some pc) => ({ c with lc1 := lc1 }, pc)
  | (lc1, none) =>
    match loopLevel c.ls0 c.le0 c.lc0 e with
    | (lc0, some pc) => ({ c with lc1 := lc1, lc0 := lc0 }, pc)
    | (lc0, none) => ({ c with lc1 := lc1, lc0 := lc0 }, next)

/-- The task after its instruction at pc completed, to go on at `next` unless a loop steps back (R123). -/
def Task.advanceTo (t : Task) (next : Word) : Task :=
  { t with csr := (t.csr.loopEnd t.pc next).1, pc := (t.csr.loopEnd t.pc next).2 }

/-- The task after its instruction at pc completed (R123). -/
def Task.advance (t : Task) : Task := t.advanceTo (t.pc + 4)

/-- The instruction at pc completes (R123). -/
def State.advance (s : State) : State := s.setTask Task.advance

/-- Continue at an address with no loop-end check (R120, R123). -/
def State.jump (s : State) (pc : Word) : State := s.setTask fun t => { t with pc := pc }

/-! ### What stands in the way of an access -/

/-- The phase of a stook. -/
def Task.phase (t : Task) (k : Nat) : Bool :=
  match t.stooks.toList[k]? with
  | some v => v.phase
  | none => false

/-- The wait of a record's dw1 is met (R206 step 2). -/
def Task.waitMet (t : Task) (r : List Word) : Bool :=
  let d := dw r 1
  !bit d 5 || t.phase (bits d 3 0) == bit d 4

/-- A copy command of the task that has not completed may still write a granule of the loft (R253, R255, R260). -/
def Task.fills (t : Task) (o : Nat) : Bool :=
  let g : Int := (loftVa (granule o)).toNat
  t.ch.toList.any fun k => k.cmds.any fun c => (copyWrites c.desc c.record).any fun i => i.1 < g + 64 && g < i.2

/-- The descriptor that stands at a loft offset now, its page in the loft or in its backing slot (R226); no descriptor where it cannot be
read, as the command that reads it faults (R218). -/
def State.loftLook (s : State) (o : Nat) : List Word :=
  match s.refill s.task.id.cid o (loftVa o) with
  | .ok s1 => if s1.task.loftBad o 32 then [] else dwords (s1.task.loft.getBytes o 32)
  | _ => []

/-- Descriptor k of a queued command as the command will read it; none while it cannot be told: an earlier vector store or a
command of `before` still writes it, or a copy may while the command is `held` by a wait, its own or one ahead of it (R23, R215,
log 57). -/
def State.descOf (s : State) (c : ThrCmd) (before : Nat → Bool) (held : Bool) (k : Nat) : Option (List Word) :=
  match c.descs with
  | some ds => ds[k]?
  | none =>
    let o := thrDescAt c.record k
    if s.task.storeQ.any (fun e => e.issued < c.ordinal && e.granules.any (·.2 == .loft (granule o))) || before o
        || (held && s.task.fills o) then none
    else some (s.loftLook o)

/-- A queued command has not started and its wait is not met (R206 step 2). -/
def Task.thrWaits (t : Task) (c : ThrCmd) : Bool := !c.started && !t.waitMet c.record

/-- Whether one of some queued commands writes a loft granule that an access wants, or reads one that it writes (R215); `before`
tells what the commands ahead of them write, and `held` whether one of those waits. -/
def State.thrHolds (s : State) (o : Nat) (write : Bool) : List ThrCmd → (Nat → Bool) → Bool → Bool
  | [], _, _ => false
  | c :: cs, before, held =>
    let h := held || s.task.thrWaits c
    let d := s.descOf c before h
    thrWrites d c.record o || (write && thrReads d c.record o)
      || s.thrHolds o write cs (fun x => before x || thrWrites d c.record x) h

/-- Whether an access of the task to n bytes at a place must wait for an earlier vector store of its own, or never ends (R268, R269);
for the loft, or for an earlier Thresher command (R215). -/
def State.busy (s : State) (p : Place) (n : Nat) (write : Bool) : Busy :=
  if p.isWindow then .free
  else
    match s.task.blocker p n write with
    | some k => if s.task.storeDead k then .dead else .wait
    | none =>
      match p with
      | .loft o => if s.thrHolds o write s.task.thr.cmds (fun _ => false) false then .wait else .free
      | _ => .free

/-- The root write of world `w` finds the reserve of a running Cellar full (R414). -/
def State.rootFull (s : State) (w : Nat) : Place → Bool
  | .device pa => (s.world? w).isNone && s.reserveFull pa
  | _ => false

/-- The reserve of a Cellar has room for writes of the running task at some places (R414). -/
def State.placesRoom (s : State) (ps : List Place) : Bool :=
  !s.cellars || s.granRoom (ps.filterMap fun p => match p with
    | .device pa => if (s.world? s.task.id.world).isNone then some (pa / 4096) else none
    | _ => none).eraseDups

/-- The claim a write of world `w` would make copies a granule that some vector store has still to write (R268, R349). -/
def State.claimHeld (s : State) (w : Nat) : Place → Bool
  | .device pa =>
    match s.world? w with
    | some k => !k.granules.contains (pa / 4096) && s.reservedPage w (pa / 4096)
    | none => false
  | _ => false

/-- A write of world `w` must wait for its claim or for the reserve of a Cellar. -/
def State.writeHeld (s : State) (w : Nat) (p : Place) : Bool := s.claimHeld w p || s.rootFull w p

/-- A kept task's vector store holds back an access to a place (R268). -/
def State.keptHolds (s : State) (w : Nat) (p : Place) (n : Nat) (write : Bool) : Bool :=
  match p with
  | .device pa => s.heldByKept w pa n write
  | _ => false

/-! ### The sequencer's memory accesses -/

/-- Wait until an access may be performed: every earlier vector store to a type-2 page has been (R236). One whose tile will never come is
a deadlock, 0x30 with TVAL the access's address as R269 has it for the others (log 57). -/
def State.windowClear (s : State) (a : Word) : Res Unit :=
  match s.task.windowBusy with
  | .free => .ok ()
  | .wait => .wait
  | .dead => .fail s .queueUnderflow a

/-- Wait for, or fault on, what holds n bytes at a place back (R215, R268). R269 gives TVAL as the waiting access's address: of a vector
access or a register list the model gives that of the granule or piece that waits (log 69). -/
def State.placeClear (s : State) (p : Place) (n : Nat) (write : Bool) (a : Word) : Res Unit :=
  let w := s.task.id.world
  match s.busy p n write with
  | .free => Res.until (!s.keptHolds w p n write && !(write && s.writeHeld w p))
  | .wait => .wait
  | .dead => .fail s .queueUnderflow a

/-- Wait for, or fault on, what stands in the way of an access (R215, R236, R268, R269). -/
def State.clear (s : State) (p : Place) (n : Nat) (write : Bool) (a : Word) : Res Unit :=
  (s.windowClear a).bind fun _ => s.placeClear p n write a

/-- The bytes of a granule whose host or peer store was answered with an error are unknown (R236): free values. -/
def State.scramble (s : State) (p : Place) : State :=
  let bs := (List.range 64).map fun k => Config.freeByte (s.fresh + k)
  match p with
  | .host a => { s with host := s.host.putBytes (granule a) bs, fresh := s.fresh + 64 }
  | .peer e o => { s with peer := s.peer.putBytes (peerKey e (granule o)) bs, fresh := s.fresh + 64 }
  | _ => s

/-- Check 6 of R117; a store that the host or peer target answers with an error leaves the granule unknown (R236). -/
def State.targetCheck (s : State) (w : Who) (acc : Acc) (a : Word) (p : Place) : Res Unit :=
  Res.ofChk (if acc = .store then s.scramble p else s) (s.windowCheck w a p)

/-- Checks 6 and 7 of R117 for n bytes, as the data move. -/
def State.moveCheck (s : State) (acc : Acc) (a : Word) (n : Nat) (p : Place) : Res Unit :=
  let w := s.who s.sup
  (s.targetCheck w acc a p).bind fun _ => Res.ofChk s (s.lineCheck w acc a n p)

/-- Checks 6 and 7 of R117 for the parts of a granule that a read takes, each an offset and a length. -/
def State.spanCheck (s : State) (a : Word) (p : Place) (spans : List (Nat × Nat)) : Res Unit :=
  let w := s.who s.sup
  (s.targetCheck w .load a p).bind fun _ =>
    Res.each (fun _ k => Res.ofChk s (s.lineCheck w .load a k.2 (p.add k.1))) spans ()

/-- Checks 3 to 7 of R117 for an access of n bytes inside one granule, with the waits of R215 and R268 before the data move. -/
def State.openAt (s : State) (acc : Acc) (a : Word) (n : Nat) : Res (State × Place) :=
  (Res.ofChk s (s.placeFind (s.who s.sup) acc a)).bind fun (s1, p) =>
    (s1.clear p n (acc != .load) a).bind fun _ => (s1.moveCheck acc a n p).bind fun _ => .ok (s1, p)

/-- Read n bytes inside one granule. -/
def State.readGran (s : State) (a : Word) (n : Nat) : Res (State × List Byte) :=
  (s.openAt .load a n).bind fun (s1, p) => .ok (s1, s1.readPlace s1.task.id.world p n)

/-- Claim the copy a write needs (R349, R353). -/
def State.claimFor (s : State) (a : Word) (p : Place) : Res State := Res.ofChk s (s.claimCheck (s.who s.sup) a p)

/-- Write n bytes inside one granule. -/
def State.writeGran (s : State) (a : Word) (bs : List Byte) : Res State :=
  (s.openAt .store a bs.length).bind fun (s1, p) =>
    (s1.claimFor a p).bind fun s2 => .ok (s2.writePlace s2.task.id.world p bs)

/-- Checks 1 and 2 of R117: range, then alignment. -/
def State.aligned (s : State) (a : Word) (w : Nat) (c : Cause) : Res Unit :=
  (Res.ofChk s (s.task.rangeCheck a)).bind fun _ => Res.need s (a.toNat % w = 0) c a

/-- A plain aligned read of w bytes inside one granule (R116 to R118). -/
def State.read (s : State) (a : Word) (w : Nat) : Res (State × List Byte) :=
  (s.aligned a w .misalignedData).bind fun _ => s.readGran a w

/-- A plain aligned store (R116 to R118). -/
def State.write (s : State) (a : Word) (bs : List Byte) : Res State :=
  (s.aligned a bs.length .misalignedData).bind fun _ => s.writeGran a bs

/-- Read n granules from a granule-aligned loft address (R118). -/
def State.readBlock (s : State) (a : Word) : Nat → Res (State × List Byte)
  | 0 => .ok (s, [])
  | k + 1 =>
    (s.readGran a 64).bind fun (s1, bs) => (s1.readBlock (a + 64) k).bind fun (s2, more) => .ok (s2, bs ++ more)

/-! ### Accesses made piece by piece (R195, R221) -/

/-- Checks 3 to 5 of R117 for every access of a list of addresses, in order, and the places they find. -/
def State.findAll (s : State) (acc : Acc) (as : List Nat) : Res (State × List (Nat × Place)) :=
  Res.each (fun (p : State × List (Nat × Place)) a =>
    (Res.ofChk p.1 (p.1.placeFind (p.1.who p.1.sup) acc (wd a))).bind fun (s1, pl) => .ok (s1, p.2 ++ [(a, pl)])) as (s, [])

/-- The waits of R215 and R268 for every access of n bytes. -/
def State.clearAll (s : State) (n : Nat) (write : Bool) (ps : List (Nat × Place)) : Res Unit :=
  Res.each (fun _ p => s.clear p.2 n write (wd p.1)) ps ()

/-- Claim the copies that writes need. -/
def State.claimAll (s : State) (ps : List (Nat × Place)) : Res State := Res.each (fun s p => s.claimFor (wd p.1) p.2) ps s

/-- The access the sequencer is in the middle of. -/
def State.setPiece (s : State) (p : Option Partial) : State := s.setTask fun t => { t with part := p }

/-- Go on with a read of pieces of n bytes: one piece is read, of which the instruction takes the parts `spans` gives, and the last one
completes with what `done` makes of them all. -/
def State.readPiece (s : State) (p : Partial) (n : Nat) (spans : Nat → List (Nat × Nat)) (done : State → List (Nat × List Byte) → State) : Res State :=
  match p.left with
  | [] => .ok (done (s.setPiece none) p.got)
  | (a, pl) :: rest =>
    ((s.setPiece none).spanCheck (wd a) pl (spans a)).bind fun _ =>
      let got := p.got ++ [(a, s.readPlace s.task.id.world pl n)]
      .ok (if rest.isEmpty then done (s.setPiece none) got else s.setPiece (some { p with left := rest, got := got }))

/-- Go on with a write of pieces: `piece` of the number of pieces left gives the bytes of the next, and the last one completes. -/
def State.writePiece (s : State) (p : Partial) (piece : Nat → List Byte) (done : State → State) : Res State :=
  match p.left with
  | [] => .ok (done (s.setPiece none))
  | (_, pl) :: rest =>
    (Res.until (!s.rootFull s.task.id.world pl)).bind fun _ =>
      let s1 := s.writePlace s.task.id.world pl (piece p.left.length)
      .ok (if rest.isEmpty then done (s1.setPiece none) else s1.setPiece (some { p with left := rest }))

/-! ### Waits for the task's own work -/

/-- Every VE instruction the task has dispatched since its last trap entry has completed (R391). -/
def Task.veDone (t : Task) : Bool := t.veQ.isEmpty

/-- The store entries a wait of R391 counts. -/
def Task.openStores (t : Task) : List StoreEntry :=
  ((t.storeQ.zip (List.range t.storeQ.length)).filter fun (e, n) => t.storeCounts n e).map (·.1)

/-- Every VE instruction and every vector store the task has issued has completed, those held aside included (R315, R346, R351). -/
def Task.vectorDone (t : Task) : Bool := t.dispatched.isEmpty && t.storeQ.isEmpty

/-- Every engine command the task has issued has completed (R247, R315, R339); collective commands are the unit's. -/
def State.enginesDone (s : State) : Bool :=
  s.task.thr.cmds.isEmpty && s.task.ch.toList.all (·.cmds.isEmpty)
    && s.task.q.toList.all (fun q => match q.stream with
        | some d => d.finished
        | none => true)
    && !s.coll.cmds.any (·.tid == s.task.id.tid)

/-- The queue-precise deadlocks of R392 and R393, raised at the VE while the sequencer is held waiting for it. An instruction whose
queue registers have the wrong roles has its own fault (R143, R144). -/
def Task.strain (t : Task) : Task :=
  match t.veQ, t.pend.ve with
  | e :: _, none =>
    if !e.roleOk then t
    else
      match e.instr.popped.find? fun q => t.q[q].dry with
      | some q => { t with pend := { t.pend with ve := some ⟨.queueUnderflow, wd q.val⟩, veAt := e.addr } }
      | none =>
        match e.instr.pushed with
        | some q =>
          if Config.queueTiles ≤ t.q[q].tiles.length && !t.storeQ.any (fun k => k.instr.memQ == some q) then
            { t with pend := { t.pend with ve := some ⟨.queueOverflow, wd q.val⟩, veAt := e.addr } }
          else t
        | none => t
  | _, _ => t

/-! ### Taking a trap -/

/-- What a trap needs (R382). -/
structure TrapReq where
  cause : Cause
  tval : Word
  source : Nat
  qn : Nat
  ve : Bool
  vepc : Word
  line : Option Line

/-- The CAUSE word (R381). -/
def TrapReq.word (t : TrapReq) : Word :=
  wd (t.qn * 0x1000 + t.source * 0x100 + (if t.ve then 0x80 else 0) + t.cause.code)

/-- STATUS at trap entry: PIE := IE, PMODE := MODE, IE := 0, MODE := 1 (R382). -/
def statusEnter (x : Word) : Word :=
  let ie := if bit x 1 then 1 else 0
  let mode := if bit x 0 then 1 else 0
  setBits x 3 0 (ie * 8 + mode * 4 + 1)

/-- The CSRs at trap entry (R382): EPC[63:2] names the next instruction, [1] is zero (R381) and SAVE is 0. -/
def Csrs.enter (c : Csrs) (t : TrapReq) (epc : Word) : Csrs :=
  { c with cause := t.word, epc := setBits epc 1 0 0, tval := t.tval
           vepc := if t.ve then setBits t.vepc 0 0 0 else 0, status := statusEnter c.status }

/-- The VE instruction queue without a VEXT whose wait ends (R159, R382). -/
def withoutVext (q : List VeEntry) : List VeEntry :=
  q.filter fun e => match e.instr with
    | .vext _ _ _ => false
    | _ => true

/-- The vector store stopped by the fault whose VEPC is `at_`, if it is one that no outer trap holds. -/
def Task.stoppedStore (t : Task) (at_ : Word) : Option Nat :=
  (t.storeQ.find? fun e => e.stopped && e.addr == at_ && !t.held.any (·.store == some e.num)).map (·.num)

/-- The queue register of the stream whose fault a trap delivers (R338, R390). -/
def TrapReq.stream (q : TrapReq) : Option (Fin 8) :=
  if q.source = 7 then some ⟨q.qn % 8, Nat.mod_lt _ (by decide)⟩ else none

/-- What a trap holds aside (R382, R391): the VE queue, and its own stopped store; a trap of another source takes along a
queue-precise cause still pending, which its TRET gives back (log 46); and the stream it delivers a fault of. -/
def Task.setAside (t : Task) (q : TrapReq) : HeldLevel :=
  let cause := if q.ve then none else t.pend.ve.map fun r => (r, t.pend.veAt)
  { ves := withoutVext t.veQ, cause := cause
    store := if q.ve then t.stoppedStore q.vepc else cause.bind fun c => t.stoppedStore c.2
    stream := q.stream }

/-- The task at trap entry: the trap registers written and the VE queue held aside (R382, R391). -/
def Task.enter (t : Task) (q : TrapReq) (target : Word) : Task :=
  { t with csr := t.csr.enter q t.pc, held := t.setAside q :: t.held, veQ := [], pend := { t.pend with ve := none }, part := none
           pc := target }

/-- The address a trap goes to (R382). -/
def State.trapTarget (s : State) (c : Cause) : Word :=
  let k := s.ctxs[s.task.id.cid]
  if c = .worldPool && bit k.wtrap 0 then setBits k.wtrap 1 0 0 else setBits k.tvec 1 0 0

/-- What the fetch of a handler's first instruction answers (R383). -/
def State.handlerFetch (s : State) (target : Word) : Chk Nat :=
  if target = 0 then .fail .fetchPage target else s.fetchWord true target

/-- Enter the handler, or end the task if its instruction cannot be fetched (R383); an uncorrectable line that fetch meets is logged
(R405). -/
def State.deliver (s : State) (q : TrapReq) : State :=
  let target := s.trapTarget q.cause
  match s.handlerFetch target with
  | .bad r => (s.logLine s.myPart r.line).failTask q.cause.code
  | .stop _ => s.failTask q.cause.code
  | _ => s.setTask fun t => t.enter q target

/-- Take a trap at the boundary before pc: re-execution where R407 asks for it, the abort of a rival that exhausted its
pool without a handler (R353), the end of a task that finds no handler (R383), else entry (R382). -/
def State.takeTrap (s : State) (q : TrapReq) : State :=
  let s := (s.logLine s.myPart q.line).setPiece none
  let t := s.task
  if !s.sup && q.cause.hardware && t.reruns then
    if t.id.forked then s.abortRival
    else if t.guarded && t.id.world = 0 then s.failLaunch s.myPart t.id.launch q.cause.code t.id.entry.src
    else s.reexecute q.cause
  else if q.cause = .worldPool && !bit s.ctxs[t.id.cid].wtrap 0 then s.failTask q.cause.code
  else s.deliver q

/-- A fault of the sequencer's own instruction (R382): SOURCE 0, but 10 for an absent expansion set (R390). -/
def State.fault (s : State) (r : Raise) : State :=
  s.takeTrap ⟨r.cause, r.tval, if r.cause = .expansionAbsent then 10 else 0, 0, false, 0, r.line⟩

/-- The instruction's word, for the causes whose TVAL is the word (R390). -/
def wordOf (i : Instr) : Word := instrWord i

/-- Turn an instruction's work into the step's answer. A wait changes nothing; a wait for the VE may raise a deadlock
(R392, R393). -/
def State.settle (s : State) (r : Res State) : Result :=
  match r with
  | .ok s' => .next s'
  | .trap s' q => .next (s'.fault q)
  | .wait => .next s
  | .held => .next (s.setTask Task.strain)
  | .stop f => .fault f

/-! ### Pending causes -/

/-- The held levels without the innermost cause that a trap took along, and that cause with its VEPC (R384, R385). -/
def heldCause : List HeldLevel → Option ((Raised × Word) × List HeldLevel)
  | [] => none
  | h :: hs =>
    match h.cause with
    | some c => some (c, { h with cause := none, store := none } :: hs)
    | none => (heldCause hs).map fun r => (r.1, h :: r.2)

/-- The pending VE cause, with the task once it is taken: its own, else one that a trap took along (R385). -/
def Task.veCause (t : Task) : Option (TrapReq × Task) :=
  let req (r : Raised) (at_ : Word) : TrapReq := ⟨r.cause, r.tval, 1, 0, true, at_, none⟩
  match t.pend.ve with
  | some r => some (req r t.pend.veAt, { t with pend := { t.pend with ve := none } })
  | none => (heldCause t.held).map fun (c, hs) => (req c.1 c.2, { t with held := hs })

/-- The pending cause to take at a boundary, in the order of R385, with the task once it is taken. The expansion set is tested in
task mode only (R86). -/
def State.pendingTrap (s : State) : Option (TrapReq × Task) :=
  let t := s.task
  let p := t.pend
  let put (q : Pending) : Task := { t with pend := q }
  let eng (r : Raised) (src qn : Nat) : TrapReq := ⟨r.cause, r.tval, src, qn, false, 0, none⟩
  if p.hw then some (⟨.datapathCheck, 0, 10, 0, false, 0, none⟩, put { p with hw := false })
  else if p.watchdog then some (⟨.watchdog, 0, 9, 0, false, 0, none⟩, put { p with watchdog := false })
  else if !s.sup && !s.slotHeld t.id.cid then some (⟨.expansionAbsent, 0, 10, 0, false, 0, none⟩, t)
  else match t.veCause with
  | some r => some r
  | none =>
    match p.thresher with
    | some r => some (eng r 2 0, put { p with thresher := none })
    | none =>
      match (List.ofFn (n := 4) id).find? fun k => p.ch[k].isSome with
      | some k => p.ch[k].map fun r => (eng r (3 + k.val) 0, put { p with ch := p.ch.set k none })
      | none =>
        match (List.ofFn (n := 8) id).find? fun k => p.stream[k].isSome with
        | some k => p.stream[k].map fun r => (eng r 7 k.val, put { p with stream := p.stream.set k none })
        | none =>
          match p.coll with
          | r :: rest => some (eng r 8 0, put { p with coll := rest })
          | [] => none

/-- A stamp overrun is raised once: from its delivery on the head command of its engine has no stamp to meet (R206, R396). -/
def Task.stampTold (t : Task) (q : TrapReq) : Task :=
  if q.cause = .stampOverrun then
    { t with
      thr := if q.source = 2 then { t.thr with cmds := match t.thr.cmds with
          | c :: l => { c with stampDone := true } :: l
          | [] => [] } else t.thr
      ch := Vector.ofFn fun k => if q.source = 3 + k.val then { t.ch[k] with cmds := match t.ch[k].cmds with
          | c :: l => { c with stampDone := true } :: l
          | [] => [] } else t.ch[k] }
  else t

/-- Asynchronous causes are taken in task mode, and in supervisor mode while IE is set (R384). -/
def State.takesAsync (s : State) : Bool := !s.sup || bit s.task.csr.status 1

/-- The trap of an asynchronous cause at the boundary before pc, if one is due (R384, R385); there is none in the middle of an
instruction. -/
def State.asyncTrap (s : State) : Option State :=
  if s.running && s.task.part.isNone && s.takesAsync then
    s.pendingTrap.map fun (q, t) => ({ s with task := t.stampTold q } : State).takeTrap q
  else none

/-! ### Returning from a trap -/

/-- STATUS after TRET: MODE := PMODE, IE := PIE, PMODE := 0, PIE := 0 (R387). -/
def statusReturn (x : Word) : Word :=
  setBits x 3 0 ((if bit x 3 then 2 else 0) + if bit x 2 then 1 else 0)

/-- Pop the head tile of a queue register, if one has arrived. -/
def Task.dropTile (t : Task) (q : Fin 8) : Task :=
  { t with q := t.q.set q { t.q[q] with tiles := t.q[q].tiles.drop 1 } }

/-- The vector store whose fault the last trap delivered, if it stands at an address. -/
def Task.trappedStore (t : Task) (a : Word) : Option StoreEntry :=
  match t.held with
  | h :: _ => if h.cause.isSome then none else h.store.bind fun n => t.storeQ.find? fun e => e.num == n && e.addr == a
  | [] => none

/-- The held levels without the first VE instruction at an address, the innermost level first. -/
def dropHeld (a : Word) : List HeldLevel → List HeldLevel
  | [] => []
  | h :: hs => if h.ves.any (·.addr == a) then { h with ves := dropFirst (·.addr == a) h.ves } :: hs else h :: dropHeld a hs

/-- Discard the queue-precise instruction VEPC names (R387): a VE instruction held aside, or a VST or VSTO with its tile and
its reservation (R268). -/
def Task.skip (t : Task) : Task :=
  let a := setBits t.csr.vepc 0 0 0
  match t.trappedStore a with
  | some e =>
    let t1 := { t with storeQ := dropFirst (·.num == e.num) t.storeQ }
    match e.instr.memQ with
    | some q => t1.dropTile q
    | none => t1
  | none => { t with held := dropHeld a t.held }

/-- The stream whose fault a trap delivered goes on after its TRET (R338), unless a fault of it is pending again. -/
def Task.goStream (t : Task) (q : Fin 8) : Task :=
  if t.pend.stream[q].isSome then t
  else { t with q := t.q.set q { t.q[q] with stream := t.q[q].stream.map fun d => { d with stopped := false } } }

/-- Restore what the last trap holds aside (R387, R391): its VE instructions and a cause it took along; else its store goes on, and so
does its stream. A cause raised meanwhile stays, and the restored source raises its own again. -/
def Task.takeBack (t : Task) : Task :=
  match t.held with
  | [] => t
  | h :: hs =>
    let t0 := { t with veQ := h.ves ++ t.veQ, held := hs }
    let t1 := match h.stream with
      | some q => t0.goStream q
      | none => t0
    match h.cause, t.pend.ve with
    | some (r, at_), none => { t1 with pend := { t1.pend with ve := some r, veAt := at_ } }
    | _, _ => { t1 with storeQ := t1.storeQ.map fun e => if h.store == some e.num then { e with stopped := false } else e }

/-- Back in task mode the engines whose fault was delivered go on (R218, R261, R338); one whose fault is still pending stays
stopped. -/
def Task.unhalt (t : Task) : Task :=
  { t with
    thr := { t.thr with halted := t.thr.halted && t.pend.thresher.isSome }
    ch := Vector.ofFn fun k => { t.ch[k] with halted := t.ch[k].halted && t.pend.ch[k].isSome }
    q := Vector.ofFn fun k =>
      { t.q[k] with stream := t.q[k].stream.map fun d => { d with stopped := d.stopped && t.pend.stream[k].isSome } } }

/-- What TRET restores. -/
def Task.unhold (t : Task) (taskMode : Bool) : Task := if taskMode then t.takeBack.unhalt else t.takeBack

/-- Ask for the pre-emption of a task (R395). -/
def State.askPreempt (s : State) (part : Fin 16) (tid : Nat) : State :=
  let p := s.parts[part]
  s.setPart part { p with preempt := if p.preempt.contains tid then p.preempt else p.preempt ++ [tid] }

/-- A STAMPED command of the task has not issued (R323). -/
def Task.stampWaiting (t : Task) : Bool :=
  t.thr.cmds.any (fun c => bit (dw c.record 0) 17 && !c.started && !c.stampDone)
    || t.ch.toList.any fun k => k.cmds.any fun c => bit (dw c.record 0) 14 && !c.started && !c.stampDone

/-- Pre-emption is deferred while a STAMPED command of a STAMPED launch's task has not issued (R323). -/
def State.deferred (s : State) : Bool :=
  s.task.stampWaiting && match s.myLaunch with
    | some L => L.stamped
    | none => false

/-- A saved task's pre-emption requests are served (R395). -/
def State.answered (s : State) (part : Fin 16) (tid : Nat) : State :=
  s.setPart part { s.parts[part] with preempt := s.parts[part].preempt.filter (· != tid) }

/-- The saved entry of a launch: YIELD's go before every other, the rest join in arrival order (R308). -/
def Launch.keep (L : Launch) (yielded : Bool) (t : Task) : Launch :=
  if yielded then { L with saved := L.saved ++ [.task t] } else { L with queue := L.queue ++ [.task t] }

/-- The reserve of a running Cellar has room for what a save of the task may write, so that the save need not wait (R414). -/
def State.saveRoom (s : State) : Bool :=
  match s.pairFor s.task with
  | some (_, slot) => !s.cellars || s.granRoom (granulesAt slot 0x200000 ++ granulesAt (slot + 0x200000) 0x48000)
  | none => true

/-- Save the running task to go on at `pc` and free the croft (R395, R396): none when its launch or a pair is missing. -/
def State.preemptAt (s : State) (yielded : Bool) (pc : Word) : Option State :=
  let t := { s.task with veQ := withoutVext s.task.veQ }
  match s.myLaunch, s.saveFrame t pc with
  | some L, some (s1, t1) =>
    some (({ s1 with running := false, task := Task.idle }.setLaunch (L.keep yielded t1)).answered
      s.myPart t1.id.tid)
  | _, _ => none

/-- CAUSE after a refused save: CODE 0x16 and SOURCE 9, no VE and no QN (R381, R387). -/
def refusedSave : Word := 0x916#64

/-- TRET (R387). A save that R323 defers is asked for and made when the stamped command has issued. A refused save goes on in
supervisor mode at the next instruction, with no loop-end check (R394). -/
def State.trapReturn (s : State) : Res State :=
  (Res.untilVe s.task.veDone).bind fun _ =>
    let t0 := s.task
    let t1 := if bit t0.csr.vepc 0 && bit t0.csr.cause 7 then t0.skip else t0
    let status := statusReturn t1.csr.status
    let pc := setBits t0.csr.epc 0 0 0
    let s2 := { s with task := { t1.unhold (!bit status 0) with csr := { t1.csr with status := status }, pc := pc } }
    if bit t0.csr.epc 0 && !bit status 0 then
      if s2.deferred then .ok (s2.askPreempt s2.myPart s2.task.id.tid)
      else
        (Res.until s2.saveRoom).bind fun _ => match s2.preemptAt false pc with
        | some s3 => .ok s3
        | none => .ok ({ s with task := { t1.unhold false with csr := { t1.csr with cause := refusedSave, vepc := 0 } } }.jump (t0.pc + 4))
    else .ok s2

end Sys2Proof.Machine
end

