-- ==== Sys2Proof/Machine/Flags.lean ====
section
/-! DEFINITION. Rounding modes and flags as instructions take them: FCTL (R97, R99, R101 to R103), the stochastic draw of
R98 and R100, and the formats of scalar floating point (R131). -/

namespace Sys2Proof.Machine

/-- FCTL[2:0] of the running task (R97). -/
def State.rm (s : State) : Nat := bits s.task.csr.fctl 2 0

/-- A write to FCTL: RM 6 and 7 leave RM unchanged, only [7:0] are held (R99, R101). -/
def fctlWritten (old new : Word) : Word :=
  let rm := bits new 2 0
  setBits (wd (bits new 7 0)) 2 0 (if rm < 6 then rm else bits old 2 0)

/-- The draw t of R98 for an instruction at an address: stream the address [31:0] XOR the launch ID, counter S × 1,024
plus the linear index. -/
def stochT (seed addr : Word) (launch : BitVec 12) (stoch index : Nat) : Nat :=
  stochDraw seed (wd (bits addr 31 0) ^^^ wd launch.toNat) (wd (stoch * 1024 + index))

/-- The seed of the running task's launch (R181). -/
def State.seed (s : State) : Word :=
  match s.myLaunch with
  | some L => L.seed
  | none => 0

/-- The format of an FPS operand (R74). -/
def FFmt.float : FFmt → FloatFmt
  | .s => ff32
  | .d => ff64

/-- An operand of an FPS instruction: its low 32 bits or all 64 (R131). -/
def fOperand (f : FFmt) (v : Word) : Nat :=
  match f with
  | .s => bits v 31 0
  | .d => v.toNat

end Sys2Proof.Machine
end

