-- ==== Sys2Proof/Machine/Amo.lean ====
section
/-! DEFINITION. Atomic memory operations (R242 to R246). -/

namespace Sys2Proof.Machine

/-- An AMO's operation on values of `w` bytes: old, s and c as numbers below 2^(8w); none when nothing is written (R242). -/
abbrev AmoFn := Nat → Nat → Nat → Nat → Option Nat

/-- Whether the target of an AMO and its scope agree (R244). `op` tells the operations a host performs. -/
def amoTarget (c : Scope) (hostOp : Bool) : Place → Bool
  | .loft _ => c == .croft
  | .device _ => true
  | .host _ => c == .fabric && hostOp
  | .peer _ _ => c == .fabric

/-- Checks 2 to 6 of R243: range, alignment 0x21, translation, permission, target and scope. -/
def State.amoCheck (s : State) (a : Word) (w : Nat) (c : Scope) (hostOp : Bool) : Res Unit :=
  (s.aligned a w .amoMisaligned).bind fun _ =>
    match s.task.addrKind a with
    | .loft o => Res.need s (amoTarget c hostOp (.loft o)) .amoScope a
    | _ =>
      (Res.ofChk s (s.translate (s.who s.sup) .amo a)).bind fun p =>
        (Res.need s (!(s.inRival && p.isWindow)) .worldExternal a).bind fun _ =>
          Res.need s (amoTarget c hostOp p) .amoScope a

/-- The release of an AMO at fabric scope is made only once the task's earlier vector stores to type-2 pages have been performed
(R239, R246); one whose tile will never come is the deadlock of R269 (log 57). -/
def State.amoRelease (s : State) (a : Word) (c : Scope) (rel : Bool) : Res Unit :=
  if !rel || c != .fabric then .ok ()
  else
    match s.task.storeQ.findIdx? StoreEntry.isWindow with
    | some n => if s.task.storeDead n then .fail s .queueUnderflow a else .wait
    | none => .ok ()

/-- One atomic read-modify-write (R242): the old value, and the state with the new one written if the operation writes. -/
def State.amoAt (s : State) (a : Word) (w : Nat) (p : Place) (f : Nat → Option Nat) : Res (State × Nat) :=
  let old := leValue (s.readPlace s.task.id.world p w)
  match f old with
  | none => .ok (s, old)
  | some v =>
    (s.claimFor a p).bind fun s1 =>
      .ok (s1.writePlace s1.task.id.world p (leBytes w v), old)

/-- The value of rd: sign-extended from w bytes (R242). -/
def amoResult (w old : Nat) : Word := ofInt (signed (8 * w) old)

/-- An integer AMO (R242). -/
def State.amo (s : State) (d a b : XReg) (c : Scope) (rel narrow hostOp : Bool) (f : AmoFn) : Result :=
  let w := if narrow then 4 else 8
  let m := 2 ^ (8 * w)
  s.settle ((s.amoCheck (s.x a) w c hostOp).bind fun _ =>
    (s.amoRelease (s.x a) c rel).bind fun _ =>
    (s.openAt .amo (s.x a) w).bind fun (s1, p) =>
      (s1.amoAt (s.x a) w p fun old => f w old ((s.x b).toNat % m) ((s.x d).toNat % m)).bind fun (s2, old) =>
        .ok (s2.setX d (amoResult w old)).advance)

/-- AMOSWAP (R242, R244). Its acquire flag orders engines, hosts and peers only (R246). -/
def execAmoswap (d a b : XReg) (c : Scope) (_q l w : Bool) (s : State) : Result :=
  s.amo d a b c l w true fun _w _old v _k => some v

/-- AMOADD (R242, R244). Its acquire flag orders engines, hosts and peers only (R246). -/
def execAmoadd (d a b : XReg) (c : Scope) (_q l w : Bool) (s : State) : Result :=
  s.amo d a b c l w true fun w old v _k => some ((old + v) % 2 ^ (8 * w))

/-- AMOAND (R242, R244). Its acquire flag orders engines, hosts and peers only (R246). -/
def execAmoand (d a b : XReg) (c : Scope) (_q l w : Bool) (s : State) : Result :=
  s.amo d a b c l w false fun _w old v _k => some (old &&& v)

/-- AMOOR (R242, R244). Its acquire flag orders engines, hosts and peers only (R246). -/
def execAmoor (d a b : XReg) (c : Scope) (_q l w : Bool) (s : State) : Result :=
  s.amo d a b c l w false fun _w old v _k => some (old ||| v)

/-- AMOXOR (R242, R244). Its acquire flag orders engines, hosts and peers only (R246). -/
def execAmoxor (d a b : XReg) (c : Scope) (_q l w : Bool) (s : State) : Result :=
  s.amo d a b c l w false fun _w old v _k => some (old ^^^ v)

/-- AMOMIN (R242, R244). Its acquire flag orders engines, hosts and peers only (R246). -/
def execAmomin (d a b : XReg) (c : Scope) (_q l w : Bool) (s : State) : Result :=
  s.amo d a b c l w false fun w old v _k => some (if signed (8 * w) v < signed (8 * w) old then v else old)

/-- AMOMAX (R242, R244). Its acquire flag orders engines, hosts and peers only (R246). -/
def execAmomax (d a b : XReg) (c : Scope) (_q l w : Bool) (s : State) : Result :=
  s.amo d a b c l w false fun w old v _k => some (if signed (8 * w) old < signed (8 * w) v then v else old)

/-- AMOMINU (R242, R244). Its acquire flag orders engines, hosts and peers only (R246). -/
def execAmominu (d a b : XReg) (c : Scope) (_q l w : Bool) (s : State) : Result :=
  s.amo d a b c l w false fun _w old v _k => some (Nat.min old v)

/-- AMOMAXU (R242, R244). Its acquire flag orders engines, hosts and peers only (R246). -/
def execAmomaxu (d a b : XReg) (c : Scope) (_q l w : Bool) (s : State) : Result :=
  s.amo d a b c l w false fun _w old v _k => some (Nat.max old v)

/-- AMOCAS (R242, R244). Its acquire flag orders engines, hosts and peers only (R246). -/
def execAmocas (d a b : XReg) (c : Scope) (_q l w : Bool) (s : State) : Result :=
  s.amo d a b c l w true fun _w old v k => if old = k then some v else none

/-- AMOFADD (R242, R245): faults 0x60 under DET; rounds the exact sum once in RNE and adds its flags. -/
def execAmofadd (d a b : XReg) (c : Scope) (q l w : Bool) (s : State) : Result :=
  let n := if w then 4 else 8
  let F := if w then ff32 else ff64
  let y := (s.x b).toNat % 2 ^ (8 * n)
  let sum (old : Nat) : Nat × Flags :=
    let (v, f) := sumNum .rne [F.decode old, F.decode y]
    let (r, g) := F.round .rne 0 v
    (r, f ||| g)
  s.settle ((Res.need s (!s.det) .nondeterministic (wordOf (.amofadd d a b c q l w))).bind fun _ =>
    (s.amoCheck (s.x a) n c false).bind fun _ =>
      (s.amoRelease (s.x a) c l).bind fun _ =>
      (s.openAt .amo (s.x a) n).bind fun (s1, p) =>
        (s1.amoAt (s.x a) n p fun old => some (sum old).1).bind fun (s2, old) =>
          .ok ((s2.setCsr (s2.task.csr.addFlags (sum old).2)).setX d (amoResult n old)).advance)

end Sys2Proof.Machine
end

