-- ==== Sys2Proof/Machine/Hash.lean ====
section
/-! DEFINITION. SHAKE256 as R324 and R372 use it (the Keccak permutation, PRESUMED from FIPS 202, log 18) and the CRC32C of
R260. -/

namespace Sys2Proof.Machine

/-- Round constants of Keccak-f[1600] (FIPS 202, log 18). -/
def keccakRC : List Word :=
  [0x0000000000000001#64, 0x0000000000008082#64, 0x800000000000808A#64, 0x8000000080008000#64, 0x000000000000808B#64,
    0x0000000080000001#64, 0x8000000080008081#64, 0x8000000000008009#64, 0x000000000000008A#64, 0x0000000000000088#64,
    0x0000000080008009#64, 0x000000008000000A#64, 0x000000008000808B#64, 0x800000000000008B#64, 0x8000000000008089#64,
    0x8000000000008003#64, 0x8000000000008002#64, 0x8000000000000080#64, 0x000000000000800A#64, 0x800000008000000A#64,
    0x8000000080008081#64, 0x8000000000008080#64, 0x0000000080000001#64, 0x8000000080008008#64]

/-- Rotation offsets by lane x + 5y. -/
def keccakRot : List Nat :=
  [0, 1, 62, 28, 27, 36, 44, 6, 55, 20, 3, 10, 43, 25, 39, 41, 45, 15, 21, 8, 18, 2, 61, 56, 14]

/-- One round over 25 lanes. -/
def keccakRound (a : List Word) (rc : Word) : List Word :=
  let g (l : List Word) (n : Nat) : Word := l.getD n 0
  let c := (List.range 5).map fun x => g a x ^^^ g a (x + 5) ^^^ g a (x + 10) ^^^ g a (x + 15) ^^^ g a (x + 20)
  let d := (List.range 5).map fun x => g c ((x + 4) % 5) ^^^ (g c ((x + 1) % 5)).rotateLeft 1
  let t := (List.range 25).map fun i => g a i ^^^ g d (i % 5)
  -- B[y, 2x + 3y] = rot(A[x, y])
  let b := (List.range 25).map fun i =>
    let y := i % 5
    let z := i / 5
    let x := (y + 3 * z) % 5
    (g t (x + 5 * y)).rotateLeft (keccakRot.getD (x + 5 * y) 0)
  let e := (List.range 25).map fun i =>
    let x := i % 5
    let y := i / 5
    g b i ^^^ (~~~(g b ((x + 1) % 5 + 5 * y)) &&& g b ((x + 2) % 5 + 5 * y))
  match e with
  | h :: rest => (h ^^^ rc) :: rest
  | [] => []

/-- The permutation. -/
def keccakF (a : List Word) : List Word := keccakRC.foldl keccakRound a

/-- XOR a block of 17 lanes into the state (rate 136 bytes). -/
def keccakAbsorb (a : List Word) (block : List Byte) : List Word :=
  let ws := dwords block
  keccakF ((a.zip (List.range 25)).map fun (w, i) => if i < 17 then w ^^^ ws.getD i 0 else w)

/-- SHAKE256 padding to whole blocks of 136 bytes. -/
def shakePad (m : List Byte) : List Byte :=
  let z := 136 - m.length % 136
  if z = 1 then m ++ [0x9F] else m ++ [0x1F] ++ List.replicate (z - 2) 0 ++ [0x80]

/-- The first `n` ≤ 136 bytes of SHAKE256 of a message. -/
def shake256 (m : List Byte) (n : Nat) : List Byte :=
  let p := shakePad m
  let s := (List.range (p.length / 136)).foldl (fun a k => keccakAbsorb a ((p.drop (136 * k)).take 136)) (List.replicate 25 0)
  (dwBytes s).take n

/-- Extend a measurement register (R372). -/
def extend (meas m : List Byte) : List Byte := shake256 (meas ++ m) 32

/-- One bit of a reflected CRC32C (R260). -/
def crcBit (c : BitVec 32) : BitVec 32 := if c.getLsbD 0 then (c >>> 1) ^^^ 0x82F63B78#32 else c >>> 1

/-- One byte of a CRC32C, on the running remainder (R260). -/
def crcByte (c : BitVec 32) (b : Byte) : BitVec 32 :=
  let c0 := c ^^^ b.zeroExtend 32
  crcBit (crcBit (crcBit (crcBit (crcBit (crcBit (crcBit (crcBit c0)))))))

/-- The running remainder after bytes. -/
def crcBytes (c : BitVec 32) (bs : List Byte) : BitVec 32 := bs.foldl crcByte c

/-- The CRC32C of bytes (R260). -/
def crc32c (bs : List Byte) : BitVec 32 := crcBytes 0xFFFFFFFF#32 bs ^^^ 0xFFFFFFFF#32

end Sys2Proof.Machine
end

