-- ==== Sys2Proof/Machine/Control.lean ====
section
/-! DEFINITION. Branches and jumps (R119 to R121, R124) and hardware loops (R122, R125). -/

namespace Sys2Proof.Machine

/-- Whether an address lies in [LS, LE] of a level (R124). -/
def inLoop (ls le a : Word) : Bool := ls.ule a && a.ule le

/-- The levels a taken branch from `e` to `t` clears (R124). -/
def Csrs.branchOut (c : Csrs) (e t : Word) : Csrs :=
  let out (ls le lc : Word) : Word := if lc != 0 && inLoop ls le e && !inLoop ls le t then 0 else lc
  { c with lc0 := out c.ls0 c.le0 c.lc0, lc1 := out c.ls1 c.le1 c.lc1 }

/-- A word offset as a byte offset. -/
def wordOffset {w : Nat} (i : BitVec w) : Word := i.signExtend 64 <<< 2

/-- A conditional branch (R119, R124). -/
def State.branch (s : State) (i : BitVec 16) (taken : Bool) : Result :=
  if taken then
    let t := s.task.pc + wordOffset i
    .next ((s.setCsr (s.task.csr.branchOut s.task.pc t)).jump t)
  else .next s.advance

/-- BEQ (R119). -/
def execBeq (b a : XReg) (i : BitVec 16) (s : State) : Result := s.branch i (s.x a == s.x b)

/-- BNE (R119). -/
def execBne (b a : XReg) (i : BitVec 16) (s : State) : Result := s.branch i (s.x a != s.x b)

/-- BLT (R119). -/
def execBlt (b a : XReg) (i : BitVec 16) (s : State) : Result := s.branch i ((s.x a).slt (s.x b))

/-- BGE (R119). -/
def execBge (b a : XReg) (i : BitVec 16) (s : State) : Result := s.branch i (!(s.x a).slt (s.x b))

/-- BLTU (R119). -/
def execBltu (b a : XReg) (i : BitVec 16) (s : State) : Result := s.branch i ((s.x a).ult (s.x b))

/-- BGEU (R119). -/
def execBgeu (b a : XReg) (i : BitVec 16) (s : State) : Result := s.branch i (!(s.x a).ult (s.x b))

/-- JAL (R120). -/
def execJal (d : XReg) (i : BitVec 21) (s : State) : Result :=
  .next ((s.setX d (s.task.pc + 4)).jump (s.task.pc + wordOffset i))

/-- JALR (R120): the target is x[rs1] + sext(imm16) exactly, read before rd is written. -/
def execJalr (d a : XReg) (i : BitVec 16) (s : State) : Result :=
  .next ((s.setX d (s.task.pc + 4)).jump (s.x a + i.signExtend 64))

/-- Level 1 lies inside level 0 whenever both are active (R125). -/
def Csrs.nested (c : Csrs) : Bool := c.lc0 == 0 || c.lc1 == 0 || (c.ls0.ule c.ls1 && c.le1.ule c.le0)

/-- Set a loop level (R122). Bits [1:0] of LS and LE are zero (R4). -/
def Csrs.setLevel (c : Csrs) (lv : Fin 2) (ls le lc : Word) : Csrs :=
  if lv = 0 then { c with ls0 := setBits ls 1 0 0, le0 := setBits le 1 0 0, lc0 := lc }
  else { c with ls1 := setBits ls 1 0 0, le1 := setBits le 1 0 0, lc1 := lc }

/-- LOOP and LOOPI with their count (R122): a zero count skips the body, else the nesting check of R125. The instruction
completes either way, so the loop-end check of R123 is made for its own address. -/
def State.loopSet (s : State) (lv : Fin 2) (n : Word) (off : BitVec 16) (i : Instr) : Result :=
  let le := s.task.pc + wd (4 * off.toNat)
  let c := s.task.csr.setLevel lv (s.task.pc + 4) le n
  if n = 0 then .next ((s.setCsr c).setTask fun t => t.advanceTo (le + 4))
  else s.settle ((Res.need s c.nested .loopNesting (wordOf i)).bind fun _ => .ok (s.setCsr c).advance)

/-- LOOP (R122). -/
def execLoop (l : Fin 2) (a : XReg) (o : BitVec 16) (s : State) : Result := s.loopSet l (s.x a) o (.loop l a o)

/-- LOOPI (R122). -/
def execLoopi (l : Fin 2) (c : BitVec 9) (o : BitVec 16) (s : State) : Result :=
  s.loopSet l (c.zeroExtend 64) o (.loopi l c o)

end Sys2Proof.Machine
end

