-- ==== Sys2Proof/Machine/Gleaner.lean ====
section
/-! DEFINITION. The Gleaner: admission of launch packets (R298, R299, R306), the queue of a launch (R302, R308), the choice
of a pop (R304, R307, R309), the start and the resumption of a task (R18, R359, R399, R408), and completion (R301). -/

namespace Sys2Proof.Machine

/-- The partition a die belongs to (R370). -/
def State.partOfDie (s : State) (d : Nat) : Option (Fin 16) :=
  (List.ofFn (n := 16) id).find? fun p =>
    let q := s.parts[p]
    q.present && q.firstDie ≤ d && d < q.firstDie + q.dies

/-- The column maximum of a croft, 0 when it is disabled or its die isolated (R14, R411). -/
def State.colmaxAt (s : State) (die pos : Nat) : Nat :=
  if s.dev.isolated.any fun d => d.val == die then 0 else (s.dev.colmax.getD die []).getD pos 0

/-- The column maximum of the modelled croft. -/
def State.cmax (s : State) : Nat := s.colmaxAt s.die.val s.pos.val

/-- The column maxima of a partition's crofts, in ascending die number and mesh order (R324). -/
def State.colTable (s : State) (p : Partition) : List Nat :=
  (List.range p.dies).flatMap fun d => (List.range Config.croftsPerDie).map fun c => s.colmaxAt (p.firstDie + d) c

/-- The smallest column maximum of a partition's enabled crofts (R137). -/
def State.partMin (s : State) (p : Partition) : Nat :=
  ((s.colTable p).filter (· != 0)).foldl Nat.min 64

/-- The largest column maximum of a partition's enabled crofts (R399). -/
def State.partMax (s : State) (p : Partition) : Nat := (s.colTable p).foldl Nat.max 0

/-- SH as the task reads it: [31:24] is the partition minimum under DET, and the croft's maximum while no grant is held
(R31, R137). -/
def State.shNow (s : State) : Word :=
  let sh := s.task.csr.sh
  if s.det then setBits sh 31 24 (s.partMin s.parts[s.myPart])
  else if bits sh 7 0 = 0 then setBits sh 31 24 s.cmax else sh

/-! ### Entries -/

/-- A task record as a queue holds it: the launch ID filled in, zero fields cleared (R302). -/
def queued (rec : List Word) (id : BitVec 12) : List Word :=
  let d := dw rec 3
  [dw rec 0, dw rec 1, dw rec 2, wd (bits d 63 32 * 2 ^ 32 + bits d 18 16 * 2 ^ 16 + id.toNat)]

/-- Append a record at the tail of a launch's queue (R308, R312). -/
def Launch.append (L : Launch) (rec : List Word) (src : Word) : Launch :=
  { L with queue := L.queue ++ [.again ⟨queued rec L.id, src⟩ 0] }

/-- A record that waits in a launch queue, as against a saved entry (R308). -/
def Saved.waiting : Saved → Bool
  | .again _ n => n == 0
  | .task _ => false

/-- The occupancy of a launch: the records that wait (R308). -/
def Launch.occupancy (L : Launch) : Nat := L.queue.countP Saved.waiting

/-! ### Admission -/

/-- Raise the effective priority of a launch's incomplete predecessors, transitively (R306). -/
def State.donate : Nat → State → Fin 16 → List (BitVec 12) → Nat → State
  | 0, s, _, _, _ => s
  | fuel + 1, s, part, preds, prio =>
    preds.foldl (fun s id =>
      match s.launch? part id with
      | some L => if L.prio < prio then State.donate fuel (s.setLaunch { L with prio := prio }) part L.preds prio else s
      | none => s) s

/-- A context can read and write, as the Gleaner, every byte from an address on, page by page (R299 reason 4). -/
def State.gleanArea (s : State) (cid : Fin 64) (a n : Nat) : Bool :=
  a + n ≤ 2 ^ 56 && (List.range ((a % 0x10000 + n + 0xFFFF) / 0x10000)).all fun k =>
    let lo := if k = 0 then a else (a / 0x10000 + k) * 0x10000
    let hi := Nat.min ((a / 0x10000 + k + 1) * 0x10000) (a + n)
    s.task.addrKind (wd lo) = .global &&
      match s.translate (s.gleaner cid) .amo (wd lo) with
      | .ok (.device pa) => !s.isolatedAt pa && !s.badLines.any fun l => l + 64 > pa && l < pa + (hi - lo)
      | .ok (.host h) => !s.hostErr.any fun l => l + 64 > h && l < h + (hi - lo)
      | .ok (.peer e o) => s.peerUp (s.gleaner cid).part e && !s.peerErr.any fun l => l + 64 > peerKey e o && l < peerKey e o + (hi - lo)
      | _ => false

/-- The reason R299 refuses a packet for, in its order. -/
def State.refusal (s : State) (cid : Fin 64) (p : List Word) : Option Nat :=
  let d0 := dw p 0
  let d3 := dw p 3
  let d6 := dw p 6
  let id := BitVec.ofNat 12 (bits d0 11 0)
  let part := s.partOfCtx cid
  let capacity := bits d6 31 0
  if (s.launch? part id).isSome then some 1
  else if bits d0 47 32 != cid.val then some 2
  else if bits d0 63 48 != 0 || bits d0 31 22 != 0 || bits d0 19 18 != 0 || bits d0 15 12 != 0 || bits d3 63 26 != 0
      || capacity = 0 || capacity < bits d6 47 32 || (dw p 2).toNat % 32 != 0 || (dw p 5).toNat % 64 != 0
      || (bit d3 24 && bits d3 11 0 = id.toNat) || (bit d3 25 && bits d3 23 12 = id.toNat) then some 3
  else if (s.gleanRead cid (dw p 2) 32).isNone || !s.gleanArea cid (dw p 5).toNat (32 * capacity) then some 4
  else none

/-- The walks of the check of reason 4 that end in its refusal: ROOT, then the queue area (R299, R405). -/
def State.areaWalk (s : State) (cid : Fin 64) (p : List Word) : State :=
  if (s.gleanRead cid (dw p 2) 32).isNone then s.gleanLog cid (dw p 2).toNat 32
  else s.gleanLog cid (dw p 5).toNat (32 * bits (dw p 6) 31 0)

/-- Admit a packet that passed every check (R181, R299, R304, R306). -/
def State.takeOn (s : State) (cid : Fin 64) (p : List Word) : State :=
  let d0 := dw p 0
  let d3 := dw p 3
  let d6 := dw p 6
  let id := BitVec.ofNat 12 (bits d0 11 0)
  let part := s.partOfCtx cid
  let pred (v : Bool) (n : Nat) : List (BitVec 12) :=
    if v && (s.launch? part (BitVec.ofNat 12 n)).isSome then [BitVec.ofNat 12 n] else []
  let root := match s.gleanRead cid (dw p 2) 32 with
    | some bs => dwords bs
    | none => []
  let L : Launch :=
    { id := id, cid := cid, part := part, prio := bits d0 17 16, det := bit d0 20, stamped := bit d0 21, start := dw p 1
      preds := pred (bit d3 24) (bits d3 11 0) ++ pred (bit d3 25) (bits d3 23 12)
      seed := if dw p 4 = 0 then s.dev.dseed else dw p 4, qbase := dw p 5, capacity := bits d6 31 0
      hwm := bits d6 47 32, budget := bits d6 63 48 * 65536, done := dw p 7, queue := [], saved := [], parked := []
      tasks := 0 }
  let s1 := { s with launches := s.launches ++ [L.append root (dw p 2)], dev := { s.dev with launched := true } }
  s1.donate (s1.launches.length + 1) part L.preds L.prio

/-- Count a dropped packet (R299). -/
def State.countDrop (s : State) (cid : Fin 64) : State :=
  let c := s.ctxs[cid]
  { s with ctxs := s.ctxs.set cid { c with ring := { c.ring with drops := c.ring.drops + 1 } } }

/-- Launches are refused in BLANK and RETURN (R379). -/
def State.launchesAllowed (s : State) : Bool := s.dev.lifecycle == .develop || s.dev.lifecycle == .production

/-- The checks of a packet wait: a PTE or the granule of its ROOT is still to be written by a vector store (R233, R268). -/
def State.submitHeld (s : State) (cid : Fin 64) (p : List Word) : Bool :=
  s.walkHeld cid (dw p 7).toNat 32 || s.gleanHeld cid (dw p 2).toNat 32 false
    || s.walkHeld cid (dw p 5).toNat (32 * bits (dw p 6) 31 0)

/-- Admit, refuse or drop a packet in its carrying context (R299, R300). The CODE of a packet refused for the lifecycle is a
free value: R379 names no reason (log 7). -/
def State.submit (s : State) (cid : Fin 64) (p : List Word) : State :=
  let id := BitVec.ofNat 12 (bits (dw p 0) 11 0)
  let s := if (dw p 7).toNat % 32 = 0 then s.gleanLog cid (dw p 7).toNat 32 else s
  if (dw p 7).toNat % 32 != 0 || (s.gleanPlace cid .store (dw p 7)).isNone then s.countDrop cid
  else if !s.launchesAllowed then
    { s.writeCompletion cid (dw p 7) id 2 (Config.freeBits s.fresh).toNat 0 0 with fresh := s.fresh + 1 }
  else
    match s.refusal cid p with
    | some r => (if r = 4 then s.areaWalk cid p else s).writeCompletion cid (dw p 7) id 2 r 0 0
    | none => s.takeOn cid p

/-! ### Tags and worlds -/

/-- The free world tags of the device (R357). -/
def State.freeTags (s : State) : List Nat :=
  (List.range 1024).filter fun t => t != 0 && !s.worlds.any (·.tag == t)

/-- Reserve one free tag for a new world; which one is a free value (R343, log 7). -/
def State.newWorld (s : State) (parent depth rank : Nat) (cid : Fin 64) (launch : BitVec 12) : State × World :=
  let tags := s.freeTags
  let w : World :=
    { num := s.nextWorld, parent := parent, tag := tags.getD (Config.freeTag s.fresh % tags.length) 0, depth := depth
      rank := rank, cid := cid, launch := launch, granules := [], bytes := [], bad := [] }
  ({ s with worlds := s.worlds ++ [w], nextWorld := s.nextWorld + 1, fresh := s.fresh + 1 }, w)

/-- The WORLD word of a world (R343). -/
def World.csr (w : World) : Word := wd (w.rank * 0x1000000 + w.depth * 0x10000 + w.tag)

/-! ### Starting and resuming -/

/-- The snapshot of a RESTART task's frame (R408): none when its frame pointer is 0, not a multiple of 8, or unreadable. -/
def State.snapshotOf (s : State) (cid : Fin 64) (rec : List Word) : Option (List Byte) :=
  let f := dw rec 1
  if f = 0 || f.toNat % 8 != 0 then none else s.gleanRead cid f 256

/-- A record keeps a snapshot of its frame: RESTART and not GUARD (R302, R408). -/
def keepsFrame (rec : List Word) : Bool := bit (dw rec 3) 16 && !bit (dw rec 3) 17

/-- Start a task from a record (R18, R359, R408). -/
def State.startTask (s : State) (L : Launch) (e : Entry) (attempts : Nat) : State :=
  let d3 := dw e.record 3
  let guard := bit d3 17
  let keeps := keepsFrame e.record
  let s := if keeps && dw e.record 1 != 0 && (dw e.record 1).toNat % 8 = 0 then s.gleanLog L.cid (dw e.record 1).toNat 256 else s
  let snap := if keeps then s.snapshotOf L.cid e.record else none
  let (s1, world) := if guard then
      let (s', w) := s.newWorld 0 1 0 L.cid L.id
      (s', some w)
    else (s, none)
  let id : Ident :=
    { Ident.none with
      tid := s.nextTid, launch := L.id, cid := L.cid, entry := e
      world := match world with
        | some w => w.num
        | none => 0
      worldCsr := match world with
        | some w => w.csr
        | none => 0
      attempts := attempts, snapshot := snap, restart := snap.isSome }
  let det := L.det || bit d3 18
  let cmax := if det then s.partMin s.parts[L.part] else s.cmax
  { s1 with
    task := Task.start (dw e.record 0) (dw e.record 1) (dw e.record 2) (wd (bits d3 63 32)) det cmax id
    running := true, nextTid := s.nextTid + 1 }

/-- Run a saved or logged entry (R33, R399, R408). -/
def State.runSaved (s : State) (L : Launch) : Saved → State
  | .task t => { s with task := s.resumed t, running := true }
  | .again e n => s.startTask L e n

/-! ### The choice -/

/-- The entry a launch would give next: one saved by YIELD, else the head or the tail of its queue (R308). -/
def Launch.nextEntry (L : Launch) : Option (Saved × Launch) :=
  match L.saved with
  | e :: rest => some (e, { L with saved := rest })
  | [] =>
    if L.occupancy ≤ L.hwm then
      match L.queue with
      | e :: rest => some (e, { L with queue := rest })
      | [] => none
    else (L.queue.getLast?).map fun e => (e, { L with queue := L.queue.dropLast })

/-- The granted columns an entry needs (R140), those of a saved task by its frame (R399). -/
def State.cols (s : State) : Saved → Nat
  | .task t => if bits (s.savedSh t) 7 0 = 0 then 0 else bits (s.savedSh t) 15 8
  | .again _ _ => 0

/-- Whether an entry's record asks for a world of its own (R359): a fresh GUARD task. -/
def Saved.needsTag : Saved → Bool
  | .task _ => false
  | .again e _ => bit (dw e.record 3) 17

/-- A launch is eligible (R304). -/
def State.eligible (s : State) (L : Launch) : Bool := L.start.toNat ≤ s.time && L.preds.isEmpty

/-- A launch is eligible and has an entry (R307). -/
def State.ready (s : State) (L : Launch) : Bool := s.eligible L && L.nextEntry.isSome

/-- An entry cannot start yet (R268): its snapshot waits for a vector store, the restoring of its frame has not been made, or a
signal has still to reach its saved frame. -/
def State.entryHeld (s : State) (L : Launch) : Saved → Bool
  | .again e n =>
    let f := dw e.record 1
    (keepsFrame e.record && f != 0 && f.toNat % 8 = 0 && s.gleanHeld L.cid f.toNat 256 false)
      || (n != 0 && s.late.any fun w => match w with
        | .glean c a _ => c == L.cid && a == f
        | _ => false)
  | .task t => match t.id.pair with
    | some (_, slot) => s.late.any fun w => match w with
      | .root pa _ => slot ≤ pa && pa < slot + 0x400000
      | _ => false
    | none => false

/-- The launch can be served on the modelled croft now: its first entry fits, a tag is free if it needs one, and it can start (R309,
R359). One that cannot is passed over and does not count in E, the model's choice for R307's counters (log 72). -/
def State.serves (s : State) (L : Launch) : Bool :=
  match L.nextEntry with
  | some (e, _) => s.cols e ≤ s.cmax && (!e.needsTag || !s.freeTags.isEmpty) && !s.entryHeld L e
  | none => false

/-- The least of some launches by ID. -/
def leastId : List Launch → Option Launch
  | [] => none
  | L :: rest =>
    match leastId rest with
    | none => some L
    | some K => if K.id.toNat < L.id.toNat then some K else some L

/-- The counter or pointer of a level. -/
def levelOf (v : Vector Nat 4) (l : Nat) : Nat := v.toList.getD l 0

/-- Set the counter or pointer of a level. -/
def setLevelOf (v : Vector Nat 4) (l n : Nat) : Vector Nat 4 := Vector.ofFn fun i => if i.val = l then n else v[i]

/-- The choice of R307 among a set of launches: the level and the launch. -/
def choosePop (p : Partition) (E : List Launch) : Option (Nat × Launch) :=
  let levels := [3, 2, 1, 0].filter fun l => E.any (·.prio == l)
  match levels with
  | [] => none
  | top :: lower =>
    let due := lower.filter fun l => levelOf p.ctr l ≥ 61
    -- falling order of levels, so a later level wins only by a larger counter
    let l := match due with
      | [] => top
      | d :: ds => ds.foldl (fun best k => if levelOf p.ctr k > levelOf p.ctr best then k else best) d
    let at_ := E.filter (·.prio == l)
    let L := match leastId (at_.filter fun k => levelOf p.ptr l < k.id.toNat) with
      | some k => some k
      | none => leastId at_
    L.map fun k => (l, k)

/-- The pointers and counters after a pop (R307). -/
def Partition.popped (p : Partition) (E : List Launch) (l : Nat) (L : Launch) : Partition :=
  { p with
    ptr := setLevelOf p.ptr l L.id.toNat
    ctr := Vector.ofFn fun m => if m.val = l then 0 else if E.any (·.prio == m.val) then p.ctr[m] + 1 else 0 }

/-- The launches whose first entry no enabled croft of the partition is wide enough for (R140, R399). -/
def State.tooWide (s : State) (part : Fin 16) (L : Launch) : Option Saved :=
  match L.nextEntry with
  | some (e, _) => if s.eligible L && s.partMax s.parts[part] < s.cols e then some e else none
  | none => none

/-- The record address an entry names for FREC (R399). -/
def Saved.src : Saved → Word
  | .task t => t.id.entry.src
  | .again e _ => e.src

/-- Run the entry a pop took; one whose frame cannot be read fails its launch with 0x70, the line it met logged (R403, R405, R411;
log 71). -/
def State.runEntry (s : State) (L : Launch) (e : Saved) : State :=
  match e with
  | .again _ _ => s.runSaved L e
  | .task t =>
    match s.frameLost t with
    | some line => ((s.logLine L.part line).releasePair t).failLaunch L.part L.id 0x70 t.id.entry.src
    | none => s.runSaved L e

/-- One pop for the modelled croft (R307 to R309, R399): nothing happens while it is busy, disabled or has no choice. -/
def State.popOnce (s : State) : State :=
  match s.partOfDie s.die.val with
  | none => s
  | some part =>
    if s.running || s.cmax = 0 then s
    else
      let mine := s.launches.filter (·.part == part)
      match mine.find? fun L => (s.tooWide part L).isSome with
      | some L => s.failLaunch part L.id 0x35 (((s.tooWide part L).map Saved.src).getD 0)
      | none =>
        let E := mine.filter fun L => s.ready L && s.serves L
        match choosePop s.parts[part] E with
        | none => s
        | some (l, L) =>
          match L.nextEntry with
          | none => s
          | some (e, L') => ((s.setPart part (s.parts[part].popped E l L)).setLaunch L').runEntry L' e

/-- A launch has nothing left (R17). -/
def State.exhausted (s : State) (L : Launch) : Bool :=
  L.preds.isEmpty && L.start.toNat ≤ s.time && L.queue.isEmpty && L.saved.isEmpty && L.parked.isEmpty && !s.runs L

/-- Complete a launch with nothing left (R301). -/
def State.completeLaunch (s : State) (part : Fin 16) (id : BitVec 12) : State :=
  match s.launch? part id with
  | some L => if s.exhausted L then s.endLaunch (s.launches.length + 1) part id 0 0 0 else s
  | none => s

end Sys2Proof.Machine
end

