-- ==== Sys2Proof/Machine/Scalar.lean ====
section
/-! DEFINITION. Integer instructions: register-to-register (R111, R112), immediate (R113), shift-immediate (R114) and
upper-immediate (R115). Each runs in either mode and sets no flag (R110). -/

namespace Sys2Proof.Machine

/-- Write a result and complete (R110, R123). -/
def State.result (s : State) (d : XReg) (v : Word) : Result := .next (s.setX d v).advance

/-- The two ends of the signed range. -/
def intEnd (neg : Bool) : Word := if neg then 0x8000000000000000#64 else 0x7FFFFFFFFFFFFFFF#64

/-- DIV (R112). -/
def divWord (a b : Word) : Word :=
  if b = 0 then intEnd (decide (a.toInt < 0))
  else if a = intEnd true && b = -1 then intEnd false
  else ofInt (a.toInt.tdiv b.toInt)

/-- REM (R112). -/
def remWord (a b : Word) : Word := if b = 0 then a else ofInt (a.toInt.tmod b.toInt)

/-- DIVU (R112). -/
def divuWord (a b : Word) : Word := if b = 0 then -1 else wd (a.toNat / b.toNat)

/-- REMU (R112). -/
def remuWord (a b : Word) : Word := if b = 0 then a else wd (a.toNat % b.toNat)

/-- How many of the top `n` bits are zero before the first one. -/
def leadingZeros (x : Word) : Nat → Nat
  | 0 => 0
  | n + 1 => if bit x n then 0 else 1 + leadingZeros x n

/-- How many of the bits from `64 − n` up are zero before the first one. -/
def trailingZeros (x : Word) : Nat → Nat
  | 0 => 0
  | n + 1 => if bit x (63 - n) then 0 else 1 + trailingZeros x n

/-- How many of the low `n` bits are one. -/
def onesBelow (x : Word) : Nat → Nat
  | 0 => 0
  | n + 1 => (if bit x n then 1 else 0) + onesBelow x n

/-- A condition as 0 or 1. -/
def flagWord (b : Bool) : Word := if b then 1 else 0

/-- A shift amount: the low six bits (R111). -/
def amount (v : Word) : Nat := bits v 5 0

/-- ADD (R111). -/
def execAdd (d a b : XReg) (s : State) : Result := s.result d (s.x a + s.x b)

/-- SUB (R111). -/
def execSub (d a b : XReg) (s : State) : Result := s.result d (s.x a - s.x b)

/-- AND (R111). -/
def execAndR (d a b : XReg) (s : State) : Result := s.result d (s.x a &&& s.x b)

/-- OR (R111). -/
def execOrR (d a b : XReg) (s : State) : Result := s.result d (s.x a ||| s.x b)

/-- XOR (R111). -/
def execXorR (d a b : XReg) (s : State) : Result := s.result d (s.x a ^^^ s.x b)

/-- SLL (R111). -/
def execSll (d a b : XReg) (s : State) : Result := s.result d (s.x a <<< amount (s.x b))

/-- SRL (R111). -/
def execSrl (d a b : XReg) (s : State) : Result := s.result d (s.x a >>> amount (s.x b))

/-- SRA (R111). -/
def execSra (d a b : XReg) (s : State) : Result := s.result d ((s.x a).sshiftRight (amount (s.x b)))

/-- SLT (R111). -/
def execSlt (d a b : XReg) (s : State) : Result := s.result d (flagWord ((s.x a).slt (s.x b)))

/-- SLTU (R111). -/
def execSltu (d a b : XReg) (s : State) : Result := s.result d (flagWord ((s.x a).ult (s.x b)))

/-- MIN (R111). -/
def execMin (d a b : XReg) (s : State) : Result := s.result d (if (s.x b).slt (s.x a) then s.x b else s.x a)

/-- MAX (R111). -/
def execMax (d a b : XReg) (s : State) : Result := s.result d (if (s.x a).slt (s.x b) then s.x b else s.x a)

/-- MINU (R111). -/
def execMinu (d a b : XReg) (s : State) : Result := s.result d (if (s.x b).ult (s.x a) then s.x b else s.x a)

/-- MAXU (R111). -/
def execMaxu (d a b : XReg) (s : State) : Result := s.result d (if (s.x a).ult (s.x b) then s.x b else s.x a)

/-- MUL (R111). -/
def execMul (d a b : XReg) (s : State) : Result := s.result d (s.x a * s.x b)

/-- MHIS (R111): bits 127 to 64 of the exact signed product. -/
def execMhis (d a b : XReg) (s : State) : Result := s.result d (ofInt ((s.x a).toInt * (s.x b).toInt / 2 ^ 64))

/-- MHIU (R111): bits 127 to 64 of the exact unsigned product. -/
def execMhiu (d a b : XReg) (s : State) : Result := s.result d (wd ((s.x a).toNat * (s.x b).toNat / 2 ^ 64))

/-- DIV (R112). -/
def execDiv (d a b : XReg) (s : State) : Result := s.result d (divWord (s.x a) (s.x b))

/-- DIVU (R112). -/
def execDivu (d a b : XReg) (s : State) : Result := s.result d (divuWord (s.x a) (s.x b))

/-- REM (R112). -/
def execRem (d a b : XReg) (s : State) : Result := s.result d (remWord (s.x a) (s.x b))

/-- REMU (R112). -/
def execRemu (d a b : XReg) (s : State) : Result := s.result d (remuWord (s.x a) (s.x b))

/-- CLZ (R111). -/
def execClz (d a : XReg) (s : State) : Result := s.result d (wd (leadingZeros (s.x a) 64))

/-- CTZ (R111). -/
def execCtz (d a : XReg) (s : State) : Result := s.result d (wd (trailingZeros (s.x a) 64))

/-- POPC (R111). -/
def execPopc (d a : XReg) (s : State) : Result := s.result d (wd (onesBelow (s.x a) 64))

/-- SEL (R111): reads rd as its condition. -/
def execSel (d a b : XReg) (s : State) : Result := s.result d (if s.x d ≠ 0 then s.x a else s.x b)

/-- ADDI (R113). -/
def execAddi (d a : XReg) (i : BitVec 16) (s : State) : Result := s.result d (s.x a + i.signExtend 64)

/-- ANDI (R113). -/
def execAndi (d a : XReg) (i : BitVec 16) (s : State) : Result := s.result d (s.x a &&& i.zeroExtend 64)

/-- ORI (R113). -/
def execOri (d a : XReg) (i : BitVec 16) (s : State) : Result := s.result d (s.x a ||| i.zeroExtend 64)

/-- XORI (R113). -/
def execXori (d a : XReg) (i : BitVec 16) (s : State) : Result := s.result d (s.x a ^^^ i.zeroExtend 64)

/-- SLTI (R113). -/
def execSlti (d a : XReg) (i : BitVec 16) (s : State) : Result := s.result d (flagWord ((s.x a).slt (i.signExtend 64)))

/-- SLTIU (R113). -/
def execSltiu (d a : XReg) (i : BitVec 16) (s : State) : Result := s.result d (flagWord ((s.x a).ult (i.zeroExtend 64)))

/-- SLLI (R114). -/
def execSlli (d a : XReg) (n : BitVec 6) (s : State) : Result := s.result d (s.x a <<< n.toNat)

/-- SRLI (R114). -/
def execSrli (d a : XReg) (n : BitVec 6) (s : State) : Result := s.result d (s.x a >>> n.toNat)

/-- SRAI (R114). -/
def execSrai (d a : XReg) (n : BitVec 6) (s : State) : Result := s.result d ((s.x a).sshiftRight n.toNat)

/-- LUI (R115). -/
def execLui (d : XReg) (i : BitVec 21) (s : State) : Result := s.result d (i.signExtend 64 <<< 16)

/-- LUIPC (R115): from the start of the 64 KiB block of its own address. -/
def execLuipc (d : XReg) (i : BitVec 21) (s : State) : Result :=
  s.result d (setBits s.task.pc 15 0 0 + (i.signExtend 64 <<< 16))

end Sys2Proof.Machine
end

