-- ==== Sys2Proof/Machine/Worlds.lean ====
section
/-! DEFINITION. The world instructions: FORKW, YIELDW, CHOOSE, ABORTW and WID (R345 to R357), and the commit of a view (R356,
R359). -/

namespace Sys2Proof.Machine

/-- The WORLD register as the task reads it: TAG reads 0 under DET (R343). -/
def State.worldNow (s : State) : Word :=
  let w := s.task.id.worldCsr
  if s.det then setBits w 9 0 0 else w

/-- Detach a stream and discard the tiles of its queue register (R329, R339). -/
def QueueReg.detach (q : QueueReg) : QueueReg := if q.stream.isSome then { q with tiles := [], stream := none } else q

/-- Detach every stream, with the stream faults not yet delivered (R329, R339). -/
def Task.detachAll (t : Task) : Task :=
  { t with q := t.q.map QueueReg.detach, pend := { t.pend with stream := Vector.replicate 8 none } }

/-- The task's Thresher, copy and collective commands have completed (R315). -/
def State.commandsDone (s : State) : Bool :=
  s.task.thr.cmds.isEmpty && s.task.ch.toList.all (·.cmds.isEmpty) && !s.coll.cmds.any (·.tid == s.task.id.tid)

/-! ### Commit -/

/-- Copy one committed granule of a world into the root (R234, R356, R414). -/
def State.commitRoot (s : State) (w : World) (g : Nat) : State :=
  let lo := g * 4096
  let hi := lo + 4096
  let s := s.keepOld lo 4096
  { s with
    mem := s.mem.replace lo hi (w.bytes.slice lo hi)
    badLines := (s.badLines.filter fun l => !(lo ≤ l && l < hi)) ++ w.bad.filter fun l => lo ≤ l && l < hi
    dirty := dirtied s.dirty lo 4096 }

/-- Copy one committed granule of a world into a rival's own copies (R356). -/
def commitRival (p w : World) (g : Nat) : World :=
  let lo := g * 4096
  let hi := lo + 4096
  { p with
    granules := insertNat p.granules g
    bytes := p.bytes.replace lo hi (w.bytes.slice lo hi)
    bad := (p.bad.filter fun l => !(lo ≤ l && l < hi)) ++ w.bad.filter fun l => lo ≤ l && l < hi }

/-- Commit a world's view into its parent, granule by granule, as one event (R356). -/
def State.commit (s : State) (num : Nat) : State :=
  match s.world? num with
  | none => s
  | some w =>
    match s.world? w.parent with
    | none => w.granules.foldl (fun s g => s.commitRoot w g) s
    | some p => s.setWorld (w.granules.foldl (fun p g => commitRival p w g) p)

/-- What the commit of a world must wait for: a granule of its parent that a vector store has still to write (R268, R275), or the
reserve of a Cellar (R414); it never ends if the running task's own tile will never come (R269). -/
def State.commitBusy (s : State) (num : Nat) : Busy :=
  match s.world? num with
  | none => .free
  | some w =>
    let mine (g : Nat) : Bool := s.sameCopy s.task.id.world w.parent (4096 * g)
      && (List.range s.task.storeQ.length).any fun n => s.task.storeDead n
        && (s.task.storeQ[n]?.map fun e => e.granules.any fun x => match x.2 with
          | .device pa => pa / 4096 == g
          | _ => false).getD false
    if w.granules.any mine then .dead
    else if w.granules.any (s.reservedPage w.parent) || ((s.world? w.parent).isNone && s.cellars && !s.granRoom w.granules) then .wait
    else .free

/-- A commit would read a copy in the stack of an isolated die, or write a granule of one (R411). -/
def State.commitIsolated (s : State) (num : Nat) : Bool :=
  match s.world? num with
  | none => false
  | some w => w.granules.any fun g =>
      s.isolatedAt (s.copyDie num (4096 * g)) || match s.world? w.parent with
        | some k => s.isolatedAt (bits s.ctxs[k.cid].wpool 51 21 * 0x200000)
        | none => s.isolatedAt (4096 * g)

/-- Wait until a commit can be made (R268); one that meets an isolated die faults 0x70 before any byte moves (R411). The TVAL of a fault is
a free value: a commit has no virtual address (log 7). -/
def State.commitClear (s : State) (num : Nat) : Res Unit :=
  let fails (c : Cause) : Res Unit := .fail { s with fresh := s.fresh + 1 } c (Config.freeBits s.fresh)
  if s.commitIsolated num then fails .uncorrectable
  else
    match s.commitBusy num with
    | .free => .ok ()
    | .wait => .wait
    | .dead => fails .queueUnderflow

/-! ### FORKW -/

/-- The depth of the running task's world (R343). -/
def State.depth (s : State) : Nat := bits s.task.id.worldCsr 18 16

/-- A task's loft with every page of it present, those in its backing slot included (R226, R347). -/
def State.wholeLoft (s : State) (t : Task) : Task :=
  match t.id.pair with
  | none => t
  | some (_, slot) =>
    let t1 := t.id.unfilled.foldl (fun t p =>
      let lo := p * 0x10000
      let src := slot + lo
      { t with
        loft := t.loft.replace lo (lo + 0x10000)
          (Mem.shiftUp (Mem.shiftDown (s.mem.slice src (src + 0x10000)) src) lo)
        badLoft := t.badLoft ++ (s.badLines.filter fun l => src ≤ l && l < src + 0x10000).flatMap fun l =>
          (List.range 8).map fun k => l - slot + 8 * k }) t
    { t1 with id := { t1.id with unfilled := [] } }

/-- Rival k of a saved parent (R347). -/
def rivalOf (t : Task) (tid : Nat) (rd : XReg) (k : Nat) (w : World) : Task :=
  let t1 := t.setX rd (wd k)
  { t1 with id := { t1.id with
      tid := tid, world := w.num, worldCsr := w.csr, forked := true, parent := t.id.tid, exitDone := false
      choice := none, pair := none } }

/-- Make rival `k` and place it as a saved entry (R346 to R348). -/
def State.makeRival (s : State) (t : Task) (rd : XReg) (k : Nat) : State × Task × Rival :=
  let (s1, w) := s.newWorld t.id.world (bits t.id.worldCsr 18 16 + 1) k t.id.cid t.id.launch
  ({ s1 with nextTid := s1.nextTid + 1 }, rivalOf t s1.nextTid rd k w, { rank := k, world := w.num, ended := false, score := none })

/-- Make `n` rivals in rank order. -/
def State.makeRivals (s : State) (t : Task) (rd : XReg) (n : Nat) : State × List Task × List Rival :=
  (List.range n).foldl (fun (s, ts, rs) k =>
    let (s1, r, v) := s.makeRival t rd k
    (s1, ts ++ [r], rs ++ [v])) (s, [], [])

/-- Fork the running task into `n` rivals, its save being `parent` in state `s1` (R346). -/
def State.fork (s1 : State) (whole parent : Task) (rd : XReg) (n : Nat) (L : Launch) : State :=
  let (s2, ts, rs) := s1.makeRivals whole rd n
  ({ s2 with running := false, task := Task.idle }).setLaunch
    { L with queue := L.queue ++ ts.map Saved.task, parked := L.parked ++ [({ task := parent, rd := rd, rivals := rs } : Parent)] }

/-- FORKW (R346, R347). A save is made in task mode alone (R395): in supervisor mode it is refused as one without a backing pair is
(log 47). The TVAL of a refused save is a free value: R390 gives an address there is none of (log 7). -/
def execForkw (d a : XReg) (s : State) : Result :=
  let n := s.x a
  s.settle ((Res.need s s.task.id.choice.isNone .chooseMisuse 0).bind fun _ =>
    (Res.need s (2 ≤ n.toNat && n.toNat ≤ 8) .chooseMisuse n).bind fun _ =>
    (Res.need s (s.depth != 4) .worldDepth 0).bind fun _ =>
    (Res.need s (!s.task.q.toList.any (·.stream.isSome)) .chooseMisuse 0).bind fun _ =>
    (Res.untilVe s.task.vectorDone).bind fun _ =>
    (Res.until s.commandsDone).bind fun _ =>
    (Res.until (s.sup || s.saveRoom)).bind fun _ =>
      let t := s.task.advance
      match s.myLaunch, if s.sup then none else s.saveFrame t t.pc with
      | some L, some (s1, parent) =>
        (Res.need s (n.toNat ≤ s.freeTags.length) .worldTags 0).bind fun _ =>
          .ok ((s1.fork (s.wholeLoft t) parent d n.toNat L).answered s.myPart s.task.id.tid)
      | _, _ => .fail { s with fresh := s.fresh + 1 } .loftBacking (Config.freeBits s.fresh))

/-! ### Ending a rival -/

/-- YIELDW (R351). -/
def execYieldw (a : XReg) (s : State) : Result :=
  s.settle ((Res.need s (s.task.id.forked && s.task.id.choice.isNone) .chooseMisuse 0).bind fun _ =>
    (Res.untilVe s.task.vectorDone).bind fun _ =>
      let s1 := s.setTask Task.detachAll
      if s1.commandsDone then .ok (s1.stopTask.rivalEnded s1.task (some (s.x a))) else .ok s1)

/-- ABORTW (R352). -/
def execAbortw (s : State) : Result :=
  s.settle ((Res.need s (s.task.id.forked && s.task.id.choice.isNone) .chooseMisuse 0).bind fun _ => .ok s.abortRival)

/-- The rank CHOOSE picks (R355): a selector of 0 or above names an eligible rank; −1 the least score, −2 the greatest, the
lowest rank on equal scores. -/
def choosePick (rivals : List Rival) (sel : Int) : Option Nat :=
  let E := rivals.filterMap fun r => r.score.map fun v => (r.rank, v.toInt)
  if 0 ≤ sel then (E.find? fun e => (e.1 : Int) = sel).map (·.1)
  else
    match E with
    | [] => none
    | e :: rest => some ((rest.foldl (fun best k => if sel = -1 then if k.2 < best.2 then k else best
        else if best.2 < k.2 then k else best) e).1)

/-- End a pending choice with a pick (R355): commit it, discard every view and free the tags. -/
def State.choose (s : State) (rivals : List Rival) (pick : Option Nat) : State :=
  let s1 := match pick.bind fun k => rivals.find? (·.rank == k) with
    | some r => s.commit r.world
    | none => s
  let s2 := rivals.foldl (fun s r => s.dropWorld r.world) s1
  s2.setTask fun t => { t with id := { t.id with choice := none } }

/-- The world a pick names. -/
def pickedWorld (rivals : List Rival) (pick : Option Nat) : Nat :=
  match pick.bind fun k => rivals.find? (·.rank == k) with
  | some r => r.world
  | none => 0

/-- CHOOSE (R355). -/
def execChoose (d a : XReg) (s : State) : Result :=
  let v := (s.x a).toInt
  s.settle (match s.task.id.choice with
    | none => .fail s .chooseMisuse 0
    | some c =>
      (Res.need s (v = -1 || v = -2 || (0 ≤ v && v < c.rivals.length)) .chooseMisuse (s.x a)).bind fun _ =>
        let pick := choosePick c.rivals v
        let rd := match pick with
          | some k => wd k
          | none => -1
        (s.commitClear (pickedWorld c.rivals pick)).bind fun _ => .ok (((s.choose c.rivals pick).setX d rd).advance))

/-- WID (R345): reads WORLD and never faults. -/
def execWid (d : XReg) (s : State) : Result := s.result d s.worldNow

end Sys2Proof.Machine
end

