-- ==== Sys2Proof/Machine/Tasks.lean ====
section
/-! DEFINITION. The task instructions (R311 to R317): SPAWN, JOIN, JINIT, EXIT, YIELD and WAITT. -/

namespace Sys2Proof.Machine

/-- The alignment, and checks 1 and 3 to 7 of R117, for a 32-byte record: where it lies (R312, R314). -/
def State.recordPlace (s : State) (r : Word) : Res (State × Place) :=
  (Res.need s (r.toNat % 32 = 0) .misalignedData r).bind fun _ =>
    (Res.ofChk s (s.task.rangeCheck r)).bind fun _ => s.openAt .load r 32

/-- A record as the running task reads it at a place. -/
def State.recordIn (s : State) (p : Place) : List Word := dwords (s.readPlace s.task.id.world p 32)

/-- A record read with its checks (R312). -/
def State.readRecord (s : State) (r : Word) : Res (State × List Word) :=
  (s.recordPlace r).bind fun (s1, p) => .ok (s1, s1.recordIn p)

/-- The occupancy of the running task's launch is below its capacity (R312, R314). -/
def State.queueRoom (s : State) : Bool :=
  match s.myLaunch with
  | some L => L.occupancy < L.capacity
  | none => false

/-- Append a record to the running task's launch (R302, R312). -/
def State.enqueue (s : State) (rec : List Word) (src : Word) : State :=
  match s.myLaunch with
  | some L => s.setLaunch (L.append rec src)
  | none => s

/-- The occupancy of the running task's launch (R308). -/
def State.occupancy (s : State) : Nat :=
  match s.myLaunch with
  | some L => L.occupancy
  | none => 0

/-- SPAWN (R312). -/
def execSpawn (d a : XReg) (s : State) : Result :=
  let r := s.x a
  s.settle ((Res.need s (!s.inRival) .worldExternal 0).bind fun _ =>
    (s.readRecord r).bind fun (s1, rec) =>
      (Res.need s1 s1.queueRoom .queueFull r).bind fun _ =>
        let s2 := s1.enqueue rec r
        .ok (s2.setX d (if s.det then 0 else wd s2.occupancy)).advance)

/-- The address checks of a join counter (R313): an AMO's with w = 16, on device memory only. -/
def State.joinCheck (s : State) (j : Word) : Res Unit := s.amoCheck j 16 .device false

/-- JINIT (R313): one 16-byte plain store. An uncorrectable line raises no fault in the writer (R404): that the checks it shares with an
AMO do not make it a consumer of the line (R403) is the model's choice (log 74). -/
def execJinit (d a b : XReg) (s : State) : Result :=
  let j := s.x a
  s.settle ((s.joinCheck j).bind fun _ =>
    (s.writeGran j (leBytes 8 (bits (s.x b) 31 0) ++ leBytes 8 (s.x d).toNat)).bind fun s1 => .ok s1.advance)

/-- The decrement of R314 at `j`: the count after it, with the waiter enqueued when it reaches zero. `guardExit` marks the
decrement of a GUARD task's EXIT, which acts at the root (R350, R359). -/
def State.decrement (s : State) (j : Word) : Res (State × Nat) :=
  (s.joinCheck j).bind fun _ =>
    (s.openAt .amo j 16).bind fun (s1, p) =>
      let bs := s1.readPlace s1.task.id.world p 16
      let c := leValue (bs.take 4)
      let w := wd (leValue (bs.drop 8))
      (Res.need s1 (c != 0) .joinUnderflow j).bind fun _ =>
        if c = 1 && w != 0 then
          (Res.need s1 (!s1.inRival) .worldExternal 0).bind fun _ =>
            (s1.recordPlace w).bind fun (s2, q) =>
              (Res.need s2 s2.queueRoom .queueFull w).bind fun _ =>
                (s2.claimFor j p).bind fun s3 =>
                  let s4 := s3.writePlace s3.task.id.world p (leBytes 4 (c - 1))
                  .ok (s4.enqueue (s4.recordIn q) w, c - 1)
        else
          (s1.claimFor j p).bind fun s2 =>
            .ok (s2.writePlace s2.task.id.world p (leBytes 4 (c - 1)), c - 1)

/-- JOIN (R314). -/
def execJoin (d a : XReg) (s : State) : Result :=
  s.settle ((s.decrement (s.x a)).bind fun (s1, c) => .ok (s1.setX d (if s.det then 0 else wd c)).advance)

/-- The commit of a GUARD task's view before its join (R359): the view into the root, the tag and the copies freed. -/
def State.guardCommit (s : State) : State :=
  if s.task.guarded && s.inRival then
    let w := s.task.id.world
    ((s.commit w).dropWorld w).setTask fun t => { t with id := { t.id with world := 0, worldCsr := 0 } }
  else s

/-- The commit of a GUARD task waits as any commit does (R268). -/
def State.guardClear (s : State) : Res Unit :=
  if s.task.guarded && s.inRival then s.commitClear s.task.id.world else .ok ()

/-- The drain of EXIT is done (R315): recorded so that a fault of the decrement does not drain again. -/
def State.drained (s : State) : State := (s.setTask fun t => { t with id := { t.id with exitDone := true } }).guardCommit

/-- The task reached the end of EXIT (R300, R315): counted, its croft freed, its loft discarded. -/
def State.endTask (s : State) : State :=
  match s.myLaunch with
  | some L => (s.setLaunch { L with tasks := L.tasks + 1 }).stopTask
  | none => s.stopTask

/-- The join counter of the record as popped (R302, R315). -/
def Task.joinAddr (t : Task) : Word := dw t.id.entry.record 2

/-- EXIT after its drain: the decrement, or a release alone, then the end of the task (R315). -/
def State.exitJoin (s : State) : Res State :=
  let j := s.task.joinAddr
  if j = 0 then .ok s.endTask
  else (s.decrement j).bind fun (s1, _) => .ok s1.endTask

/-- EXIT (R315, R339, R350, R354, R359): streams are detached once the vector work is done, then the engines are waited for. -/
def execExit (s : State) : Result :=
  s.settle ((Res.need s (!s.task.id.forked) .worldExternal 0).bind fun _ =>
    (Res.need s s.task.id.choice.isNone .chooseMisuse 0).bind fun _ =>
      if s.task.id.exitDone then s.exitJoin
      else
        (Res.untilVe s.task.vectorDone).bind fun _ =>
          let s1 := s.setTask Task.detachAll
          if s1.commandsDone then (s1.guardClear).bind fun _ => s1.drained.exitJoin else .ok s1)

/-- Some launch of the partition is eligible, has an entry, and has a higher effective priority than the current one (R316). -/
def State.outranked (s : State) : Bool :=
  match s.myLaunch with
  | some L => s.launches.any fun k => k.part == L.part && s.ready k && L.prio < k.prio
  | none => false

/-- YIELD (R316): completes, then saves the task if it is outranked, its launch's queue is not full, and it can be saved. -/
def execYield (s : State) : Result :=
  let s1 := s.advance
  if !s.sup && s.outranked && s.queueRoom && !s.deferred then
    if !s1.saveRoom then .next s
    else
      match s1.preemptAt true s1.task.pc with
      | some s2 => .next s2
      | none => .next s1
  else .next s1

/-- WAITT (R317): holds until TIME reaches x[rs1]. -/
def execWaitt (a : XReg) (s : State) : Result :=
  s.settle ((Res.until ((s.x a).toNat ≤ s.time)).bind fun _ => .ok s.advance)

end Sys2Proof.Machine
end

