-- ==== Sys2Proof/Machine/Csr.lean ====
section
/-! DEFINITION. The CSR instructions (R364, R365), the value each CSR reads as (R28, R367) and its write rule (R366), shared by
the instructions and by the write steps of the table (FCTL to FWGRANT). -/

namespace Sys2Proof.Machine

/-- What task mode may do with a CSR (R28). -/
inductive CsrUse where
  | readWrite | readOnly | system | unassigned
deriving DecidableEq, Repr

/-- The CSRs of R28 and R367 by number. -/
def csrUse (n : Nat) : CsrUse :=
  if [0x010, 0x020, 0x021, 0x022, 0x023, 0x024, 0x025, 0x032, 0x033, 0x034, 0x035, 0x042, 0x080].contains n then .readWrite
  else if [0x000, 0x030, 0x031, 0x040, 0x041, 0x050, 0x051, 0x060, 0x070, 0x071, 0x090, 0x091, 0x0A0].contains n then .readOnly
  else if [0x001, 0x002, 0x003, 0x004, 0x005, 0x006, 0x100, 0x101, 0x102, 0x103, 0x104, 0x105, 0x108, 0x109, 0x10A, 0x10B,
      0x10C].contains n then .system
  else .unassigned

/-- The CSRs that supervisor mode cannot write: SH, RSH, TIME, FRAME, SEED, WORLD, REPSIGL, REPSIGH, LAUNCH, PRIO, CID, PART
(R365, check 2). -/
def csrFixed (n : Nat) : Bool :=
  [0x030, 0x031, 0x040, 0x041, 0x050, 0x060, 0x070, 0x071, 0x090, 0x091, 0x100, 0x105].contains n

/-! ### Values read -/

/-- The lifecycle code (R367). -/
def lifecycleCode : Lifecycle → Nat
  | .blank => 0 | .develop => 1 | .production => 2 | .returned => 3

/-- The debug level code (R367). -/
def debugCode : DebugLevel → Nat
  | .off => 0 | .observe => 1 | .invasive => 2

/-- PART (R367). -/
def State.partWord (s : State) (i : Fin 16) : Word :=
  let p := s.parts[i]
  wd (lifecycleCode s.dev.lifecycle * 2 ^ 18 + debugCode p.debug * 2 ^ 16 + p.dies * 2 ^ 8 + p.firstDie * 2 ^ 4 + i.val)

/-- The 70-byte message of R324, for the set bound to the context. -/
def State.repsigMessage (s : State) (measure : List Byte) : List Byte :=
  let p := s.parts[s.myPart]
  let table := s.colTable p
  measure ++ shake256 (table.map fun c => BitVec.ofNat 8 c) 32 ++ leBytes 2 p.dies ++ leBytes 2 (table.filter (· != 0)).length
    ++ leBytes 1 s.rm ++ leBytes 1 (if s.det then 1 else 0)

/-- REPSIGL (0) or REPSIGH (1) (R324); while the slot holds no set the spec states no value: a free value (log 7). -/
def State.repsig (s : State) (half : Nat) : Word :=
  match s.dev.slots[s.ctxs[s.task.id.cid].xset] with
  | some x => wd (leValue (((shake256 (s.repsigMessage x.measure) 16).drop (8 * half)).take 8))
  | none => Config.freeBits s.fresh

/-- The effective priority of the running task's launch (R28, R306). -/
def State.prio (s : State) : Nat :=
  match s.myLaunch with
  | some L => L.prio
  | none => 0

/-- FRAME (R322). -/
def State.frame (s : State) : Nat := s.task.id.frame s.dev.cycle

/-- The value a CSR reads as (R28, R363, R367, R381). LSUB reads 0 and LEND reads its ID alone (R320). The spec states no value for a
read of ATTREQ: a free value (log 7). -/
def State.csrValue (s : State) (n : Nat) : Word :=
  let c := s.task.csr
  let k := s.ctxs[s.task.id.cid]
  let p := s.parts[s.myPart]
  match n with
  | 0x000 => c.status | 0x001 => c.cause | 0x002 => c.epc | 0x003 => c.tval | 0x004 => k.tvec | 0x005 => c.scratch | 0x006 => c.vepc
  | 0x010 => c.fctl
  | 0x020 => c.ls0 | 0x021 => c.le0 | 0x022 => c.lc0 | 0x023 => c.ls1 | 0x024 => c.le1 | 0x025 => c.lc1
  | 0x030 => s.shNow | 0x031 => c.rsh | 0x032 => c.arow | 0x033 => c.slip | 0x034 => c.ssp | 0x035 => c.sslim
  | 0x040 => wd s.time | 0x041 => wd s.frame | 0x042 => c.dslack
  | 0x050 => s.seed | 0x051 => s.dev.dseed
  | 0x060 => s.worldNow | 0x070 => s.repsig 0 | 0x071 => s.repsig 1
  | 0x080 => c.lcfg | 0x090 => wd s.task.id.launch.toNat | 0x091 => wd s.prio | 0x0A0 => wd k.xset.val
  | 0x100 => wd s.task.id.cid.val | 0x101 => k.ptbase | 0x102 => k.lpool | 0x103 => k.wpool | 0x104 => k.wtrap
  | 0x105 => s.partWord s.myPart | 0x108 => p.coltab | 0x10A => wd p.lendId.toNat | 0x10B => p.fwgrant
  | 0x10C => Config.freeBits s.fresh
  | _ => 0

/-- Whether reading a CSR takes a free value. -/
def State.csrFree (s : State) (n : Nat) : Bool := n = 0x10C || ((n = 0x070 || n = 0x071) && !s.slotHeld s.task.id.cid)

/-- The next free value, if a read took one. -/
def State.spend (s : State) (b : Bool) : State := if b then { s with fresh := s.fresh + 1 } else s

/-! ### Write rules -/

/-- Replace the running task's context. -/
def State.setCtx (s : State) (f : Context → Context) : State :=
  { s with ctxs := s.ctxs.set s.task.id.cid (f s.ctxs[s.task.id.cid]) }

/-- Keep only bits of a mask (R4). -/
def keep (v mask : Word) : Word := v &&& mask

/-- The loop registers after a write of one of them: 0 to 5 are LS0, LE0, LC0, LS1, LE1, LC1. Bits [1:0] of LS and LE are zero
(R4). -/
def Csrs.setLoop (c : Csrs) (k : Nat) (v : Word) : Csrs :=
  let a := setBits v 1 0 0
  match k with
  | 0 => { c with ls0 := a } | 1 => { c with le0 := a } | 2 => { c with lc0 := v }
  | 3 => { c with ls1 := a } | 4 => { c with le1 := a } | _ => { c with lc1 := v }

/-- A write of a loop register (R125). -/
def State.writeLoop (s : State) (k : Nat) (v word : Word) : Res State :=
  let c := s.task.csr.setLoop k v
  (Res.need s c.nested .loopNesting word).bind fun _ => .ok (s.setCsr c)

/-- A write of STATUS: IE, PMODE, PIE and SB change (R363). R194 lets only VSTO and the Thresher set SB and R363 lets a supervisor
write change it: that such a write sets SB follows R363, the model's choice (log 65). -/
def statusWritten (old new : Word) : Word := (old &&& 0x11) ||| (new &&& 0x2E)

/-- A write of LCFG: 17 to 31 leave L1PAGES unchanged (R223). -/
def lcfgWritten (old new : Word) : Word := if bits new 4 0 ≤ 16 then wd (bits new 4 0) else old

/-- A write of SLIP: clamped into 1 to 32 (R21). -/
def slipWritten (new : Word) : Word := if new = 0 then 1 else if 32 < new.toNat then 32 else new

/-- A write of XSET (R366): binds the context and drops its decoded-op cache entries; the block being passed goes on (R85). -/
def State.writeXset (s : State) (v : Word) : Res State :=
  let k : Fin 4 := ⟨v.toNat % 4, Nat.mod_lt _ (by decide)⟩
  if s.dev.slots[k].isNone then .fail s .expansionAbsent 0
  else .ok { s.keepPassing.setCtx (fun c => { c with xset := k }) with ops := s.ops.filter fun b => b.cid != s.task.id.cid }

/-- A write of DSEED (R181). -/
def State.writeDseed (s : State) (v : Word) : Res State := .ok { s with dev := { s.dev with dseed := v } }

/-- A write of LSUB (R320): one plain 64-byte read, then admission, refusal or drop in the task's context (R299). -/
def State.writeLsub (s : State) (v : Word) : Res State :=
  (s.aligned v 64 .misalignedData).bind fun _ =>
    (s.readGran v 64).bind fun (s1, bs) =>
      (Res.until (!s1.submitHeld s1.task.id.cid (dwords bs))).bind fun _ => .ok (s1.submit s1.task.id.cid (dwords bs))

/-- A write of LEND (R320): an ID that names no live launch makes it do nothing. -/
def State.writeLend (s : State) (v : Word) : Res State :=
  let part := s.myPart
  let id := BitVec.ofNat 12 (bits v 11 0)
  match s.launch? part id with
  | none => .ok s
  | some _ =>
    let s1 := s.setPart part { s.parts[part] with lendId := id }
    .ok (if bit v 15 then s1.failLaunch part id (bits v 22 16) 0 else s1)

/-- Lantern writes bytes for a request: at virtual addresses of its context, or at device addresses of the partition for a
request of the management path (R373, R422). -/
def State.attestWrite (s : State) (part : Fin 16) (cid : Option (Fin 64)) (a : Word) (bs : List Byte) : State :=
  match cid with
  | some c => s.gleanWrite c a bs
  | none => if s.parts[part].owns a.toNat bs.length && !s.isolatedIn a.toNat bs.length then s.post (.root a.toNat bs) else s

/-- Write the status doubleword of an attestation request (R373). -/
def State.attestStatus (s : State) (part : Fin 16) (cid : Option (Fin 64)) (status : Word) (n : Nat) : State :=
  s.attestWrite part cid status (leBytes 8 n)

/-- Lantern takes an attestation request in a context (R373, R379): status 2 in BLANK and RETURN, 3 while another request of
the partition is pending, else it is kept until the report is written. -/
def State.attestAsk (s : State) (part : Fin 16) (cid : Option (Fin 64)) (block : List Word) : State :=
  let status := dw block 5
  if !s.launchesAllowed then s.attestStatus part cid status 2
  else if s.parts[part].attest.isSome then s.attestStatus part cid status 3
  else s.setPart part { s.parts[part] with
    attest := some { nonce := dwBytes (block.take 4), report := dw block 4, status := status, cid := cid } }

/-- A write of ATTREQ (R373): the request block is read in program order. -/
def State.writeAttreq (s : State) (v : Word) : Res State :=
  (s.aligned v 64 .misalignedData).bind fun _ =>
    (s.readGran v 64).bind fun (s1, bs) => .ok (s1.attestAsk s1.myPart (some s1.task.id.cid) (dwords bs))

/-- A write of FWGRANT (R375). -/
def State.writeFwgrant (s : State) (v : Word) : Res State :=
  let part := s.myPart
  .ok (s.setPart part { s.parts[part] with fwgrant := keep v 0x000FFFFFFFE7FFFF#64 })

/-- The write rule of each CSR (R366). -/
def State.csrWrite (s : State) (n : Nat) (v word : Word) : Res State :=
  let c := s.task.csr
  match n with
  | 0x000 => .ok (s.setCsr { c with status := statusWritten c.status v })
  | 0x001 => .ok (s.setCsr { c with cause := keep v 0x7FFF#64 })
  | 0x002 => .ok (s.setCsr { c with epc := setBits v 1 1 0 })
  | 0x003 => .ok (s.setCsr { c with tval := v })
  | 0x004 => .ok (s.setCtx fun k => { k with tvec := setBits v 1 0 0 })
  | 0x005 => .ok (s.setCsr { c with scratch := v })
  | 0x006 => .ok (s.setCsr { c with vepc := v })
  | 0x010 => .ok (s.setCsr { c with fctl := fctlWritten c.fctl v })
  | 0x020 => s.writeLoop 0 v word | 0x021 => s.writeLoop 1 v word | 0x022 => s.writeLoop 2 v word
  | 0x023 => s.writeLoop 3 v word | 0x024 => s.writeLoop 4 v word | 0x025 => s.writeLoop 5 v word
  | 0x032 => .ok (s.setCsr { c with arow := keep v 3 })
  | 0x033 => .ok (s.setCsr { c with slip := slipWritten v })
  | 0x034 => .ok (s.setCsr { c with ssp := v })
  | 0x035 => .ok (s.setCsr { c with sslim := v })
  | 0x042 => .ok (s.setCsr { c with dslack := keep v 0xFFFFFFFF#64 })
  | 0x051 => s.writeDseed v
  | 0x080 => .ok (s.setCsr { c with lcfg := lcfgWritten c.lcfg v })
  | 0x0A0 => s.writeXset v
  | 0x101 => .ok (s.setCtx fun k => { k with ptbase := keep v 0x000FFFFFFFFF0000#64 })
  | 0x102 => .ok (s.setCtx fun k => { k with lpool := keep v 0x000FFFFFFFE1FFFF#64 })
  | 0x103 => .ok (s.setCtx fun k => { k with wpool := keep v 0x000FFFFFFFE1FFFF#64 })
  | 0x104 => .ok (s.setCtx fun k => { k with wtrap := keep v 0x00FFFFFFFFFFFFFD#64 })
  | 0x108 => .ok (s.setPart s.myPart { s.parts[s.myPart] with coltab := keep v 0x000FFFFFFFFF0001#64 })
  | 0x109 => s.writeLsub v
  | 0x10A => s.writeLend v
  | 0x10B => s.writeFwgrant v
  | 0x10C => s.writeAttreq v
  | _ => .ok s

/-! ### The instructions -/

/-- An access of a CSR: number, whether it reads and writes, and whether it is the CSRC of SB that task mode may make. -/
structure CsrReq where
  num : Nat
  reads : Bool
  writes : Bool
  clearsSb : Bool
  word : Word
deriving DecidableEq, Repr

/-- Check 1 of R365 (R28, R363). -/
def CsrReq.taskOk (q : CsrReq) : Bool :=
  match csrUse q.num with
  | .readWrite => true
  | .readOnly => !q.writes || (q.num = 0 && q.clearsSb)
  | _ => false

/-- Checks 1 to 4 of R365, in order. -/
def State.csrCheck (s : State) (q : CsrReq) : Res Unit :=
  (Res.need s (s.sup || q.taskOk) .privileged q.word).bind fun _ =>
    (Res.need s (csrUse q.num != .unassigned && !(q.writes && csrFixed q.num)) .illegal q.word).bind fun _ =>
      (Res.need s (!(s.det && q.reads && (q.num = 0x040 || q.num = 0x041))) .nondeterministic q.word).bind fun _ =>
        Res.need s (!(s.inRival && q.writes && [0x051, 0x108, 0x109, 0x10A].contains q.num)) .worldExternal 0

/-- Whether an entry is a VSTO. -/
def StoreEntry.isVsto (e : StoreEntry) : Bool :=
  match e.instr with
  | .vsto _ _ _ _ => true
  | _ => false

/-- The stall of a CSR access: FCTL for the VE (R22), STATUS for the VSTOs (R194), a write of LCFG for the task's
vector work, in a handler only that since the trap entry (R224, R391), and for its engines. -/
def State.csrStall (s : State) (q : CsrReq) : Res Unit :=
  if q.num = 0x010 then Res.untilVe s.task.veDone
  else if q.num = 0x000 then Res.untilVe (!s.task.openStores.any fun e => e.isVsto && !e.begun)
  else if q.num = 0x080 && q.writes then (Res.untilVe (s.task.veDone && s.task.openStores.isEmpty)).bind fun _ => Res.until s.enginesDone
  else .ok ()

/-- Finish a CSR instruction: rd takes the old value if it was read; a task that the write ended goes no further (R320). -/
def State.csrFinish (s : State) (d : XReg) (reads : Bool) (old : Word) : State :=
  if s.running then (if reads then s.setX d old else s).advance else s

/-- One CSR access (R364, R365). -/
def State.csrAccess (s : State) (d : XReg) (q : CsrReq) (new : Word → Word) : Result :=
  s.settle ((s.csrCheck q).bind fun _ => (s.csrStall q).bind fun _ =>
    let old := s.csrValue q.num
    let s1 := s.spend (q.reads && s.csrFree q.num)
    if q.writes then (s1.csrWrite q.num (new old) q.word).bind fun s2 => .ok (s2.csrFinish d q.reads old)
    else .ok (s1.csrFinish d q.reads old))

/-- CSRR (R364). -/
def execCsrr (d : XReg) (c : BitVec 12) (s : State) : Result :=
  s.csrAccess d ⟨c.toNat, true, false, false, wordOf (.csrr d c)⟩ id

/-- CSRW (R364): with rd x0 it does not read. -/
def execCsrw (d a : XReg) (c : BitVec 12) (s : State) : Result :=
  s.csrAccess d ⟨c.toNat, d != 0, true, false, wordOf (.csrw d a c)⟩ fun _ => s.x a

/-- CSRS (R364): with rs1 x0 it does not write. -/
def execCsrs (d a : XReg) (c : BitVec 12) (s : State) : Result :=
  s.csrAccess d ⟨c.toNat, true, a != 0, false, wordOf (.csrs d a c)⟩ fun old => old ||| s.x a

/-- CSRC (R364): with rs1 x0 it does not write; in task mode it may clear STATUS.SB (R363). -/
def execCsrc (d a : XReg) (c : BitVec 12) (s : State) : Result :=
  s.csrAccess d ⟨c.toNat, true, a != 0, s.x a &&& ~~~0x20#64 == 0, wordOf (.csrc d a c)⟩ fun old => old &&& ~~~(s.x a)

/-! ### The write steps of the table -/

/-- The word of the instruction at pc, for the TVAL of a write step. -/
def State.wordAtPc (s : State) : Word :=
  match s.fetchWord s.sup s.task.pc with
  | .ok w => wd w
  | _ => 0

/-- The write step of a CSR by the running task (log 10): the step of a CSRW with rd x0 that writes the value. -/
def State.writeStep (s : State) (n : Nat) (v : Word) : Result :=
  if s.running && s.task.part.isNone then s.csrAccess 0 ⟨n, false, true, false, s.wordAtPc⟩ fun _ => v else .next s

/-- FCTL (R22, R99). -/
def execFctlWrite (v : BitVec 64) (s : State) : Result := s.writeStep 0x010 v

/-- SLIP (R21). -/
def execSlipWrite (v : BitVec 64) (s : State) : Result := s.writeStep 0x033 v

/-- LCFG (R223, R224). -/
def execLcfgWrite (v : BitVec 64) (s : State) : Result := s.writeStep 0x080 v

/-- STATUS (R363, R194): in task mode only the clearing of SB is permitted. -/
def execStatusWrite (v : BitVec 64) (s : State) : Result :=
  let old := s.task.csr.status
  if s.running && s.task.part.isNone then s.csrAccess 0 ⟨0, false, true, v == old || v == old &&& ~~~0x20#64, s.wordAtPc⟩ fun _ => v else .next s

/-- LOOP_REGISTER_WRITE (R125): 0 to 5 name LS0, LE0, LC0, LS1, LE1, LC1. -/
def execLoopRegisterWrite (k : Fin 6) (v : BitVec 64) (s : State) : Result := s.writeStep (0x020 + k.val) v

/-- XSET (R366). -/
def execXsetWrite (v : BitVec 64) (s : State) : Result := s.writeStep 0x0A0 v

/-- DSEED (R181). -/
def execDseedWrite (v : BitVec 64) (s : State) : Result := s.writeStep 0x051 v

/-- LSUB (R320). -/
def execLsubWrite (v : BitVec 64) (s : State) : Result := s.writeStep 0x109 v

/-- LEND (R320). -/
def execLendWrite (v : BitVec 64) (s : State) : Result := s.writeStep 0x10A v

/-- ATTREQ (R373). -/
def execAttreqWrite (v : BitVec 64) (s : State) : Result := s.writeStep 0x10C v

/-- FWGRANT (R375). -/
def execFwgrantWrite (v : BitVec 64) (s : State) : Result := s.writeStep 0x10B v

end Sys2Proof.Machine
end

