-- ==== Sys2Proof/Machine/Eng.lean ====
section
/-! DEFINITION. The ENG instructions that issue and bind: MXQ (R203), CPQ (R252), CLQ (R281, R283), STRM and UNSTRM (R327 to R329)
and QBIND (R251). -/

namespace Sys2Proof.Machine

/-- A record address must be a loft address, then a multiple of 128 (R203, R252, R281). -/
def State.recordAt (s : State) (d : Word) : Res Unit :=
  (Res.need s (match s.task.addrKind d with
    | .loft _ => true
    | _ => false) .addressRange d).bind fun _ => Res.need s (d.toNat % 128 = 0) .misalignedData d

/-- A check of a copied record: TVAL names it (R203, R252, R281). -/
def State.recordCheck (s : State) (d : Word) (c : Option Cause) : Res Unit :=
  match c with
  | some c => .fail s c d
  | none => .ok ()

/-- Append a command to the Thresher's queue (R203, R206). -/
def Thresher.push (t : Thresher) (rec : List Word) (d : Word) (dslack : Nat) : Thresher :=
  { t with
    issued := t.issued + 1
    cmds := t.cmds ++ [{ record := rec, addr := d, dslack := dslack, ordinal := t.issued + 1, started := false
                         stampDone := false, descs := none, point := 0 }] }

/-- DSLACK[31:0] as a command captures it (R206). -/
def State.slack (s : State) : Nat := bits s.task.csr.dslack 31 0

/-- MXQ (R203, R205). -/
def execMxq (a : XReg) (s : State) : Result :=
  let d := s.x a
  s.settle ((s.recordAt d).bind fun _ =>
    (Res.until (s.task.thr.cmds.length < Config.engineQueue)).bind fun _ =>
      (s.readBlock d 2).bind fun (s1, bs) =>
        let rec_ := dwords bs
        (s1.recordCheck d (thrCheck rec_ s1.task.loftLimit)).bind fun _ =>
          .ok (s1.setTask fun t => { t with thr := t.thr.push rec_ d s.slack }).advance)

/-- Append a command to a copy channel (R252, R257). -/
def Channel.push (c : Channel) (rec : List Word) (d : Word) (dslack : Nat) (sup : Bool) (after : Nat) : Channel :=
  { c with
    issued := c.issued + 1
    cmds := c.cmds ++ [{ record := rec, addr := d, dslack := dslack, ordinal := c.issued + 1, sup := sup, after := after, started := false
                         stampDone := false, desc := none, pos := 0, w0 := 0, crc := 0xFFFFFFFF#32 }] }

/-- CPQ (R252, R256). -/
def execCpq (a b : XReg) (s : State) : Result :=
  let d := s.x a
  let k : Fin 4 := ⟨(s.x b).toNat % 4, Nat.mod_lt _ (by decide)⟩
  s.settle ((s.recordAt d).bind fun _ =>
    (Res.need s ((s.x b).toNat ≤ 3) .recordMalformed (s.x b)).bind fun _ =>
      (Res.until (s.task.ch[k].cmds.length < Config.engineQueue)).bind fun _ =>
        (s.readBlock d 2).bind fun (s1, bs) =>
          let rec_ := dwords bs
          (s1.recordCheck d (s1.task.copyCheck rec_)).bind fun _ =>
            .ok (s1.setTask fun t => { t with ch := t.ch.set k (t.ch[k].push rec_ d s.slack s.sup s.task.stores) }).advance)

/-! ### CLQ -/

/-- KIND of a collective record: 0 ALLREDUCE, 1 REDUCESCATTER, 2 ALLGATHER, 3 BROADCAST, 4 SEND, 5 RECV (R282). -/
def collKind (r : List Word) : Nat := bits (dw r 0) 7 0
/-- OP: 0 SUM, 1 MAX, 2 MIN. -/
def collOp (r : List Word) : Nat := bits (dw r 0) 9 8
/-- FMT: 0 FP32, 1 BF16. -/
def collFmt (r : List Word) : Nat := bits (dw r 0) 13 10
/-- WINNOW. -/
def collWinnow (r : List Word) : Nat := bits (dw r 0) 18 16
/-- GROUP. -/
def collGroup (r : List Word) : Nat := bits (dw r 0) 63 32
/-- The bytes of an element. -/
def collSize (r : List Word) : Nat := if collFmt r = 0 then 4 else 2

/-- The checks of R283, in order. -/
def collCheck (r : List Word) : Option Cause :=
  let k := collKind r
  let zeros : Bool := bits (dw r 0) 31 19 != 0 || bits (dw r 1) 63 48 != 0 || bits (dw r 1) 15 6 != 0
    || (List.range 8).any (fun j => dw r (7 + j) != 0) || bits (dw r 15) 63 8 != 0
  let fields : Bool := (collWinnow r != 0 && (collOp r != 0 || 1 < k)) || ((dw r 5 != 0) != (collWinnow r != 0))
    || (k == 5 && dw r 2 != 0) || (k == 4 && dw r 3 != 0) || (k != 3 && k != 4 && k != 5 && dw r 6 != 0)
    || dw r 4 == 0 || 2 ^ 36 ≤ (dw r 4).toNat
  let bad (a : Word) : Bool := a != 0 && (bits a 63 56 != 0 || bits a 55 52 == 0xF)
  if 5 < k || collOp r = 3 || bits (dw r 15) 7 0 != 1 || zeros then some .recordMalformed
  else if 1 < collFmt r then some .format
  else if fields then some .recordMalformed
  else if (dw r 2).toNat % collSize r != 0 || (dw r 3).toNat % collSize r != 0 || (dw r 5).toNat % 4 != 0 then some .misalignedData
  else if bad (dw r 2) || bad (dw r 3) || bad (dw r 5) then some .addressRange
  else none

/-- The ordinal counter of a command: group-wide, or per peer and direction for SEND and RECV (R284). -/
def collKey (part : Fin 16) (r : List Word) : Nat × Nat × Nat :=
  (part.val, collGroup r, if collKind r = 4 then 1 + 2 * (dw r 6).toNat else if collKind r = 5 then 2 + 2 * (dw r 6).toNat else 0)

/-- The number last given under a key. -/
def Collective.count (c : Collective) (k : Nat × Nat × Nat) : Nat :=
  match c.ordinals.find? (·.1 == k) with
  | some e => e.2
  | none => 0

/-- Count one more under a key. -/
def Collective.bump (c : Collective) (k : Nat × Nat × Nat) : Collective :=
  { c with ordinals := (k, c.count k + 1) :: c.ordinals.filter (·.1 != k) }

/-- The collective command of the running task (R281, R284, R292). -/
def State.newColl (s : State) (rec : List Word) (d : Word) (ordinal : Nat) : CollCmd :=
  { record := rec, addr := d, tid := s.task.id.tid, cid := s.task.id.cid, launch := s.task.id.launch, part := s.myPart
    sup := s.sup, ordinal := ordinal, after := s.task.stores, group := none, since := 0 }

/-- Append a collective command of the running task (R281, R284), which drops RESTART (R409). -/
def State.pushColl (s : State) (rec : List Word) (d : Word) : State :=
  let k := collKey s.myPart rec
  let c := s.coll.bump k
  let s1 := s.setTask fun t => { t with id := { t.id with restart := false } }
  { s1 with coll := { c with cmds := c.cmds ++ [s.newColl rec d (c.count k)] } }

/-- CLQ (R281). -/
def execClq (a : XReg) (s : State) : Result :=
  let d := s.x a
  s.settle ((Res.need s (!s.inRival) .worldExternal 0).bind fun _ =>
    (s.recordAt d).bind fun _ =>
      (Res.until ((s.coll.cmds.filter (·.tid == s.task.id.tid)).length < Config.engineQueue)).bind fun _ =>
        (s.readBlock d 2).bind fun (s1, bs) =>
          (s1.recordCheck d (collCheck (dwords bs))).bind fun _ => .ok (s1.pushColl (dwords bs) d).advance)

/-! ### Queue roles and streams -/

/-- Whether every earlier VE and vector memory instruction naming a queue register has completed (R251, R391). -/
def Task.queueIdle (t : Task) (q : Fin 8) : Bool :=
  !t.veQ.any (·.instr.namesQ q) && !t.openStores.any fun e => e.instr.memQ == some q

/-- A queue register's number from a register value. -/
def queueOf (v : Word) : Fin 8 := ⟨v.toNat % 8, Nat.mod_lt _ (by decide)⟩

/-- The role with a code (R251). -/
def roleOf (v : Word) : QRole := if v = 0 then .load else if v = 1 then .store else .stream

/-- QBIND (R251). -/
def execQbind (a b : XReg) (s : State) : Result :=
  let q := queueOf (s.x a)
  s.settle ((Res.need s ((s.x a).toNat ≤ 7 && (s.x b).toNat ≤ 2) .queueRole (wordOf (.qbind a b))).bind fun _ =>
    (Res.untilVe (s.task.queueIdle q)).bind fun _ =>
      (Res.need s (s.task.q[q].tiles.isEmpty && s.task.q[q].stream.isNone) .queueRole (wd q.val)).bind fun _ =>
        .ok (s.setTask fun t => { t with q := t.q.set q { t.q[q] with role := roleOf (s.x b) } }).advance)

/-- A valid stream descriptor under a captured SH (R326, R327). RATIO is the number the field holds, at least 1.0 with BALE
(log 19). -/
def streamValid (desc : List Word) (sh : Word) : Bool :=
  let fields := (List.range 4).map fun k => bits (dw desc 3) (8 * k + 7) (8 * k)
  let ops := streamOps desc
  let bale := ops.contains 1
  let count := bits (dw desc 2) 31 0
  let ratio := bits (dw desc 2) 47 32
  bits (dw desc 2) 63 48 = 0 && bits (dw desc 3) 63 32 = 0 && bits (dw desc 4) 63 19 = 0 && bits (dw desc 4) 7 4 = 0
    && dw desc 6 == 0 && dw desc 7 == 0 && bits (dw desc 4) 3 0 ≤ 12 && bits (dw desc 4) 18 16 ≤ 5
    && fields == ops ++ List.replicate (4 - ops.length) 0 && ascends ops && ops.all (· ≤ 4)
    && (!ops.contains 2 || ops.contains 4) && (ops.contains 2 || bits (dw desc 4) 15 8 = 0)
    && (ops.contains 4 || bits (dw desc 4) 3 0 = bits sh 19 16)
    && 1 ≤ count && (if bale then 0x100 ≤ ratio else ratio = 0 && dw desc 1 == 0)
    && (if ops.contains 3 then (dw desc 5).toNat % 2 = 0 else dw desc 5 == 0)

/-- A stream newly attached (R328). -/
def Stream.new (desc : List Word) (d sh : Word) (sup : Bool) (after : Nat) : Stream :=
  { desc := desc, daddr := d, sh := sh, sup := sup, chunk := 0, attempt := 0, ordinal := 0, carry := [], skip := 0, waiting := []
    ulens := [], table := [], built := false, stopped := false, after := after }

/-- STRM (R328). -/
def execStrm (a b : XReg) (s : State) : Result :=
  let q := queueOf (s.x a)
  let d := s.x b
  let sh := s.shNow
  let r := s.task.q[q]
  let word := wordOf (.strm a b)
  s.settle ((Res.need s ((s.x a).toNat ≤ 7) .queueRole (s.x a)).bind fun _ =>
    (Res.untilVe (s.task.queueIdle q)).bind fun _ =>
      (Res.need s (r.role == .stream && r.tiles.isEmpty && r.stream.isNone) .queueRole (wd q.val)).bind fun _ =>
        (Res.need s (bits sh 7 0 != 0) .shape word).bind fun _ =>
          (Res.need s (d.toNat % 64 = 0) .misalignedData d).bind fun _ =>
            (Res.ofChk s (s.task.rangeCheck d)).bind fun _ =>
              (s.readGran d 64).bind fun (s1, bs) =>
                let desc := dwords bs
                (Res.need s1 (streamValid desc sh) .streamDescriptor d).bind fun _ =>
                  (Res.need s1 (!(streamOps desc).contains 3 || bits sh 15 8 % 8 = 0) .shape word).bind fun _ =>
                    .ok (s1.setTask fun t =>
                      { t with q := t.q.set q { t.q[q] with stream := some (Stream.new desc d sh s.sup s.task.stores) } }).advance)

/-- UNSTRM (R329): the stream, its tiles and its undelivered fault are discarded. -/
def execUnstrm (a : XReg) (s : State) : Result :=
  let q := queueOf (s.x a)
  s.settle ((Res.need s ((s.x a).toNat ≤ 7) .queueRole (s.x a)).bind fun _ =>
    (Res.untilVe (s.task.queueIdle q)).bind fun _ =>
      .ok (s.setTask fun t =>
        { t with q := t.q.set q { t.q[q] with tiles := [], stream := none }
                 pend := { t.pend with stream := t.pend.stream.set q none } }).advance)

end Sys2Proof.Machine
end

