-- ==== Sys2Proof/Machine/Sync.lean ====
section
/-! DEFINITION. SHAPE and SYNC: SETSHP and GETSHP (R136 to R138), the stooks (R263 to R265), WPWAIT (R266) and ENGSEQ (R267). -/

namespace Sys2Proof.Machine

/-- The column maximum that bounds a grant (R136, R137). -/
def State.grantMax (s : State) : Nat := if s.det then s.partMin s.parts[s.myPart] else s.cmax

/-- SETSHP (R136). -/
def execSetshp (d a : XReg) (s : State) : Result :=
  let q := s.x a
  let m := s.grantMax
  let rows := Nat.min (bits q 7 0) 16
  let cols := Nat.min (bits q 15 8) m
  let give (sh rsh : Word) : State := ((s.setCsr { s.task.csr with sh := sh, rsh := rsh }).setX d sh).advance
  if q = 0 then .next (give (wd (m * 2 ^ 24)) 0)
  else s.settle ((Res.need s (bits q 63 21 = 0 && bits q 7 0 != 0 && bits q 15 8 != 0 && bits q 19 16 < 13) .shape q).bind
    fun _ => (Res.need s (!(bit q 20 && (rows != bits q 7 0 || cols != bits q 15 8))) .shape q).bind fun _ =>
      .ok (give (wd (m * 2 ^ 24 + bits q 19 16 * 2 ^ 16 + cols * 2 ^ 8 + rows)) (wd (bits q 20 0))))

/-- GETSHP (R138). -/
def execGetshp (d : XReg) (s : State) : Result := s.result d s.shNow

/-! ### Stooks -/

/-- The effect of SKADD (R264): the exact sum, reduced by the target with one phase flip a time; with target 0 it saturates. -/
def Stook.add (k : Stook) (inc : Nat) : Stook :=
  let n := k.count.toNat + inc
  let t := k.target.toNat
  if t = 0 then { k with count := BitVec.ofNat 32 (Nat.min n 0xFFFFFFFF) }
  else { k with count := BitVec.ofNat 32 (n % t), phase := if n / t % 2 = 1 then !k.phase else k.phase }

/-- Replace a stook of the running task. -/
def State.setStook (s : State) (k : Fin 16) (v : Stook) : State := s.setTask fun t => { t with stooks := t.stooks.set k v }

/-- A signal of an engine (R264). -/
def Task.signal (t : Task) (k inc : Nat) : Task :=
  { t with stooks := Vector.ofFn fun i => if i.val = k then t.stooks[i].add inc else t.stooks[i] }

/-- SKSET (R264). -/
def execSkset (a : XReg) (k : Fin 16) (s : State) : Result :=
  .next (s.setStook k ⟨0, BitVec.ofNat 31 (bits (s.x a) 30 0), false⟩).advance

/-- SKADD (R264). -/
def execSkadd (a : XReg) (k : Fin 16) (s : State) : Result :=
  .next (s.setStook k (s.task.stooks[k].add (bits (s.x a) 31 0))).advance

/-- SKWAIT (R264, R265). -/
def execSkwait (a : XReg) (k : Fin 16) (s : State) : Result :=
  s.settle ((Res.until (s.task.stooks[k].phase == bit (s.x a) 0)).bind fun _ => .ok s.advance)

/-- SKRD (R264): faults 0x60 under DET (R321). -/
def execSkrd (d : XReg) (k : Fin 16) (s : State) : Result :=
  s.settle ((Res.need s (!s.det) .nondeterministic (wordOf (.skrd d k))).bind fun _ =>
    .ok (s.setX d s.task.stooks[k].word).advance)

/-- WPWAIT (R266). -/
def execWpwait (a : XReg) (k : Fin 4) (s : State) : Result :=
  s.settle ((Res.until ((s.x a).ule s.task.ch[k].wp)).bind fun _ => .ok s.advance)

/-- The sequence number an engine selector reads (R267). -/
def Task.engineSeq (t : Task) (sel : Nat) : Nat :=
  if sel = 0 then t.thr.done
  else match t.ch.toList[sel - 1]? with
    | some c => c.done
    | none => 0

/-- ENGSEQ (R267): faults 0x60 under DET (R321). -/
def execEngseq (d a : XReg) (s : State) : Result :=
  s.settle ((Res.need s (!s.det) .nondeterministic (wordOf (.engseq d a))).bind fun _ =>
    .ok (s.setX d (wd (s.task.engineSeq (s.x a).toNat))).advance)

end Sys2Proof.Machine
end

