-- ==== Sys2Proof/Machine/Fps.lean ====
section
/-! DEFINITION. Scalar floating point (R131 to R133). -/

namespace Sys2Proof.Machine

/-- The effective mode of an FPS instruction (R131). -/
def State.fpsMode (s : State) (r : FRnd) : RM :=
  match r with
  | .dyn => RM.ofCode s.rm
  | .rne => .rne
  | .rtz => .rtz
  | .rup => .rup
  | .rdn => .rdn

/-- Take the next stochastic count (R100). -/
def Task.takeStoch (t : Task) : Task := { t with id := { t.id with stoch := t.id.stoch + 1 } }

/-- An FPS instruction that rounds: it takes a stochastic count when its effective mode is STOCH (R100), ORs its flags into
FCTL and writes rd (R131, R133). `f` gives bits and flags from the mode and the draw. -/
def State.fpsRound (s : State) (d : XReg) (r : FRnd) (f : RM → Nat → Nat × Flags) : Result :=
  let m := s.fpsMode r
  let id := s.task.id
  let v := f m (if m == .stoch then stochT s.seed s.task.pc id.launch id.stoch 0 else 0)
  let s1 := if m == .stoch then s.setTask Task.takeStoch else s
  (s1.setCsr (s1.task.csr.addFlags v.2)).result d (wd v.1)

/-- An FPS instruction that does not round: flags into FCTL and a value into rd (R132, R133). -/
def State.fpsPlain (s : State) (d : XReg) (v : Nat × Flags) : Result :=
  (s.setCsr (s.task.csr.addFlags v.2)).result d (wd v.1)

/-- An operand as a value (R131). -/
def State.fnum (s : State) (f : FFmt) (r : XReg) : Num := (FFmt.float f).decode (fOperand f (s.x r))

/-- Round a value and its own flags into F (R132). -/
def fpsInto (f : FFmt) (m : RM) (t : Nat) (v : Num × Flags) : Nat × Flags :=
  let (b, g) := (FFmt.float f).round m t v.1
  (b, v.2 ||| g)

/-- FADD (R132). -/
def execFadd (d a b : XReg) (f : FFmt) (r : FRnd) (s : State) : Result :=
  s.fpsRound d r fun m t => fpsInto f m t (sumNum m [s.fnum f a, s.fnum f b])

/-- FSUB (R132). -/
def execFsub (d a b : XReg) (f : FFmt) (r : FRnd) (s : State) : Result :=
  s.fpsRound d r fun m t => fpsInto f m t (sumNum m [s.fnum f a, (s.fnum f b).negate])

/-- FMUL (R132). -/
def execFmul (d a b : XReg) (f : FFmt) (r : FRnd) (s : State) : Result :=
  s.fpsRound d r fun m t => fpsInto f m t (mulNum (s.fnum f a) (s.fnum f b))

/-- FDIV (R132). -/
def execFdiv (d a b : XReg) (f : FFmt) (r : FRnd) (s : State) : Result :=
  s.fpsRound d r fun m t => fpsInto f m t (divNum (s.fnum f a) (s.fnum f b))

/-- FSQRT (R132). -/
def execFsqrt (d a : XReg) (f : FFmt) (r : FRnd) (s : State) : Result :=
  s.fpsRound d r fun m t => fpsInto f m t (sqrtNum (s.fnum f a))

/-- FMIN and FMAX (R132). -/
def State.fminmax (s : State) (wantMax : Bool) (d a b : XReg) (f : FFmt) : Result :=
  s.fpsPlain d (minMaxBits (FFmt.float f).nanBits wantMax (s.fnum f a) (s.fnum f b) (fOperand f (s.x a)) (fOperand f (s.x b)))

/-- FMIN (R132). -/
def execFmin (d a b : XReg) (f : FFmt) (s : State) : Result := s.fminmax false d a b f

/-- FMAX (R132). -/
def execFmax (d a b : XReg) (f : FFmt) (s : State) : Result := s.fminmax true d a b f

/-- A comparison (R132): false on a NaN; NV on any NaN, or for FEQ on a signalling one only. -/
def State.fcmp (s : State) (quiet : Bool) (d a b : XReg) (f : FFmt) (holds : Ordering → Bool) : Result :=
  let x := s.fnum f a
  let y := s.fnum f b
  if x.isNaN || y.isNaN then
    s.fpsPlain d (0, if !quiet || x.isSignalling || y.isSignalling then fNV else 0)
  else s.fpsPlain d (if holds (x.cmp y) then 1 else 0, 0)

/-- FLT (R132). -/
def execFlt (d a b : XReg) (f : FFmt) (s : State) : Result := s.fcmp false d a b f (· == .lt)

/-- FEQ (R132). -/
def execFeq (d a b : XReg) (f : FFmt) (s : State) : Result := s.fcmp true d a b f (· == .eq)

/-- FLE (R132). -/
def execFle (d a b : XReg) (f : FFmt) (s : State) : Result := s.fcmp false d a b f (· != .gt)

/-- FCVTFI (R132): x[rs1] as a signed integer, rounded into F. -/
def execFcvtfi (d a : XReg) (f : FFmt) (r : FRnd) (s : State) : Result :=
  s.fpsRound d r fun m t => (FFmt.float f).round m t (.ofInt (s.x a).toInt)

/-- FCVTIF (R132): rounded to an integer, then saturated to the signed 64-bit range. -/
def execFcvtif (d a : XReg) (f : FFmt) (r : FRnd) (s : State) : Result :=
  s.fpsRound d r fun m t =>
    let (v, g) := roundInt m t (-(2 ^ 63)) (2 ^ 63 - 1) (s.fnum f a)
    (wrapN 64 v, g)

/-- FCVTFF (R132): .S narrows FP64 to FP32, .D widens FP32 to FP64 exactly and takes no count (R100). -/
def execFcvtff (d a : XReg) (f : FFmt) (r : FRnd) (s : State) : Result :=
  match f with
  | .s => s.fpsRound d r fun m t => ff32.round m t (s.fnum .d a)
  | .d => s.fpsPlain d (ff64.round .rne 0 (s.fnum .s a))

/-- FMADD (R132): a × b + the old rd, rounded once. -/
def execFmadd (d a b : XReg) (f : FFmt) (r : FRnd) (s : State) : Result :=
  s.fpsRound d r fun m t => fpsInto f m t (fmaNum m (s.fnum f a) (s.fnum f b) (s.fnum f d))

end Sys2Proof.Machine
end

