-- ==== Sys2Proof/Machine/Operands.lean ====
section
/-! DEFINITION. The operands and the result of a VE instruction: the captured shape (R135, R139), active elements (R141), sources
(R24 to R27, R143 to R145), element-wise results (R142) and the draw of R98. -/

namespace Sys2Proof.Machine

/-- The lane at a linear index. -/
def laneAt (T : Tile) (k : Nat) : Nat := if h : k < 1024 then T[k].toNat else 0

/-- What the VE works from when it executes an entry of its queue. -/
structure VeCtx where
  e : VeEntry
  t : Task
  seed : Word

/-- What a VE instruction does: the tile for its destination, VCMP48's second tile, VEXT's x value, and the flags it sets. -/
structure VeOut where
  tile : Tile
  second : Option (Fin 16 × Tile)
  x : Option (XReg × Word)
  flags : Flags

/-- The answer of a VE instruction: its effect, or a queue-precise fault (R168). -/
abbrev VeAns := Except Raised VeOut

/-- A result of one tile with flags. -/
def VeOut.of (tile : Tile) (flags : Flags) : VeOut := { tile := tile, second := none, x := none, flags := flags }

/-- A queue-precise fault whose TVAL is the instruction word (R390). -/
def VeCtx.fail (c : VeCtx) (cause : Cause) : VeAns := .error ⟨cause, instrWord c.e.instr⟩

/-- The captured lane format. -/
def VeCtx.fmt (c : VeCtx) : Fmt := shFmt c.e.sh
/-- The captured rows. -/
def VeCtx.rows (c : VeCtx) : Nat := shRows c.e.sh
/-- The captured columns. -/
def VeCtx.cols (c : VeCtx) : Nat := shCols c.e.sh
/-- The captured rounding mode (R97). -/
def VeCtx.mode (c : VeCtx) : RM := RM.ofCode c.e.rm.toNat

/-- The draw for the destination element at a linear index (R98). -/
def VeCtx.draw (c : VeCtx) (k : Nat) : Nat :=
  if c.mode == .stoch then stochT c.seed c.e.addr c.t.id.launch c.e.stoch k else 0

/-- A source operand as a tile: a vector register, the head of a queue register, or the rows of an accumulator tile that AROW
shows (R24, R26, R143). -/
def VeCtx.src (c : VeCtx) : VSrc → Tile
  | .v i => c.t.v[i]
  | .q i => c.t.q[i].tiles.headD Tile.zero
  | .a i => Vector.ofFn fun k =>
      c.t.thr.acc[(i.val * 4096 + c.e.arow.toNat * 1024 + k.val)]'(by have := c.e.arow.isLt; omega)

/-- The element at a linear index of a source in a format: its low bits if active, else zero (R25, R167). -/
def VeCtx.elem (c : VeCtx) (f : Fmt) (a : VSrc) : Nat → Nat :=
  let T := c.src a
  fun k => if activeIn c.e.sh k then laneAt T k % 2 ^ f.width else 0

/-- The scalar operand of an X form: the low bits of the captured register (R151). -/
def VeCtx.scalar (c : VeCtx) : Nat := c.e.xs.toNat % 2 ^ c.fmt.width

/-- A tile with a result and flags for each active element and zero elsewhere (R141, R142). -/
def VeCtx.each (c : VeCtx) (f : Nat → Nat × Flags) : VeAns :=
  let w : Vector (Nat × Flags) 1024 := Vector.ofFn fun k => if activeIn c.e.sh k.val then f k.val else (0, 0)
  .ok (VeOut.of (w.map fun p => BitVec.ofNat 32 p.1) (w.toList.foldl (fun a p => a ||| p.2) 0))

/-- An element-wise instruction of one source in SH.FMT; the function takes the linear index and the element. -/
def VeCtx.map1 (c : VeCtx) (f : Nat → Nat → Nat × Flags) (a : VSrc) : VeAns :=
  let A := c.elem c.fmt a
  c.each fun k => f k (A k)

/-- An element-wise instruction of two sources. -/
def VeCtx.map2 (c : VeCtx) (f : Nat → Nat → Nat → Nat × Flags) (a b : VSrc) : VeAns :=
  let A := c.elem c.fmt a
  let B := c.elem c.fmt b
  c.each fun k => f k (A k) (B k)

/-- An element-wise instruction of three sources. -/
def VeCtx.map3 (c : VeCtx) (f : Nat → Nat → Nat → Nat → Nat × Flags) (a b d : VSrc) : VeAns :=
  let A := c.elem c.fmt a
  let B := c.elem c.fmt b
  let D := c.elem c.fmt d
  c.each fun k => f k (A k) (B k) (D k)

/-- Round a value with its own flags into a format, in the captured mode, for the destination element k (R97, R102). -/
def VeCtx.round (c : VeCtx) (f : Fmt) (k : Nat) (x : Num × Flags) : Nat × Flags :=
  let (b, g) := roundTo f c.mode (c.draw k) x.1
  (b, x.2 ||| g)

end Sys2Proof.Machine
end

