-- ==== Sys2Proof/Machine/VeArith.lean ====
section
/-! DEFINITION. What the VE does for the element-wise instructions: VAR, VFM, the scalar-operand forms, VBIT, VCMP, VSEL and
VCVT (R148 to R155). Each function is one element; each `ve` definition is one instruction. -/

namespace Sys2Proof.Machine

/-- An integer of the lane format, wrapped (R142). -/
def VeCtx.wrap (c : VeCtx) (v : Int) : Nat × Flags := (wrapN c.fmt.width v, 0)

/-- A two-operand arithmetic element: the exact integer result wraps, the exact floating result rounds once (R142, R148). -/
def VeCtx.arith2 (c : VeCtx) (int : Int → Int → Int) (float : RM → Num → Num → Num × Flags) (k x y : Nat) : Nat × Flags :=
  let f := c.fmt
  if f.isInt then c.wrap (int (readInt f x) (readInt f y))
  else c.round f k (float c.mode (readNum f x) (readNum f y))

/-- An element of VADD. -/
def VeCtx.addAt (c : VeCtx) : Nat → Nat → Nat → Nat × Flags := c.arith2 (· + ·) fun m a b => sumNum m [a, b]
/-- An element of VSUB. -/
def VeCtx.subAt (c : VeCtx) : Nat → Nat → Nat → Nat × Flags := c.arith2 (· - ·) fun m a b => sumNum m [a, b.negate]
/-- An element of VMUL. -/
def VeCtx.mulAt (c : VeCtx) : Nat → Nat → Nat → Nat × Flags := c.arith2 (· * ·) fun _ a b => mulNum a b

/-- The integer quotient of R149, before wrapping. -/
def laneDiv (f : Fmt) (a b : Int) : Int :=
  if b = 0 then if a < 0 then intMin f else intMax f
  else if a = intMin f && b = -1 then intMax f
  else a.tdiv b

/-- An element of VDIV (R92, R149). -/
def VeCtx.divAt (c : VeCtx) (k x y : Nat) : Nat × Flags :=
  let f := c.fmt
  if f.isInt then c.wrap (laneDiv f (readInt f x) (readInt f y))
  else divTo f c.mode (c.draw k) (readNum f x) (readNum f y)

/-- The smaller or the larger of two elements (R132, R148). -/
def pickBits (f : Fmt) (wantMax : Bool) (x y : Nat) : Nat × Flags :=
  if f.isInt then
    (if readInt f x ≤ readInt f y then if wantMax then y else x else if wantMax then x else y, 0)
  else minMaxBits (nanOf f) wantMax (readNum f x) (readNum f y) x y

/-- An element of VMIN. -/
def VeCtx.minAt (c : VeCtx) (_ x y : Nat) : Nat × Flags := pickBits c.fmt false x y
/-- An element of VMAX. -/
def VeCtx.maxAt (c : VeCtx) (_ x y : Nat) : Nat × Flags := pickBits c.fmt true x y

/-- The canonical NaN, with NV for a signalling operand (R91). -/
def nanResult (f : Fmt) (n : Num) : Nat × Flags := (nanOf f, if n.isSignalling then fNV else 0)

/-- An element of VABS. -/
def VeCtx.absAt (c : VeCtx) (_ x : Nat) : Nat × Flags :=
  let f := c.fmt
  if f.isInt then c.wrap (readInt f x).natAbs
  else if (readNum f x).isNaN then nanResult f (readNum f x)
  else (x % 2 ^ (f.width - 1), 0)

/-- An element of VNEG. -/
def VeCtx.negAt (c : VeCtx) (_ x : Nat) : Nat × Flags :=
  let f := c.fmt
  if !f.isInt && (readNum f x).isNaN then nanResult f (readNum f x) else (negateBits f x, 0)

/-- An integer limited to the range of its format. -/
def clampInt (f : Fmt) (v : Int) : Int := min (max v (intMin f)) (intMax f)

/-- An element of VADDSAT or VSUBSAT. -/
def VeCtx.satAt (c : VeCtx) (int : Int → Int → Int) (_ x y : Nat) : Nat × Flags :=
  c.wrap (clampInt c.fmt (int (readInt c.fmt x) (readInt c.fmt y)))

/-- An element of a fused multiply: a × b + z, with the product's and the addend's sign chosen by the instruction (R150). -/
def VeCtx.fmaAt (c : VeCtx) (negProd negAdd : Bool) (k x y z : Nat) : Nat × Flags :=
  let f := c.fmt
  if f.isInt then
    let p := readInt f x * readInt f y
    let a := readInt f z
    c.wrap ((if negProd then -p else p) + (if negAdd then -a else a))
  else
    let a := readNum f x
    let d := readNum f z
    c.round f k (fmaNum c.mode (if negProd then a.negate else a) (readNum f y) (if negAdd then d.negate else d))

/-- Left shift of the low w bits (R152). -/
def VeCtx.shlAt (c : VeCtx) (_ x n : Nat) : Nat × Flags :=
  let w := c.fmt.width
  (if w ≤ n then 0 else x * 2 ^ n % 2 ^ w, 0)
/-- Logical right shift of the low w bits. -/
def VeCtx.shrAt (c : VeCtx) (_ x n : Nat) : Nat × Flags := (if c.fmt.width ≤ n then 0 else x / 2 ^ n, 0)
/-- Arithmetic right shift of the low w bits. -/
def VeCtx.sraAt (c : VeCtx) (_ x n : Nat) : Nat × Flags :=
  let w := c.fmt.width
  (wrapN w (signed w x / (2 ^ min n w : Nat)), 0)

/-- Whether a condition holds of an order (R153). -/
def Cond.holds (c : Cond) (o : Ordering) : Bool :=
  match c with
  | .eq => o == .eq
  | .ne => o != .eq
  | .lt => o == .lt
  | .le => o != .gt
  | .gt => o == .gt
  | .ge => o != .lt
  | .un => false

/-- An element of VCMP (R153). -/
def VeCtx.cmpAt (c : VeCtx) (cond : Cond) (_ x y : Nat) : Nat × Flags :=
  let f := c.fmt
  let ones (b : Bool) := if b then 2 ^ f.width - 1 else 0
  if f.isInt then (ones (Cond.holds cond (compare (readInt f x) (readInt f y))), 0)
  else
    let a := readNum f x
    let b := readNum f y
    if a.isNaN || b.isNaN then
      let ordered := cond == .lt || cond == .le || cond == .gt || cond == .ge
      (ones (cond == .ne || cond == .un), if ordered || a.isSignalling || b.isSignalling then fNV else 0)
    else (ones (Cond.holds cond (a.cmp b)), 0)

/-! ### The instructions -/

/-- VADD (R148). -/
def veAdd (a b : VSrc) (c : VeCtx) : VeAns := c.map2 c.addAt a b
/-- VSUB (R148). -/
def veSub (a b : VSrc) (c : VeCtx) : VeAns := c.map2 c.subAt a b
/-- VMUL (R148). -/
def veMul (a b : VSrc) (c : VeCtx) : VeAns := c.map2 c.mulAt a b
/-- VDIV (R148, R149). -/
def veDiv (a b : VSrc) (c : VeCtx) : VeAns := c.map2 c.divAt a b
/-- VMIN (R148). -/
def veMin (a b : VSrc) (c : VeCtx) : VeAns := c.map2 c.minAt a b
/-- VMAX (R148). -/
def veMax (a b : VSrc) (c : VeCtx) : VeAns := c.map2 c.maxAt a b
/-- VABS (R148). -/
def veAbs (a : VSrc) (c : VeCtx) : VeAns := c.map1 c.absAt a
/-- VNEG (R148). -/
def veNeg (a : VSrc) (c : VeCtx) : VeAns := c.map1 c.negAt a
/-- VADDSAT (R148): integer formats only. -/
def veAddsat (a b : VSrc) (c : VeCtx) : VeAns := if c.fmt.isInt then c.map2 (c.satAt (· + ·)) a b else c.fail .format
/-- VSUBSAT (R148): integer formats only. -/
def veSubsat (a b : VSrc) (c : VeCtx) : VeAns := if c.fmt.isInt then c.map2 (c.satAt (· - ·)) a b else c.fail .format
/-- VFMA (R150). -/
def veFma (a b d : VSrc) (c : VeCtx) : VeAns := c.map3 (c.fmaAt false false) a b d
/-- VFMS (R150). -/
def veFms (a b d : VSrc) (c : VeCtx) : VeAns := c.map3 (c.fmaAt false true) a b d
/-- VFNMA (R150). -/
def veFnma (a b d : VSrc) (c : VeCtx) : VeAns := c.map3 (c.fmaAt true false) a b d
/-- VAND (R152). -/
def veAnd (a b : VSrc) (c : VeCtx) : VeAns := c.map2 (fun _ x y => (x &&& y, 0)) a b
/-- VOR (R152). -/
def veOr (a b : VSrc) (c : VeCtx) : VeAns := c.map2 (fun _ x y => (x ||| y, 0)) a b
/-- VXOR (R152). -/
def veXor (a b : VSrc) (c : VeCtx) : VeAns := c.map2 (fun _ x y => (x ^^^ y, 0)) a b
/-- VNOT (R152). -/
def veNot (a : VSrc) (c : VeCtx) : VeAns := c.map1 (fun _ x => (2 ^ c.fmt.width - 1 - x, 0)) a
/-- VSHL (R152). -/
def veShl (a b : VSrc) (c : VeCtx) : VeAns := c.map2 c.shlAt a b
/-- VSHR (R152). -/
def veShr (a b : VSrc) (c : VeCtx) : VeAns := c.map2 c.shrAt a b
/-- VSRA (R152). -/
def veSra (a b : VSrc) (c : VeCtx) : VeAns := c.map2 c.sraAt a b
/-- VCMP (R153). -/
def veCmp (a b : VSrc) (cond : Cond) (c : VeCtx) : VeAns := c.map2 (c.cmpAt cond) a b
/-- VSEL (R154). -/
def veSel (a b d : VSrc) (c : VeCtx) : VeAns := c.map3 (fun _ x y z => (if z = 0 then y else x, 0)) a b d
/-- VCVT (R155): the result is in the named format. -/
def veCvt (a : VSrc) (f : Fmt) (c : VeCtx) : VeAns := c.map1 (fun k x => c.round f k (readNum c.fmt x, 0)) a
/-- VADDX (R151). -/
def veAddx (a : VSrc) (c : VeCtx) : VeAns := c.map1 (fun k x => c.addAt k x c.scalar) a
/-- VSUBX (R151). -/
def veSubx (a : VSrc) (c : VeCtx) : VeAns := c.map1 (fun k x => c.subAt k x c.scalar) a
/-- VMULX (R151). -/
def veMulx (a : VSrc) (c : VeCtx) : VeAns := c.map1 (fun k x => c.mulAt k x c.scalar) a
/-- VMAXX (R151). -/
def veMaxx (a : VSrc) (c : VeCtx) : VeAns := c.map1 (fun k x => c.maxAt k x c.scalar) a
/-- VMINX (R151). -/
def veMinx (a : VSrc) (c : VeCtx) : VeAns := c.map1 (fun k x => c.minAt k x c.scalar) a
/-- VSHLX (R151, R152). -/
def veShlx (a : VSrc) (c : VeCtx) : VeAns := c.map1 (fun k x => c.shlAt k x c.scalar) a
/-- VSHRX (R151, R152). -/
def veShrx (a : VSrc) (c : VeCtx) : VeAns := c.map1 (fun k x => c.shrAt k x c.scalar) a
/-- VSRAX (R151, R152). -/
def veSrax (a : VSrc) (c : VeCtx) : VeAns := c.map1 (fun k x => c.sraAt k x c.scalar) a

end Sys2Proof.Machine
end

