-- ==== Sys2Proof/Machine/VeAxis.lean ====
section
/-! DEFINITION. What the VE does for the axis, reduction, dot-product, sparse, random and scalar-capture instructions (R146, R157 to
R161, R169 to R179). -/

namespace Sys2Proof.Machine

/-! ### Movements (R169) -/

/-- A movement: destination element (r, c) takes the source element at (row, column), or zero where there is none. -/
def VeCtx.move (c : VeCtx) (a : VSrc) (from_ : Nat → Nat → Option (Nat × Nat)) : VeAns :=
  let A := c.elem c.fmt a
  c.each fun k =>
    match from_ (k / 64) (k % 64) with
    | some (r, col) => (A (r * 64 + col), 0)
    | none => (0, 0)

/-- (i + s) mod n with s signed. -/
def rotated (i : Nat) (s : Word) (n : Nat) : Nat := ((i + s.toInt) % (n : Int)).toNat

/-- VROTC. -/
def veRotc (a : VSrc) (c : VeCtx) : VeAns := c.move a fun r col => some (rotated r c.e.xs c.rows, col)
/-- VROTR. -/
def veRotr (a : VSrc) (c : VeCtx) : VeAns := c.move a fun r col => some (r, rotated col c.e.xs c.cols)
/-- VBCC. -/
def veBcc (a : VSrc) (c : VeCtx) : VeAns := c.move a fun _ col => if c.e.xs.toNat < c.rows then some (c.e.xs.toNat, col) else none
/-- VBCR. -/
def veBcr (a : VSrc) (c : VeCtx) : VeAns := c.move a fun r _ => if c.e.xs.toNat < c.cols then some (r, c.e.xs.toNat) else none
/-- VTRN. -/
def veTrn (a : VSrc) (c : VeCtx) : VeAns := c.move a fun r col => some (col % 16, 16 * (col / 16) + r)

/-! ### Reductions (R170) -/

/-- The exact sum of terms into FMT: wrapped once, or rounded once for the result element k (R107, R109). -/
def VeCtx.sumOf (c : VeCtx) (k : Nat) (xs : List Nat) : Nat × Flags :=
  let f := c.fmt
  if f.isInt then c.wrap ((xs.map (readInt f)).foldl (· + ·) 0) else c.round f k (sumNum c.mode (xs.map (readNum f)))

/-- The greatest or least of terms (R148, R170). -/
def VeCtx.extremeOf (c : VeCtx) (wantMax : Bool) (_ : Nat) (xs : List Nat) : Nat × Flags :=
  let f := c.fmt
  if !f.isInt && xs.any fun x => (readNum f x).isNaN then
    (nanOf f, if xs.any fun x => (readNum f x).isSignalling then fNV else 0)
  else
    match xs with
    | x :: l => (l.foldl (fun m y => (pickBits f wantMax m y).1) x, 0)
    | [] => (0, 0)

/-- Reduce every active column to row 0. -/
def VeCtx.reduceColumns (c : VeCtx) (a : VSrc) (f : Nat → List Nat → Nat × Flags) : VeAns :=
  let A := c.elem c.fmt a
  c.each fun k => if k / 64 = 0 then f k ((List.range c.rows).map fun r => A (r * 64 + k)) else (0, 0)

/-- Reduce every active row to column 0. -/
def VeCtx.reduceRows (c : VeCtx) (a : VSrc) (f : Nat → List Nat → Nat × Flags) : VeAns :=
  let A := c.elem c.fmt a
  c.each fun k => if k % 64 = 0 then f k ((List.range c.cols).map fun j => A (k + j)) else (0, 0)

/-- VREDC.ADD. -/
def veRedcAdd (a : VSrc) (c : VeCtx) : VeAns := c.reduceColumns a c.sumOf
/-- VREDC.MAX. -/
def veRedcMax (a : VSrc) (c : VeCtx) : VeAns := c.reduceColumns a (c.extremeOf true)
/-- VREDC.MIN. -/
def veRedcMin (a : VSrc) (c : VeCtx) : VeAns := c.reduceColumns a (c.extremeOf false)
/-- VREDR.ADD. -/
def veRedrAdd (a : VSrc) (c : VeCtx) : VeAns := c.reduceRows a c.sumOf
/-- VREDR.MAX. -/
def veRedrMax (a : VSrc) (c : VeCtx) : VeAns := c.reduceRows a (c.extremeOf true)
/-- VREDR.MIN. -/
def veRedrMin (a : VSrc) (c : VeCtx) : VeAns := c.reduceRows a (c.extremeOf false)

/-! ### VIOTA (R171) -/

/-- The index VIOTA writes at element k for selector s. -/
def iotaIndex (s : Word) (k : Nat) : Nat := if s = 0 then k / 64 else if s = 1 then k % 64 else if s = 2 then k else 0

/-- VIOTA. -/
def veIota (c : VeCtx) : VeAns :=
  c.each fun k =>
    if c.fmt.isInt then c.wrap (iotaIndex c.e.xs k) else c.round c.fmt k (.ofInt (iotaIndex c.e.xs k), 0)

/-! ### VDT (R172 to R177) -/

/-- An integer of FMT's width with the signedness an instruction field gives (R172). -/
def dotInt (f : Fmt) (isSigned : Bool) (x : Nat) : Int := if isSigned then signed f.width x else ((x % 2 ^ f.width : Nat) : Int)

/-- The format rules of VDOT4 and VSMV (R172). -/
def VeCtx.dotOk (c : VeCtx) (sat : Bool) : Bool := c.fmt != .int32 && !(sat && !c.fmt.isInt)

/-- An exact integer total as an INT32 lane: saturated or wrapped once (R109). -/
def dotTotal (sat : Bool) (t : Int) : Nat × Flags := (wrapN 32 (if sat then clampInt .int32 t else t), 0)

/-- An exact sum of products and an addend in the floating case, rounded once to FP32 (R107, R108). -/
def VeCtx.dotFloat (c : VeCtx) (k : Nat) (ps : List (Num × Flags)) (more : List Num) : Nat × Flags :=
  let (s, g) := sumNum c.mode (ps.map (·.1) ++ more)
  c.round .fp32 k (s, ps.foldl (fun acc p => acc ||| p.2) g)

/-- VDOT4 (R173); `g` makes vb signed, `h` va, and `t` is SAT. -/
def veDot4 (a b d : VSrc) (g h t : Bool) (c : VeCtx) : VeAns :=
  let f := c.fmt
  let A := c.elem f a
  let B := c.elem f b
  let C := c.elem .int32 d
  if !c.dotOk t then c.fail .format
  else
    c.each fun k =>
      let col := k % 64
      let at_ (j : Nat) := k - col + 4 * col + j
      if (c.cols + 3) / 4 ≤ col then (0, 0)
      else if f.isInt then
        dotTotal t ((List.range 4).foldl (fun acc j =>
          if 4 * col + j < c.cols then acc + dotInt f h (A (at_ j)) * dotInt f g (B (at_ j)) else acc) (signed 32 (C k)))
      else
        c.dotFloat k ((List.range 4).map fun j =>
            if 4 * col + j < c.cols then mulNum (readNum f (A (at_ j))) (readNum f (B (at_ j))) else (.zero, 0))
          [readNum .fp32 (C k)]

/-- The magnitude that ranks an element: none for a NaN, which ranks above every number (R175). -/
def rankOf (f : Fmt) (isSigned : Bool) (x : Nat) : Option Num :=
  if f.isInt then some (.exact false (dotInt f isSigned x).natAbs 0)
  else
    match readNum f x with
    | .nan _ => none
    | n => some (if n.neg? then n.negate else n)

/-- Order two magnitudes, a NaN greatest. -/
def cmpRank : Option Num → Option Num → Ordering
  | none, none => .eq
  | none, some _ => .gt
  | some _, none => .lt
  | some a, some b => a.cmp b

/-- The four kept positions of a group of eight, rising (R175): position i is kept when fewer than four others outrank it. -/
def keptOf (key : Nat → Option Num) : List Nat :=
  (List.range 8).filter fun i =>
    ((List.range 8).filter fun j =>
      match cmpRank (key j) (key i) with
      | .gt => true
      | .eq => decide (j < i)
      | .lt => false).length < 4

/-- The metadata of four kept positions (R175). -/
def metaOf (is : List Nat) : Nat := is.foldr (fun i acc => i + 8 * acc) 0

/-- VCMP48 (R174, R175). -/
def veCmp48 (a : VSrc) (b : Fin 16) (h : Bool) (c : VeCtx) : VeAns :=
  let f := c.fmt
  let A := c.elem f a
  let kept (r g : Nat) := keptOf fun i => rankOf f h (A (r * 64 + 8 * g + i))
  if c.cols % 8 ≠ 0 then c.fail .shape
  else
    (c.each fun k =>
      let col := k % 64
      if 2 * (col / 4 * 4) < c.cols then (A (k - col + 8 * (col / 4) + (kept (k / 64) (col / 4)).getD (col % 4) 0), 0)
      else (0, 0)).bind fun o =>
    (c.each fun k => if 8 * (k % 64) < c.cols then (metaOf (kept (k / 64) (k % 64)), 0) else (0, 0)).bind fun m =>
      .ok { o with second := some (b, m.tile) }

/-- Position j of a metadata lane. -/
def metaAt (m j : Nat) : Nat := bitsN m (3 * j + 2) (3 * j)

/-- A valid metadata lane (R176). -/
def metaValid (m : Nat) : Bool :=
  m / 2 ^ 12 = 0 && metaAt m 0 < metaAt m 1 && metaAt m 1 < metaAt m 2 && metaAt m 2 < metaAt m 3

/-- VSMV (R177). An unsupported format or SAT (0x37) comes before COLS that is not a multiple of 8 (0x34): the model's choice, as R177 gives
no order (log 39). -/
def veSmv (a b d : VSrc) (g h t : Bool) (c : VeCtx) : VeAns :=
  let f := c.fmt
  let A := c.elem f a
  let B := c.elem f b
  let M := c.elem .int32 d
  let lanes := (List.range c.rows).flatMap fun r => (List.range (c.cols / 8)).map fun q => r * 64 + q
  if !c.dotOk t then c.fail .format
  else if c.cols % 8 ≠ 0 then c.fail .shape
  else
    match lanes.find? fun k => !metaValid (M k) with
    | some k => .error ⟨.sparseMeta, wd k⟩
    | none =>
      c.each fun k =>
        if k % 64 ≠ 0 then (0, 0)
        else
          let pairs := (List.range (c.cols / 2)).map fun n =>
            (A (k + n), B (8 * (n / 4) + metaAt (M (k + n / 4)) (n % 4)))
          if f.isInt then
            dotTotal t (pairs.foldl (fun acc p => acc + dotInt f h p.1 * dotInt f g p.2) 0)
          else c.dotFloat k (pairs.map fun p => mulNum (readNum f p.1) (readNum f p.2)) []

/-! ### Random numbers (R178, R179) -/

/-- The 64 random bits of element k. -/
def VeCtx.random (c : VeCtx) (k : Nat) : Word := gen c.seed c.e.xs (c.e.xt + wd k)

/-- VRNGB. -/
def veRngb (c : VeCtx) : VeAns := c.each fun k => (bits (c.random k) 63 (64 - c.fmt.width), 0)

/-- VRNGU. -/
def veRngu (c : VeCtx) : VeAns :=
  if c.fmt != .fp32 then c.fail .format
  else c.each fun k => ((ff32.round .rne 0 (.exact false (bits (c.random k) 63 40) (-24))).1, 0)

/-! ### Scalar capture and queues (R146, R157 to R161) -/

/-- VSPLAT. -/
def veSplat (c : VeCtx) : VeAns := c.each fun _ => (c.scalar, 0)

/-- VINS: the tile it merges into is the destination register, or zero for a queue. -/
def veIns (d : VDst) (c : VeCtx) : VeAns :=
  let T := match d with
    | .v i => c.t.v[i]
    | .q _ => Tile.zero
  let k := c.e.xt.toNat
  if h : k < 1024 then .ok (VeOut.of (if activeIn c.e.sh k then T.set k (BitVec.ofNat 32 c.scalar) else T) 0)
  else .ok (VeOut.of T 0)

/-- The value VEXT gives an element's bits (R159). -/
def extended (f : Fmt) (x : Nat) : Word := if f.isSigned then ofInt (signed f.width x) else wd x

/-- VEXT. -/
def veExt (d : XReg) (a : VSrc) (c : VeCtx) : VeAns :=
  let k := c.e.xt.toNat
  let v := if k < 1024 && activeIn c.e.sh k then extended c.fmt (c.elem c.fmt a k) else 0
  .ok { VeOut.of Tile.zero 0 with x := some (d, v) }

/-- VQNT's last step: an infinity or an overflow into FP32, BF16 or FP16 becomes the largest finite value (R160). -/
def quantised (f : Fmt) (F : FloatFmt) (x : Num) (r : Nat × Flags) : Nat × Flags :=
  let top (neg : Bool) := F.signBit neg + F.maxBits
  if f == .fp32 || f == .bf16 || f == .fp16 then
    match x with
    | .inf n => (top n, fNV)
    | _ => if r.2 &&& fOF != 0 then (top x.neg?, r.2) else r
  else r

/-- The conversion format a scalar names: none when reserved (R76). -/
def VeCtx.convFmt (c : VeCtx) : Option Fmt := Fmt.ofCode (bits c.e.xt 3 0)

/-- VQNT (R160). -/
def veQnt (a : VSrc) (c : VeCtx) : VeAns :=
  match c.convFmt with
  | none => c.fail .format
  | some f =>
    c.map1 (fun k x =>
      let v := (readNum c.fmt x).scale c.e.xs.toInt
      match floatOf f with
      | some F => quantised f F v (c.round f k (v, 0))
      | none => c.round f k (v, 0)) a

/-- VDQ (R161): the source is in the named format. -/
def veDq (a : VSrc) (c : VeCtx) : VeAns :=
  match c.convFmt with
  | none => c.fail .format
  | some f =>
    let A := c.elem f a
    c.each fun k => c.round c.fmt k ((readNum f (A k)).scale c.e.xs.toInt, 0)

/-- VPEEK (R146): the head tile's lanes as they stand. -/
def vePeek (q : Fin 8) (c : VeCtx) : VeAns :=
  let A := c.elem .int32 (.q q)
  c.each fun k => (A k, 0)

end Sys2Proof.Machine
end

