-- ==== Sys2Proof/Machine/Special.lean ====
section
/-! DEFINITION. The special functions of VSF (R156). Each value is bounded by integers at a scale of 2^-320 and rounded once to
nearest even; where the two bounds round differently (log 20) the model leaves open which of the two results it is. -/

namespace Sys2Proof.Machine

/-- Fraction bits of the fixed-point values below. -/
def spBits : Nat := 320
/-- One, in fixed point. -/
def spOne : Nat := 2 ^ 320
/-- A bound on the error of every evaluation below, in units of 2^-320. -/
def spErr : Nat := 2 ^ 24

/-- Terms of the series z + z³/3 + z⁵/5 + … from the power `p` = z^k, with z² = `zz`. -/
def atanhTerms (zz : Nat) : Nat → Nat → Nat → Nat
  | 0, _, _ => 0
  | n + 1, p, k => p / k + atanhTerms zz n (p * zz / spOne) (k + 2)

/-- The natural logarithm of num / den, for den ≤ num ≤ 2 den. -/
def lnRatio (num den : Nat) : Nat :=
  let z := (num - den) * spOne / (num + den)
  2 * atanhTerms (z * z / spOne) 110 z 1

/-- ln 2. -/
def spLn2 : Nat := lnRatio 2 1

/-- Terms of the exponential series from the term `t` = y^k / k!. -/
def expTerms (y : Nat) : Nat → Nat → Nat → Nat
  | 0, _, _ => 0
  | n + 1, t, k => t + expTerms y n (t * y / spOne / (k + 1)) (k + 1)

/-- e^y for 0 ≤ y < 1. -/
def expOf (y : Nat) : Nat := expTerms y 80 spOne 0

/-- A finite magnitude in fixed point, cut to whole units. -/
def fixedOf (m : Nat) (e : Int) : Nat :=
  if 0 ≤ e + spBits then m * 2 ^ (e + spBits).toNat else m / 2 ^ (-(e + spBits)).toNat

/-- e^-x for x = m × 2^e, in fixed point. -/
def expNeg (m : Nat) (e : Int) : Nat :=
  if cmpMag m e 1 10 != .lt then 0
  else
    let x := fixedOf m e
    spOne * spOne / expOf (x % spLn2) / 2 ^ (x / spLn2)

/-- The two results that the bounds of a value allow: the value lies strictly between (v − error) and (v + error) units of
2^(x − 320). -/
def bounded (f : Fmt) (neg : Bool) (v : Nat) (x : Int) : (Nat × Flags) × (Nat × Flags) :=
  let at_ (m : Nat) := roundTo f .rne 0 (.fin neg m (x - spBits) true)
  (at_ (max (v - spErr) 1), at_ (v + spErr - 1))

/-- A result that does not depend on the bounds. -/
def settled (r : Nat × Flags) : (Nat × Flags) × (Nat × Flags) := (r, r)

/-- 2^a for a = ±m × 2^e, m ≠ 0. -/
def exp2Of (f : Fmt) (neg : Bool) (m : Nat) (e : Int) : (Nat × Flags) × (Nat × Flags) :=
  if cmpMag m e 1 10 != .lt then settled (roundTo f .rne 0 (.fin false 1 (if neg then -2000 else 2000) true))
  else
    let a : Int := if neg then -(fixedOf m e : Int) else fixedOf m e
    let n := a / (spOne : Int)
    let r := (a % (spOne : Int)).toNat
    if r = 0 then settled (roundTo f .rne 0 (.exact false 1 n)) else bounded f false (expOf (r * spLn2 / spOne)) n

/-- log2 a for a = m × 2^e, m ≠ 0. -/
def log2Of (f : Fmt) (m : Nat) (e : Int) : (Nat × Flags) × (Nat × Flags) :=
  let n := e + m.log2
  if m = 2 ^ m.log2 then settled (roundTo f .rne 0 (.ofInt n))
  else
    let t : Int := n * spOne + (lnRatio m (2 ^ m.log2) * spOne / spLn2 : Nat)
    bounded f (t < 0) t.natAbs 0

/-- 1 / √a for a = m × 2^e, m ≠ 0, exactly. -/
def rsqNum (m : Nat) (e : Int) : Num :=
  let s := 400 + m.log2 + (if (e + (400 + m.log2 : Nat)) % 2 = 0 then 0 else 1)
  let r := isqrtBits (2 ^ s / m) 256 0
  .fin false r (-((s + e) / 2)) (m * (r * r) != 2 ^ s)

/-- tanh a for a = ±m × 2^e, m ≠ 0. -/
def tanhOf (f : Fmt) (neg : Bool) (m : Nat) (e : Int) : (Nat × Flags) × (Nat × Flags) :=
  let q := expNeg m (e + 1)
  bounded f neg ((spOne - q) * spOne / (spOne + q)) 0

/-- 1 / (1 + e^-a) for a = ±m × 2^e, m ≠ 0. -/
def sigmOf (f : Fmt) (neg : Bool) (m : Nat) (e : Int) : (Nat × Flags) × (Nat × Flags) :=
  let q := expNeg m e
  bounded f false ((if neg then q else spOne) * spOne / (spOne + q)) 0

/-- The results of 2^a. -/
def exp2Bits (f : Fmt) (a : Num) : (Nat × Flags) × (Nat × Flags) :=
  match a with
  | .inf n => settled (roundTo f .rne 0 (if n then .zero else .inf false))
  | .fin n m e _ => if m = 0 then settled (roundTo f .rne 0 (.ofInt 1)) else exp2Of f n m e
  | x => settled (nanResult f x)

/-- The results of log2 a. -/
def log2Bits (f : Fmt) (a : Num) : (Nat × Flags) × (Nat × Flags) :=
  match a with
  | .inf n => settled (if n then (nanOf f, fNV) else roundTo f .rne 0 (.inf false))
  | .fin n m e _ =>
    if m = 0 then settled ((roundTo f .rne 0 (.inf true)).1, fDZ)
    else if n then settled (nanOf f, fNV) else log2Of f m e
  | x => settled (nanResult f x)

/-- The result of 1 / a. -/
def rcpBits (f : Fmt) (a : Num) : (Nat × Flags) × (Nat × Flags) := settled (divTo f .rne 0 (.ofInt 1) a)

/-- The result of 1 / √a. -/
def rsqBits (f : Fmt) (a : Num) : (Nat × Flags) × (Nat × Flags) :=
  settled (match a with
    | .inf n => if n then (nanOf f, fNV) else roundTo f .rne 0 .zero
    | .fin n m e _ =>
      if m = 0 then ((roundTo f .rne 0 (.inf n)).1, fDZ)
      else if n then (nanOf f, fNV) else roundTo f .rne 0 (rsqNum m e)
    | x => nanResult f x)

/-- The result of √a. -/
def sqrtBits (f : Fmt) (a : Num) : (Nat × Flags) × (Nat × Flags) :=
  let (x, g) := sqrtNum a
  let (b, h) := roundTo f .rne 0 x
  settled (b, g ||| h)

/-- The results of tanh a. -/
def tanhBits (f : Fmt) (a : Num) : (Nat × Flags) × (Nat × Flags) :=
  match a with
  | .inf n => settled (roundTo f .rne 0 (.exact n 1 0))
  | .fin n m e _ => if m = 0 then settled (roundTo f .rne 0 (.exact n 0 0)) else tanhOf f n m e
  | x => settled (nanResult f x)

/-- The results of 1 / (1 + e^-a). -/
def sigmBits (f : Fmt) (a : Num) : (Nat × Flags) × (Nat × Flags) :=
  match a with
  | .inf n => settled (roundTo f .rne 0 (if n then .zero else .ofInt 1))
  | .fin n m e _ => if m = 0 then settled (roundTo f .rne 0 (.exact false 1 (-1))) else sigmOf f n m e
  | x => settled (nanResult f x)

/-- A VSF instruction: FP32, BF16 and FP16 only. Were the two results to differ, an open function of the operation (its fn code),
the format and the operand would choose, so that the result is one function of them in any case (R87; log 20). -/
def VeCtx.special (c : VeCtx) (fn : Nat) (g : Fmt → Num → (Nat × Flags) × (Nat × Flags)) (a : VSrc) : VeAns :=
  let f := c.fmt
  if !(f == .fp32 || f == .bf16 || f == .fp16) then c.fail .format
  else
    c.map1 (fun _ x =>
      let r := g f (readNum f x)
      if r.1 = r.2 then r.1 else if Config.specialSide fn f.code x then r.1 else r.2) a

/-- VEXP2. -/
def veExp2 (a : VSrc) (c : VeCtx) : VeAns := c.special 0 exp2Bits a
/-- VLOG2. -/
def veLog2 (a : VSrc) (c : VeCtx) : VeAns := c.special 1 log2Bits a
/-- VRCP. -/
def veRcp (a : VSrc) (c : VeCtx) : VeAns := c.special 2 rcpBits a
/-- VRSQ. -/
def veRsq (a : VSrc) (c : VeCtx) : VeAns := c.special 3 rsqBits a
/-- VSQRT. -/
def veSqrt (a : VSrc) (c : VeCtx) : VeAns := c.special 4 sqrtBits a
/-- VTANH. -/
def veTanh (a : VSrc) (c : VeCtx) : VeAns := c.special 5 tanhBits a
/-- VSIGM. -/
def veSigm (a : VSrc) (c : VeCtx) : VeAns := c.special 6 sigmBits a

end Sys2Proof.Machine
end

