-- ==== Sys2Proof/Machine/Ve.lean ====
section
/-! DEFINITION. The vector engine: dispatch of a VE instruction by the sequencer (R20, R21, R31, R100, R139) and its execution by
the VE, in order (R143 to R147, R168, R216, R391). -/

namespace Sys2Proof

/-- What the VE does for an instruction; none for one that it does not run. -/
def Instr.ve : Instr → Option (Machine.VeCtx → Machine.VeAns)
  | .vadd _ a b => some (Machine.veAdd a b)
  | .vsub _ a b => some (Machine.veSub a b)
  | .vmul _ a b => some (Machine.veMul a b)
  | .vdiv _ a b => some (Machine.veDiv a b)
  | .vmin _ a b => some (Machine.veMin a b)
  | .vmax _ a b => some (Machine.veMax a b)
  | .vabs _ a => some (Machine.veAbs a)
  | .vneg _ a => some (Machine.veNeg a)
  | .vaddsat _ a b => some (Machine.veAddsat a b)
  | .vsubsat _ a b => some (Machine.veSubsat a b)
  | .vfma _ a b c => some (Machine.veFma a b c)
  | .vfms _ a b c => some (Machine.veFms a b c)
  | .vfnma _ a b c => some (Machine.veFnma a b c)
  | .vand _ a b => some (Machine.veAnd a b)
  | .vor _ a b => some (Machine.veOr a b)
  | .vxor _ a b => some (Machine.veXor a b)
  | .vnot _ a => some (Machine.veNot a)
  | .vshl _ a b => some (Machine.veShl a b)
  | .vshr _ a b => some (Machine.veShr a b)
  | .vsra _ a b => some (Machine.veSra a b)
  | .vcmp _ a b c => some (Machine.veCmp a b c)
  | .vsel _ a b c => some (Machine.veSel a b c)
  | .vcvt _ a f => some (Machine.veCvt a f)
  | .vexp2 _ a => some (Machine.veExp2 a)
  | .vlog2 _ a => some (Machine.veLog2 a)
  | .vrcp _ a => some (Machine.veRcp a)
  | .vrsq _ a => some (Machine.veRsq a)
  | .vsqrt _ a => some (Machine.veSqrt a)
  | .vtanh _ a => some (Machine.veTanh a)
  | .vsigm _ a => some (Machine.veSigm a)
  | .vrotc _ a _ => some (Machine.veRotc a)
  | .vrotr _ a _ => some (Machine.veRotr a)
  | .vbcc _ a _ => some (Machine.veBcc a)
  | .vbcr _ a _ => some (Machine.veBcr a)
  | .vredcAdd _ a => some (Machine.veRedcAdd a)
  | .vredcMax _ a => some (Machine.veRedcMax a)
  | .vredcMin _ a => some (Machine.veRedcMin a)
  | .vredrAdd _ a => some (Machine.veRedrAdd a)
  | .vredrMax _ a => some (Machine.veRedrMax a)
  | .vredrMin _ a => some (Machine.veRedrMin a)
  | .vtrn _ a => some (Machine.veTrn a)
  | .viota _ _ _ => some (Machine.veIota)
  | .vdot4 _ a b c g h t => some (Machine.veDot4 a b c g h t)
  | .vcmp48 _ a b _ h _ => some (Machine.veCmp48 a b h)
  | .vsmv _ a b c g h t => some (Machine.veSmv a b c g h t)
  | .vsplat _ _ _ => some (Machine.veSplat)
  | .vins d _ _ _ => some (Machine.veIns d)
  | .vext d a _ => some (Machine.veExt d a)
  | .vqnt _ a _ _ => some (Machine.veQnt a)
  | .vdq _ a _ _ => some (Machine.veDq a)
  | .vaddx _ a _ => some (Machine.veAddx a)
  | .vsubx _ a _ => some (Machine.veSubx a)
  | .vmulx _ a _ => some (Machine.veMulx a)
  | .vmaxx _ a _ => some (Machine.veMaxx a)
  | .vminx _ a _ => some (Machine.veMinx a)
  | .vshlx _ a _ => some (Machine.veShlx a)
  | .vshrx _ a _ => some (Machine.veShrx a)
  | .vsrax _ a _ => some (Machine.veSrax a)
  | .vpeek _ a => some (Machine.vePeek a)
  | .vrngb _ _ _ _ => some (Machine.veRngb)
  | .vrngu _ _ _ _ => some (Machine.veRngu)
  | _ => none

/-- The VE instructions that take a stochastic count when their mode is STOCH (R100). -/
def Instr.counts : Instr → Bool
  | .vadd _ _ _ | .vsub _ _ _ | .vmul _ _ _ | .vdiv _ _ _ | .vfma _ _ _ _ | .vfms _ _ _ _ | .vfnma _ _ _ _
  | .vaddx _ _ _ | .vsubx _ _ _ | .vmulx _ _ _ | .vcvt _ _ _ | .vqnt _ _ _ _ | .vdq _ _ _ _ | .viota _ _ _
  | .vredcAdd _ _ | .vredrAdd _ _ | .vdot4 _ _ _ _ _ _ _ | .vsmv _ _ _ _ _ _ _ => true
  | _ => false

/-- Whether an instruction is a VEXT. -/
def Instr.isVext : Instr → Bool
  | .vext _ _ _ => true
  | _ => false

/-- Whether a VE instruction pops a queue register: VPEEK names it and pops nothing (R146). -/
def Instr.pops (i : Instr) (q : Fin 8) : Bool :=
  match i with
  | .vpeek _ _ => false
  | _ => i.popped.contains q

end Sys2Proof

namespace Sys2Proof.Machine

/-! ### Dispatch -/

/-- The roles of the queue registers an instruction names fit (R143, R144). -/
def Task.roleFits (t : Task) (i : Instr) : Bool :=
  i.popped.all (fun q => t.q[q].role != .store) && match i.pushed with
    | some q => t.q[q].role == .store
    | none => true

/-- SLIP or the queue's 32 entries hold back dispatch (R21). -/
def Task.veFull (t : Task) : Bool := min (bits t.csr.slip 5 0) Config.veQueue ≤ t.veQ.length

/-- Whether dispatching an instruction takes a stochastic count (R100). -/
def State.draws (s : State) (i : Instr) : Bool := i.counts && s.rm == 5

/-- The entry of an instruction with what it captures (R20, R100, R139). -/
def State.entryOf (s : State) (i : Instr) (xs xt : Word) : VeEntry :=
  { instr := i, addr := s.task.pc, xs := xs, xt := xt, sh := s.task.csr.sh, arow := BitVec.ofNat 2 (bits s.task.csr.arow 1 0)
    rm := BitVec.ofNat 3 s.rm, stoch := if s.draws i then s.task.id.stoch else 0, issued := s.task.thr.issued
    roleOk := s.task.roleFits i }

/-- The task with an instruction dispatched. -/
def State.enqueueVe (s : State) (i : Instr) (xs xt : Word) : State :=
  let e := s.entryOf i xs xt
  let s1 := if s.draws i then s.setTask Task.takeStoch else s
  s1.setTask fun t => { t with veQ := t.veQ ++ [e] }

/-- The checks and the stall before dispatch (R21, R31). -/
def State.dispatchCheck (s : State) (i : Instr) : Res Unit :=
  (Res.need s (bits s.task.csr.sh 7 0 != 0) .shape (wordOf i)).bind fun _ => Res.untilVe (!s.task.veFull)

/-- Dispatch a VE instruction (R20). -/
def State.dispatch (s : State) (i : Instr) (xs xt : Word) : Result :=
  s.settle ((s.dispatchCheck i).bind fun _ => .ok (s.enqueueVe i xs xt).advance)

/-- The VEXT at pc waits in the VE queue (R159). -/
def Task.vextQueued (t : Task) : Bool := t.veQ.any fun e => e.instr.isVext && e.addr == t.pc

/-- Dispatch a VEXT and hold the sequencer at it; the VE completes it (R159). -/
def State.dispatchVext (s : State) (i : Instr) (xs xt : Word) : Result :=
  s.settle (if s.task.vextQueued then .held
    else (s.dispatchCheck i).bind fun _ => .ok (s.enqueueVe i xs xt))

/-! ### Execution -/

/-- Whether the VE's next instruction must wait: for the Thresher (R216), for a tile to pop (R143), or for room to push (R144). -/
def Task.veWaits (t : Task) (e : VeEntry) : Bool :=
  e.instr.readsAcc.any (fun a => t.thr.cmds.any fun c => c.ordinal ≤ e.issued && (thrTiles c.record).contains a)
    || e.instr.popped.any (fun q => t.q[q].tiles.isEmpty)
    || match e.instr.pushed with
      | some q => Config.queueTiles ≤ t.q[q].tiles.length
      | none => false

/-- Push a tile into a queue register. -/
def Task.pushTile (t : Task) (q : Fin 8) (T : Tile) : Task :=
  { t with q := t.q.set q { t.q[q] with tiles := t.q[q].tiles ++ [T] } }

/-- Pop every queue register an instruction pops, once each (R145). -/
def Task.popAll (t : Task) (i : Instr) : Task :=
  (i.popped.filter i.pops).foldl Task.dropTile t

/-- Write a destination (R24, R144). -/
def Task.writeDst (t : Task) (T : Tile) : Option VDst → Task
  | some (.v i) => { t with v := t.v.set i T }
  | some (.q i) => t.pushTile i T
  | none => t

/-- Write VCMP48's metadata tile, after the kept values (R175). -/
def Task.writeSecond (t : Task) : Option (Fin 16 × Tile) → Task
  | some (i, T) => { t with v := t.v.set i T }
  | none => t

/-- Write VEXT's result; the VEXT completes (R159). -/
def Task.writeX (t : Task) : Option (XReg × Word) → Task
  | some (d, v) => (t.setX d v).advance
  | none => t

/-- The task after the VE completed an instruction. -/
def Task.complete (t : Task) (i : Instr) (o : VeOut) : Task :=
  let t1 := ((t.popAll i).writeDst o.tile i.vdst).writeSecond o.second
  { t1 with csr := t1.csr.addFlags o.flags, veQ := t1.veQ.drop 1 }.writeX o.x

/-- Raise a queue-precise fault of an entry (R391). -/
def Task.raiseVe (t : Task) (r : Raised) (at_ : Word) : Task := { t with pend := { t.pend with ve := some r, veAt := at_ } }

/-- What the VE works from for an entry. -/
def State.veCtx (s : State) (e : VeEntry) : VeCtx := { e := e, t := s.task, seed := s.seed }

/-- Run an entry whose operands are there. -/
def State.veRun (s : State) (e : VeEntry) : State :=
  match e.instr.ve with
  | none => s
  | some f =>
    match f (s.veCtx e) with
    | .error r => s.setTask fun t => t.raiseVe r e.addr
    | .ok o => s.setTask fun t => t.complete e.instr o

/-- One step of the VE: its next instruction completes, faults, or waits. A pending queue-precise fault holds the VE (R391), and so
does the limiter (R424). -/
def State.veStep (s : State) : State :=
  match s.task.veQ, s.task.pend.ve with
  | e :: _, none =>
    if !s.running || s.dev.limiting then s
    else if !e.roleOk then s.setTask fun t => t.raiseVe ⟨.queueRole, wordOf e.instr⟩ e.addr
    else if s.task.veWaits e then s
    else s.veRun e
  | _, _ => s

/-! ### The instructions -/

/-- VADD (R148). -/
def execVadd (d : VDst) (a : VSrc) (b : VSrc) (s : State) : Result := s.dispatch (.vadd d a b) 0 0

/-- VSUB (R148). -/
def execVsub (d : VDst) (a : VSrc) (b : VSrc) (s : State) : Result := s.dispatch (.vsub d a b) 0 0

/-- VMUL (R148). -/
def execVmul (d : VDst) (a : VSrc) (b : VSrc) (s : State) : Result := s.dispatch (.vmul d a b) 0 0

/-- VDIV (R148). -/
def execVdiv (d : VDst) (a : VSrc) (b : VSrc) (s : State) : Result := s.dispatch (.vdiv d a b) 0 0

/-- VMIN (R148). -/
def execVmin (d : VDst) (a : VSrc) (b : VSrc) (s : State) : Result := s.dispatch (.vmin d a b) 0 0

/-- VMAX (R148). -/
def execVmax (d : VDst) (a : VSrc) (b : VSrc) (s : State) : Result := s.dispatch (.vmax d a b) 0 0

/-- VABS (R148). -/
def execVabs (d : VDst) (a : VSrc) (s : State) : Result := s.dispatch (.vabs d a) 0 0

/-- VNEG (R148). -/
def execVneg (d : VDst) (a : VSrc) (s : State) : Result := s.dispatch (.vneg d a) 0 0

/-- VADDSAT (R148). -/
def execVaddsat (d : VDst) (a : VSrc) (b : VSrc) (s : State) : Result := s.dispatch (.vaddsat d a b) 0 0

/-- VSUBSAT (R148). -/
def execVsubsat (d : VDst) (a : VSrc) (b : VSrc) (s : State) : Result := s.dispatch (.vsubsat d a b) 0 0

/-- VFMA (R150). -/
def execVfma (d : VDst) (a : VSrc) (b : VSrc) (c : VSrc) (s : State) : Result := s.dispatch (.vfma d a b c) 0 0

/-- VFMS (R150). -/
def execVfms (d : VDst) (a : VSrc) (b : VSrc) (c : VSrc) (s : State) : Result := s.dispatch (.vfms d a b c) 0 0

/-- VFNMA (R150). -/
def execVfnma (d : VDst) (a : VSrc) (b : VSrc) (c : VSrc) (s : State) : Result := s.dispatch (.vfnma d a b c) 0 0

/-- VAND (R152). -/
def execVand (d : VDst) (a : VSrc) (b : VSrc) (s : State) : Result := s.dispatch (.vand d a b) 0 0

/-- VOR (R152). -/
def execVor (d : VDst) (a : VSrc) (b : VSrc) (s : State) : Result := s.dispatch (.vor d a b) 0 0

/-- VXOR (R152). -/
def execVxor (d : VDst) (a : VSrc) (b : VSrc) (s : State) : Result := s.dispatch (.vxor d a b) 0 0

/-- VNOT (R152). -/
def execVnot (d : VDst) (a : VSrc) (s : State) : Result := s.dispatch (.vnot d a) 0 0

/-- VSHL (R152). -/
def execVshl (d : VDst) (a : VSrc) (b : VSrc) (s : State) : Result := s.dispatch (.vshl d a b) 0 0

/-- VSHR (R152). -/
def execVshr (d : VDst) (a : VSrc) (b : VSrc) (s : State) : Result := s.dispatch (.vshr d a b) 0 0

/-- VSRA (R152). -/
def execVsra (d : VDst) (a : VSrc) (b : VSrc) (s : State) : Result := s.dispatch (.vsra d a b) 0 0

/-- VCMP (R153). -/
def execVcmp (d : VDst) (a : VSrc) (b : VSrc) (c : Cond) (s : State) : Result := s.dispatch (.vcmp d a b c) 0 0

/-- VSEL (R154). -/
def execVsel (d : VDst) (a : VSrc) (b : VSrc) (c : VSrc) (s : State) : Result := s.dispatch (.vsel d a b c) 0 0

/-- VCVT (R155). -/
def execVcvt (d : VDst) (a : VSrc) (f : Fmt) (s : State) : Result := s.dispatch (.vcvt d a f) 0 0

/-- VEXP2 (R156). -/
def execVexp2 (d : VDst) (a : VSrc) (s : State) : Result := s.dispatch (.vexp2 d a) 0 0

/-- VLOG2 (R156). -/
def execVlog2 (d : VDst) (a : VSrc) (s : State) : Result := s.dispatch (.vlog2 d a) 0 0

/-- VRCP (R156). -/
def execVrcp (d : VDst) (a : VSrc) (s : State) : Result := s.dispatch (.vrcp d a) 0 0

/-- VRSQ (R156). -/
def execVrsq (d : VDst) (a : VSrc) (s : State) : Result := s.dispatch (.vrsq d a) 0 0

/-- VSQRT (R156). -/
def execVsqrt (d : VDst) (a : VSrc) (s : State) : Result := s.dispatch (.vsqrt d a) 0 0

/-- VTANH (R156). -/
def execVtanh (d : VDst) (a : VSrc) (s : State) : Result := s.dispatch (.vtanh d a) 0 0

/-- VSIGM (R156). -/
def execVsigm (d : VDst) (a : VSrc) (s : State) : Result := s.dispatch (.vsigm d a) 0 0

/-- VROTC (R169). -/
def execVrotc (d : VDst) (a : VSrc) (r : XReg) (s : State) : Result := s.dispatch (.vrotc d a r) (s.x r) 0

/-- VROTR (R169). -/
def execVrotr (d : VDst) (a : VSrc) (r : XReg) (s : State) : Result := s.dispatch (.vrotr d a r) (s.x r) 0

/-- VBCC (R169). -/
def execVbcc (d : VDst) (a : VSrc) (r : XReg) (s : State) : Result := s.dispatch (.vbcc d a r) (s.x r) 0

/-- VBCR (R169). -/
def execVbcr (d : VDst) (a : VSrc) (r : XReg) (s : State) : Result := s.dispatch (.vbcr d a r) (s.x r) 0

/-- VREDC_ADD (R170). -/
def execVredcAdd (d : VDst) (a : VSrc) (s : State) : Result := s.dispatch (.vredcAdd d a) 0 0

/-- VREDC_MAX (R170). -/
def execVredcMax (d : VDst) (a : VSrc) (s : State) : Result := s.dispatch (.vredcMax d a) 0 0

/-- VREDC_MIN (R170). -/
def execVredcMin (d : VDst) (a : VSrc) (s : State) : Result := s.dispatch (.vredcMin d a) 0 0

/-- VREDR_ADD (R170). -/
def execVredrAdd (d : VDst) (a : VSrc) (s : State) : Result := s.dispatch (.vredrAdd d a) 0 0

/-- VREDR_MAX (R170). -/
def execVredrMax (d : VDst) (a : VSrc) (s : State) : Result := s.dispatch (.vredrMax d a) 0 0

/-- VREDR_MIN (R170). -/
def execVredrMin (d : VDst) (a : VSrc) (s : State) : Result := s.dispatch (.vredrMin d a) 0 0

/-- VTRN (R169). -/
def execVtrn (d : VDst) (a : VSrc) (s : State) : Result := s.dispatch (.vtrn d a) 0 0

/-- VIOTA (R171). -/
def execViota (d : VDst) (u : Fin 32) (r : XReg) (s : State) : Result := s.dispatch (.viota d u r) (s.x r) 0

/-- VDOT4 (R173). -/
def execVdot4 (d : VDst) (a : VSrc) (b : VSrc) (c : VSrc) (g : Bool) (h : Bool) (t : Bool) (s : State) : Result := s.dispatch (.vdot4 d a b c g h t) 0 0

/-- VCMP48 (R175). -/
def execVcmp48 (d : VDst) (a : VSrc) (b : Fin 16) (g : Bool) (h : Bool) (t : Bool) (s : State) : Result := s.dispatch (.vcmp48 d a b g h t) 0 0

/-- VSMV (R177). -/
def execVsmv (d : VDst) (a : VSrc) (b : VSrc) (c : VSrc) (g : Bool) (h : Bool) (t : Bool) (s : State) : Result := s.dispatch (.vsmv d a b c g h t) 0 0

/-- VSPLAT (R157). -/
def execVsplat (d : VDst) (u : Fin 32) (r : XReg) (s : State) : Result := s.dispatch (.vsplat d u r) (s.x r) 0

/-- VINS (R158). -/
def execVins (d : VDst) (u : Fin 32) (r : XReg) (t : XReg) (s : State) : Result := s.dispatch (.vins d u r t) (s.x r) (s.x t)

/-- VEXT (R159). -/
def execVext (d : XReg) (a : VSrc) (t : XReg) (s : State) : Result := s.dispatchVext (.vext d a t) 0 (s.x t)

/-- VQNT (R160). -/
def execVqnt (d : VDst) (a : VSrc) (r : XReg) (t : XReg) (s : State) : Result := s.dispatch (.vqnt d a r t) (s.x r) (s.x t)

/-- VDQ (R161). -/
def execVdq (d : VDst) (a : VSrc) (r : XReg) (t : XReg) (s : State) : Result := s.dispatch (.vdq d a r t) (s.x r) (s.x t)

/-- VADDX (R151). -/
def execVaddx (d : VDst) (a : VSrc) (r : XReg) (s : State) : Result := s.dispatch (.vaddx d a r) (s.x r) 0

/-- VSUBX (R151). -/
def execVsubx (d : VDst) (a : VSrc) (r : XReg) (s : State) : Result := s.dispatch (.vsubx d a r) (s.x r) 0

/-- VMULX (R151). -/
def execVmulx (d : VDst) (a : VSrc) (r : XReg) (s : State) : Result := s.dispatch (.vmulx d a r) (s.x r) 0

/-- VMAXX (R151). -/
def execVmaxx (d : VDst) (a : VSrc) (r : XReg) (s : State) : Result := s.dispatch (.vmaxx d a r) (s.x r) 0

/-- VMINX (R151). -/
def execVminx (d : VDst) (a : VSrc) (r : XReg) (s : State) : Result := s.dispatch (.vminx d a r) (s.x r) 0

/-- VSHLX (R151). -/
def execVshlx (d : VDst) (a : VSrc) (r : XReg) (s : State) : Result := s.dispatch (.vshlx d a r) (s.x r) 0

/-- VSHRX (R151). -/
def execVshrx (d : VDst) (a : VSrc) (r : XReg) (s : State) : Result := s.dispatch (.vshrx d a r) (s.x r) 0

/-- VSRAX (R151). -/
def execVsrax (d : VDst) (a : VSrc) (r : XReg) (s : State) : Result := s.dispatch (.vsrax d a r) (s.x r) 0

/-- VPEEK (R146). -/
def execVpeek (d : VDst) (a : Fin 8) (s : State) : Result := s.dispatch (.vpeek d a) 0 0

/-- VRNGB (R179). -/
def execVrngb (d : VDst) (u : Fin 32) (r : XReg) (t : XReg) (s : State) : Result := s.dispatch (.vrngb d u r t) (s.x r) (s.x t)

/-- VRNGU (R179). -/
def execVrngu (d : VDst) (u : Fin 32) (r : XReg) (t : XReg) (s : State) : Result := s.dispatch (.vrngu d u r t) (s.x r) (s.x t)

end Sys2Proof.Machine
end

