-- ==== Sys2Proof/Machine/VMem.lean ====
section
/-! DEFINITION. Vector memory: VLD, VST, VLDB (R162 to R165), VLDO and VSTO (R189 to R195), the store address queue and the
pairing of its entries with tiles (R19, R192, R268, R391 to R393). -/

namespace Sys2Proof.Machine

/-! ### Elements -/

/-- The conversion between a memory format and the lane format: RNE, or R94 into D8, and no flag (R164). -/
def convBits (src dst : Fmt) (b : Nat) : Nat :=
  if src = dst then b % 2 ^ src.width else (roundTo dst .rne 0 (readNum src b)).1

/-- The bits of an element in bytes read from a granule address. -/
def elemBits (m : Fmt) (e : MemElem) (bs : List Byte) : Nat :=
  if m.width = 4 then bitsN (leValue (bs.take 1)) (4 * e.nib + 3) (4 * e.nib) else leValue (bs.take m.bytes)

/-- A tile with values at linear indices and zero elsewhere. -/
def tileOf (vs : List (Nat × Nat)) : Tile :=
  vs.foldl (fun T v => if h : v.1 < 1024 then T.set v.1 (BitVec.ofNat 32 v.2) else T) Tile.zero

/-! ### The sequencer's checks -/

/-- The shape and role checks of R165 (R31, R77). -/
def State.vmemCheck (s : State) (i : Instr) (q : Fin 8) (role : QRole) : Res Unit :=
  (Res.need s (bits s.task.csr.sh 7 0 != 0) .shape (wordOf i)).bind fun _ =>
    Res.need s (s.task.q[q].role == role) .queueRole (wordOf i)

/-- Check 1 of R117 for every granule, rising. -/
def State.rangeAll (s : State) (gs : List Nat) : Res State :=
  Res.each (fun s g => (Res.ofChk s (s.task.rangeCheck (wd g))).bind fun _ => .ok s) gs s

/-- The alignment of a base and a stride (R164). Of a misaligned stride TVAL is the stride, the model's choice: R390 says only "the
misaligned address" (log 67). -/
def State.alignBoth (s : State) (m : Fmt) (base stride : Word) : Res Unit :=
  (Res.need s (base.toNat % m.bytes = 0) .misalignedData base).bind fun _ =>
    Res.need s (stride.toNat % m.bytes = 0) .misalignedData stride

/-- The waits of R215 and R268 for the elements of `w` bytes that an access reads or writes, granule by granule. -/
def State.clearElems (s : State) (w : Nat) (write : Bool) (es : List MemElem) (ps : List (Nat × Place)) : Res Unit :=
  Res.each (fun _ p => Res.each (fun _ e => s.placeClear (p.2.add (e.addr.toNat % 64)) w write (wd p.1))
    (es.filter fun e => granule e.addr.toNat == p.1) ()) ps ()

/-- The wait of R236 before a vector load; TVAL of its deadlock is the first granule's address (log 57). -/
def State.windowElems (s : State) (ps : List (Nat × Place)) : Res Unit := s.windowClear (wd ((ps.head?.map (·.1)).getD 0))

/-- The bytes from an address on, in the granule read that holds it. -/
def bytesAt (buf : List (Nat × List Byte)) (a : Nat) : List Byte :=
  match buf.find? (·.1 == granule a) with
  | some g => g.2.drop (a % 64)
  | none => []

/-- A LOAD queue register must have room: with four tiles it waits for a pop, or faults if none is dispatched (R393). -/
def State.loadRoom (s : State) (q : Fin 8) : Res Unit :=
  if s.task.q[q].tiles.length < Config.queueTiles then .ok ()
  else if s.task.dispatched.any fun e => e.instr.pops q then .wait
  else .fail s .queueOverflow (wd q.val)

/-- A vector load of some elements before any byte moves: checks 3 to 5 of R117 for every granule, the waits, and the room. -/
def State.loadStart (s : State) (i : Instr) (q : Fin 8) (desc : List Word) (w : Nat) (es : List MemElem) : Res (State × Partial) :=
  (s.findAll .load (granulesOf w es)).bind fun (s1, ps) =>
    (s1.windowElems ps).bind fun _ => (s1.clearElems w false es ps).bind fun _ =>
      (s1.loadRoom q).bind fun _ => .ok (s1, { instr := i, desc := desc, left := ps, got := [] })

/-- The parts of the granule at an address that elements of `w` bytes take: offsets and lengths. -/
def elemSpans (w : Nat) (es : List MemElem) (g : Nat) : List (Nat × Nat) :=
  (es.filter fun e => granule e.addr.toNat == g).map fun e => (e.addr.toNat % 64, w)

/-- Go on with a vector load of elements of `w` bytes: its next granule moves (R195, R221); the last one pushes the tile that `f` builds
from the bytes at an address. -/
def State.loadOn (s : State) (q : Fin 8) (w : Nat) (es : List MemElem) (f : (Nat → List Byte) → Tile) (p : Partial) : Res State :=
  s.readPiece p 64 (elemSpans w es) fun s1 got => (s1.setTask fun t => t.pushTile q (f (bytesAt got))).advance

/-- The tile of a dense load, each value placed in the rows `rep` gives (R162, R163). -/
def denseTile (m dst : Fmt) (es : List MemElem) (rep : Nat → List Nat) (at_ : Nat → List Byte) : Tile :=
  tileOf (es.flatMap fun e =>
    let v := convBits m dst (elemBits m e (at_ e.addr.toNat))
    (rep e.k).map fun k => (k, v))

/-- A dense load of rows (R162 to R165): its checks and its first granule, or its next granule. -/
def State.loadDense (s : State) (i : Instr) (q : Fin 8) (base stride : Word) (rows : Nat) (m : Fmt) (rep : Nat → List Nat) :
    Result :=
  let sh := s.task.csr.sh
  let es := denseElems sh base stride rows m
  let tile := denseTile m (shFmt sh) es rep
  s.settle (match s.task.part with
    | some p => s.loadOn q m.bytes es tile p
    | none => Res.undo s ((s.vmemCheck i q .load).bind fun _ =>
      (s.rangeAll (granulesOf m.bytes es)).bind fun _ =>
        (s.alignBoth m base stride).bind fun _ => (s.loadStart i q [] m.bytes es).bind fun (s1, p) =>
          s1.loadOn q m.bytes es tile p))

/-- VLD (R162). -/
def execVld (q : Fin 8) (b r : XReg) (m : Fmt) (s : State) : Result :=
  s.loadDense (.vld q b r m) q (s.x b) (s.x r) (shRows s.task.csr.sh) m fun k => [k]

/-- VLDB (R163): every active row holds the one row read. -/
def execVldb (q : Fin 8) (b : XReg) (m : Fmt) (s : State) : Result :=
  s.loadDense (.vldb q b m) q (s.x b) 0 1 m fun k => (List.range (shRows s.task.csr.sh)).map fun r => r * 64 + k

/-! ### Orbits -/

/-- A checked orbit access: the state, the descriptor's doublewords and its elements. -/
structure OrbAccess where
  s : State
  ws : List Word
  os : List OrbElem

/-- Checks 1 to 4 of R189, up to the granules' own checks. -/
def State.orbAccess (s : State) (addr origin : Word) (m : Fmt) : Res OrbAccess :=
  let sh := s.task.csr.sh
  (s.readRecord addr).bind fun (s1, ws) =>
    let D := Desc.ofDwords ws
    (Res.need s1 (Desc.valid ws && D.rank != 1 && D.fmt = Fmt.code m) .orbitInvalid addr).bind fun _ =>
      (match (activeList sh).find? fun k => D.outside (originTuple origin k) with
        | some k => Res.fail s1 .orbitIndex (originIndex origin k)
        | none => .ok ()).bind fun _ =>
        (Res.need s1 (D.base.toNat % m.bytes = 0) .misalignedData D.base).bind fun _ =>
          .ok { s := s1, ws := ws, os := orbElems D sh origin }

/-- The tile of a VLDO (R191). -/
def orbTile (m dst : Fmt) (D : Desc) (os : List OrbElem) (at_ : Nat → List Byte) : Tile :=
  tileOf (os.filterMap fun e =>
    if e.sign = 0 then none
    else
      let p := D.elemAt m e.off
      let v := elemBits m { k := e.k, addr := p.1, nib := p.2 } (at_ p.1.toNat)
      some (e.k, convBits m dst (applySign m e.sign v)))

/-- VLDO (R189 to R191, R195): its checks and its first granule, or its next granule. -/
def execVldo (q : Fin 8) (b r : XReg) (m : Fmt) (s : State) : Result :=
  let sh := s.task.csr.sh
  let orbs (ws : List Word) := orbElems (Desc.ofDwords ws) sh (s.x r)
  let on (s : State) (p : Partial) : Res State :=
    let D := Desc.ofDwords p.desc
    s.loadOn q m.bytes (representatives D m (orbs p.desc)) (orbTile m (shFmt sh) D (orbs p.desc)) p
  s.settle (match s.task.part with
    | some p => on s p
    | none => Res.undo s ((s.vmemCheck (.vldo q b r m) q .load).bind fun _ =>
      (s.orbAccess (s.x b) (s.x r) m).bind fun o =>
        let es := representatives (Desc.ofDwords o.ws) m o.os
        (o.s.rangeAll (granulesOf m.bytes es)).bind fun _ =>
          (o.s.loadStart (.vldo q b r m) q o.ws m.bytes es).bind fun (s1, p) => on s1 p))

/-! ### Reserving a store -/

/-- The store address queue must have room: full, it waits while a tile of its entries has come, for one that no fault stops, or is
coming, else it faults (R392). -/
def State.storeRoom (s : State) : Res Unit :=
  let t := s.task
  if t.storeQ.length < Config.storeQueue then .ok ()
  else if (t.storeQ.zip (List.range t.storeQ.length)).any fun (e, n) => match e.instr.memQ with
      | some q => (!t.storeBehind n q && !t.q[q].tiles.isEmpty) || t.pushers q != 0
      | none => false then .wait
  else .fail s .queueUnderflow (match t.storeQ.head?.bind fun e => e.instr.memQ with
    | some q => wd q.val
    | none => 0)

/-- Append an entry to the store address queue, numbered among the task's vector stores. -/
def Task.addStore (t : Task) (e : StoreEntry) : Task :=
  { t with storeQ := t.storeQ ++ [{ e with num := t.stores }], stores := t.stores + 1 }

/-- Reserve an entry for a store of some elements (R162, R268): its checks and waits, and its first granule. -/
def State.reserve (s : State) (i : Instr) (base stride : Word) (desc : List Word) (w : Nat) (es : List MemElem) : Res State :=
  (s.findAll .store (granulesOf w es)).bind fun (s1, ps) =>
    (s1.clearElems w true es ps).bind fun _ =>
      s1.storeRoom.bind fun _ =>
        (s1.claimAll ps).bind fun s2 =>
          let e : StoreEntry :=
            { instr := i, addr := s.task.pc, base := base, stride := stride, sh := s.task.csr.sh, desc := desc
              granules := ps.take 1, left := ps.drop 1, num := 0, issued := s.task.thr.issued, begun := false, stopped := false }
          let s3 := s2.setTask fun t => t.addStore e
          .ok (if e.left.isEmpty then s3.advance else s3.setPiece (some { instr := i, desc := [], left := [], got := [] }))

/-- The newest store entry takes its next granule's place (R268); with the last one its instruction completes. -/
def State.reserveOn (s : State) : State :=
  match s.task.storeQ.getLast? with
  | some e =>
    let s1 := s.setTask fun t =>
      { t with storeQ := t.storeQ.dropLast ++ [{ e with granules := e.granules ++ e.left.take 1, left := e.left.drop 1 }] }
    if e.left.length ≤ 1 then (s1.setPiece none).advance else s1
  | none => (s.setPiece none).advance

/-- The checks of VST, in the order of R165. -/
def State.reserveDense (s : State) (i : Instr) (base stride : Word) (m : Fmt) : Res State :=
  let es := denseElems s.task.csr.sh base stride (shRows s.task.csr.sh) m
  (s.rangeAll (granulesOf m.bytes es)).bind fun _ =>
    (s.alignBoth m base stride).bind fun _ => s.reserve i base stride [] m.bytes es

/-- VST (R162, R165): its checks and its first granule's place, or its next granule's (R268). -/
def execVst (q : Fin 8) (b r : XReg) (m : Fmt) (s : State) : Result :=
  if s.task.part.isSome then .next s.reserveOn
  else
    s.settle (Res.undo s ((s.vmemCheck (.vst q b r m) q .store).bind fun _ =>
      s.reserveDense (.vst q b r m) (s.x b) (s.x r) m))

/-- VSTO (R189, R192): its checks and its first granule's place, or its next granule's (R268). -/
def execVsto (q : Fin 8) (b r : XReg) (m : Fmt) (s : State) : Result :=
  if s.task.part.isSome then .next s.reserveOn
  else
    s.settle (Res.undo s ((s.vmemCheck (.vsto q b r m) q .store).bind fun _ =>
      (s.orbAccess (s.x b) (s.x r) m).bind fun o =>
        let es := representatives (Desc.ofDwords o.ws) m o.os
        (o.s.rangeAll (granulesOf m.bytes es)).bind fun _ =>
          o.s.reserve (.vsto q b r m) (s.x b) (s.x r) o.ws m.bytes es))

/-! ### Pairing a store with its tile -/

/-- The symmetry-breaking store rule on one element (R192): the pending values by offset, rising, and whether SB is set. -/
def sbStep (m : Fmt) (st : List (Nat × Nat) × Bool) (e : OrbElem) (v : Nat) : List (Nat × Nat) × Bool :=
  if e.sign = 0 then (st.1, st.2 || !isZeroBits m v)
  else
    let w := applySign m e.sign v
    let old := st.1.find? (·.1 == e.off)
    let clash := match old with
      | some o => o.2 != w
      | none => false
    ((st.1.filter (·.1 < e.off)) ++ (e.off, w) :: (st.1.filter (e.off < ·.1)), st.2 || clash)

/-- What a store will write: its elements with their bits, and whether it sets SB; or the first element that breaks the symmetry
under FAULT (R192, R193). -/
inductive StorePlan where
  | write (es : List (MemElem × Nat)) (sb : Bool)
  | broken (k : Nat)

/-- The plan of a VST. -/
def planDense (e : StoreEntry) (m : Fmt) (T : Tile) : StorePlan :=
  .write ((denseElems e.sh e.base e.stride (shRows e.sh) m).map fun x => (x, convBits (shFmt e.sh) m (laneAt T x.k))) false

/-- The plan of a VSTO (R192). -/
def planOrbit (e : StoreEntry) (m : Fmt) (T : Tile) : StorePlan :=
  let D := Desc.ofDwords e.desc
  let vs := (orbElems D e.sh e.stride).map fun o => (o, convBits (shFmt e.sh) m (laneAt T o.k))
  match if D.policy = 0 then vs.find? fun v => v.1.sign = 0 && !isZeroBits m v.2 else none with
  | some v => .broken v.1.k
  | none =>
    let r := vs.foldl (fun st v => sbStep m st v.1 v.2) ([], false)
    .write (r.1.map fun p => ({ k := 0, addr := (D.elemAt m p.1).1, nib := (D.elemAt m p.1).2 }, p.2)) r.2

/-- The plan of an entry. -/
def StoreEntry.plan (e : StoreEntry) (T : Tile) : StorePlan :=
  match e.instr with
  | .vst _ _ _ m => planDense e m T
  | .vsto _ _ _ m => planOrbit e m T
  | _ => .write [] false

/-- The place of the granule at an address that an entry still reserves. -/
def StoreEntry.placeAt (e : StoreEntry) (a : Nat) : Option Place := (e.granules.find? (·.1 == a)).map (·.2)

/-- The loft page of a place is pinned again if a save emptied it (R226): check 5 as the data move. -/
def State.repin (s : State) (a : Word) : Place → Chk State
  | .loft o => s.refill s.task.id.cid o a
  | _ => .ok s

/-- The nibbles of a value of `u` nibbles from a nibble position on. -/
def nibblesAt (pos u v : Nat) : List (Nat × Nat) := (List.range u).map fun i => (pos + i, v / 16 ^ i % 16)

/-- The last value given to a nibble. -/
def lastNibble (ws : List (Nat × Nat)) (n : Nat) : Option Nat := (ws.reverse.find? (·.1 == n)).map (·.2)

/-- 64 bytes with nibbles written into them, later ones winning. -/
def merged (ws : List (Nat × Nat)) (old : List Byte) : List Byte :=
  (List.range 64).map fun o =>
    let b := (old.getD o 0).toNat
    BitVec.ofNat 8 ((lastNibble ws (2 * o)).getD (b % 16) + 16 * (lastNibble ws (2 * o + 1)).getD (b / 16))

/-- One granule event (R221, R270): nibbles written into the granule at a place, later ones winning, the others kept. Only an event
that covers all 64 bytes makes a bad line good (R404). -/
def State.granuleEvent (s : State) (p : Place) (ws : List (Nat × Nat)) : State :=
  let w := s.task.id.world
  let new := merged ws (s.readPlace w p 64)
  if (List.range 128).all fun n => (lastNibble ws n).isSome then s.writePlace w p new
  else
    ((List.range 64).filter fun o => ws.any fun x => x.1 / 2 == o).foldl
      (fun s o => s.writePlace w (p.add o) [new.getD o 0]) s

/-- The running Cellar that a granule's late bytes belong to: they were reserved before its event (R268, R414). -/
def State.owedTo (s : State) (e : StoreEntry) (p : Place) : Option (Fin 16 × Cellar × Nat) :=
  match p with
  | .device pa => ((s.cellarOf pa).filter fun x => x.2.owed.contains (s.task.id.tid, e.num, pa)).map fun x => (x.1, x.2, pa)
  | _ => none

/-- A granule event whose place precedes a Cellar's event: the snapshot takes its bytes, and so does the copy in the reserve. It is no first
write (R414). -/
def State.lateEvent (s : State) (i : Fin 16) (c : Cellar) (key : Nat × Nat × Nat) (p : Place) (ws : List (Nat × Nat)) : State :=
  let quiet := { s with parts := s.parts.set i { s.parts[i] with cellar := none } }
  let s1 := quiet.granuleEvent p ws
  let pa := key.2.2
  let lo := s.parts[i].range.1
  let c1 := { c with
    snapshot := c.snapshot.putBytes (pa - lo) (merged ws (c.snapshot.getBytes (pa - lo) 64)), owed := c.owed.filter (· != key)
    lost := if (s1.badIn (pa / 4096)).contains pa then c.lost else c.lost.filter (· != pa) }
  let s2 := match c.copyAt (pa / 4096) with
    | some a => s1.putRoot (a + pa % 4096) (merged ws (s1.readDevice 0 (a + pa % 4096) 64))
    | none => s1
  { s2 with parts := s2.parts.set i { s2.parts[i] with cellar := some c1 } }

/-- The granules of some elements in order of first appearance. -/
def granuleOrder (es : List (MemElem × Nat)) : List Nat :=
  es.foldl (fun l x => if l.contains (granule x.1.addr.toNat) then l else l ++ [granule x.1.addr.toNat]) []

/-- The nibbles that elements of a format write in the granule at an address. -/
def granuleNibbles (m : Fmt) (es : List (MemElem × Nat)) (g : Nat) : List (Nat × Nat) :=
  (es.filter fun x => granule x.1.addr.toNat == g).flatMap fun x =>
    nibblesAt (2 * (x.1.addr.toNat - g) + x.1.nib) (m.width / 4) x.2

/-- Write the elements of one granule: checks 5 to 7 of R117 as the data move (R165), then one granule event. -/
def State.storeGranule (s : State) (e : StoreEntry) (es : List (MemElem × Nat)) (g : Nat) (p : Place) : Res State :=
  let w := s.who false
  let ws := granuleNibbles e.fmt es g
  (Res.until ((s.owedTo e p).isSome || !s.rootFull s.task.id.world p)).bind fun _ =>
    (Res.ofChk s (s.repin (wd g) p)).bind fun s1 =>
      (s1.targetCheck w .store (wd g) p).bind fun _ =>
        (Res.ofChk s1 (s1.lineCheck w .store (wd g) 64 p)).bind fun _ => .ok (match s.owedTo e p with
          | some (i, c, pa) => s1.lateEvent i c (s.task.id.tid, e.num, pa) p ws
          | none => s1.granuleEvent p ws)

/-- Drop the n-th store entry and the tile at the head of its queue. -/
def Task.unreserve (t : Task) (n : Nat) (q : Fin 8) : Task := { t with storeQ := t.storeQ.eraseIdx n }.dropTile q

/-- Replace the n-th store entry. -/
def Task.setStore (t : Task) (n : Nat) (e : StoreEntry) : Task := { t with storeQ := t.storeQ.set n e }

/-- The tile of a store has passed its checks: SB is set before any byte is written (R192). -/
def State.beginStore (s : State) (n : Nat) (e : StoreEntry) (sb : Bool) : State :=
  s.setTask fun t =>
    let t1 := t.setStore n { e with begun := true }
    if sb then { t1 with csr := t1.csr.setSb } else t1

/-- A fault of the n-th store entry is queue-precise: it stops, keeping the granules it has not written (R165, R193, R268, R391). -/
def State.stopStore (s : State) (n : Nat) (e : StoreEntry) (r : Raised) : State :=
  s.setTask fun t => (t.setStore n { e with stopped := true }).raiseVe r e.addr

/-- The granule that a store writes next (R165): the first, in the order of its elements, that it still reserves. -/
def StoreEntry.nextGranule (e : StoreEntry) (es : List (MemElem × Nat)) : Option (Nat × Place) :=
  (granuleOrder es).findSome? fun g => (e.placeAt g).map fun p => (g, p)

/-- After a granule is written its reservation ends; with the last one of all, none being left to reserve, the entry and its tile go
(R268). -/
def Task.granuleDone (t : Task) (n : Nat) (e : StoreEntry) (q : Fin 8) (g : Nat) : Task :=
  let rest := e.granules.filter (·.1 != g)
  if rest.isEmpty && e.left.isEmpty then t.unreserve n q else t.setStore n { e with granules := rest }

/-- Run the n-th store entry on its tile: its checks, then one granule (R165, R192, R195). -/
def State.pairStore (s : State) (n : Nat) (e : StoreEntry) (q : Fin 8) (T : Tile) : State :=
  match e.plan T with
  | .broken k => s.stopStore n e ⟨.symmetryBreak, originIndex e.stride k⟩
  | .write es sb =>
    let e1 := { e with begun := true }
    let s1 := if e.begun then s else s.beginStore n e sb
    match e.nextGranule es with
    | none => if e.left.isEmpty then s1.setTask fun t => t.unreserve n q else s1
    | some (g, p) =>
      match s1.storeGranule e es g p with
      | .ok s2 => s2.setTask fun t => t.granuleDone n e1 q g
      | .trap s2 r => (s2.logLine s2.myPart r.line).stopStore n e1 ⟨r.cause, r.tval⟩
      | _ => s1

/-- The first store entry whose tile has arrived, with its queue register: tiles pair in order within each queue (R19), and one to a
type-2 page comes before every later store (R236). -/
def Task.readyStore (t : Task) : Option (Nat × StoreEntry × Fin 8 × Tile) :=
  (List.range t.storeQ.length).findSome? fun n =>
    match t.storeQ[n]? with
    | some e =>
      match e.instr.memQ with
      | some q => if e.stopped || t.storeRank n q != 1 || t.windowBefore n then none else t.q[q].tiles.head?.map fun T => (n, e, q, T)
      | none => none
    | none => none

/-- One step of the store side: an entry with its tile writes memory. -/
def State.storeStep (s : State) : State :=
  if !s.running || s.task.pend.ve.isSome then s
  else
    match s.task.readyStore with
    | some (n, e, q, T) => s.pairStore n e q T
    | none => s

end Sys2Proof.Machine
end

