-- ==== Sys2Proof/Machine/Thresher.lean ====
section
/-! DEFINITION. The Thresher: one step of its head command (R206 to R219), and the stamp overrun of the Thresher and the copy
channels (R206). -/

namespace Sys2Proof.Machine

/-- Do something for each of a list, in order, until a check fails. -/
def Chk.each {α σ : Type} (f : σ → α → Chk σ) : List α → σ → Chk σ
  | [], s => .ok s
  | a :: l, s => (f s a).bind fun s1 => Chk.each f l s1

/-! ### Loft access by an engine of the croft -/

/-- The pages of n loft bytes are pinned (0x16, R226). -/
def State.loftPin (s : State) (tval : Word) (o n : Nat) : Chk State :=
  Chk.each (fun (s : State) p => s.refill s.task.id.cid (p * 0x10000) tval) (loftPagesOf o n) s

/-- No doubleword of n loft bytes is uncorrectable (R400, R403). -/
def State.loftGood (s : State) (tval : Word) (o n : Nat) : Chk Unit :=
  if s.task.loftBad o n then .bad ⟨.uncorrectable, tval, some .loft⟩ else .ok ()

/-- Make n loft bytes available: their pages are pinned, and for a read no doubleword of them is uncorrectable. -/
def State.loftOpen (s : State) (read : Bool) (tval : Word) (o n : Nat) : Chk State :=
  (s.loftPin tval o n).bind fun s1 => (if read then s1.loftGood tval o n else .ok ()).bind fun _ => .ok s1

/-- n bytes of the loft. -/
def Task.loftBytes (t : Task) (o n : Nat) : List Byte := (t.loft.slice o (o + n)).getBytes o n

/-- Write loft bytes. -/
def State.putLoft (s : State) (o : Nat) (bs : List Byte) : State := s.setTask fun t => t.putLoft o bs

/-- The elements packed in bytes, the low nibble first (R89). -/
def unpackElems (f : Fmt) (bs : List Byte) : List Nat :=
  if f.width = 4 then bs.flatMap fun b => [b.toNat % 16, b.toNat / 16]
  else (List.range (bs.length / f.bytes)).map fun i => leValue ((bs.drop (i * f.bytes)).take f.bytes)

/-- Pairs of nibbles as bytes. -/
def packNibbles : List Nat → List Byte
  | a :: b :: l => BitVec.ofNat 8 (a + 16 * b) :: packNibbles l
  | [a] => [BitVec.ofNat 8 a]
  | [] => []

/-- Elements packed into bytes (R89). -/
def packElems (f : Fmt) (vs : List Nat) : List Byte := if f.width = 4 then packNibbles vs else vs.flatMap (leBytes f.bytes)

/-! ### Operands of MMA and DIST -/

/-- A 64 × 64 block of elements, each as the bits of its format. -/
abbrev Block := Array (Array Nat)

/-- An element of a block; 0 outside. -/
def Block.at_ (b : Block) (r c : Nat) : Nat := (b.getD r #[]).getD c 0

/-- What a fetch answers: the state, whether anything was fetched, a dense operand's base, rows and bytes, and the elements. -/
structure Fetched where
  s : State
  got : Bool
  base : Nat
  rows : List Nat
  bytes : List Byte
  block : Block

/-- The loft offset of row ρ of a dense operand based at `b` (R204). -/
def opndRow (r : List Word) (k b row : Nat) : Nat := b + row / 16 * opndQ r k + row % 16 * opndPitch r k

/-- The tile of a B operand's rows if it is latched: its base, format and scale are the latched ones, so are its rows, and none of its
bytes has been written since (R200; log 68). -/
def Thresher.held (t : Thresher) (r : List Word) (b : Nat) (rows : List Nat) : Option (List Byte) :=
  t.latch.bind fun l =>
    if l.base == b && l.fmt == opndFmt r 1 && l.scale == bits (dw r 11) 23 16 && l.rows == rows then some l.bytes else none

/-- The bytes of operand rows of n bytes: the latched B tile, which is not read again, or the rows read from the loft (R200, R204). -/
def State.operandBytes (s : State) (c : ThrCmd) (held : Option (List Byte)) (rows : List Nat) (n : Nat) : Chk (State × List Byte) :=
  match held with
  | some bs => .ok (s, bs)
  | none =>
    (Chk.each (fun (s : State) o => s.loftPin c.addr o n) rows s).bind fun s1 =>
      (Chk.each (fun _ o => s1.loftGood c.addr o n) rows ()).bind fun _ =>
        .ok (s1, rows.flatMap fun o => s1.task.loftBytes o n)

/-- Fetch a dense operand block (R204). -/
def State.fetchDense (s : State) (c : ThrCmd) (k : Nat) (f : Fmt) (is : List Nat) : Chk Fetched :=
  let r := c.record
  let b := ((opndBase r k : Int) + 64 * nestSum is (thrStep r k)).toNat
  let n := rowBytes (opndFmt r k)
  let rows := (List.range 64).map (opndRow r k b)
  (s.operandBytes c (if k = 1 then s.task.thr.held r b rows else none) rows n).bind fun (s1, bytes) =>
    .ok { s := s1, got := true, base := b, rows := rows, bytes := bytes
          block := ((List.range 64).map fun i => (unpackElems f ((bytes.drop (i * n)).take n)).toArray).toArray }

/-- The origin block of a descriptor operand (R204): row, then column. -/
def blockOrigin (field : Nat) (is : List Nat) (r : List Word) (which : Nat) : Nat × Nat :=
  (((field % 256 : Nat) + nestSum is (thrHalf r which 0) : Int).toNat,
    ((field / 256 % 256 : Nat) + nestSum is (thrHalf r which 1) : Int).toNat)

/-- The loft offset of the representative at an offset: 0x17 beyond the loft limits (R209, R212). -/
def Task.repAt (t : Task) (D : Desc) (f : Fmt) (off : Nat) : Chk Nat :=
  let a := (D.elemAt f off).1
  match t.addrKind a, t.addrKind (a + wd (f.bytes - 1)) with
  | .loft o, .loft _ => .ok o
  | _, _ => .fail .addressRange a

/-- Fetch an operand block through its descriptor (R212). -/
def State.fetchOrbit (s : State) (c : ThrCmd) (k : Nat) (f : Fmt) (D : Desc) (is : List Nat) : Chk Fetched :=
  let (rb, cb) := blockOrigin (opndPitch c.record k) is c.record k
  let tup (row col : Nat) : List Nat := [64 * rb + row, 64 * cb + col, 0, 0]
  (Chk.need (!D.outside (tup 0 0)) .orbitIndex (packIndex (tup 0 0))).bind fun _ =>
    (Chk.each (fun (p : State × Block) row =>
      (Chk.each (fun (q : State × Array Nat) col =>
        let t := tup row col
        let (off, sg, _) := D.resolve t
        if D.outside t || sg = 0 then .ok (q.1, q.2.push 0)
        else
          (q.1.task.repAt D f off).bind fun o =>
            (q.1.loftOpen true c.addr o f.bytes).bind fun s1 =>
              let b := elemBits f { k := 0, addr := 0, nib := (D.elemAt f off).2 } (s1.task.loftBytes o f.bytes)
              .ok (s1, q.2.push (applySign f sg b))) (List.range 64) (p.1, #[])).bind fun q =>
        .ok (q.1, p.2.push q.2)) (List.range 64) (s, #[])).bind fun p =>
      .ok { s := p.1, got := true, base := opndBase c.record k, rows := [], block := p.2
            bytes := p.2.toList.flatMap fun row => packElems f row.toList }

/-- The n-th descriptor of a command, if the record names it and it has been read. -/
def ThrCmd.desc (c : ThrCmd) (n : Nat) : Option Desc :=
  if thrDesc c.record n then c.descs.bind fun ds => ds[n]?.map Desc.ofDwords else none

/-- Fetch operand k (0 A, 1 B) at nest indices. -/
def State.fetch (s : State) (c : ThrCmd) (k : Nat) (is : List Nat) : Chk Fetched :=
  let f := (Fmt.ofCode (opndFmt c.record k)).getD .bf16
  match c.desc k with
  | some D => s.fetchOrbit c k f D is
  | none => s.fetchDense c k f is

/-! ### The arithmetic of a rake (R207, R214) -/

/-- A position of the contraction: its contraction index, its k, and its multiplicity. -/
structure KPos where
  zk : Nat
  k : Nat
  mult : Nat
deriving DecidableEq, Repr

/-- Split a list into runs of n. -/
def runsOf {α : Type} (n : Nat) : Nat → List α → List (List α)
  | 0, _ => []
  | fuel + 1, l => if l.isEmpty then [] else l.take n :: runsOf n fuel (l.drop n)

/-- A floating term: α × β, or (α − β)², times its multiplicity. -/
def floatTerm (dist : Bool) (a b : Num) (mult : Nat) : Num :=
  let t := if dist then
      let d := (sumNum .rne [a, b.negate]).1
      (mulNum d d).1
    else (mulNum a b).1
  if mult = 1 then t else (mulNum t (.ofInt mult)).1

/-- An integer term. -/
def intTerm (dist : Bool) (a b : Int) (mult : Nat) : Int := (if dist then (a - b) * (a - b) else a * b) * mult

/-- One rake of the floating class: rounded once to FP32. -/
def rakeFloat (acc : Nat) (fresh : Bool) (ts : List Num) : Nat :=
  (ff32.round .rne 0 (sumNum .rne (if fresh then ts else ff32.decode acc :: ts)).1).1

/-- One rake of the integer class: saturated or wrapped once. -/
def rakeInt (sat : Bool) (acc : Nat) (fresh : Bool) (ts : List Int) : Nat :=
  let v := ts.foldl (· + ·) (if fresh then 0 else signed 32 acc)
  wrapN 32 (if sat then clampInt .int32 v else v)

/-- Run the rakes of one output element over an accumulator lane. -/
def rakes {α : Type} (step : Nat → Bool → List α → Nat) : List (List α) → Nat → Bool → Nat
  | [], acc, _ => acc
  | ts :: l, acc, fresh => rakes step l (step acc fresh ts) false

/-- What one step of MMA or DIST works from: the blocks by contraction index, and the runs of contraction positions. -/
structure MulStep where
  r : List Word
  a : Array Block
  b : Array Block
  runs : List (List KPos)
  fresh : Bool

/-- β(k, n): with TB the stored element (n, k) (R207). -/
def MulStep.beta (x : MulStep) (p : KPos) (n : Nat) : Nat :=
  let blk := x.b.getD p.zk #[]
  if bit (dw x.r 0) 12 then blk.at_ n p.k else blk.at_ p.k n

/-- The new lane of output element (m, n). -/
def MulStep.lane (x : MulStep) (acc m n : Nat) : Nat :=
  let fa := (Fmt.ofCode (opndFmt x.r 0)).getD .bf16
  let fb := (Fmt.ofCode (opndFmt x.r 1)).getD .bf16
  let dist := thrKind x.r = 1
  let alpha (p : KPos) := (x.a.getD p.zk #[]).at_ m p.k
  if fa.isInt then
    rakes (rakeInt (bit (dw x.r 0) 9))
      (x.runs.map fun run => run.map fun p => intTerm dist (readInt fa (alpha p)) (readInt fb (x.beta p n)) p.mult) acc x.fresh
  else
    rakes rakeFloat
      (x.runs.map fun run => run.map fun p =>
        floatTerm dist ((readNum fa (alpha p)).scale (thrScale x.r 8)) ((readNum fb (x.beta p n)).scale (thrScale x.r 16)) p.mult)
      acc x.fresh

/-- Set the class bits of 64 rows from `c0`: true for INT (R199). -/
def setClass (cls : BitVec 256) (c0 : Nat) (int : Bool) : BitVec 256 :=
  let m := BitVec.ofNat 256 ((2 ^ 64 - 1) * 2 ^ c0)
  if int then cls ||| m else cls &&& ~~~m

/-- Replace 64 accumulator rows from `c0`: the function takes the old lane, the row in the block and the column. -/
def Thresher.setRows (t : Thresher) (c0 : Nat) (int : Bool) (f : Nat → Nat → Nat → Nat) : Thresher :=
  { t with
    acc := Vector.ofFn fun i =>
      if c0 ≤ i.val / 64 && i.val / 64 < c0 + 64 then BitVec.ofNat 32 (f t.acc[i].toNat (i.val / 64 - c0) (i.val % 64)) else t.acc[i]
    cls := setClass t.cls c0 int }

/-- An accumulator lane. -/
def Thresher.lane (t : Thresher) (row col : Nat) : Nat := if h : row * 64 + col < 16384 then t.acc[row * 64 + col].toNat else 0

/-! ### Orbit iteration (R214) -/

/-- The index tuple of a position of the ORB index space. -/
def orbTuple (D : Desc) (p : Nat) : List Nat := if D.rank = 1 then [p, 0, 0, 0] else [p / D.ext 1, p % D.ext 1, 0, 0]

/-- Insert an orbit by its offset, after those of an equal offset. -/
def insertOrbit (x : Nat × KPos) : List (Nat × KPos) → List (Nat × KPos)
  | [] => [x]
  | y :: l => if x.1 < y.1 then x :: y :: l else y :: insertOrbit x l

/-- Every orbit by offset, equal offsets by the lowest position, each at its lowest position. -/
def orbitList (D : Desc) (n : Nat) : List KPos :=
  let seen := (List.range n).foldl (fun (acc : List (List Nat × Nat × KPos)) p =>
    let cs := D.coordsAt (orbTuple D p)
    if acc.any (·.1 == cs) then acc
    else
      let r := D.resolve (orbTuple D p)
      acc ++ [(cs, r.1, { zk := p / 64, k := p % 64, mult := r.2.2 })]) []
  (seen.foldl (fun l x => insertOrbit (x.2.1, x.2.2) l) []).map (·.2)

/-- The positions of the contraction of one step. -/
def ThrCmd.positions (c : ThrCmd) : List KPos :=
  match c.desc 3 with
  | some D => orbitList D (64 * (thrCounts c.record).getD (thrZk c.record) 1)
  | none => (List.range 64).map fun k => { zk := 0, k := k, mult := 1 }

/-! ### Descriptors (R206 step 4, R209, R212 to R214) -/

/-- A BASE in the loft (R209, R212). -/
def Task.inLoft (t : Task) (a : Word) : Bool :=
  match t.addrKind a with
  | .loft _ => true
  | _ => false

/-- The record's same-operand test (R197). -/
def ThrCmd.same (c : ThrCmd) (ds : List (List Word)) : Bool :=
  opndBase c.record 0 == opndBase c.record 1 && match thrDesc c.record 0, thrDesc c.record 1 with
    | true, true => ds[0]? == ds[1]?
    | false, false => true
    | _, _ => false

/-- The clause of C that decides which ASSERT steps are skipped: its kind, SYM2 or CIRC on axes 0 and 1 (R213). -/
def Desc.skipKind (D : Desc) : Option Nat :=
  ([D.c1, D.c2].find? fun k => (k.kind = 1 || k.kind = 4) && k.a = 0 && k.b = 1).map (·.kind)

/-- The output block of an operand can be taken (R213). -/
def ThrCmd.blockKnown (c : ThrCmd) (k : Nat) : Bool :=
  let r := c.record
  thrDesc r k || (bit (dw r 0) 12 && !thrDesc r 0 && !thrDesc r 1 && opndBase r 0 == opndBase r 1
    && (List.range 6).all fun l => (thrCounts r).getD l 1 = 1 || thrStep r k l % (opndPitch r k : Int) = 0)

/-- The output block of an operand at nest indices: A's row block, or B's column block, with TB its row block (R213). -/
def ThrCmd.blockAt (c : ThrCmd) (k : Nat) (is : List Nat) : Int :=
  let r := c.record
  if thrDesc r k then
    let (rb, cb) := blockOrigin (opndPitch r k) is r k
    if k = 1 && !bit (dw r 0) 12 then cb else rb
  else nestSum is (thrStep r k) / (opndPitch r k : Int)

/-- The step at nest indices is skipped (R213). -/
def ThrCmd.skips (c : ThrCmd) (is : List Nat) : Bool :=
  bit (dw c.record 0) 11 && match (c.desc 2).bind Desc.skipKind with
    | some 1 => c.blockAt 0 is < c.blockAt 1 is
    | some _ => 0 < c.blockAt 0 is
    | none => false

/-- The first failing check of the descriptors of a command. R206 gives no order among them: that all are read before any is
validated, and that their faults are taken in the order A, B, C, ORB, is the model's choice (log 68). -/
def State.descCheck (s : State) (c : ThrCmd) (ds : List (List Word)) : Chk Unit :=
  let r := c.record
  let va (n : Nat) := loftVa (thrDescAt r n)
  let D (n : Nat) := Desc.ofDwords (ds.getD n [])
  let plain (n fmt : Nat) : Bool := (D n).rank == 2 && (D n).fmt == fmt && s.task.inLoft (D n).base
  let opt (n : Nat) : Option Desc := if thrDesc r n then some (D n) else none
  let valid (n : Nat) (more : Bool) : Chk Unit := .need (!thrDesc r n || (Desc.valid (ds.getD n []) && more)) .orbitInvalid (va n)
  (valid 0 (plain 0 (opndFmt r 0))).bind fun _ =>
  (valid 1 (plain 1 (opndFmt r 1))).bind fun _ =>
  (valid 2 (thrKind r != 3 || plain 2 (thrDrainFmt r))).bind fun _ =>
  (valid 3 ((D 3).rank ≤ 2 && [(D 3).c1.kind, (D 3).c2.kind].all (fun k => [0, 1, 4, 5, 6].contains k)
    && (D 3).ext 0 * (if (D 3).rank = 2 then (D 3).ext 1 else 1) == 64 * (thrCounts r).getD (thrZk r) 1)).bind fun _ =>
  if !thrMul r || !thrDesc r 2 then .ok ()
  else if bit (dw r 0) 11 then
    .need ((D 2).skipKind.isNone || (c.blockKnown 0 && c.blockKnown 1)) .recordMalformed c.addr
  else .need ((D 2).consistent (inferred (thrKind r = 1) (bit (dw r 0) 12) (c.same ds) (opt 0) (opt 1))) .symmetryMismatch c.addr

/-- Read and validate the descriptors of a command (R206 step 4). -/
def State.readDescs (s : State) (c : ThrCmd) : Chk (State × List (List Word)) :=
  (Chk.each (fun (p : State × List (List Word)) n =>
    if thrDesc c.record n then
      let o := thrDescAt c.record n
      (p.1.loftOpen true c.addr o 32).bind fun s1 => .ok (s1, p.2 ++ [dwords (s1.task.loftBytes o 32)])
    else .ok (p.1, p.2 ++ [[]])) (List.range 4) (s, [])).bind fun p =>
      (p.1.descCheck c p.2).bind fun _ => .ok p

/-! ### One nest point -/

/-- The accumulator row of a step (R204). -/
def accRow (r : List Word) (is : List Nat) : Nat := ((thrAccRow r : Int) + nestSum is (thrStep r (if thrMul r then 2 else 0))).toNat

/-- L(P) (R204). -/
def loftRow (r : List Word) (is : List Nat) : Nat := ((thrLoft r : Int) + 64 * nestSum is (thrStep r 2)).toNat

/-- The nest indices with the contraction level at `z` (R214). -/
def atZk (c : ThrCmd) (is : List Nat) (z : Nat) : List Nat := if bit (dw c.record 0) 10 then is.set (thrZk c.record) z else is

/-- The blocks of an operand that a step reads, by contraction index (R214). -/
def State.fetchAll (s : State) (c : ThrCmd) (k : Nat) (is : List Nat) (zs : List Nat) (n : Nat) : Chk (State × List Fetched) :=
  Chk.each (fun (p : State × List Fetched) z =>
    if zs.contains z then (p.1.fetch c k (atZk c is z)).bind fun f => .ok (f.s, p.2 ++ [f])
    else .ok (p.1, p.2 ++ [{ s := p.1, got := false, base := 0, rows := [], bytes := [], block := #[] }])) (List.range n) (s, [])

/-- A step of MMA or DIST (R207, R213, R214). An ORB step that fetches B at several contraction indices leaves the last one's tile
latched: the model's choice (log 68). -/
def State.mulPoint (s : State) (c : ThrCmd) (is : List Nat) : Chk State :=
  let r := c.record
  if c.skips is then .ok s
  else
    let ps := c.positions
    let zs := ps.map (·.zk)
    let n := if bit (dw r 0) 10 then (thrCounts r).getD (thrZk r) 1 else 1
    (s.fetchAll c 0 is zs n).bind fun (s1, fa) =>
      (s1.fetchAll c 1 is zs n).bind fun (s2, fb) =>
        let x : MulStep :=
          { r := r, a := (fa.map (·.block)).toArray, b := (fb.map (·.block)).toArray, runs := runsOf 16 ps.length ps
            fresh := bit (dw r 0) 8 && is.getD (thrZk r) 0 == 0 }
        let int := thrClass (opndFmt r 0) == 2
        let latch := (fb.filter (·.got)).getLast?.map fun f : Fetched =>
          { base := f.base, fmt := opndFmt r 1, scale := bits (dw r 11) 23 16, rows := f.rows, bytes := f.bytes : Latch }
        .ok (s2.setTask fun t =>
          { t with thr := { t.thr.setRows (accRow r is) int x.lane with latch := if latch.isSome then latch else t.thr.latch } })

/-- The rounding mode of DRAIN and LOADACC. -/
def thrMode (r : List Word) : RM := RM.ofCode (bits (dw r 11) 34 32)

/-- The draw for element (row, n) of the nest point p (R208, R210). -/
def State.thrDraw (s : State) (c : ThrCmd) (p row n : Nat) : Nat :=
  if thrMode c.record == .stoch then
    stochDraw s.seed (wd (bits c.addr 31 0) ^^^ wd s.task.id.launch.toNat) (wd (c.ordinal * 2 ^ 20 + p * 4096 + row * 64 + n))
  else 0

/-- The format an accumulator row is read in: by its class bit (R208). -/
def Thresher.rowFmt (t : Thresher) (row : Nat) : Fmt := if t.cls.getLsbD row then .int32 else .fp32

/-- The elements of row `row` of a DRAIN step, converted (R208). -/
def State.drainRow (s : State) (c : ThrCmd) (f : Fmt) (c0 p row : Nat) : List Nat :=
  let t := s.task.thr
  (List.range 64).map fun n =>
    (roundTo f (thrMode c.record) (s.thrDraw c p row n)
      ((readNum (t.rowFmt (c0 + row)) (t.lane (c0 + row) n)).scale (thrScale c.record 24))).1

/-- A step of DRAIN to loft rows (R208). Rows that overlap are written in rising order, the model's choice (log 68). -/
def State.drainDense (s : State) (c : ThrCmd) (f : Fmt) (is : List Nat) : Chk State :=
  let r := c.record
  let at_ (row : Nat) := loftRow r is + row * thrPitch r
  (Chk.each (fun (s : State) row => s.loftOpen false c.addr (at_ row) (rowBytes (thrDrainFmt r))) (List.range 64) s).bind fun s1 =>
    .ok ((List.range 64).foldl (fun s2 row => s2.putLoft (at_ row) (packElems f (s1.drainRow c f (accRow r is) c.point row))) s1)

/-- Write one representative of a DRAIN: a nibble keeps the other one (R192). It is a write of fewer bytes, which raises no fault in
its writer (R404). -/
def State.putRep (s : State) (D : Desc) (f : Fmt) (o off v : Nat) : State :=
  if f.width = 4 then
    let old := leValue (s.task.loftBytes o 1)
    s.putLoft o [BitVec.ofNat 8 (if (D.elemAt f off).2 = 0 then old / 16 * 16 + v else old % 16 + 16 * v)]
  else s.putLoft o (leBytes f.bytes v)

/-- A representative to write: its offset, value and loft offset. -/
structure RepSpot where
  off : Nat
  v : Nat
  o : Nat

/-- A step of DRAIN through a C descriptor (R209). A symmetry break (0x3A) comes before a representative past the loft limits (0x17):
the model's choice (log 68). -/
def State.drainOrbit (s : State) (c : ThrCmd) (f : Fmt) (D : Desc) (is : List Nat) : Chk State :=
  let r := c.record
  let (rb, cb) := blockOrigin (thrPitch r) is r 2
  let tup (row col : Nat) : List Nat := [64 * rb + row, 64 * cb + col, 0, 0]
  let es := ((List.range 64).flatMap fun row =>
    let vs := s.drainRow c f (accRow r is) c.point row
    (vs.zip (List.range 64)).map fun (v, n) => (tup row n, v)).filter fun e => !D.outside e.1
  (Chk.need (!D.outside (tup 0 0)) .orbitIndex (packIndex (tup 0 0))).bind fun _ =>
    match if D.policy = 0 then es.find? fun e => (D.resolve e.1).2.1 = 0 && !isZeroBits f e.2 else none with
    | some e => .fail .symmetryBreak (packIndex e.1)
    | none =>
      let st := es.foldl (fun st e =>
        let q := D.resolve e.1
        sbStep f st { k := 0, off := q.1, sign := q.2.1 } e.2) ([], false)
      (Chk.each (fun (p : State × List RepSpot) x =>
        (p.1.task.repAt D f x.1).bind fun o =>
          (p.1.loftOpen false c.addr o f.bytes).bind fun s1 => .ok (s1, p.2 ++ [⟨x.1, x.2, o⟩])) st.1 (s, [])).bind fun p =>
        let s1 := p.2.foldl (fun s x => s.putRep D f x.o x.off x.v) p.1
        .ok (if st.2 then s1.setCsr s1.task.csr.setSb else s1)

/-- A step of DRAIN. -/
def State.drainPoint (s : State) (c : ThrCmd) (is : List Nat) : Chk State :=
  let f := (Fmt.ofCode (thrDrainFmt c.record)).getD .fp32
  match c.desc 2 with
  | some D => s.drainOrbit c f D is
  | none => s.drainDense c f is

/-- A step of LOADACC (R210). -/
def State.loadPoint (s : State) (c : ThrCmd) (is : List Nat) : Chk State :=
  let r := c.record
  let f := (Fmt.ofCode (thrDrainFmt r)).getD .fp32
  let dst : Fmt := if f.isInt then .int32 else .fp32
  let at_ (row : Nat) := loftRow r is + row * thrPitch r
  let n := rowBytes (thrDrainFmt r)
  (Chk.each (fun (s : State) row => s.loftOpen true c.addr (at_ row) n) (List.range 64) s).bind fun s1 =>
    let blk : Block := ((List.range 64).map fun row => (unpackElems f (s1.task.loftBytes (at_ row) n)).toArray).toArray
    .ok (s1.setTask fun t => { t with thr := t.thr.setRows (accRow r is) f.isInt fun _ row col =>
      (roundTo dst (thrMode r) (s1.thrDraw c c.point row col) ((readNum f (blk.at_ row col)).scale (thrScale r 24))).1 })

/-- Whether lane `a` ranks strictly below lane `b` (R211): INT32 as signed, FP32 with −0 below +0 and every NaN on top. -/
def lanePrecedes (int : Bool) (a b : Nat) : Bool :=
  if int then signed 32 a < signed 32 b
  else
    let x := ff32.decode a
    let y := ff32.decode b
    if x.isNaN then false else if y.isNaN then true else !leqSigned y x

/-- Insert a column by its lane, after those that rank equal (R211: ties go to the lower column). -/
def insertLane (before : Nat → Nat → Bool) (lane : Nat → Nat) (n : Nat) : List Nat → List Nat
  | [] => [n]
  | y :: l => if before (lane n) (lane y) then n :: y :: l else y :: insertLane before lane n l

/-- The columns TOPK takes from a row, in order (R211). -/
def topColumns (int max : Bool) (k : Nat) (lane : Nat → Nat) : List Nat :=
  ((List.range 64).foldl (fun l n => insertLane (fun a b => if max then lanePrecedes int b a else lanePrecedes int a b) lane n l)
    []).take k

/-- A step of TOPK (R211). -/
def State.topPoint (s : State) (c : ThrCmd) (is : List Nat) : Chk State :=
  let r := c.record
  let k := thrTopK r
  let c0 := accRow r is
  let t := s.task.thr
  let rows := (List.range 64).map fun row =>
    (topColumns (t.cls.getLsbD (c0 + row)) (bit (dw r 0) 18) k (t.lane (c0 + row))).map fun n => (n, t.lane (c0 + row) n)
  (s.loftOpen false c.addr (loftRow r is) (384 * k)).bind fun s1 =>
    .ok (s1.putLoft (loftRow r is) ((rows.flatMap fun x => x.flatMap fun p => leBytes 2 p.1)
      ++ rows.flatMap fun x => x.flatMap fun p => leBytes 4 p.2))

/-- One nest point of a command. -/
def State.thrPoint (s : State) (c : ThrCmd) (is : List Nat) : Chk State :=
  if thrMul c.record then s.mulPoint c is
  else if thrKind c.record = 2 then s.topPoint c is
  else if thrKind c.record = 3 then s.drainPoint c is
  else s.loadPoint c is

/-! ### One step -/

/-- Replace the head command. -/
def Thresher.setHead (t : Thresher) (c : ThrCmd) : Thresher := { t with cmds := c :: t.cmds.drop 1 }

/-- Replace the head command of the running task's Thresher. -/
def State.thrHead (s : State) (c : ThrCmd) : State := s.setTask fun t => { t with thr := t.thr.setHead c }

/-- A command has met its stamp and its wait, or must wait, or has overrun (R206 steps 1 and 2). -/
inductive Start where
  | go | wait | overrun
deriving DecidableEq, Repr

/-- The start of a command: `stamped` while its stamp counts, at FRAME `now`, stamp, slack, and whether its wait is met. -/
def startOf (stamped : Bool) (now stamp slack : Nat) (met : Bool) : Start :=
  if stamped && stamp + slack < now then .overrun
  else if stamped && now < stamp then .wait
  else if met then .go else .wait

/-- The start of a Thresher command. -/
def State.thrStart (s : State) (c : ThrCmd) : Start :=
  let d0 := dw c.record 0
  startOf (bit d0 17 && !c.stampDone) s.frame (bits d0 63 32) c.dslack (s.task.waitMet c.record)

/-- The first step of the head command waits for an earlier vector store to the loft (R215) or an earlier VE read of a tile it writes
(R216). -/
def State.thrBlocked (s : State) (c : ThrCmd) : Bool :=
  let t := s.task
  let d := s.descOf c (fun _ => false) (t.thrWaits c)
  t.storeQ.any (fun e => e.issued < c.ordinal && e.granules.any fun g => match g.2 with
      | .loft o => thrReads d c.record o || thrWrites d c.record o
      | _ => false)
    || t.dispatched.any fun e => e.issued < c.ordinal && e.instr.readsAcc.any fun a => (thrTiles c.record).contains a

/-- Raise a fault of the head command (R218): it stops, keeps its counters, and reads its descriptors again when it goes on. -/
def State.thrFault (s : State) (c : ThrCmd) (r : Raise) : State :=
  ((s.logLine s.myPart r.line).thrHead { c with descs := none }).setTask fun t =>
    { t with thr := { t.thr with halted := true }, pend := { t.pend with thresher := some ⟨r.cause, r.tval⟩ } }

/-- The signal of a completed record (R206 step 7). -/
def Task.recordSignal (t : Task) (r : List Word) : Task :=
  let d := dw r 1
  if bit d 20 then t.signal (bits d 19 16) (bits d 47 21) else t

/-- The head command completes (R206 step 7). -/
def Task.thrComplete (t : Task) (c : ThrCmd) : Task :=
  { t with thr := { t.thr with cmds := t.thr.cmds.drop 1, done := c.ordinal } }.recordSignal c.record

/-- The points a command steps through. -/
def ThrCmd.total (c : ThrCmd) : Nat := (thrWalk c.record).foldl (· * ·) 1

/-- The release of a command at fabric scope waits for the vector stores to type-2 pages before its MXQ (R202, R206 step 6, R239,
R271). -/
def State.thrReleased (s : State) (c : ThrCmd) : Bool :=
  !(bit (dw c.record 0) 14 && bits (dw c.record 0) 16 15 = 3
    && s.task.storeQ.any fun e => e.issued < c.ordinal && e.isWindow)

/-- A command whose last point is done completes once its release is made (R206). -/
def State.thrFinish (s : State) (c : ThrCmd) : State :=
  if s.thrReleased c then s.setTask fun t => t.thrComplete c else s.thrHead { c with point := c.total }

/-- Run the next nest point of a started command, and complete it after its last. -/
def State.thrRun (s : State) (c : ThrCmd) : State :=
  match s.thrPoint c (nestIndex (thrWalk c.record) c.point) with
  | .ok s1 => if c.point + 1 < c.total then s1.thrHead { c with point := c.point + 1 } else s1.thrFinish c
  | .bad r => s.thrFault c r
  | _ => s

/-- One step of the Thresher: the head command starts, reads its descriptors, runs a nest point, or completes. What R215 and R216 make it
wait for holds its first step, not its issue (R206, R322). A halted Thresher and the limiter (R424) hold it. -/
def State.thrStep (s : State) : State :=
  match s.task.thr.cmds with
  | [] => s
  | c :: _ =>
    if !s.running || s.task.thr.halted || s.dev.limiting then s
    else if !c.started then
      match s.thrStart c with
      | .wait => s
      | .overrun => s.thrFault c ⟨.stampOverrun, c.addr, none⟩
      | .go => s.thrHead { c with started := true }
    else if c.total ≤ c.point then s.thrFinish c
    else
      match c.descs with
      | some _ => s.thrRun c
      | none =>
        if s.thrBlocked c then s
        else
          match s.readDescs c with
          | .ok (s1, ds) => s1.thrHead { c with descs := some ds }
          | .bad r => s.thrFault c r
          | _ => s

/-- A step of the Thresher if its head command is of a kind. -/
def State.thrKindStep (s : State) (kind : Nat) : Result :=
  .next (match s.task.thr.cmds with
    | c :: _ => if thrKind c.record = kind then s.thrStep else s
    | [] => s)

/-- MMA: a step of the head command, if it is one (R207). -/
def execMma (s : State) : Result := s.thrKindStep 0

/-- DIST: a step of the head command, if it is one (R207). -/
def execDist (s : State) : Result := s.thrKindStep 1

/-- TOPK: a step of the head command, if it is one (R211). -/
def execTopk (s : State) : Result := s.thrKindStep 2

/-- DRAIN: a step of the head command, if it is one (R208, R209). -/
def execDrain (s : State) : Result := s.thrKindStep 3

/-- LOADACC: a step of the head command, if it is one (R210). -/
def execLoadacc (s : State) : Result := s.thrKindStep 4

end Sys2Proof.Machine
end

