-- ==== Sys2Proof/Machine/Copy.lean ====
section
/-! DEFINITION. The copy channels: one granule event of a channel's head command (R254 to R261, R270), and the stamp overrun of
any engine (R206). -/

namespace Sys2Proof.Machine

/-! ### Memory accesses of an engine of the croft (R257, R261) -/

/-- Who an engine command is, issued in a mode after some vector stores (R232, R240). -/
def State.engine (s : State) (sup : Bool) (after : Nat) : Who := { s.who sup with engine := true, after := some after }

/-- Wait for the vector stores that hold back an engine's access of n bytes (R268): for a read those of other tasks and, of the running
one, those before its issue (R240); for a write every one, and the claim and the Cellar it may need. -/
def State.engineWait (s : State) (w : Who) (n : Nat) (write : Bool) : Place → Res Unit
  | .device pa =>
    let upTo := if write then s.task.stores else w.after.getD 0
    Res.until (!s.heldBy s.task upTo w.world pa n write && !s.heldByKept w.world pa n write
      && !(write && s.writeHeld w.world (.device pa)))
  | _ => .ok ()

/-- The place of one byte for an engine: its checks, 0x52 for any type-2 page in a rival (R257), and its wait. -/
def State.enginePlace (s : State) (w : Who) (acc : Acc) (a : Word) : Res (State × Place) :=
  (Res.ofChk s (s.placeFind w acc a)).bind fun (s1, p) =>
    (Res.need s1 (w.world = 0 || !p.isWindow) .worldExternal a).bind fun _ =>
      (Res.ofChk (if acc == .store then s1.scramble p else s1) (s1.windowCheck w a p)).bind fun _ =>
        (s1.engineWait w 1 (acc == .store) p).bind fun _ =>
          (Res.ofChk s1 (s1.lineCheck w acc a 1 p)).bind fun _ => .ok (s1, p)

/-- What an engine read: the state and the bytes. -/
structure ReadBytes where
  s : State
  bs : List Byte

/-- Read n bytes for an engine, byte by byte. -/
def State.engineRead (s : State) (w : Who) (a : Word) (n : Nat) : Res ReadBytes :=
  Res.each (fun (r : ReadBytes) k =>
    (r.s.enginePlace w .load (a + wd k)).bind fun (s1, p) =>
      .ok { s := s1, bs := r.bs ++ s1.readPlace w.world p 1 }) (List.range n) { s := s, bs := [] }

/-- Open the granule of an address for a write of an engine: its place, with the claim of a rival's copy (R349, R353). -/
def State.engineOpen (s : State) (w : Who) (a : Word) : Res (State × Place) :=
  (s.enginePlace w .store a).bind fun (s1, p) =>
    (Res.ofChk s1 (s1.claimCheck w a p)).bind fun s2 => .ok (s2, p.granule)

/-! ### One element (R254, R255) -/

/-- What one step of a channel works from: the command and who it is. -/
structure CopyCtx where
  c : CopyCmd
  w : Who

/-- The nest indices of a position. -/
def CopyCtx.at_ (x : CopyCtx) (j : Nat) : List Nat := nestIndex (copyCounts x.c.record) j

/-- A format code's format. -/
def fmtOr (code : Nat) : Fmt := (Fmt.ofCode code).getD .uint8

/-- The descriptor of PACKO and UNPACKO. -/
def CopyCtx.orbit (x : CopyCtx) : Desc := Desc.ofDwords (x.c.desc.getD [])

/-- The index tuple of a nest point (R255): level 0 stands for axis 1 and level 1 for axis 0, or level 0 for axis 0 at rank 1. -/
def copyTuple (D : Desc) (is : List Nat) : List Nat :=
  if D.rank = 1 then [is.getD 0 0, 0, 0, 0] else [is.getD 1 0, is.getD 0 0, is.getD 2 0, is.getD 3 0]

/-- The address of a nibble position, computed exactly (R254); 0x17 outside the 64-bit addresses. -/
def State.nibAddr (s : State) (pos : Int) : Res Word :=
  (Res.need s (0 ≤ pos && pos / 2 < (2 ^ 64 : Nat)) .addressRange (ofInt (pos / 2))).bind fun _ => .ok (ofInt (pos / 2))

/-- Read an element of `u` nibbles at a nibble position. -/
def State.copyRead (s : State) (x : CopyCtx) (pos : Int) (u : Nat) : Res (State × Nat) :=
  (s.nibAddr pos).bind fun a => (s.engineRead x.w a (Nat.max (u / 2) 1)).bind fun r =>
    let v := leValue r.bs
    .ok (r.s, if u = 1 then v / 16 ^ (pos % 2).toNat % 16 else v)

/-- The index word of a GATHER or SCATTER (R255). -/
def State.copyIndex (s : State) (x : CopyCtx) (j : Nat) : Res (State × Nat) :=
  (s.engineRead x.w (dw x.c.record 9 + wd (4 * j)) 4).bind fun r => .ok (r.s, leValue r.bs)

/-- The nibble position of a representative. -/
def repPos (D : Desc) (f : Fmt) (off : Nat) : Int :=
  let p := D.elemAt f off
  2 * (p.1.toNat : Int) + p.2

/-- The element read for position j, in SFMT (R255). -/
def State.copySource (s : State) (x : CopyCtx) (j : Nat) : Res (State × Nat) :=
  let r := x.c.record
  let u := copyUnit r false
  if copyKind r = 1 then .ok (s, bits (dw r 8) 63 32)
  else if copyKind r = 2 then
    (s.copyIndex x j).bind fun (s1, i) => s1.copyRead x (2 * ((dw r 2).toNat : Int) + (i * u : Nat)) u
  else if copyKind r = 5 then
    let D := x.orbit
    let q := D.resolve (copyTuple D (x.at_ j))
    if q.2.1 = 0 then .ok (s, 0)
    else
      let f := fmtOr (copySfmt r)
      (s.copyRead x (repPos D f q.1) u).bind fun (s1, v) => .ok (s1, applySign f q.2.1 v)
  else s.copyRead x (copyPos r false (x.at_ j)) u

/-- The draw of a converting element (R254). -/
def State.copyDraw (s : State) (c : CopyCmd) (j : Nat) : Nat :=
  stochDraw s.seed (wd (bits c.addr 31 0) ^^^ wd s.task.id.launch.toNat) (wd (c.ordinal * 2 ^ 32 + j))

/-- The element as written, in DFMT (R254). -/
def State.copyConvert (s : State) (c : CopyCmd) (j v : Nat) : Nat :=
  let r := c.record
  if copyConverts r then
    let mode := RM.ofCode (copyRnd r)
    (roundTo (fmtOr (copyDfmt r)) mode (if mode == .stoch then s.copyDraw c j else 0)
      ((readNum (fmtOr (copySfmt r)) v).scale (copyScale r))).1
  else v % 16 ^ copyUnit r true

/-- Whether PACKO stores the element at j: the first member of its orbit, in nest order, whose sign is +1 (R255). -/
def CopyCtx.packs (x : CopyCtx) (j : Nat) : Bool :=
  let D := x.orbit
  let tup (k : Nat) := copyTuple D (x.at_ k)
  let plus (k : Nat) : Bool := (D.resolve (tup k)).2.1 == 1
  plus j && !(List.range j).any fun k => plus k && D.coordsAt (tup k) == D.coordsAt (tup j)

/-- Where the element at j goes: its nibble position, or none for a member that PACKO does not store (R255). -/
def State.copyTarget (s : State) (x : CopyCtx) (j : Nat) : Res (State × Option Int) :=
  let r := x.c.record
  if copyKind r = 3 then
    (s.copyIndex x j).bind fun (s1, i) => .ok (s1, some (2 * ((dw r 3).toNat : Int) + (i * copyUnit r true : Nat)))
  else if copyKind r = 4 then
    let D := x.orbit
    .ok (s, if x.packs j then some (repPos D (fmtOr (copyDfmt r)) (D.resolve (copyTuple D (x.at_ j))).1) else none)
  else .ok (s, some (copyPos r true (x.at_ j)))

/-! ### One delivery (R258, R260, R270) -/

/-- An element on its way: where it goes, its bits, and its nest position. -/
structure Moved where
  pos : Int
  v : Nat
  j : Nat

/-- A delivery unit: one element, or two 4-bit elements of one byte; with the nest position after it (R258). -/
structure Piece where
  s : State
  cells : List Moved
  next : Nat

/-- Read and convert one element whose target is known. -/
def State.copyElem (s : State) (x : CopyCtx) (j : Nat) (pos : Int) : Res (State × Moved) :=
  (s.copySource x j).bind fun (s1, v) => .ok (s1, { pos := pos, v := s1.copyConvert x.c j v, j := j })

/-- The next position from j on whose element is stored. -/
def CopyCtx.nextStored (x : CopyCtx) : Nat → Nat → Nat
  | 0, j => j
  | fuel + 1, j => if copyKind x.c.record = 4 && !x.packs j then x.nextStored fuel (j + 1) else j

/-- Read the members from position i to before j, which PACKO does not store (log 41). -/
def State.copyPass (s : State) (x : CopyCtx) (i j : Nat) : Res State :=
  Res.each (fun s k => (s.copySource x (i + k)).bind fun (s1, _) => .ok s1) (List.range (j - i)) s

/-- The second half of a byte, if the next element stored is of the same byte (R258): the two wait and fault as one unit. -/
def State.copyPair (s : State) (x : CopyCtx) (a : Moved) : Res Piece :=
  let total := copyTotal x.c.record
  let j := x.nextStored total (a.j + 1)
  let alone : Piece := { s := s, cells := [a], next := a.j + 1 }
  if copyUnit x.c.record true != 1 || total ≤ j then .ok alone
  else
    (s.copyTarget x j).bind fun (s1, t) =>
      match t with
      | some p =>
        if p / 2 = a.pos / 2 then
          (s1.copyPass x (a.j + 1) j).bind fun s2 =>
            (s2.copyElem x j p).bind fun (s3, b) => .ok { s := s3, cells := [a, b], next := j + 1 }
        else .ok alone
      | none => .ok alone

/-- The delivery unit at position j; a member that PACKO does not store is read and goes nowhere. -/
def State.copyPiece (s : State) (x : CopyCtx) (j : Nat) : Res Piece :=
  (s.copyTarget x j).bind fun (s1, t) =>
    match t with
    | none => (s1.copySource x j).bind fun (s2, _) => .ok { s := s2, cells := [], next := j + 1 }
    | some p => (s1.copyElem x j p).bind fun (s2, a) => s2.copyPair x a

/-- The granule of a nibble position. -/
def nibGranule (p : Int) : Int := p / 128

/-- The units from position j on whose elements lie wholly in one granule: what one granule event delivers. -/
def State.copyGroup (s : State) (x : CopyCtx) (g : Int) : Nat → Nat → List Piece
  | 0, _ => []
  | fuel + 1, j =>
    if copyTotal x.c.record ≤ j then []
    else
      match s.copyPiece x j with
      | .ok p =>
        let u := copyUnit x.c.record true
        if !p.cells.isEmpty && p.cells.all fun m => nibGranule m.pos == g && nibGranule (m.pos + u - 1) == g then
          p :: p.s.copyGroup x g fuel p.next
        else []
      | _ => []

/-- The nibbles a moved element writes, by absolute position. -/
def Moved.nibbles (m : Moved) (u : Nat) : List (Int × Nat) := (List.range u).map fun i : Nat => (m.pos + (i : Int), m.v / 16 ^ i % 16)

/-- The state of a delivery, with the granules it has opened and their places. -/
structure Placed where
  s : State
  ps : List (Nat × Place)

/-- Deliver nibbles for an engine: each granule they lie in is opened and has room (R414), then one event per granule (R270). -/
def State.engineDeliver (s : State) (w : Who) (ns : List (Int × Nat)) : Res State :=
  let gs := ns.foldl (fun l n => if l.contains (nibGranule n.1) then l else l ++ [nibGranule n.1]) []
  let first (g : Int) : Int := ((ns.find? fun n => nibGranule n.1 == g).map (·.1)).getD 0
  (Res.each (fun (p : Placed) g =>
    (p.s.nibAddr (first g)).bind fun a => (p.s.engineOpen w a).bind fun (s1, pl) => .ok { s := s1, ps := p.ps ++ [(g.toNat, pl)] }) gs
      { s := s, ps := [] }).bind fun p => (Res.until (p.s.placesRoom (p.ps.map (·.2)))).bind fun _ =>
    .ok (p.ps.foldl (fun s q => s.granuleEvent q.2
      ((ns.filter fun n => nibGranule n.1 == (q.1 : Int)).map fun n => ((n.1 % 128).toNat, n.2))) p.s)

/-- The byte writes of a unit, with their full values (R258, R260); `byteOf` gives a byte after the delivery so far. -/
def pieceBytes (u : Nat) (byteOf : Int → Byte) (cells : List Moved) : List Byte :=
  if u = 1 then (cells.take 1).map fun m => byteOf (m.pos / 2) else cells.flatMap fun m => leBytes (u / 2) m.v

/-- The bytes of a 4-bit delivery as they stand after each unit: the nibbles given so far over the granule's old bytes. -/
def nibbleByte (old : Int → Nat) (ns : List (Int × Nat)) (b : Int) : Byte :=
  let nib (n : Int) (d : Nat) : Nat := ((ns.reverse.find? (·.1 == n)).map (·.2)).getD d
  BitVec.ofNat 8 (nib (2 * b) (old b % 16) + 16 * nib (2 * b + 1) (old b / 16))

/-- The byte writes of some units in delivery order. -/
def deliveryBytes (u : Nat) (old : Int → Nat) : List (Int × Nat) → List (List Moved) → List Byte
  | _, [] => []
  | ns, cells :: l =>
    let ns1 := ns ++ cells.flatMap (Moved.nibbles · u)
    pieceBytes u (nibbleByte old ns1) cells ++ deliveryBytes u old ns1 l

/-- The old value of a byte, for the nibble a 4-bit delivery keeps. -/
def State.oldByte (s : State) (x : CopyCtx) (b : Int) : Nat :=
  match s.placeFind x.w .store (ofInt b) with
  | .ok (s1, p) => leValue (s1.readPlace x.w.world p 1)
  | _ => 0

/-- The signal of BYTES: 256 for each multiple of 256 crossed from `a` to `b` bytes (R259). -/
def Task.byteSignals (t : Task) (r : List Word) (a b : Nat) : Task :=
  if bit (dw r 0) 8 then
    (List.range (b / 256 - a / 256)).foldl (fun t _ => t.signal (bits (dw r 1) 19 16) 256) t
  else t

/-- REL of a record. -/
def copyRel (r : List Word) : Bool := bit (dw r 0) 11

/-- The bytes that BYTES has signalled once `d` are delivered: with REL the final addition, `last`, follows the release (R259). -/
def signalled (r : List Word) (last : Bool) (d : Nat) : Nat := if last && copyRel r then d - 1 else d

/-! ### The channel -/

/-- Replace the head command of a channel. -/
def Channel.setHead (ch : Channel) (c : CopyCmd) : Channel := { ch with cmds := c :: ch.cmds.drop 1 }

/-- Update a channel of the running task. -/
def State.setCh (s : State) (k : Fin 4) (f : Channel → Channel) : State :=
  s.setTask fun t => { t with ch := t.ch.set k (f t.ch[k]) }

/-- The bytes a command has delivered. -/
def State.copied (s : State) (k : Fin 4) (c : CopyCmd) : Nat := (s.task.ch[k].wp - c.w0).toNat

/-- Count delivered bytes: wp, the CRC, the progress and the signals (R258 to R260). -/
def State.copyCount (s : State) (k : Fin 4) (c : CopyCmd) (bs : List Byte) (next : Nat) (last : Bool) : State :=
  let d := s.copied k c
  let s1 := s.setCh k fun ch =>
    { ch.setHead { c with pos := next, crc := crcBytes c.crc bs } with wp := ch.wp + wd bs.length }
  s1.setTask fun t => t.byteSignals c.record d (signalled c.record last (d + bs.length))

/-- Raise a fault of a channel's head command (R261). -/
def State.copyFault (s : State) (k : Fin 4) (c : CopyCmd) (r : Raise) : State :=
  ((s.logLine s.myPart r.line).setCh k fun ch => { ch.setHead c with halted := true }).setTask fun t =>
    { t with pend := { t.pend with ch := t.pend.ch.set k (some ⟨r.cause, r.tval⟩) } }

/-- The state a piece of a channel's work leaves: done, faulted, or waiting. -/
def State.copySettle (s : State) (k : Fin 4) (c : CopyCmd) (r : Res State) : State :=
  match r with
  | .ok s1 => s1
  | .trap s1 q => s1.copyFault k c q
  | _ => s

/-- No element from a position on is stored. -/
def CopyCtx.noneAfter (x : CopyCtx) (j : Nat) : Bool := copyTotal x.c.record ≤ x.nextStored (copyTotal x.c.record) j

/-- Deliver the next units of a command: a unit that goes nowhere or crosses granules alone, else a granule's worth. -/
def State.copyMove (s : State) (k : Fin 4) (x : CopyCtx) : Res State :=
  let c := x.c
  let u := copyUnit c.record true
  (s.copyPiece x c.pos).bind fun p =>
    match p.cells with
    | [] => .ok (p.s.copyCount k c [] p.next false)
    | m :: _ =>
      let whole := nibGranule m.pos == nibGranule (m.pos + u - 1)
      let ps := if whole then p :: p.s.copyGroup x (nibGranule m.pos) 127 p.next else [p]
      let cells := ps.map (·.cells)
      let s1 := (ps.getLast?.map (·.s)).getD p.s
      let next := (ps.getLast?.map (·.next)).getD p.next
      (s1.engineDeliver x.w (cells.flatMap fun l => l.flatMap (Moved.nibbles · u))).bind fun s2 =>
        .ok (s2.copyCount k c (deliveryBytes u (s1.oldByte x) [] cells) next (x.noneAfter next))

/-- The CRC write (R260). -/
def State.copyCrc (s : State) (x : CopyCtx) : Res State :=
  let r := x.c.record
  if bit (dw r 0) 9 then
    let v := (x.c.crc ^^^ 0xFFFFFFFF#32).toNat
    s.engineDeliver x.w ((List.range 8).map fun i : Nat => (2 * ((dw r 10).toNat : Int) + (i : Int), v / 16 ^ i % 16))
  else .ok s

/-- The release of a command at fabric scope waits for the vector stores to type-2 pages issued before it (R239, R271). -/
def State.copyRelease (s : State) (c : CopyCmd) : Res Unit :=
  Res.until (!(copyRel c.record && bits (dw c.record 0) 13 12 = 3
    && s.task.storeQ.any fun e => e.num < c.after && e.isWindow))

/-- The final addition of BYTES over `d` bytes (R259): the remainder, or with REL the 256 held back. -/
def finalAddition (r : List Word) (d : Nat) : Nat := if d % 256 = 0 && copyRel r && d != 0 then 256 else d % 256

/-- The command completes: sequence number and signal (R257, R259). -/
def State.copyComplete (s : State) (k : Fin 4) (c : CopyCmd) : State :=
  let n := finalAddition c.record (s.copied k c)
  let s1 := s.setCh k fun ch => { ch with cmds := ch.cmds.drop 1, done := c.ordinal }
  s1.setTask fun t =>
    if bit (dw c.record 0) 8 then if n = 0 then t else t.signal (bits (dw c.record 1) 19 16) n
    else t.recordSignal c.record

/-- Read the descriptor of PACKO or UNPACKO (R255). -/
def State.copyDesc (s : State) (x : CopyCtx) : Res (State × List Word) :=
  let r := x.c.record
  let a := dw r 9
  (s.engineRead x.w a 32).bind fun q =>
    let ws := dwords q.bs
    let D := Desc.ofDwords ws
    let want := if D.rank = 1 then [D.ext 0, 0, 0, 0] else [D.ext 1, D.ext 0, D.ext 2, D.ext 3]
    (Res.need q.s (Desc.valid ws && copyCounts r == want.map count1
      && D.fmt == (if copyKind r = 4 then copyDfmt r else copySfmt r)) .orbitInvalid a).bind fun _ => .ok (q.s, ws)

/-- The start of a copy command (R257). -/
def State.copyStart (s : State) (c : CopyCmd) : Start :=
  let d0 := dw c.record 0
  startOf (bit d0 14 && !c.stampDone) s.frame (bits d0 63 32) c.dslack (s.task.waitMet c.record)

/-- One step of a channel: the head command starts, reads its descriptor, delivers, or completes after its CRC write. -/
def State.copyStep (s : State) (k : Fin 4) : State :=
  let ch := s.task.ch[k]
  match ch.cmds with
  | [] => s
  | c :: _ =>
    let x : CopyCtx := { c := c, w := s.engine c.sup c.after }
    if !s.running || ch.halted then s
    else if !c.started then
      match s.copyStart c with
      | .wait => s
      | .overrun => s.copyFault k c ⟨.stampOverrun, c.addr, none⟩
      | .go => s.setCh k fun h => h.setHead { c with started := true, w0 := h.wp }
    else if 4 ≤ copyKind c.record && c.desc.isNone then
      s.copySettle k c ((s.copyDesc x).bind fun (s1, ws) => .ok (s1.setCh k fun h => h.setHead { c with desc := some ws }))
    else if c.pos < copyTotal c.record then s.copySettle k c (s.copyMove k x)
    else s.copySettle k c ((s.copyRelease c).bind fun _ => (s.copyCrc x).bind fun s1 => .ok (s1.copyComplete k c))

/-- A step of a channel if its head command is of a kind. -/
def State.copyKindStep (s : State) (k : Fin 4) (kind : Nat) : Result :=
  .next (match s.task.ch[k].cmds with
    | c :: _ => if copyKind c.record = kind then s.copyStep k else s
    | [] => s)

/-- COPY: a step of the channel's head command, if it is one (R255). -/
def execCopyCmd (k : Fin 4) (s : State) : Result := s.copyKindStep k 0

/-- FILL: a step of the channel's head command, if it is one (R255). -/
def execFillCmd (k : Fin 4) (s : State) : Result := s.copyKindStep k 1

/-- GATHER: a step of the channel's head command, if it is one (R255). -/
def execGatherCmd (k : Fin 4) (s : State) : Result := s.copyKindStep k 2

/-- SCATTER: a step of the channel's head command, if it is one (R255). -/
def execScatterCmd (k : Fin 4) (s : State) : Result := s.copyKindStep k 3

/-- PACKO: a step of the channel's head command, if it is one (R255). -/
def execPackoCmd (k : Fin 4) (s : State) : Result := s.copyKindStep k 4

/-- UNPACKO: a step of the channel's head command, if it is one (R255). -/
def execUnpackoCmd (k : Fin 4) (s : State) : Result := s.copyKindStep k 5

/-- The stamp overrun of an engine (R206): 0 the Thresher, 1 to 4 the copy channels. It faults if the head command's stamp has been
overrun, and else changes nothing. -/
def execStampOverrun (e : Fin 5) (s : State) : Result :=
  .next (if e.val = 0 then
      match s.task.thr.cmds with
      | c :: _ => if s.running && !s.task.thr.halted && !c.started && s.thrStart c = .overrun then s.thrStep else s
      | [] => s
    else
      let k : Fin 4 := ⟨(e.val - 1) % 4, Nat.mod_lt _ (by decide)⟩
      match s.task.ch[k].cmds with
      | c :: _ => if s.running && !s.task.ch[k].halted && !c.started && s.copyStart c = .overrun then s.copyStep k else s
      | [] => s)

end Sys2Proof.Machine
end

