-- ==== Sys2Proof/Machine/Bale.lean ====
section
/-! DEFINITION. The stream unit (R330 to R340): Bale chunks and their codecs, the operator chain, and one step of a stream. -/

namespace Sys2Proof.Machine

/-! ### The codecs (R333, R334) -/

/-- Decode ZRUN tokens into exactly `left` bytes; `fuel` bounds the tokens. -/
def zrun : Nat → Nat → List Byte → Option (List Byte)
  | 0, _, _ => none
  | _ + 1, left, [] => if left = 0 then some [] else none
  | fuel + 1, left, t :: bs =>
    if left = 0 then none
    else
      let n := if t.toNat < 0x80 then t.toNat + 1 else t.toNat - 0x7F
      if left < n then none
      else if t.toNat < 0x80 then
        if bs.length < n then none else (zrun fuel (left - n) (bs.drop n)).map (bs.take n ++ ·)
      else (zrun fuel (left - n) bs).map (List.replicate n 0 ++ ·)

/-- The code lengths of the 256 symbols in a PREFIX table. -/
def prefixLengths (table : List Byte) : List Nat := table.flatMap fun b => [b.toNat % 16, b.toNat / 16]

/-- A code: its length, its value and its symbol. -/
structure Code where
  len : Nat
  val : Nat
  sym : Nat
deriving DecidableEq, Repr

/-- The present symbols sorted by length, and within one length by symbol. -/
def sortedSymbols (ls : List Nat) : List (Nat × Nat) :=
  (List.range 15).flatMap fun k => (ls.zip (List.range ls.length)).filter (·.1 == k + 1)

/-- Canonical codes of symbols in order: the first all zeros, each later one the previous plus 1, shifted to its length. -/
def canonical : Option Code → List (Nat × Nat) → List Code
  | _, [] => []
  | prev, (n, sym) :: l =>
    let c : Code := match prev with
      | none => ⟨n, 0, sym⟩
      | some p => ⟨n, (p.val + 1) * 2 ^ (n - p.len), sym⟩
    c :: canonical (some c) l

/-- A valid PREFIX table: its Kraft sum is 1, or it is the single-symbol code (R333, R334). -/
def kraftOk (ls : List Nat) : Bool :=
  let ps := ls.filter (· != 0)
  if ps.length = 1 then ps == [1] else (ps.map fun n => 2 ^ (15 - n)).foldl (· + ·) 0 == 2 ^ 15

/-- The bits of bytes, bit 7 of each byte first. -/
def bitsOf (bs : List Byte) : List Bool := bs.flatMap fun b => (List.range 8).map fun i => b.getLsbD (7 - i)

/-- Read one code from the bits: `len` and `val` are the bits taken so far. -/
def readCode (cs : List Code) : Nat → Nat → List Bool → Option (Nat × List Bool)
  | _, _, [] => none
  | len, val, b :: l =>
    let v := 2 * val + if b then 1 else 0
    match cs.find? fun c => c.len == len + 1 && c.val == v with
    | some c => some (c.sym, l)
    | none => if 15 ≤ len + 1 then none else readCode cs (len + 1) v l

/-- Read `n` symbols; the bits left over must be fewer than a byte and all zero. -/
def readSymbols (cs : List Code) : Nat → List Bool → Option (List Byte)
  | 0, l => if l.length < 8 && l.all (! ·) then some [] else none
  | n + 1, l =>
    match readCode cs 0 0 l with
    | some (s, l') => (readSymbols cs n l').map (BitVec.ofNat 8 s :: ·)
    | none => none

/-- Decode a PREFIX body. -/
def prefixDecode (ulen : Nat) (body : List Byte) : Option (List Byte) :=
  let ls := prefixLengths (body.take 128)
  if body.length < 129 || !kraftOk ls then none else readSymbols (canonical none (sortedSymbols ls)) ulen (bitsOf (body.drop 128))

/-- A chunk header's fields (R332). -/
structure Header where
  codec : Nat
  ulen : Nat
  clen : Nat
  crc : Nat
deriving DecidableEq, Repr

/-- Read a header: none when a field breaks R332 or CLEN is 0 (R334). That CLEN = 0 fails the attempt before the rate bound of R335 is
tested is the model's choice (log 75). -/
def headerOf (bs : List Byte) : Option Header :=
  let f (o n : Nat) := leValue ((bs.drop o).take n)
  let h : Header := ⟨f 3 1, f 4 4, f 8 4, f 12 4⟩
  if f 0 1 = 0x42 && f 1 1 = 0x4C && f 2 1 = 1 && 1 ≤ h.codec && h.codec ≤ 3 && 1 ≤ h.ulen && h.ulen ≤ 65536 && h.clen != 0
      && f 16 16 = 0 then some h else none

/-- Decode a body: none when the attempt fails (R334). -/
def Header.decode (h : Header) (body : List Byte) : Option (List Byte) :=
  let out := if h.codec = 1 then zrun (body.length + 1) h.ulen body
    else if h.codec = 2 then prefixDecode h.ulen body
    else if h.clen = h.ulen then some body else none
  match out with
  | some bs => if (crc32c bs).toNat = h.crc then some bs else none
  | none => none

/-! ### Reading memory (R336, R337) -/

/-- What a stream read answers: the bytes, and whether one of the granules was uncorrectable. -/
structure StreamRead where
  s : State
  bs : List Byte
  bad : Bool

/-- The parts of n bytes at an address, granule by granule: offset and length. -/
def granuleParts (a : Nat) : Nat → Nat → Nat → List (Nat × Nat)
  | 0, _, _ => []
  | fuel + 1, off, n =>
    let k := Nat.min n (64 - (a + off) % 64)
    if n = 0 then [] else (off, k) :: granuleParts a fuel (off + k) (n - k)

/-- The cause a stream raises for a failed check: 0x45 for checks 1 to 4 (R336). -/
def streamRaise (r : Raise) : Raise := if r.cause == .addressRange then { r with cause := .engineTranslation } else r

/-- Wait for the vector stores before the STRM, in the loft as in device memory (R337). -/
def State.streamWait (s : State) (w : Who) (n : Nat) (p : Place) : Res Unit :=
  (s.engineWait w n false p).bind fun _ =>
    Res.until (!(p.isLoft && s.task.storeQ.any fun e => e.num < w.after.getD 0 && e.holds p n false))

/-- Read n bytes for a stream. An uncorrectable line is noted and logged; any other failed check is the stream's fault. -/
def State.streamRead (s : State) (w : Who) (a : Word) (n : Nat) : Res StreamRead :=
  Res.each (fun (r : StreamRead) (p : Nat × Nat) =>
    let b := a + wd p.1
    match r.s.placeFind w .load b with
    | .bad q => .trap r.s (streamRaise q)
    | .wait => .wait
    | .stop f => .stop f
    | .ok (s1, pl) =>
      (Res.ofChk s1 (s1.windowCheck w b pl)).bind fun _ =>
        (s1.streamWait w p.2 pl).bind fun _ =>
          let bs := s1.readPlace w.world pl p.2
          match s1.lineCheck w .load b p.2 pl with
          | .bad q =>
            if q.line.isNone then .trap s1 q
            else .ok { s := s1.logLine s1.myPart q.line, bs := r.bs ++ bs, bad := true }
          | _ => .ok { s := s1, bs := r.bs ++ bs, bad := r.bad }) (granuleParts a.toNat (n + 1) 0 n) { s := s, bs := [], bad := false }

/-- A read that has no other attempt: uncorrectable data fault 0x70 (R403). -/
def State.streamReadOnce (s : State) (w : Who) (a : Word) (n : Nat) : Res StreamRead :=
  (s.streamRead w a n).bind fun r => if r.bad then .trap r.s ⟨.uncorrectable, wd (granule a.toNat), none⟩ else .ok r

/-! ### The operators (R330, R331) -/

/-- IFMT. -/
def Stream.ifmt (d : Stream) : Fmt := fmtOr (bits (dw d.desc 4) 3 0)
/-- COUNT. -/
def Stream.count (d : Stream) : Nat := bits (dw d.desc 2) 31 0
/-- Whether an operator is in the chain. -/
def Stream.has (d : Stream) (op : Nat) : Bool := (streamOps d.desc).contains op

/-- The draw of CONVERT for the element with an output ordinal. -/
def State.streamDraw (s : State) (d : Stream) (k : Nat) : Nat :=
  stochDraw s.seed (wd (bits d.daddr 31 0) ^^^ wd s.task.id.launch.toNat) (wd k)

/-- The lane of an output element (R330). -/
def State.streamLane (s : State) (d : Stream) (k v : Nat) : Lane :=
  if d.has 4 then
    let mode := RM.ofCode (bits (dw d.desc 4) 18 16)
    let x := (readNum d.ifmt v).scale (if d.has 2 then signed 8 (bits (dw d.desc 4) 15 8) else 0)
    BitVec.ofNat 32 (roundTo (shFmt d.sh) mode (if mode == .stoch then s.streamDraw d k else 0) x).1
  else BitVec.ofNat 32 v

/-- The value of nibbles, the low one first. -/
def nibValue (ns : List (BitVec 4)) : Nat := ns.foldr (fun n acc => n.toNat + 16 * acc) 0

/-- The nibbles of bytes. -/
def nibblesOfBytes (bs : List Byte) : List (BitVec 4) :=
  bs.flatMap fun b => [BitVec.ofNat 4 (b.toNat % 16), BitVec.ofNat 4 (b.toNat / 16)]

/-- The values an operator unit takes from the input: four with EXPAND48, else one. -/
def Stream.unit (d : Stream) : Nat := if d.expands then 4 else 1

/-- Append output elements. -/
def State.streamEmit (s : State) (d : Stream) (vs : List Nat) (used : Nat) : Stream :=
  let lanes := (vs.zip (List.range vs.length)).map fun (v, i) => s.streamLane d (d.ordinal + i) v
  { d with waiting := d.waiting ++ lanes, ordinal := d.ordinal + vs.length, carry := d.carry.drop used }

/-- The eight output values of a group (R330). -/
def expand48 (m : Nat) (vs : List Nat) : List Nat :=
  (List.range 8).map fun i =>
    match (List.range 4).find? fun j => metaAt m j == i with
    | some j => vs.getD j 0
    | none => 0

/-- A stream's work and the state it leaves. -/
structure StreamAt where
  s : State
  d : Stream

/-- Build one unit from the carried nibbles. Values the input no longer holds are free values (log 7). -/
def State.streamUnit (s : State) (w : Who) (d : Stream) : Res StreamAt :=
  let n := d.inNibbles
  let val (i : Nat) : Nat :=
    if (i + 1) * n ≤ d.carry.length then nibValue ((d.carry.drop (i * n)).take n)
    else (Config.freeBits (s.fresh + i)).toNat % 16 ^ n
  if d.expands then
    let g := d.ordinal / 8
    (s.streamReadOnce w (dw d.desc 5 + wd (2 * g)) 2).bind fun r =>
      let m := leValue r.bs
      (Res.need r.s (metaValid m) .sparseMeta (wd g)).bind fun _ =>
        let s1 := { r.s with fresh := r.s.fresh + 4 }
        .ok { s := s1, d := s1.streamEmit d (expand48 m ((List.range 4).map val)) (4 * n) }
  else .ok { s := s, d := s.streamEmit d [val 0] n }

/-! ### Input -/

/-- All input has been taken. -/
def Stream.inputDone (d : Stream) : Bool := d.count ≤ d.chunk

/-- Input nibbles arrive; those a resumption passes over are dropped (R340). -/
def Stream.feed (d : Stream) (bs : List Byte) : Stream :=
  let ns := nibblesOfBytes bs
  { d with carry := d.carry ++ ns.drop d.skip, skip := d.skip - ns.length }

/-- Raw input, to the end of a granule (R330). -/
def State.rawInput (s : State) (w : Who) (d : Stream) : Res StreamAt :=
  let a := dw d.desc 0 + wd d.chunk
  let n := Nat.min (64 - a.toNat % 64) (d.count - d.chunk)
  (s.streamReadOnce w a n).bind fun r => .ok { s := r.s, d := { d with chunk := d.chunk + n }.feed r.bs }

/-- A failed attempt: the next one, or 0x48 after the last (R336). -/
def State.attemptFailed (s : State) (d : Stream) : Res StreamAt :=
  if d.attempt = 0 || (d.attempt = 1 && dw d.desc 1 != 0) then .ok { s := s, d := { d with attempt := d.attempt + 1 } }
  else .fail s .streamMalformed (wd d.chunk)

/-- A chunk decoded: its bytes join the input, unless it is the last and the input would not end on a whole element (R330). A chunk with no
PREFIX table leaves LENS at the last one decoded, the model's choice (R340, log 76). -/
def State.chunkDone (s : State) (d : Stream) (h : Header) (table bs : List Byte) : Res StreamAt :=
  let d1 := ({ d with chunk := d.chunk + 1, attempt := 0, ulens := d.ulens ++ [h.ulen],
                      table := if h.codec = 2 then table else d.table }).feed bs
  (Res.need s (!(d1.inputDone && d1.carry.length % d1.inNibbles != 0)) .streamMalformed (wd d.chunk)).bind fun _ =>
    .ok { s := s, d := d1 }

/-- One attempt of the current chunk (R332 to R336). A misaligned table entry fails check 2 of R117. -/
def State.chunkInput (s : State) (w : Who) (d : Stream) : Res StreamAt :=
  let base := if d.attempt < 2 then dw d.desc 0 else dw d.desc 1
  let entry := base + wd (8 * d.chunk)
  (Res.need s (entry.toNat % 8 = 0) .engineTranslation entry).bind fun _ =>
  (s.streamRead w entry 8).bind fun t =>
    let a := base + wd (leValue t.bs)
    if t.bad || a.toNat % 32 ≠ 0 then t.s.attemptFailed d
    else
      (t.s.streamRead w a 32).bind fun hd =>
        match if hd.bad then none else headerOf hd.bs with
        | none => hd.s.attemptFailed d
        | some h =>
          (Res.need hd.s (h.ulen * 256 ≤ bits (dw d.desc 2) 47 32 * h.clen) .streamRate (wd d.chunk)).bind fun _ =>
            (hd.s.streamRead w (a + 32) h.clen).bind fun b =>
              match if b.bad then none else h.decode b.bs with
              | none => b.s.attemptFailed d
              | some bs => b.s.chunkDone d h (b.bs.take 128) bs

/-! ### One step -/

/-- Replace the stream of a queue register. -/
def State.setStream (s : State) (q : Fin 8) (d : Stream) : State :=
  s.setTask fun t => { t with q := t.q.set q { t.q[q] with stream := some d } }

/-- The tile of the first waiting lanes (R331). -/
def Stream.tile (d : Stream) : Tile :=
  let cols := shCols d.sh
  tileOf (((d.waiting.take d.tileLen).zip (List.range d.tileLen)).map fun (l, k) => (k / cols * 64 + k % cols, l.toNat))

/-- Raise a stream fault (R338): it stops, and a chunk is later tried afresh. -/
def State.streamFault (s : State) (q : Fin 8) (d : Stream) (r : Raise) : State :=
  ((s.logLine s.myPart r.line).setStream q { d with stopped := true, attempt := 0 }).setTask fun t =>
    { t with pend := { t.pend with stream := t.pend.stream.set q (some ⟨r.cause, r.tval⟩) } }

/-- Every element is built once the input is used up, whether or not the queue has room (R339, R340). -/
def Stream.closed (d : Stream) : Stream := if d.inputDone && d.carry.isEmpty then { d with built := true } else d

/-- Build and push while the queue has room and the input lasts (R331). -/
def State.streamBuild (s : State) (q : Fin 8) (w : Who) : Nat → Stream → State
  | 0, d => s.setStream q d
  | fuel + 1, d =>
    let n := d.tileLen
    if Config.queueTiles ≤ s.task.q[q].tiles.length then s.setStream q d.closed
    else if n ≤ d.waiting.length || (d.built && !d.waiting.isEmpty) then
      State.streamBuild (s.setTask fun t => t.pushTile q d.tile) q w fuel { d with waiting := d.waiting.drop n }
    else if d.built then s.setStream q d
    else if d.unit * d.inNibbles ≤ d.carry.length || (d.inputDone && d.inNibbles ≤ d.carry.length && d.carry.length % d.inNibbles = 0) then
      match s.streamUnit w d with
      | .ok r => State.streamBuild r.s q w fuel r.d
      | .trap s1 r => s1.streamFault q d r
      | _ => s.setStream q d
    else if !d.inputDone then s.setStream q d
    else if d.carry.isEmpty then State.streamBuild s q w fuel { d with built := true }
    else s.streamFault q d ⟨.streamMalformed, 0, none⟩

/-- Whether a stream needs input before it can go on. -/
def Stream.hungry (d : Stream) : Bool :=
  !d.built && !d.inputDone && d.waiting.length < d.tileLen && d.carry.length < d.unit * d.inNibbles

/-- One step of the stream of a queue register: input if it needs some (one attempt of one chunk, or one granule), then elements and
tiles. -/
def State.streamStep (s : State) (q : Fin 8) : State :=
  match s.task.q[q].stream with
  | none => s
  | some d =>
    if !s.running || d.stopped || (s.task.pend.stream[q]).isSome || Config.queueTiles ≤ s.task.q[q].tiles.length then s
    else
      let w := s.engine d.sup d.after
      let fuel (d : Stream) := 2 * d.carry.length + d.waiting.length + 8
      if d.hungry then
        match if d.bale then s.chunkInput w d else s.rawInput w d with
        | .ok r => r.s.streamBuild q w (fuel r.d) r.d
        | .trap s1 r => s1.streamFault q d r
        | _ => s
      else s.streamBuild q w (fuel d) d

/-- CHUNK_ATTEMPT (R336): one step of the stream of a queue register. -/
def execChunkAttempt (q : Fin 8) (s : State) : Result := .next (s.streamStep q)

end Sys2Proof.Machine
end

