-- ==== Sys2Proof/Machine/Collective.lean ====
section
/-! DEFINITION. The collective unit: groups (R278 to R280), matching (R284), the kinds (R285), the reduction with its winnowing
(R286 to R288), faults (R290, R291), and commands of tasks that are not running (R292). The matched commands of the other
members come with the step: they run on other partitions. -/

namespace Sys2Proof.Machine

/-! ### The issuing task (R292) -/

/-- The task a model number names, running or kept. -/
def State.taskOf (s : State) (tid : Nat) : Option Task :=
  if s.running && s.task.id.tid == tid then some s.task else s.keptTasks.find? (·.id.tid == tid)

/-- Do something to the task of a saved entry. -/
def Saved.onTask (f : Task → Task) : Saved → Saved
  | .task t => .task (f t)
  | .again e n => .again e n

/-- Replace the kept task of a number, in place. -/
def State.putKept (s : State) (tid : Nat) (t : Task) : State :=
  let swap (k : Task) : Task := if k.id.tid == tid then t else k
  { s with launches := s.launches.map fun L =>
      { L with
        saved := L.saved.map (Saved.onTask swap)
        queue := L.queue.map (Saved.onTask swap)
        parked := L.parked.map fun p => { p with task := swap p.task } } }

/-- Do something as a task: on itself while it runs, else with it exchanged for the croft's (R292). -/
def State.asTask (s : State) (tid : Nat) (f : State → State) : State :=
  if s.running && s.task.id.tid == tid then f s
  else
    match s.taskOf tid with
    | none => s
    | some t =>
      let s1 := f { s.putKept tid s.task with task := t, running := true }
      { s1.putKept s.task.id.tid s1.task with task := s.task, running := s.running }

/-- Keep the stook words of the saved frame as a signal left them (R292): the frame of a task that is not running. A frame that
another context has come to map, or in an isolated die, is not written (R2, R227, R411; log 64). -/
def State.saveStooks (s : State) (tid : Nat) : State :=
  if s.running && s.task.id.tid == tid then s
  else
    match s.taskOf tid with
    | none => s
    | some t =>
      match t.id.pair with
      | none => s
      | some (_, slot) =>
        if s.pairConfined t.id.cid slot && !s.isolatedAt slot then
          s.post (.root (slot + 0x200300) (dwBytes (t.stooks.toList.map Stook.word)))
        else s

/-! ### Groups (R278, R279) -/

/-- D, the members of a site. -/
def Group.d (g : Group) : Nat := g.n0 * g.n1
/-- N, the members of the group. -/
def Group.n (g : Group) : Nat := g.n0 * g.n1 * g.n2
/-- The index of the member at a site, a module and a partition index. -/
def Group.member (g : Group) (site module part : Nat) : Nat := site * g.d + module * g.n0 + part
/-- This member's index k. -/
def Group.me (g : Group) : Nat := g.member g.site g.module g.part
/-- This member's campus index q. -/
def Group.q (g : Group) : Nat := g.module * g.n0 + g.part

/-- A valid group entry (R279); its zero fields are ignored (R4). -/
def groupValid (e : List Word) : Bool :=
  bit (dw e 0) 63 && 1 ≤ bits (dw e 0) 39 32 && 1 ≤ bits (dw e 0) 31 16 && 1 ≤ bits (dw e 0) 4 0 && bits (dw e 0) 4 0 ≤ 16
    && bits (dw e 1) 39 32 < bits (dw e 0) 39 32 && bits (dw e 1) 31 16 < bits (dw e 0) 31 16
    && bits (dw e 1) 3 0 < bits (dw e 0) 4 0 && 1 ≤ bits (dw e 2) 15 0 && (dw e 3).toNat % 64 = 0

/-- The 16-bit entries in some bytes. -/
def halves : List Byte → List Nat
  | a :: b :: l => (a.toNat + 256 * b.toNat) :: halves l
  | _ => []

/-- The group that an entry and its directory describe. -/
def Group.ofEntry (e : List Word) (dir : List Byte) : Group :=
  { n0 := bits (dw e 0) 4 0, n1 := bits (dw e 0) 31 16, n2 := bits (dw e 0) 39 32
    site := bits (dw e 1) 39 32, module := bits (dw e 1) 31 16, part := bits (dw e 1) 3 0
    tmo := bits (dw e 2) 15 0, dir := halves dir }

/-- Where the collective table of a partition lies (R279). -/
def Partition.tableAt (p : Partition) : Nat := bits p.coltab 51 16 * 0x10000

/-- The device address of a group entry (R279). -/
def Partition.groupAt (p : Partition) (g : Nat) : Nat := p.tableAt + 0x2000 + 64 * g

/-- The unit's own read of n bytes of a table (R280): inside the partition, of sound lines (R403, R411). -/
def State.tableRead (s : State) (part : Fin 16) (pa n : Nat) (d : Word) : Chk Unit :=
  if !s.parts[part].owns pa n then .fail .collectiveInvalid d
  else if s.isolatedIn pa n then .fail .uncorrectable d
  else
    match s.badLines.find? fun l => pa < l + 64 && l < pa + n with
    | some l => .bad ⟨.uncorrectable, d, some (.device l)⟩
    | none => .ok ()

/-- The group of a command (R280, R284): 0x4C when COLTAB, GROUP or the entry is invalid, or the group is broken (R290). The
directory of N entries is read with it. -/
def State.groupOf (s : State) (c : CollCmd) : Chk Group :=
  let p := s.parts[c.part]
  let G := collGroup c.record
  (Chk.need (bit p.coltab 0 && G < 256 && !s.coll.broken.contains (c.part.val, G)) .collectiveInvalid c.addr).bind fun _ =>
    (s.tableRead c.part (p.groupAt G) 64 c.addr).bind fun _ =>
      let e := s.tableDwords (p.groupAt G) 8
      let n := (Group.ofEntry e []).n
      (Chk.need (groupValid e) .collectiveInvalid c.addr).bind fun _ =>
        (s.tableRead c.part (dw e 3).toNat (2 * n) c.addr).bind fun _ =>
          .ok (Group.ofEntry e (s.mem.getBytes (dw e 3).toNat (2 * n)))

/-! ### Buffers (R285, R287) -/

/-- COUNT. -/
def collCount (r : List Word) : Nat := (dw r 4).toNat
/-- PEER. -/
def collPeer (r : List Word) : Nat := (dw r 6).toNat
/-- A level is winnowed. -/
def winnowed (r : List Word) (lvl : Nat) : Bool := bit (dw r 0) (16 + lvl)
/-- How many winnowed levels lie below a level. -/
def winnowRank (r : List Word) (lvl : Nat) : Nat := ((List.range lvl).filter (winnowed r)).length
/-- The length of the reduced vector: N × C for REDUCESCATTER, whose input it is (R285, R287). -/
def collLength (r : List Word) (g : Group) : Nat := if collKind r = 1 then g.n * collCount r else collCount r
/-- Elements of the send buffer. -/
def collSends (r : List Word) (g : Group) : Nat :=
  if collKind r = 5 then 0 else if collKind r = 1 then g.n * collCount r else collCount r
/-- Elements of the receive buffer. -/
def collReceives (r : List Word) (g : Group) : Nat :=
  if collKind r = 4 then 0 else if collKind r = 2 then g.n * collCount r else collCount r
/-- Bytes of the chaff buffer. -/
def chaffBytes (r : List Word) (g : Group) : Nat := 4 * collLength r g * winnowRank r 3
/-- The chunk of an element (R288). -/
def chunkOf (r : List Word) (e : Nat) : Nat := e / (0x100000 / collSize r)

/-- Two byte ranges share a byte. -/
def rangesMeet (a n b m : Nat) : Bool := a < b + m && b < a + n && n != 0 && m != 0

/-- The overlap rule of R284. -/
def collOverlap (r : List Word) (g : Group) : Bool :=
  let b := collSize r
  let (sd, rv, ch) := ((dw r 2).toNat, (dw r 3).toNat, (dw r 5).toNat)
  (rangesMeet sd (b * collSends r g) rv (b * collReceives r g) && !(collKind r == 0 && sd == rv))
    || rangesMeet sd (b * collSends r g) ch (chaffBytes r g) || rangesMeet rv (b * collReceives r g) ch (chaffBytes r g)

/-- The owner of a chaff element at a level, in the unit at a site and module (R287). -/
def chaffOwner (r : List Word) (g : Group) (lvl site module part e : Nat) : Nat :=
  let c := chunkOf r e
  if lvl = 0 then g.member site module part
  else if lvl = 1 then g.member site module (c % g.n0)
  else site * g.d + c % g.d

/-- Where a chaff element stands in its owner's buffer (R287). -/
def chaffOffset (r : List Word) (g : Group) (lvl e : Nat) : Nat := 4 * (collLength r g * winnowRank r lvl + e)

/-- The chaff elements this member owns: level and element. -/
def ownedChaff (r : List Word) (g : Group) : List (Nat × Nat) :=
  ([0, 1, 2].filter (winnowed r)).flatMap fun lvl =>
    ((List.range (collLength r g)).filter fun e => chaffOwner r g lvl g.site g.module g.part e == g.me).map fun e => (lvl, e)

/-! ### The reduction (R286, R287) -/

/-- The format of a command. -/
def collFormat (r : List Word) : Fmt := if collFmt r = 0 then .fp32 else .bf16

/-- One fold step of R286. -/
def foldElem (r : List Word) (x y : Nat) : Nat :=
  let f := collFormat r
  if collOp r = 0 then (roundTo f .rne 0 (sumNum .rne [readNum f x, readNum f y]).1).1
  else (pickBits f (collOp r == 1) x y).1

/-- The fold of some vectors, element by element; the only one of a single input passes unchanged. -/
def foldVectors (r : List Word) : List (List Nat) → List Nat
  | [] => []
  | y :: ys => ys.foldl (fun acc v => (acc.zip v).map fun (a, b) => foldElem r a b) y

/-- E of a block, from its v (R287). -/
def blockExp (vs : List Nat) : Int :=
  let logs := vs.filterMap fun v => match readNum .fp32 v with
    | .fin _ m e _ => if m = 0 then none else some (e + (m.log2 : Int))
    | _ => none
  match logs with
  | [] => 0
  | l :: ls => max (ls.foldl max l - 1) (-128)

/-- y and the new h of one element with its v, under E (R287). -/
def winnowElem (f : Fmt) (E : Int) (v : Nat) : Nat × Nat :=
  let code := (d8Round ((readNum .fp32 v).scale (-E))).1
  let y := (roundTo f .rne 0 ((d8Decode code).scale E)).1
  let n := readNum f y
  let dead := code == 0x80 || match n with
    | .inf _ => true
    | _ => false
  (y, if dead then 0 else (roundTo .fp32 .rne 0 (sumNum .rne [readNum .fp32 v, n.negate]).1).1)

/-- One block of 32 elements x with their h (R287). -/
def winnowBlock (f : Fmt) (xs : List (Nat × Nat)) : List (Nat × Nat) :=
  let vs := xs.map fun (x, h) => (roundTo .fp32 .rne 0 (sumNum .rne [readNum f x, readNum .fp32 h]).1).1
  vs.map (winnowElem f (blockExp vs))

/-- A vector winnowed block by block; `fuel` bounds the blocks. -/
def winnowVector (f : Fmt) : Nat → List (Nat × Nat) → List (Nat × Nat)
  | 0, _ => []
  | fuel + 1, xs => if xs.isEmpty then [] else winnowBlock f (xs.take 32) ++ winnowVector f fuel (xs.drop 32)

/-- What a reduction works from: each member's send vector and chaff elements. -/
structure Inputs where
  send : Nat → List Nat
  chaff : Nat → Nat → Nat

/-- The input of a level, and the new chaff beside it (R286, R287). -/
def levelInput (r : List Word) (g : Group) (I : Inputs) (lvl site module part : Nat) (x : List Nat) : List (Nat × Nat) :=
  if winnowed r lvl then
    winnowVector (collFormat r) (x.length / 32 + 1)
      ((x.zip (List.range x.length)).map fun (v, e) =>
        (v, I.chaff (chaffOwner r g lvl site module part e) (chaffOffset r g lvl e)))
  else x.map fun v => (v, 0)

/-- The input of a member at L0. -/
def input0 (r : List Word) (g : Group) (I : Inputs) (site module part : Nat) : List (Nat × Nat) :=
  levelInput r g I 0 site module part (I.send (g.member site module part))

/-- The input of a module at L1. -/
def input1 (r : List Word) (g : Group) (I : Inputs) (site module : Nat) : List (Nat × Nat) :=
  levelInput r g I 1 site module 0
    (foldVectors r ((List.range g.n0).map fun p => (input0 r g I site module p).map (·.1)))

/-- The input of a site at L2. -/
def input2 (r : List Word) (g : Group) (I : Inputs) (site : Nat) : List (Nat × Nat) :=
  levelInput r g I 2 site 0 0 (foldVectors r ((List.range g.n1).map fun m => (input1 r g I site m).map (·.1)))

/-- The reduction. -/
def reduced (r : List Word) (g : Group) (I : Inputs) : List Nat :=
  foldVectors r ((List.range g.n2).map fun k => (input2 r g I k).map (·.1))

/-- The new chaff of this member: its offset in the buffer and its bits. -/
def newChaff (r : List Word) (g : Group) (I : Inputs) : List (Nat × Nat) :=
  let at_ (lvl : Nat) : List (Nat × Nat) :=
    if lvl = 0 then input0 r g I g.site g.module g.part
    else if lvl = 1 then input1 r g I g.site g.module
    else input2 r g I g.site
  (ownedChaff r g).map fun (lvl, e) => (chaffOffset r g lvl e, ((at_ lvl).getD e (0, 0)).2)

/-! ### One command -/

/-- The elements of some bytes. -/
def elements (b : Nat) (bs : List Byte) (n : Nat) : List Nat := (List.range n).map fun e => leValue ((bs.drop (e * b)).take b)

/-- The matched command of a member (R284): for SEND and RECV the opposite one that names this member. -/
def matchOf (r : List Word) (g : Group) (peers : List PeerCmd) (j : Nat) : Option PeerCmd :=
  peers.find? fun p => p.member == j && (if collKind r = 4 then p.kind == 5 && p.peer == g.me
    else if collKind r = 5 then p.kind == 4 && p.peer == g.me else p.kind < 4)

/-- The members a command is matched with. -/
def matchSet (r : List Word) (g : Group) : List Nat :=
  if 4 ≤ collKind r then [collPeer r] else (List.range g.n).filter (· != g.me)

/-- Whether a matched command agrees (R284). -/
def agrees (r : List Word) (p : PeerCmd) : Bool :=
  if 4 ≤ collKind r then p.fmt == collFmt r && p.count == collCount r
  else p.kind == collKind r && p.op == collOp r && p.fmt == collFmt r && p.winnow == collWinnow r && p.count == collCount r
    && (collKind r != 3 || p.peer == collPeer r)

/-- The checks of one member alone, once its group is known (R284): PEER, then the overlaps. -/
def CollCmd.checks (c : CollCmd) (g : Group) : Option Cause :=
  let r := c.record
  if (3 ≤ collKind r && g.n ≤ collPeer r) || (4 ≤ collKind r && collPeer r = g.me) then some .collectiveInvalid
  else if collOverlap r g then some .recordMalformed
  else none

/-- The inputs of a command: this member's from its memory, the others' from their commands. -/
def collInputs (r : List Word) (g : Group) (peers : List PeerCmd) (own : List Byte) (ownChaff : List (Nat × Nat)) : Inputs :=
  let b := collSize r
  { send := fun j => elements b (if j = g.me then own else ((matchOf r g peers j).map (·.send)).getD []) (collSends r g)
    chaff := fun j o =>
      if j = g.me then ((ownChaff.find? (·.1 == o)).map (·.2)).getD 0
      else ((matchOf r g peers j).map fun p => leValue ((p.chaff.drop o).take 4)).getD 0 }

/-- The values of the receive buffer (R285). -/
def collResult (r : List Word) (g : Group) (peers : List PeerCmd) (I : Inputs) : List Nat :=
  let n := collCount r
  let k := collKind r
  if k = 0 then reduced r g I
  else if k = 1 then ((reduced r g I).drop (g.me * n)).take n
  else if k = 2 then (List.range g.n).flatMap I.send
  else if k = 3 then I.send (collPeer r)
  else if k = 5 then elements (collSize r) (((matchOf r g peers (collPeer r)).map (·.send)).getD []) n
  else []

/-- The nibbles of a value of n bytes at a virtual address. -/
def valueNibbles (a : Word) (n v : Nat) : List (Int × Nat) :=
  (List.range (2 * n)).map fun i : Nat => (2 * (a.toNat : Int) + (i : Int), v / 16 ^ i % 16)

/-- Read the chaff elements this member owns. -/
def State.readChaff (s : State) (w : Who) (r : List Word) (g : Group) : Res (State × List (Nat × Nat)) :=
  Res.each (fun (p : State × List (Nat × Nat)) (k : Nat × Nat) =>
    let o := chaffOffset r g k.1 k.2
    (p.1.engineRead w (dw r 5 + wd o) 4).bind fun q => .ok (q.s, p.2 ++ [(o, leValue q.bs)])) (ownedChaff r g) (s, [])

/-- Move the data of a command whose matched commands agree (R285, R287, R289): reads, then the receive and the chaff writes, delivered
together. -/
def State.collMove (s : State) (c : CollCmd) (g : Group) (peers : List PeerCmd) : Res State :=
  let r := c.record
  let w := s.engine c.sup c.after
  let b := collSize r
  let sends := if collKind r = 3 && collPeer r != g.me then 0 else collSends r g
  (s.engineRead w (dw r 2) (b * sends)).bind fun own =>
    (own.s.readChaff w r g).bind fun (s1, ch) =>
      let I := collInputs r g peers own.bs ch
      let vs := collResult r g peers I
      let recv := (vs.zip (List.range vs.length)).flatMap fun (v, e) => valueNibbles (dw r 3 + wd (b * e)) b v
      let chaff := (newChaff r g I).flatMap fun (o, h) => valueNibbles (dw r 5 + wd o) 4 h
      s1.engineDeliver w (recv ++ chaff)

/-- Overwrite the bytes at some addresses with free values, where they can be written (R290): all are opened before any is written. -/
def State.collUnknown (s : State) (w : Who) (as : List Word) : State :=
  let p := as.foldl (fun (p : Placed) a => match p.s.engineOpen w a with
    | .ok (s1, pl) => { s := s1, ps := p.ps ++ [(a.toNat, pl)] }
    | _ => p) { s := s, ps := [] }
  p.ps.foldl (fun s x =>
    if s.rootFull w.world x.2 then s else
    let s1 := s.granuleEvent x.2 ((valueNibbles (wd x.1) 1 (Config.freeByte s.fresh).toNat).map fun n => ((n.1 % 128).toNat, n.2))
    { s1 with fresh := s.fresh + 1 }) p.s

/-- The receive bytes of a faulted command that its send buffer does not hold (R290), and its owned chaff. R290 calls the receive
bytes unknown and the send buffer unchanged: of an ALLREDUCE in place, where both name the same bytes, they are unknown, the model's
choice (log 12). -/
def State.collSpoil (s : State) (c : CollCmd) (g : Group) : State :=
  let r := c.record
  let w := s.engine c.sup c.after
  let b := collSize r
  let sd := (dw r 2).toNat
  let rv := (dw r 3).toNat
  let keep : Nat → Bool := fun a => !(collKind r == 0 && sd == rv) && sd ≤ a && a < sd + b * collSends r g
  let chaff := (ownedChaff r g).flatMap fun k => (List.range 4).map fun i => (dw r 5).toNat + chaffOffset r g k.1 k.2 + i
  let as := (List.range (b * collReceives r g)).map (rv + ·) ++ chaff
  s.collUnknown w ((as.filter fun a => !keep a).map wd)

/-- Remove a command from the unit. -/
def State.dropColl (s : State) (c : CollCmd) : State :=
  { s with coll := { s.coll with cmds := dropFirst (· == c) s.coll.cmds } }

/-- Deliver a fault of a command to its task, remove it and break the group for this member (R290). A buffer byte outside
every address space has no translation: 0x45. -/
def State.collFault (s : State) (c : CollCmd) (r : Raise) : State :=
  let cause := if r.cause = .addressRange then .engineTranslation else r.cause
  let s1 := s.logLine c.part r.line
  let s2 := (s1.setTask fun t => { t with pend := { t.pend with coll := t.pend.coll ++ [⟨cause, c.addr⟩] } }).dropColl c
  { s2 with coll := { s2.coll with broken := s2.coll.broken ++ [(c.part.val, collGroup c.record)] } }

/-- A group of one member. -/
def Group.single : Group := { n0 := 1, n1 := 1, n2 := 1, site := 0, module := 0, part := 0, tmo := 0, dir := [] }

/-- The group that a command's entry describes, where it can be read and is valid, be the group broken or not; else one member (log
12). -/
def State.groupShape (s : State) (c : CollCmd) : Group :=
  let p := s.parts[c.part]
  let G := collGroup c.record
  let e := s.tableDwords (p.groupAt G) 8
  match s.tableRead c.part (p.groupAt G) 64 c.addr with
  | .ok () => if bit p.coltab 0 && G < 256 && groupValid e then Group.ofEntry e [] else Group.single
  | _ => Group.single

/-- The unknown bytes of a command that faults before its group is known. -/
def State.collLost (s : State) (c : CollCmd) : State := s.collSpoil c (s.groupShape c)

/-- The command completes: signal and removal (R289). -/
def State.collComplete (s : State) (c : CollCmd) : State := (s.setTask fun t => t.recordSignal c.record).dropColl c

/-- Replace a command of the unit. -/
def State.setColl (s : State) (c c1 : CollCmd) : State :=
  { s with coll := { s.coll with cmds := s.coll.cmds.map fun k => if k == c then c1 else k } }

/-- The release of a command waits for the vector stores to type-2 pages issued before it (R271, R289). -/
def State.collReleased (s : State) (c : CollCmd) : Bool :=
  !(bit (dw c.record 0) 15 && s.task.storeQ.any fun e => e.num < c.after && e.isWindow)

/-- A started command with the matched commands a step supplies: without every one it waits; they are compared, the data move, and it
completes (R284, R285, R289). A disagreement writes nothing (R284). -/
def State.collMatch (s : State) (c : CollCmd) (g : Group) (peers : List PeerCmd) : State :=
  let ms := (matchSet c.record g).map (matchOf c.record g peers)
  if !ms.all Option.isSome || !s.collReleased c then s
  else if !ms.all fun m => match m with
      | some p => agrees c.record p
      | none => false then s.collFault c ⟨.collectiveInvalid, c.addr, none⟩
  else
    match s.collMove c g peers with
    | .ok s1 => s1.collComplete c
    | .trap s1 q => (s1.collSpoil c g).collFault c q
    | _ => s

/-- The die cycles of TMO (R291): the die clock runs at 2.7 GHz. -/
def Group.patience (g : Group) : Nat := g.tmo * 2700000

/-- A started command has made no progress for TMO (R291). -/
def State.collOverdue (s : State) (c : CollCmd) : Bool :=
  match c.group with
  | some g => g.patience ≤ s.dev.cycle - c.since
  | none => false

/-- A command whose exchange made no progress for TMO faults 0x4D (R291). -/
def State.collExpire (s : State) (c : CollCmd) : State :=
  match c.group with
  | some g => (s.collSpoil c g).collFault c ⟨.collectiveTimeout, c.addr, none⟩
  | none => s

/-- A command runs as its task (R280, R284): it starts once, with the group read then, and goes on with the matched commands. -/
def State.collRun (s : State) (c : CollCmd) (peers : List PeerCmd) : State :=
  match c.group with
  | some g => if s.collOverdue c then s.collExpire c else s.collMatch c g peers
  | none =>
    match s.groupOf c with
    | .bad q => (s.collLost c).collFault c q
    | .ok g =>
      match c.checks g with
      | some q => (s.collSpoil c g).collFault c ⟨q, c.addr, none⟩
      | none =>
        let c1 := { c with group := some g, since := s.dev.cycle }
        (s.setColl c c1).collMatch c1 g peers
    | _ => s

/-- A command is the first of its ordinals (R289). -/
def Collective.first (u : Collective) (c : CollCmd) : Bool :=
  (u.cmds.find? fun k => collKey k.part k.record == collKey c.part c.record) == some c

/-- The wait of a command that has not started (R284, R292): the phase of its task's stook; never met while the task is pre-empted. -/
def State.collWaits (s : State) (c : CollCmd) : Bool :=
  c.group.isNone && match s.taskOf c.tid with
    | none => true
    | some t => bit (dw c.record 1) 5 && (!(s.running && s.task.id.tid == c.tid) || !t.waitMet c.record)

/-- A command of the modelled croft's partition that can go on, the first of its ordinals, to a group (R284). -/
def State.collReady (s : State) (group : BitVec 32) (c : CollCmd) : Bool :=
  s.partOfDie s.die.val == some c.part && collGroup c.record == group.toNat && s.coll.first c && !s.collWaits c

/-- The command a step of a kind runs: the first of its ordinals in the group; for SEND and RECV the one whose peer the step
supplies. -/
def State.collNext (s : State) (kind : Nat) (group : BitVec 32) (peers : List PeerCmd) : Option CollCmd :=
  let cs := s.coll.cmds.filter fun c => collKind c.record == kind && s.collReady group c
  match cs.find? fun c => kind < 4 || peers.any (·.member == collPeer c.record) with
  | some c => some c
  | none => cs.head?

/-- A step of the collective unit for one kind. -/
def State.collStep (s : State) (kind : Nat) (group : BitVec 32) (peers : List PeerCmd) : Result :=
  .next (match s.collNext kind group peers with
    | some c => (s.asTask c.tid fun s => s.collRun c peers).saveStooks c.tid
    | none => s)

/-- ALLREDUCE (R285, R286). -/
def execAllreduce (group : BitVec 32) (peers : List PeerCmd) (s : State) : Result := s.collStep 0 group peers

/-- REDUCESCATTER (R285, R286). -/
def execReducescatter (group : BitVec 32) (peers : List PeerCmd) (s : State) : Result := s.collStep 1 group peers

/-- ALLGATHER (R285). -/
def execAllgather (group : BitVec 32) (peers : List PeerCmd) (s : State) : Result := s.collStep 2 group peers

/-- BROADCAST (R285). -/
def execBroadcast (group : BitVec 32) (peers : List PeerCmd) (s : State) : Result := s.collStep 3 group peers

/-- SEND (R285). -/
def execSendCmd (group : BitVec 32) (peers : List PeerCmd) (s : State) : Result := s.collStep 4 group peers

/-- RECV (R285). -/
def execRecvCmd (group : BitVec 32) (peers : List PeerCmd) (s : State) : Result := s.collStep 5 group peers

/-- COLLECTIVE_TIMEOUT (R291): a command of the group whose TMO has passed without progress. -/
def execCollectiveTimeout (group : BitVec 32) (s : State) : Result :=
  .next (match s.coll.cmds.find? fun c => s.collReady group c && s.collOverdue c with
    | some c => s.asTask c.tid fun s => s.collExpire c
    | none => s)

/-- A broken group stays broken while its entry's V reads 1, or no table shows it (R290). -/
def State.staysBroken (s : State) (b : Nat × Nat) : Bool :=
  let whole (p : Fin 16) : Bool :=
    p.val == b.1 && bit s.parts[p].coltab 0 && !bit (wd (leValue (s.mem.getBytes (s.parts[p].groupAt b.2) 8))) 63
  !(List.ofFn (n := 16) id).any whole

/-- A broken group is whole again once its entry's V reads 0 (R290). -/
def State.mendGroups (s : State) : State :=
  { s with coll := { s.coll with broken := s.coll.broken.filter s.staysBroken } }

end Sys2Proof.Machine
end

