-- ==== Sys2Proof/Machine/Uluwin.lean ====
section
/-! DEFINITION. The Uluwin ports (R279, R293 to R296): bring-up, received frames of the five types, tag failures and port resets,
and the renewal of keys. The verdict of a frame's tag and of a peer's identity comes with the step (log 9). -/

namespace Sys2Proof.Machine

/-- Replace a port. -/
def State.setPort (s : State) (j : Fin 32) (p : Port) : State := { s with ports := s.ports.set j p }

/-- The module is powered and its firmware verified (R378, R426). -/
def State.up (s : State) : Bool := s.dev.power != .off && !s.dev.dark

/-- A sequence number's distance past another, modulo 2^48 (R293). -/
def seqAhead (a b : Nat) : Nat := (a + 2 ^ 48 - b % 2 ^ 48) % 2 ^ 48

/-- A number lies ahead of another rather than behind it. -/
def isAheadSeq (a b : Nat) : Bool := seqAhead a b < 2 ^ 47

/-- The payload in whole flits, at least one (R293): what is past the bytes given is zero. -/
def wholeFlits (bs : List Byte) : List Byte := padTo (64 * max 1 ((bs.length + 63) / 64)) bs

/-- What a frame takes in the replay store: its header, its flits and its tag (R293, R295; log 21). -/
def Packet.wire (p : Packet) : Nat := 48 + p.payload.length

/-- The size of a port's replay store: 4 MiB on-die, or RSIZE MiB at RBASE in long-haul mode (R295). -/
def Port.storeSize (p : Port) : Nat := (if p.longHaul then p.rsize else 4) * 0x100000

/-- The bytes of the replay store in use. -/
def Port.stored (p : Port) : Nat := (p.replay.map Packet.wire).sum

/-- A frame as it goes on the wire (R293): FLITS, which is the payload flits less one, the acknowledged sequence
number and the key phase of the moment. -/
def Port.wired (p : Port) (j : Fin 32) (k : Packet) : Sent :=
  ⟨j, k, k.payload.length / 64 - 1, (p.expect + 2 ^ 48 - 1) % 2 ^ 48, p.keyPhase⟩

/-- Show frames to the wire. -/
def State.wire (s : State) (fs : List Sent) : State := { s with out := { s.out with sent := s.out.sent ++ fs } }

/-- A port's own bytes go to its replay area in device memory, but not into the stacks of an isolated die (R295, R411). -/
def State.storeArea (s : State) (a : Nat) (bs : List Byte) : State :=
  if bs.isEmpty || s.isolatedIn a bs.length then s else s.post (.root a bs)

/-- In long-haul mode a frame is kept in the RSIZE MiB at RBASE, which fill in turn; how it lies there is not given, so its bytes are free
values (R295, log 21). -/
def State.storeFrame (s : State) (j : Fin 32) (k : Packet) : State :=
  let p := s.ports[j]
  if p.longHaul then
    let bs := s.freeBytes k.wire
    let room := p.storeSize - p.cursor
    let s1 := { s with fresh := s.fresh + k.wire }.setPort j { p with cursor := (p.cursor + k.wire) % p.storeSize }
    (s1.storeArea (p.rbase + p.cursor) (bs.take room)).storeArea p.rbase (bs.drop room)
  else s

/-- Send the frames that wait, in order, while the replay store has room: each takes the next SEQ and stays in the store until it is
acknowledged (R295). `fuel` bounds them. -/
def State.sendStalled : Nat → State → Fin 32 → State
  | 0, s, _ => s
  | fuel + 1, s, j =>
    let p := s.ports[j]
    match p.stalled with
    | [] => s
    | k :: rest =>
      if p.stored + k.wire ≤ p.storeSize then
        let k1 := { k with seq := p.sendSeq }
        let p1 := { p with
          stalled := rest, sendSeq := (p.sendSeq + 1) % 2 ^ 48, replay := p.replay ++ [k1], frames := p.frames + 1 }
        State.sendStalled fuel (((s.setPort j p1).storeFrame j k1).wire [p1.wired j k1]) j
      else s

/-- The frames of a port that wait go out while there is room; a full store stalls the port, and no frame is dropped (R295). -/
def State.pump (s : State) (j : Fin 32) : State := s.sendStalled (s.ports[j].stalled.length + 1) j

/-- Send a frame on a port, behind those that wait. The member indices, chunk, level and group of a frame of the link itself are
not given: free values (log 21). -/
def State.sendFrame (s : State) (j : Fin 32) (kind : Nat) (bytes : List Byte) : State :=
  let free (k hi : Nat) : Nat := bits (Config.freeBits (s.fresh + k)) hi 0
  let k : Packet :=
    { kind := kind, seq := 0, dst := free 0 31, src := free 1 31, chunk := free 2 31, level := free 3 1, group := free 4 7
      payload := wholeFlits bytes }
  { s.setPort j { s.ports[j] with stalled := s.ports[j].stalled ++ [k] } with fresh := s.fresh + 5 }.pump j

/-- Put stored frames on the wire again, in order, as they were (R295, R296). -/
def State.resend (s : State) (j : Fin 32) (want : Nat → Bool) : State :=
  s.wire ((s.ports[j].replay.filter fun f => want f.seq).map (s.ports[j].wired j))

/-- The partition a port is assigned to (R370). -/
def State.partOfPort (s : State) (j : Fin 32) : Option (Fin 16) :=
  (List.ofFn (n := 16) id).find? fun p => s.parts[p].present && s.parts[p].ports.contains j

/-- Log an event of a port in its partition (R405 KIND 2 and 3). -/
def State.portEvent (s : State) (j : Fin 32) (kind : Nat) : State :=
  match s.partOfPort j with
  | some p => s.logEvent p { kind := kind, code := 0x71, die := 0, port := j.val, detail := wd j.val, count := 0, launch := 0 }
  | none => s

/-- New keys on a port (R294). -/
def State.rekey (s : State) (j : Fin 32) : State :=
  s.setPort j { s.ports[j] with keyPhase := !s.ports[j].keyPhase, frames := 0, keyAge := s.dev.cycle }

/-- Three tag failures in a row: the port is reset, its keys renewed, and what is not acknowledged sent again (R296). -/
def State.portReset (s : State) (j : Fin 32) : State :=
  let s1 := s.setPort j { s.ports[j] with fails := 0, resets := s.ports[j].resets + 1 }
  ((s1.rekey j).resend j fun _ => true).portEvent j 2

/-- The payload of a NACK: the base SEQ and a bitmap of 256 frames wanted (R295; the layout is log 21, PRESUMED). -/
def nackBytes (base : Nat) (want : Nat → Bool) : List Byte :=
  leBytes 8 base ++ (List.range 32).map fun b =>
    BitVec.ofNat 8 ((List.range 8).foldl (fun v i => if want (8 * b + i) then v + 2 ^ i else v) 0)

/-- Ask for the frames missing from the next one expected on (R295). -/
def State.nack (s : State) (j : Fin 32) : State :=
  let p := s.ports[j]
  let far := p.early.foldl (fun m f => max m (seqAhead f.2.seq p.expect)) 1
  s.sendFrame j 2 (nackBytes p.expect fun k => k < far && !p.early.any fun f => seqAhead f.2.seq p.expect == k)

/-- Hand over the next frame in SEQ order: DATA goes to the collective unit (R295). -/
def State.handOver (s : State) (j : Fin 32) (kind : Nat) (f : Frame) : State :=
  let s1 := s.setPort j { s.ports[j] with expect := (s.ports[j].expect + 1) % 2 ^ 48 }
  if kind = 0 then { s1 with out := { s1.out with handed := s1.out.handed ++ [(j, f)] } } else s1

/-- Hand over the stored frames that have become next; `fuel` bounds them. -/
def State.handEarly : Nat → State → Fin 32 → State
  | 0, s, _ => s
  | fuel + 1, s, j =>
    let p := s.ports[j]
    match p.early.find? fun f => f.2.seq == p.expect with
    | none => s
    | some f =>
      State.handEarly fuel ((s.setPort j { p with early := p.early.filter fun k => k.2.seq != f.2.seq }).handOver j f.1 f.2) j

/-- Take a frame whose tag is good: in SEQ order, each once (R295, R296). -/
def State.takeFrame (s : State) (j : Fin 32) (kind : Nat) (f : Frame) : State :=
  let p := s.ports[j]
  if f.seq = p.expect then (s.handOver j kind f).handEarly (p.early.length + 1) j
  else if isAheadSeq f.seq p.expect then
    (if p.early.any fun k => k.2.seq == f.seq then s else s.setPort j { p with early := p.early ++ [(kind, f)] }).nack j
  else s

/-- Drop the stored frames an ACKSEQ covers; what waited for their room goes out (R295). -/
def State.acked (s : State) (j : Fin 32) (ack : Nat) : State :=
  (s.setPort j { s.ports[j] with replay := s.ports[j].replay.filter fun f => !isAheadSeq ack f.seq }).pump j

/-- A frame arrives at a port: a failed tag counts and is asked for again; a good one acknowledges, acts and takes its turn
(R294 to R296). A port that is not up hears nothing. -/
def State.receive (s : State) (j : Fin 32) (kind : Nat) (f : Frame) (act : State → State) : State :=
  if !s.up || !s.ports[j].up then s
  else if !f.tagOk then
    let s1 := s.setPort j { s.ports[j] with fails := s.ports[j].fails + 1 }
    if 3 ≤ s1.ports[j].fails then s1.portReset j else s1.nack j
  else
    let s1 := s.setPort j { s.ports[j] with fails := 0, frames := s.ports[j].frames + 1 }
    (act (s1.acked j f.ackSeq)).takeFrame j kind f

/-- DATA (R295). -/
def execDataFrame (j : Fin 32) (f : Frame) (s : State) : Result := .next (s.receive j 0 f id)

/-- ACK (R295). -/
def execAckFrame (j : Fin 32) (f : Frame) (s : State) : Result := .next (s.receive j 1 f id)

/-- The frames a NACK wants, by its payload. -/
def nackWants (payload : List Byte) (seq : Nat) : Bool :=
  let k := seqAhead seq (leValue (payload.take 8))
  k < 256 && (leValue ((payload.drop (8 + k / 8)).take 1)).testBit (k % 8)

/-- NACK (R295): the wanted frames go out again. -/
def execNackFrame (j : Fin 32) (f : Frame) (s : State) : Result :=
  .next (s.receive j 2 f fun s => s.resend j (nackWants f.payload))

/-- REKEY (R294): the keys are renewed while traffic goes on. A frame received before does not renew them again. -/
def execRekeyFrame (j : Fin 32) (f : Frame) (s : State) : Result :=
  .next (s.receive j 3 f fun s =>
    if isAheadSeq f.seq s.ports[j].expect && !s.ports[j].early.any (fun k => k.2.seq == f.seq) then s.rekey j else s)

/-- IDLE (R293). -/
def execIdleFrame (j : Fin 32) (f : Frame) (s : State) : Result := .next (s.receive j 4 f id)

/-- A frame of TYPE 5 to 15 is a tag failure (R293). -/
def State.badFrame (s : State) (j : Fin 32) (kind : Nat) (f : Frame) : State :=
  if 5 ≤ kind && kind < 16 then s.receive j kind { f with tagOk := false } id else s

/-- Keys are due: 2^31 frames or 30 s of die cycles since they were agreed (R294). -/
def State.keysDue (s : State) (j : Fin 32) : Bool :=
  2 ^ 31 ≤ s.ports[j].frames || s.ports[j].keyAge + 81000000000 ≤ s.dev.cycle

/-- The key agreement that a REKEY frame carries: bytes the spec does not give (log 21). -/
def State.agreement (s : State) : List Byte := (List.range 64).map fun k => Config.freeByte (s.fresh + k)

/-- KEY_RENEWAL (R294): when it is due, a REKEY frame goes out and KEYPH changes. -/
def execKeyRenewal (j : Fin 32) (s : State) : Result :=
  .next (if s.up && s.ports[j].up && s.keysDue j then
      ({ s with fresh := s.fresh + 64 }.sendFrame j 3 s.agreement).rekey j
    else s)

/-! ### Bring-up -/

/-- The doublewords of a table that the ports' own read finds (R279): none outside the partition or in an isolated die's stack, or on an
uncorrectable line, which is logged (R403, R411). -/
def State.tableFetch (s : State) (p : Fin 16) (pa n : Nat) : State × Option (List Word) :=
  match s.tableRead p pa (8 * n) 0 with
  | .ok _ => (s, some (s.tableDwords pa n))
  | .bad r => (s.logLine p r.line, none)
  | _ => (s, none)

/-- The port entry of a port (R279). -/
def State.portEntry (s : State) (p : Fin 16) (j : Fin 32) : State × Option (List Word) :=
  s.tableFetch p (s.parts[p].tableAt + 0x6000 + 16 * j.val) 2

/-- A port entry's fields are valid: in long-haul mode RSIZE is 4 to 512 and the replay area lies in the partition (R279). A zero
field is ignored (R4). -/
def State.portEntryOk (s : State) (p : Fin 16) (e : List Word) : Bool :=
  !bit (dw e 0) 1 || (4 ≤ bits (dw e 0) 25 16 && bits (dw e 0) 25 16 ≤ 512
    && s.parts[p].owns (bits (dw e 1) 51 20 * 0x100000) (bits (dw e 0) 25 16 * 0x100000))

/-- A peer map entry names this identity and this port (R279, R294). A zero field is ignored (R4). -/
def peerKnown (j : Fin 32) (digest : Word) (e : List Word) : Bool := bit (dw e 0) 63 && bit (dw e 0) j.val && dw e 1 == digest

/-- A port stays down, with its event (R279, R294, R405 KIND 3). -/
def State.keepDown (s : State) (j : Fin 32) (q : Port) : State := (s.setPort j { q with up := false, down := true }).portEvent j 3

/-- The peer's identity is checked against its peer map entry; an entry that cannot be read keeps the port down (R294, log 15). -/
def State.admitPeer (s : State) (p : Fin 16) (j : Fin 32) (q : Port) (digest : Word) : State :=
  if q.peer < 512 then
    match s.tableFetch p (s.parts[p].tableAt + 16 * q.peer) 2 with
    | (s1, some e) => if peerKnown j digest e then s1.setPort j { q with up := true } else s1.keepDown j q
    | (s1, none) => s1.keepDown j q
  else s.keepDown j q

/-- Bring a port up, or leave it down with its event (R279, R294, R405 KIND 3). A port that its partition does not own, or whose
entry is not enabled, is left alone; a port entry that cannot be read leaves its port down (log 15). -/
def State.bringUp (s : State) (j : Fin 32) (peer : Nat) (digest : Word) : State :=
  match s.partOfPort j with
  | none => s
  | some p =>
    let q0 : Port := { Port.reset with resets := s.ports[j].resets }
    if !bit s.parts[p].coltab 0 then s.setPort j q0
    else
      match s.portEntry p j with
      | (s1, none) => s1.keepDown j q0
      | (s1, some e) =>
        if !bit (dw e 0) 0 then s1.setPort j q0
        else
          let q : Port :=
            { q0 with
              enabled := true, longHaul := bit (dw e 0) 1, rsize := bits (dw e 0) 25 16, rbase := bits (dw e 1) 51 20 * 0x100000
              peer := peer, keyAge := s.dev.cycle }
          if s1.portEntryOk p e then s1.admitPeer p j q digest else s1.keepDown j q

/-- PORT_BRING_UP (R294). -/
def execPortBringUp (j : Fin 32) (peer : Nat) (digest : BitVec 64) (s : State) : Result :=
  .next (if s.up then s.bringUp j peer digest else s)

end Sys2Proof.Machine
end

