-- ==== Sys2Proof/Machine/Events.lean ====
section
/-! DEFINITION. Steps of the Gleaner and of the hardware checks: launch packets (R299, R420), pops (R307), completion (R301), the
watchdog (R318), asynchronous traps (R384), uncorrectable errors (R403), datapath checks (R400, R407), the isolation of a die
(R411) and the current limiter (R424). -/

namespace Sys2Proof.Machine

/-! ### The Gleaner -/

/-- Compute dies run launches (R378): not in NAP, not off. -/
def State.awake (s : State) : Bool := s.up && s.dev.power != .nap

/-- Update the ring of a context. -/
def State.setRing (s : State) (c : Fin 64) (f : Ring → Ring) : State :=
  { s with ctxs := s.ctxs.set c { s.ctxs[c] with ring := f s.ctxs[c].ring } }

/-- The slot of the next packet of a ring (R419). -/
def Ring.slot (r : Ring) : Word := r.base + wd (64 * (r.head.toNat % 2 ^ bits r.cfg 4 0))

/-- Read the packet at a slot, as one 64-byte read in the ring's context (R299, R420). -/
def State.slotRead (s : State) (c : Fin 64) : Option (List Word) :=
  let a := s.ctxs[c].ring.slot
  if a.toNat % 64 = 0 then (s.gleanRead c a 64).map dwords else none

/-- The packet cannot be taken yet: its read, or a check of the packet it reads, waits for a vector store (R233, R268). -/
def State.packetHeld (s : State) (c : Fin 64) : Bool :=
  (s.ctxs[c].ring.slot.toNat % 64 = 0 && s.gleanHeld c s.ctxs[c].ring.slot.toNat 64 false) || match s.slotRead c with
    | some p => s.submitHeld c p
    | none => false

/-- A ring whose doorbell told of a packet that the Gleaner has not read and can read now (R420). -/
def State.hasPacket (s : State) (c : Fin 64) : Bool :=
  s.awake && s.ctxs[c].ring.head != s.ctxs[c].ring.tail && !s.packetHeld c

/-- LAUNCH_PACKET (R299, R420): the next packet of a context's ring, if its doorbell told of one, is admitted, refused or
dropped, and HEAD passes it. An uncorrectable PTE that the read of the slot meets is logged (R405). -/
def execLaunchPacket (c : Fin 64) (s : State) : Result :=
  .next (if s.hasPacket c then
      let s1 := match s.slotRead c with
        | some p => s.submit c p
        | none => (if s.ctxs[c].ring.slot.toNat % 64 = 0 then s.gleanLog c s.ctxs[c].ring.slot.toNat 64 else s).countDrop c
      s1.setRing c fun r => { r with head := r.head + 1 }
    else s)

/-- POP (R307): a pop wakes an idle module (R378). -/
def execPop (s : State) : Result :=
  .next (if s.awake then
      let s1 := s.popOnce
      if s1.running && s1.dev.power == .idle then { s1 with dev := { s1.dev with power := .run } } else s1
    else s)

/-- LAUNCH_COMPLETE (R301): a launch of this ID that has nothing left completes. -/
def execLaunchComplete (id : BitVec 12) (s : State) : Result :=
  .next (match s.launches.find? fun L => L.id == id && s.exhausted L with
    | some L => s.completeLaunch L.part id
    | none => s)

/-! ### Traps that arise between instructions -/

/-- Take the asynchronous trap that is due, if one is (R384, R385). -/
def State.trapDue (s : State) : State := s.asyncTrap.getD s

/-- TRAP (R384, R385). -/
def execTrap (s : State) : Result := .next s.trapDue

/-- The running task's budget in cycles; 0 is none (R298, R318). -/
def State.budget (s : State) : Nat :=
  match s.myLaunch with
  | some L => L.budget
  | none => 0

/-- The watchdog count passed its budget, and has not been raised in this attempt (R318). -/
def State.overBudget (s : State) : Bool :=
  s.running && s.budget != 0 && s.budget < s.task.id.wdog && !s.task.id.wdogDone

/-- WATCHDOG (R318): the cause is raised, and taken at this boundary unless supervisor mode holds it off (R384). -/
def execWatchdog (s : State) : Result :=
  .next (if s.overBudget then
      (s.setTask fun t => { t with pend := { t.pend with watchdog := true }, id := { t.id with wdogDone := true } }).trapDue
    else s)

/-- CROFT_DATAPATH_CHECK (R400, R407): a check of the croft, or a parity error of the tile that the next VE instruction pops from
a queue register, which is queue-precise (R390). -/
def execCroftDatapathCheck (q : Option (Fin 8)) (s : State) : Result :=
  .next (if !s.running then s
    else
      match q with
      | none => (s.setTask fun t => { t with pend := { t.pend with hw := true } }).trapDue
      | some q =>
        match s.task.veQ with
        | e :: _ =>
          if e.instr.pops q && !s.task.q[q].tiles.isEmpty && s.task.pend.ve.isNone then
            (s.setTask fun t => { t with pend := { t.pend with ve := some ⟨.datapathCheck, 0⟩, veAt := e.addr } }).trapDue
          else s
        | [] => s)

/-! ### Errors of memory and dies -/

/-- UNCORRECTABLE_ERROR (R400, R403): the 64-byte line of memory, or the doubleword of the loft, keeps a bad code from now on. -/
def execUncorrectableError (site : ErrorSite) (s : State) : Result :=
  .next (match site with
    | .device pa => if pa < Config.deviceBytes then { s with badLines := insertNat s.badLines (granule pa) } else s
    | .loft o =>
      if s.running && o < 0x200000 then
        s.setTask fun t => { t with badLoft := insertNat t.badLoft (o / 8 * 8) }
      else s)

/-- The count of a part. -/
def Corrected.of (c : Corrected) : EccUnit → Nat
  | .die d => c.dies[d]
  | .stack k => c.hbms[k]
  | .port j => c.ports[j]

/-- One more corrected error of a part. -/
def Corrected.add (c : Corrected) : EccUnit → Corrected
  | .die d => { c with dies := c.dies.set d (c.dies[d] + 1) }
  | .stack k => { c with hbms := c.hbms.set k (c.hbms[k] + 1) }
  | .port j => { c with ports := c.ports.set j (c.ports[j] + 1) }

/-- The number of a part. -/
def EccUnit.number : EccUnit → Nat
  | .die d => d.val
  | .stack k => k.val
  | .port j => j.val

/-- The die that detects an error of a part: stack k is of die k / 2 (R10, log 27), and a port has none, 0. -/
def EccUnit.dieOf : EccUnit → Nat
  | .die d => d.val
  | .stack k => k.val / 2
  | .port _ => 0

/-- The partition whose ring hears of a part. -/
def State.partOfUnit (s : State) : EccUnit → Option (Fin 16)
  | .port j => s.partOfPort j
  | u => s.partOfDie u.dieOf

/-- A corrected error (R402): it is counted, and each multiple of 1,024 is reported (R405 KIND 0). -/
def State.correctedError (s : State) (u : EccUnit) : State :=
  let c := s.dev.corrected.add u
  let s1 := { s with dev := { s.dev with corrected := c } }
  if c.of u % 1024 = 0 then
    match s1.partOfUnit u with
    | some p =>
      s1.logEvent p
        { kind := 0, code := 0, die := u.dieOf, port := 0, detail := wd u.number, count := c.of u, launch := 0 }
    | none => s1
  else s1

/-- What isolation does to the task of a croft of the die (R407, R411): a rival whose record has RESTART or GUARD is aborted in
either mode. A task that is not re-executed fails its launch (log 32). -/
def State.evict (s : State) : State :=
  let t := s.task
  let fail := s.failLaunch s.myPart t.id.launch 0x73 t.id.entry.src
  if !t.reruns then fail
  else if t.id.forked then s.abortRival
  else if s.sup || (t.guarded && t.id.world = 0) then fail
  else s.reexecute .dieIsolated

/-- DIE_ISOLATION (R411). -/
def execDieIsolation (d : Fin 16) (s : State) : Result :=
  .next (if s.dev.isolated.contains d then s
    else
      let s1 := { s with dev := { s.dev with isolated := s.dev.isolated ++ [d] } }
      let s2 := match s1.partOfDie d.val with
        | some p =>
          s1.logEvent p { kind := 4, code := 0x73, die := d.val, port := 0, detail := wd d.val, count := 0, launch := 0 }
        | none => s1
      if s2.running && s2.die == d then s2.evict else s2)

/-- The current limit: the lower of 30,000 A and CAP (R424). -/
def Device.limit (d : Device) : Nat := min 30000 d.cap

/-- CURRENT_SAMPLE (R424): above the limit Thresher steps and VE issue are held, until the current falls below it. -/
def execCurrentSample (amps : Nat) (s : State) : Result :=
  .next { s with dev := { s.dev with
    limiting := if s.dev.limiting then s.dev.limit ≤ amps else s.dev.limit < amps } }

end Sys2Proof.Machine
end

