-- ==== Sys2Proof/Machine/HostPort.lean ====
section
/-! DEFINITION. The PCI Express side (R416 to R421, R427): host accesses through BAR2, the doorbells and registers of BAR0, PTP
(R425), the Function Level Reset, and bring-up (R426). -/

namespace Sys2Proof.Machine

/-! ### BAR2 -/

/-- Report an error through AER (R417). -/
def State.report (s : State) (e : Aer) : State := { s with out := { s.out with aer := s.out.aer ++ [e] } }

/-- Answer a host read. -/
def State.answerRead (s : State) (bs : List Byte) : State := { s with out := { s.out with reads := s.out.reads ++ [bs] } }

/-- A function serves the partition: function 0 partition 0 while SR-IOV is disabled, else virtual function n partition n (R417). -/
def Pcie.serves (p : Pcie) (part : Fin 16) : Bool := if p.vfs = 0 then part = 0 else part.val < p.vfs

/-- The device address of a BAR2 offset (R417). -/
def Partition.bar2 (p : Partition) (offset : Nat) : Nat := p.range.1 + offset

/-- Whether a BAR2 byte lies in the partition's range (R417). -/
def Partition.inBar2 (p : Partition) (offset : Nat) : Bool := p.present && offset < p.dies * Config.dieBytes

/-- Whether a BAR2 access waits: for a granule that a vector store still reserves (R268), or a write for the reserve of a
Cellar (R414). -/
def State.bar2Blocked (s : State) (p : Partition) (offset n : Nat) (write : Bool) : Bool :=
  ((partsAt (p.bar2 offset) n).any fun g => s.reserved 0 g.1 g.2 write) || (write && !s.granRoom (granulesAt (p.bar2 offset) n))

/-- A host access of n bytes: it is aborted, or made; what lies beyond the range is reported (R417). -/
def State.bar2 (s : State) (part : Fin 16) (offset n : Nat) (act : State → State) : State :=
  let p := s.parts[part]
  let at_ (k : Nat) : Nat := offset + k
  if (List.range n).any fun k => p.inBar2 (at_ k) && s.isolatedAt (p.bar2 (at_ k)) then s.report (.aborted part offset)
  else
    let s1 := act s
    if (List.range n).all fun k => p.inBar2 (at_ k) then s1 else s1.report (.unsupported part offset)

/-- One byte as the host reads it: beyond the range all ones; of an uncorrectable line a free value, for which the spec states
none (log 7). -/
def State.hostByte (s : State) (p : Partition) (offset k : Nat) : Byte :=
  if !p.inBar2 (offset + k) then 0xFF
  else if s.badLines.contains (granule (p.bar2 (offset + k))) then Config.freeByte (s.fresh + k)
  else s.mem.get (p.bar2 (offset + k))

/-- The bytes of a host read, with the free values counted. -/
def State.hostBytes (s : State) (p : Partition) (offset n : Nat) : State × List Byte :=
  ({ s with fresh := s.fresh + n }, (List.range n).map (s.hostByte p offset))

/-- A host read through BAR2 (R273, R417). -/
def State.bar2Read (s : State) (part : Fin 16) (offset len : Nat) : State :=
  s.bar2 part offset len fun s =>
    (s.hostBytes s.parts[part] offset len).1.answerRead (s.hostBytes s.parts[part] offset len).2

/-- The bytes of a host write that lie in the range, written (R273, R234, R417). -/
def State.hostWrite (s : State) (p : Partition) (offset : Nat) (bs : List Byte) : State :=
  let bytes := bs.take (p.dies * Config.dieBytes - offset)
  if p.present && !bytes.isEmpty then s.writeRoot (p.bar2 offset) bytes else s

/-- A host write through BAR2 (R273, R417). -/
def State.bar2Write (s : State) (part : Fin 16) (offset : Nat) (bytes : List Byte) : State :=
  s.bar2 part offset bytes.length fun s => s.hostWrite s.parts[part] offset bytes

/-- The value an AtomicOp stores, if it stores (R416, R242). -/
def atomicNew (op : AtomicKind) (w old value compare : Nat) : Option Nat :=
  match op with
  | .swap => some (value % 2 ^ (8 * w))
  | .fetchAdd => some ((old + value) % 2 ^ (8 * w))
  | .cas => if old = compare % 2 ^ (8 * w) then some (value % 2 ^ (8 * w)) else none

/-- An AtomicOp (R416): one event; the old value is the answer. An operand that is not naturally aligned is reported as
unsupported (log 22). -/
def State.bar2Atomic (s : State) (part : Fin 16) (offset : Nat) (op : AtomicKind) (wide : Bool) (value compare : Word) : State :=
  let w := if wide then 8 else 4
  s.bar2 part offset w fun s =>
    if offset % w != 0 then s.report (.unsupported part offset)
    else
      let (s1, bs) := s.hostBytes s.parts[part] offset w
      let s2 := match atomicNew op w (leValue bs) value.toNat compare.toNat with
        | some v => s1.hostWrite s.parts[part] offset (leBytes w v)
        | none => s1
      s2.answerRead bs

/-- What a host access through BAR2 names: the partition, the offset, the bytes, and whether it writes. -/
def bar2Shape : Instr → Option (Fin 16 × Nat × Nat × Bool)
  | .bar2Read part offset len => some (part, offset, len, false)
  | .bar2Write part offset bytes => some (part, offset, bytes.length, true)
  | .atomicop part offset _ wide _ _ => some (part, offset, if wide then 8 else 4, true)
  | _ => none

/-- Make a host access through BAR2. -/
def State.bar2Make (s : State) : Instr → State
  | .bar2Read part offset len => s.bar2Read part offset len
  | .bar2Write part offset bytes => s.bar2Write part offset bytes
  | .atomicop part offset op wide value compare => s.bar2Atomic part offset op wide value compare
  | _ => s

/-- A host access through BAR2 arrives: no function or window serves it, or it waits behind its requester's earlier accesses or
for memory, or it is made (R268, R273, R417). The requester is the function. -/
def State.hostAccess (s : State) (i : Instr) : State :=
  match bar2Shape i with
  | none => s
  | some (part, offset, n, write) =>
    if !s.up || !s.dev.pcie.serves part || s.dev.pcie.bar2 < offset + n then s
    else if (s.posted.any fun j => (bar2Shape j).map (·.1) == some part) || s.bar2Blocked s.parts[part] offset n write then
      { s with posted := s.posted ++ [i] }
    else s.bar2Make i

/-- The accesses that wait are made in issue order as far as they can be (R273). -/
def State.deliverPosted (s : State) : State := s.posted.foldl State.hostAccess { s with posted := [] }

/-- BAR2_READ (R273, R417). -/
def execBar2Read (part : Fin 16) (offset len : Nat) (s : State) : Result := .next (s.hostAccess (.bar2Read part offset len))

/-- BAR2_WRITE (R273, R417). -/
def execBar2Write (part : Fin 16) (offset : Nat) (bytes : List (BitVec 8)) (s : State) : Result :=
  .next (s.hostAccess (.bar2Write part offset bytes))

/-- ATOMICOP (R416). -/
def execAtomicop (part : Fin 16) (offset : Nat) (op : AtomicKind) (wide : Bool) (value compare : BitVec 64) (s : State) : Result :=
  .next (s.hostAccess (.atomicop part offset op wide value compare))

/-! ### Registers of BAR0 -/

/-- Whether a context's ring block answers: its context is a partition's (R418). -/
def State.ringLive (s : State) (c : Fin 64) : Bool := (List.ofFn (n := 16) id).any fun p => s.parts[p].present && s.parts[p].contexts.contains c

/-- A ring block takes writes: its context's partition has a function (R417, R418). -/
def State.ringServed (s : State) (c : Fin 64) : Bool := s.up && s.ringLive c && s.dev.pcie.serves (s.partOfCtx c)

/-- The slots of a ring. -/
def Ring.slots (r : Ring) : Nat := 2 ^ bits r.cfg 4 0

/-- A doorbell is accepted (R420): EN set, LOGN given, and not more packets than slots. -/
def Ring.accepts (r : Ring) (v : BitVec 32) : Bool := bit r.cfg 8 && bits r.cfg 4 0 != 0 && (v - r.head).toNat ≤ r.slots

/-- TAIL (R420): a refused doorbell sets ERR, which MSI-X vector 1 signals (R421). -/
def execTailWrite (c : Fin 64) (v : BitVec 32) (s : State) : Result :=
  .next (if !s.ringServed c then s
    else if s.ctxs[c].ring.accepts v then s.setRing c fun r => { r with tail := v }
    else (s.setRing c fun r => { r with cfg := r.cfg ||| 0x200 }).msix (s.partOfCtx c) 1)

/-- LOGN after a write: kept unless the written value lies in the range (R419, R421). -/
def lognWritten (old new : Word) (lo hi : Nat) : Nat :=
  if lo ≤ bits new 4 0 && bits new 4 0 ≤ hi then bits new 4 0 else bits old 4 0

/-- RCFG after a write (R419). -/
def rcfgWritten (old new : Word) : Word :=
  wd ((if bit old 9 && !bit new 9 then 0x200 else 0) + (if bit new 8 then 0x100 else 0) + lognWritten old new 4 20)

/-- RCFG (R419). -/
def execRcfgWrite (c : Fin 64) (v : BitVec 64) (s : State) : Result :=
  .next (if s.ringServed c then s.setRing c fun r => { r with cfg := rcfgWritten r.cfg v } else s)

/-- EVCFG after a write (R421). -/
def evcfgWritten (old new : Word) : Word := wd ((if bit new 8 then 0x100 else 0) + lognWritten old new 4 16)

/-- EVCFG (R421). -/
def execEvcfgWrite (part : Fin 16) (v : BitVec 64) (s : State) : Result :=
  .next (if s.up && s.parts[part].present && s.dev.pcie.serves part then
      s.setPart part { s.parts[part] with evCfg := evcfgWritten s.parts[part].evCfg v }
    else s)

/-- The ring block and register a BAR0 offset names (R418, R419). -/
def ringOffset (offset : Nat) : Option (Fin 64 × Nat) :=
  if 0x100000 ≤ offset && offset < 0x140000 then
    some (⟨(offset - 0x100000) / 0x1000 % 64, Nat.mod_lt _ (by decide)⟩, offset % 0x1000)
  else none

/-- A host write of a BAR0 register of a partition's function (R418, R419, R421). What is not listed, is read-only, or belongs to
another partition ignores it. -/
def State.bar0Write (s : State) (part : Fin 16) (offset : Nat) (v : Word) : Result :=
  let p := s.parts[part]
  if !s.up || !p.present || !s.dev.pcie.serves part then .next s
  else
    match ringOffset offset with
    | some (c, r) =>
      if !p.contexts.contains c then .next s
      else if r = 0 then .next (s.setRing c fun k => { k with base := v })
      else if r = 8 then execRcfgWrite c v s
      else if r = 0x10 then execTailWrite c (BitVec.ofNat 32 v.toNat) s
      else .next s
    | none =>
      if offset = 0x200000 then .next (s.setPart part { p with evBase := v })
      else if offset = 0x200008 then execEvcfgWrite part v s
      else if offset = 0x200018 then .next (s.setPart part { p with evHead := v.toNat })
      else .next s

/-- STAT (R418). -/
def Device.stat (d : Device) : Word := wd (0xB7000000 + (if d.ptpLocked then 2 else 0) + if d.ready then 1 else 0)

/-- A register of a ring block (R419). -/
def Ring.register (r : Ring) : Nat → Word
  | 0x00 => r.base
  | 0x08 => r.cfg
  | 0x10 => wd r.tail.toNat
  | 0x18 => wd r.head.toNat
  | 0x20 => wd r.drops.toNat
  | _ => 0

/-- A register of the event ring block (R421). -/
def Partition.evRegister (p : Partition) : Nat → Word
  | 0x00 => p.evBase
  | 0x08 => p.evCfg
  | 0x10 => wd p.evTail
  | 0x18 => wd p.evHead
  | 0x20 => wd p.evLost
  | _ => 0

/-- The doubleword a host reads at a BAR0 offset of a partition's function (R418). What is not listed, and the ring block of a
context outside the partition, read as zero. -/
def State.bar0Value (s : State) (part : Fin 16) (offset : Nat) : Word :=
  let p := s.parts[part]
  if offset = 0 then s.dev.stat
  else
    match ringOffset offset with
    | some (c, r) => if p.contexts.contains c then s.ctxs[c].ring.register r else 0
    | none => if 0x200000 ≤ offset && offset < 0x201000 then p.evRegister (offset - 0x200000) else 0

/-- An offset in the management mailbox (R418). -/
def isMailbox (offset : Nat) : Bool := 0x300000 ≤ offset && offset < 0x301000

/-- What a function answers at a BAR0 offset (R417, R418): function 0 (none) has the mailbox, whose contents are a free value, and
while SR-IOV is disabled partition 0's registers; virtual function n has those of partition n, present or absent. Beside the mailbox
function 0 reads as zero while SR-IOV is enabled (log 22). -/
def State.functionValue (s : State) (fn : Option (Fin 16)) (offset : Nat) : Option Word :=
  match fn with
  | none =>
    if isMailbox offset then some (Config.freeBits s.fresh)
    else some (if s.dev.pcie.vfs = 0 then s.bar0Value 0 offset else 0)
  | some n => if n.val < s.dev.pcie.vfs then some (s.bar0Value n offset) else none

/-- A host read of a doubleword of a function's BAR0 (R418). -/
def State.bar0Read (s : State) (fn : Option (Fin 16)) (offset : Nat) : State :=
  match s.functionValue fn offset with
  | some v => if s.up then { s with fresh := s.fresh + 1 }.answerRead (leBytes 8 v.toNat) else s
  | none => s

/-- REGISTER_WRITE (R366, R418): a CSR as a CSRW of the running task writes it (log 10), or a register of BAR0. -/
def execRegisterWrite (target : RegTarget) (v : BitVec 64) (s : State) : Result :=
  match target with
  | .csr n => s.writeStep n.toNat v
  | .bar0 part offset => s.bar0Write part offset v

/-! ### Configuration space (R416, R426) -/

/-- A configuration the endpoint can take: at most 16 virtual functions, and BAR2 of 1 GiB to 2 TiB in powers of two. -/
def Pcie.possible (p : Pcie) : Bool := p.vfs ≤ 16 && (List.range 12).any fun k => p.bar2 == 2 ^ (30 + k)

/-- A configuration request: until step 6 of bring-up completes it is answered with Request Retry Status (R426). -/
def State.configRequest (s : State) : State :=
  if s.dev.power == .off || s.dev.ready then s else { s with out := { s.out with retries := s.out.retries + 1 } }

/-- The host writes the configuration space (R416), which until step 6 of bring-up is answered with Request Retry Status (R426). -/
def State.setPcie (s : State) (p : Pcie) : State :=
  if !s.dev.ready then s.configRequest
  else if s.up && p.possible then { s with dev := { s.dev with pcie := p } } else s

/-- A request whose ECRC fails is reported, when the host has enabled the check (R416). -/
def State.badEcrc (s : State) : State := if s.up && s.dev.pcie.ecrcCheck then s.report .ecrc else s

/-! ### Time -/

/-- TIME stepped to a value. -/
def Device.setTime (d : Device) (time : Nat) : Device :=
  { d with timeBase := (time : Int) - (d.cycle * 10 / 27 : Nat) }

/-- PTP_LOCK (R425): the first lock steps TIME if no launch has been admitted yet (R305). -/
def execPtpLock (time : BitVec 64) (s : State) : Result :=
  .next (if !s.up then s
    else
      let d := if s.dev.everLocked || s.dev.launched then s.dev else s.dev.setTime time.toNat
      { s with dev := { d with ptpLocked := true, everLocked := true } })

/-- GRANDMASTER_LOST (R425): TIME holds over and STAT[1] is cleared. -/
def execGrandmasterLost (s : State) : Result := .next { s with dev := { s.dev with ptpLocked := false } }

/-! ### Function Level Reset -/

/-- Zero a partition's whole range under a new key (R371), with the copies that rivals hold in its memory (R349): every line is
written, so it is good. -/
def State.zeroPartition (s : State) (p : Partition) : State :=
  let (lo, hi) := p.range
  { s with
    mem := s.mem.replace lo hi []
    badLines := s.badLines.filter fun l => !(lo ≤ l && l < hi)
    worlds := s.worlds.map fun w => if p.contexts.contains w.cid then { w with bytes := [], bad := [] } else w
    dev := { s.dev with zeroised := s.dev.zeroised + 1 } }

/-- Discard every live launch of a partition, writing no record (R427). -/
def State.dropLaunches (s : State) (part : Fin 16) : State :=
  (s.launches.filter (·.part == part)).foldl (fun s L => s.dropLaunch L) s

/-- The module's own writes for a partition that still wait are discarded (R427). -/
def State.dropLate (s : State) (part : Fin 16) : State :=
  let p := s.parts[part]
  { s with late := s.late.filter fun w => match w with
      | .glean c _ _ => !p.contexts.contains c
      | .root pa bs => !p.owns pa bs.length
      | .event i _ => i != part }

/-- The ring and event registers of a partition at their reset values (R419, R421). -/
def State.resetRings (s : State) (part : Fin 16) : State :=
  let p := s.parts[part]
  let s1 := p.contexts.foldl (fun s c => s.setRing c fun _ => Ring.reset) s
  s1.setPart part { p with evBase := 0, evCfg := 0, evTail := 0, evHead := 0, evLost := 0 }

/-- FLR (R427). -/
def execFlr (part : Fin 16) (s : State) : Result :=
  .next (if s.up && s.parts[part].present then
      (((s.dropLaunches part).dropLate part).resetRings part).zeroPartition s.parts[part]
    else s)

/-! ### Bring-up (R426) -/

/-- A partition's dies, contexts and ports as firmware may give them (R370). -/
def cfgShape (c : PartCfg) : Bool :=
  [1, 2, 4, 8, 16].contains c.dies && c.firstDie.val % c.dies = 0 && c.firstDie.val + c.dies ≤ 16

/-- Two configurations share nothing (R32, R370). -/
def cfgApart (a b : PartCfg) : Bool :=
  (a.firstDie.val + a.dies ≤ b.firstDie.val || b.firstDie.val + b.dies ≤ a.firstDie.val)
    && a.contexts.all (fun c => !b.contexts.contains c) && a.ports.all fun c => !b.ports.contains c

/-- The configuration a partition stands for. -/
def Partition.cfg (p : Partition) (i : Fin 16) : PartCfg :=
  { num := i, firstDie := ⟨p.firstDie % 16, Nat.mod_lt _ (by decide)⟩, dies := p.dies, contexts := p.contexts, ports := p.ports
    digest := p.digest }

/-- Extend a measurement register (R372). -/
def State.measure (s : State) (k : Fin 4) (m : List Byte) : State :=
  { s with dev := { s.dev with meas := s.dev.meas.set k (extend s.dev.meas[k] m) } }

/-- MEAS1 after a set load (R372): the slot's number padded to 32 bytes, then the set's measurement. -/
def State.measureSet (s : State) (slot : Fin 4) (x : XSet) : State :=
  (s.measure 1 (padTo 32 [BitVec.ofNat 8 slot.val])).measure 1 x.measure

/-- Configure one partition and zero its range (R370, R371, R372): its pop pointers and counters are set (R307); its other
registers keep their values (log 23). -/
def State.configure (s : State) (c : PartCfg) : State :=
  let p : Partition :=
    { s.parts[c.num] with
      present := true, firstDie := c.firstDie.val, dies := c.dies, contexts := c.contexts, ports := c.ports, digest := c.digest
      ptr := Vector.replicate 4 4095, ctr := Vector.replicate 4 0, invasiveOnce := false, preempt := [] }
  ((s.setPart c.num p).zeroPartition p).measure 2 c.digest

/-- Configure the stored partitions that are well formed and share nothing with those before them; a failing one is absent. -/
def State.configureStored : List PartCfg → List PartCfg → State → State
  | _, [], s => s
  | done, c :: rest, s =>
    if cfgShape c && done.all fun d => d.num != c.num && cfgApart c d then State.configureStored (done ++ [c]) rest (s.configure c)
    else State.configureStored done rest s

/-- The module as a device reset leaves it before bring-up: what is outside it, fused, or held by Lantern stays (R376 to R378,
R416). Coming from OFF the measurement registers are zero (R372). A slot keeps its set until the image's own sets are known (R84). -/
def State.cold (s : State) : State :=
  let d := s.dev
  { State.reset with
    mem := s.mem, badLines := s.badLines, host := s.host, peer := s.peer, hostErr := s.hostErr, peerErr := s.peerErr
    parts := Vector.replicate 16 Partition.absent, out := s.out, schedule := s.schedule, fresh := s.fresh, die := s.die, pos := s.pos
    nextTid := s.nextTid, nextWorld := s.nextWorld
    dev := { Device.reset with
      ready := false, slots := d.slots, lifecycle := d.lifecycle, keys := d.keys, zeroised := d.zeroised
      meas := if d.power = .off then Vector.replicate 4 (List.replicate 32 0) else d.meas
      colmax := d.colmax, debugKey := d.debugKey, nonces := d.nonces, usedNonces := d.usedNonces, refusals := d.refusals } }

/-- The sets after a firmware image starts: its own in slot 0, and those of the other slots that it holds (R83, R84). -/
def Device.imageSlots (d : Device) (b : Boot) : Vector (Option XSet) 4 :=
  Vector.ofFn fun k => if k = 0 then some b.set0 else if b.held.contains k then d.slots[k] else none

/-- Steps 2 to 7 of bring-up after a verified image (R426). -/
def State.bring (s : State) (b : Boot) : State :=
  let s1 := { s with dev := { s.dev with slots := s.dev.imageSlots b, isolated := b.badDies } }
  let s2 := State.configureStored [] b.parts (s1.measureSet 0 b.set0)
  let s3 := { s2 with dev := { s2.dev with ready := true } }
  let s4 := b.badDies.foldl (fun s d =>
    match s.partOfDie d.val with
    | some p => s.logEvent p { kind := 4, code := 0x73, die := d.val, port := 0, detail := wd d.val, count := 0, launch := 0 }
    | none => s) s3
  b.downPorts.foldl (fun s j => (s.setPort j { s.ports[j] with down := true }).portEvent j 3) s4

/-- RESET (R426): bring-up after power-good or PERST#. The configuration requests that come before step 6 are answered with Request
Retry Status. When the management firmware fails to start, step 1 repeats once; firmware that fails its check, or a second start
that fails, leaves the module dark. -/
def execReset (b : Boot) (s : State) : Result :=
  let s0 := s.cold
  let dark (s : State) : State := { s with dev := { s.dev with dark := true } }
  let early := { s0 with out := { s0.out with retries := s0.out.retries + b.requests } }
  let measured := early.measure 0 b.firmware
  .next (if !b.firmwareOk then dark early
    else if b.managementOk then measured.bring b
    else if b.managementRetry then (measured.measure 0 b.firmware).bring b
    else dark (measured.measure 0 b.firmware))

end Sys2Proof.Machine
end

