-- ==== Sys2Proof/Machine/LoadStore.lean ====
section
/-! DEFINITION. Loads and stores (R116 to R118) and PUSHM and POPM (R127 to R130). -/

namespace Sys2Proof.Machine

/-- The effective address x[rs1] + sext(imm16) (R116). -/
def State.ea (s : State) (a : XReg) (i : BitVec 16) : Word := s.x a + i.signExtend 64

/-- A load of w bytes, extended by `ext` (R116, R118). -/
def State.loadInto (s : State) (d a : XReg) (i : BitVec 16) (w : Nat) (ext : Nat → Word) : Result :=
  s.settle ((s.read (s.ea a i) w).bind fun r => .ok (r.1.setX d (ext (leValue r.2))).advance)

/-- A store of the low w bytes of x[rs2] (R116, R118). -/
def State.storeFrom (s : State) (b a : XReg) (i : BitVec 16) (w : Nat) : Result :=
  s.settle ((s.write (s.ea a i) (leBytes w (s.x b).toNat)).bind fun s1 => .ok s1.advance)

/-- Sign-extend a value of `w` bits. -/
def sext (w n : Nat) : Word := ofInt (signed w n)

/-- LB (R116). -/
def execLb (d a : XReg) (i : BitVec 16) (s : State) : Result := s.loadInto d a i 1 (sext 8)

/-- LBU (R116). -/
def execLbu (d a : XReg) (i : BitVec 16) (s : State) : Result := s.loadInto d a i 1 wd

/-- LH (R116). -/
def execLh (d a : XReg) (i : BitVec 16) (s : State) : Result := s.loadInto d a i 2 (sext 16)

/-- LHU (R116). -/
def execLhu (d a : XReg) (i : BitVec 16) (s : State) : Result := s.loadInto d a i 2 wd

/-- LW (R116). -/
def execLw (d a : XReg) (i : BitVec 16) (s : State) : Result := s.loadInto d a i 4 (sext 32)

/-- LWU (R116). -/
def execLwu (d a : XReg) (i : BitVec 16) (s : State) : Result := s.loadInto d a i 4 wd

/-- LD (R116). -/
def execLd (d a : XReg) (i : BitVec 16) (s : State) : Result := s.loadInto d a i 8 wd

/-- SB (R116). -/
def execSb (b a : XReg) (i : BitVec 16) (s : State) : Result := s.storeFrom b a i 1

/-- SH (R116). -/
def execSh (b a : XReg) (i : BitVec 16) (s : State) : Result := s.storeFrom b a i 2

/-- SW (R116). -/
def execSw (b a : XReg) (i : BitVec 16) (s : State) : Result := s.storeFrom b a i 4

/-- SD (R116). -/
def execSd (b a : XReg) (i : BitVec 16) (s : State) : Result := s.storeFrom b a i 8

/-! ### Register lists -/

/-- The slots of a register list: the register count and the slot size (R127). -/
structure StkShape where
  first : Nat
  count : Nat
  slot : Nat
  vclass : Bool

/-- The shape of a list (R127). -/
def stkShape (f l : Fin 32) (k : Bool) : StkShape := ⟨f.val, l.val + 1 - f.val, if k then 4096 else 8, k⟩

/-- The base of a list: x[xb], or SSP, less the size for a stack-form PUSHM (R127). -/
def State.stkBase (s : State) (k : StkShape) (b : XReg) (push : Bool) : Word :=
  if b = 0 then if push then s.task.csr.ssp - wd (k.count * k.slot) else s.task.csr.ssp else s.x b

/-- The alignment base of a list: x[xb] or SSP (R128). -/
def State.stkAlign (s : State) (b : XReg) : Word := if b = 0 then s.task.csr.ssp else s.x b

/-- Check 1 of R117 for granule after granule (R128 step 1): every slot, its last byte included. -/
def State.stkRange (s : State) (base : Word) (size : Nat) : Res Unit :=
  (List.range (size / 8)).foldl (fun r j => r.bind fun _ =>
    Res.ofChk s (s.task.rangeCheck (base + wd (8 * j)))) (.ok ())

/-- The bytes of a piece of a list: an 8-byte slot in the x class, a 64-byte granule in the v class (R130). -/
def StkShape.piece (k : StkShape) : Nat := if k.vclass then 64 else 8

/-- The addresses of the pieces of a list, ascending. -/
def StkShape.addrs (k : StkShape) (base : Word) : List Nat :=
  (List.range (k.count * k.slot / k.piece)).map fun j => (base + wd (k.piece * j)).toNat

/-- Checks 6 and 7 of R117 for every slot a PUSHM will write: they precede every write (R129). -/
def State.moveCheckAll (s : State) (n : Nat) (ps : List (Nat × Place)) : Res Unit :=
  Res.each (fun _ p => s.moveCheck .store (wd p.1) n p.2) ps ()

/-- The stall of R130, then every check of a list in the order of R128 and the waits of R268; a PUSHM makes its other checks and
its claims too (R129). -/
def State.stkStart (s : State) (i : Instr) (k : StkShape) (b : XReg) (push : Bool) : Res (State × Partial) :=
  let base := s.stkBase k b push
  (Res.untilVe (!k.vclass || s.task.veDone)).bind fun _ =>
    (s.stkRange base (k.count * k.slot)).bind fun _ =>
      (Res.need s ((s.stkAlign b).toNat % k.piece = 0) .misalignedData (s.stkAlign b)).bind fun _ =>
        (Res.need s (!(push && b = 0 && base.ult s.task.csr.sslim)) .spillLimit base).bind fun _ =>
          (s.findAll (if push then .store else .load) (k.addrs base)).bind fun (s1, ps) =>
            (s1.clearAll k.piece push ps).bind fun _ =>
              (if push then (s1.moveCheckAll k.piece ps).bind fun _ => s1.claimAll ps else .ok s1).bind fun s2 =>
                .ok (s2, { instr := i, desc := [], left := ps, got := [] })

/-- The registers of a list as pieces of 8 bytes, or of 64 bytes for v registers (R127). -/
def State.stkPieces (s : State) (k : StkShape) : List (List Byte) :=
  if k.vclass then
    (List.range k.count).flatMap fun j =>
      match s.task.v.toList[k.first + j]? with
      | some t => (List.range 64).map fun g => ((t.toList.drop (16 * g)).take 16).flatMap fun l => leBytes 4 l.toNat
      | none => []
  else (List.range k.count).map fun j => leBytes 8 (s.x (xr (k.first + j))).toNat

/-- Write the registers of a list from the pieces read (R127, R129). -/
def State.stkLoad (s : State) (k : StkShape) (pieces : List (List Byte)) : State :=
  if k.vclass then
    (List.range k.count).foldl (fun s j =>
      if h : k.first + j < 16 then
        s.setTask fun t => { t with v := t.v.set (k.first + j) (tileOfBytes ((pieces.drop (64 * j)).take 64).flatten) }
      else s) s
  else (List.range k.count).foldl (fun s j => s.setX (xr (k.first + j)) (wd (leValue (pieces.getD j [])))) s

/-- SSP after a stack form (R127). -/
def State.stkSsp (s : State) (k : StkShape) (b : XReg) (push : Bool) : State :=
  if b = 0 then
    let size := wd (k.count * k.slot)
    s.setCsr { s.task.csr with ssp := if push then s.task.csr.ssp - size else s.task.csr.ssp + size }
  else s

/-- Go on with a PUSHM (R130). -/
def State.pushOn (s : State) (k : StkShape) (b : XReg) (p : Partial) : Res State :=
  let bss := s.stkPieces k
  s.writePiece p (fun left => bss.getD (bss.length - left) []) fun s1 => (s1.stkSsp k b true).advance

/-- Go on with a POPM (R129, R130): no register is written before the last slot is read. -/
def State.popOn (s : State) (k : StkShape) (b : XReg) (p : Partial) : Res State :=
  s.readPiece p k.piece (fun _ => [(0, k.piece)]) fun s1 got => ((s1.stkLoad k (got.map (·.2))).stkSsp k b false).advance

/-- PUSHM (R127 to R130): its checks and its first slot, or its next slot. -/
def execPushm (f l : Fin 32) (b : XReg) (k : Bool) (s : State) : Result :=
  let h := stkShape f l k
  s.settle (match s.task.part with
    | some p => s.pushOn h b p
    | none => Res.undo s ((s.stkStart (.pushm f l b k) h b true).bind fun (s1, p) => s1.pushOn h b p))

/-- POPM (R127 to R130): its checks and its first slot, or its next slot. -/
def execPopm (f l : Fin 32) (b : XReg) (k : Bool) (s : State) : Result :=
  let h := stkShape f l k
  s.settle (match s.task.part with
    | some p => s.popOn h b p
    | none => Res.undo s ((s.stkStart (.popm f l b k) h b false).bind fun (s1, p) => s1.popOn h b p))

end Sys2Proof.Machine
end

