-- ==== Sys2Proof/Machine/Sys.lean ====
section
/-! DEFINITION. The SYS instructions: FENCE and IFLUSH (R247, R248), SVREQ and DBGBRK (R388), TRET (R387), WAITI (R389), HARVEST
(R368) and TLBINV (R369). -/

namespace Sys2Proof.Machine

/-- FENCE (R247): every vector store is performed, with eng every engine command completed; host and peer stores are
performed as they are made, so `host` waits for nothing more. The release and the acquire order what other parties see. -/
def execFence (_c : Scope) (e _h : Bool) (s : State) : Result :=
  s.settle ((Res.untilVe s.task.openStores.isEmpty).bind fun _ =>
    (Res.until (!e || s.enginesDone)).bind fun _ => .ok s.advance)

/-- Whether a 64-byte block overlaps [a, a + n) modulo 2^64 (R248). -/
def overlaps (block : Nat) (a n : Word) : Bool :=
  n != 0 && ((wd block - a).toNat < n.toNat || (a - wd block).toNat < 64)

/-- Drop the blocks and lines of the running task's context that overlap a range (R248). -/
def State.flush (s : State) (a n : Word) : State :=
  { s with
    ops := s.ops.filter fun k => !(k.cid == s.task.id.cid && overlaps k.va a n)
    lines := s.lines.filter fun k => !(k.cid == s.task.id.cid && overlaps k.va a n) }

/-- IFLUSH (R248), after every earlier vector store of the task has written its bytes (R276). R391 excuses no store from this wait. -/
def execIflush (a b : XReg) (s : State) : Result :=
  s.settle ((Res.until s.task.storeQ.isEmpty).bind fun _ =>
    .ok (if a = 0 then { s with ops := [], lines := [] } else s.flush (s.x a) (s.x b)).advance)

/-- SVREQ and DBGBRK complete, with the loop-end check, and then trap with TVAL their own address (R388). -/
def State.request (s : State) (c : Cause) : Result :=
  .next (s.advance.takeTrap ⟨c, s.task.pc, 0, 0, false, 0, none⟩)

/-- SVREQ (R388). -/
def execSvreq (s : State) : Result := s.request (if s.sup then .svreqSuper else .svreqTask)

/-- DBGBRK (R388). -/
def execDbgbrk (s : State) : Result := s.request .debugBreak

/-- A supervisor-only instruction in task mode faults 0x04 (R70, R79). -/
def State.privileged (s : State) (i : Instr) : Res Unit := Res.need s s.sup .privileged (wordOf i)

/-- TRET (R387). -/
def execTret (s : State) : Result := s.settle ((s.privileged .tret).bind fun _ => s.trapReturn)

/-- A pre-emption request for the running task is pending (R389, R395). -/
def State.preemptAsked (s : State) : Bool :=
  s.parts[s.myPart].preempt.contains s.task.id.tid

/-- An asynchronous cause of the task is pending, one that a trap took along included (R389). -/
def State.causePending (s : State) : Bool := s.pendingTrap.isSome

/-- WAITI (R389). -/
def execWaiti (s : State) : Result :=
  s.settle ((s.privileged .waiti).bind fun _ =>
    (Res.until (s.causePending || s.preemptAsked)).bind fun _ => .ok s.advance)

/-! ### HARVEST -/

/-- The checks of a doubleword of the bitmap: 1 to 5 of R117 for a store, a type-2 page faulting 0x14 (R368). -/
def State.harvestCheck (s : State) (a : Word) : Res (State × Place) :=
  (Res.ofChk s (s.task.rangeCheck a)).bind fun _ =>
    (match s.task.addrKind a with
      | .global => (Res.ofChk s (s.translate (s.who s.sup) .store a)).bind fun p => Res.need s (!p.isWindow) .storeProt (granuleVa a)
      | _ => .ok ()).bind fun _ => s.openAt .store a 8

/-- The records of the 64 pages of a doubleword as bits, those of the partition alone (R368). -/
def State.harvestBits (s : State) (j : Nat) : Nat :=
  let p := s.parts[s.myPart]
  s.dirty.foldl (fun v d => if d / 64 = j && p.owns (d * 0x10000) 0x10000 then v + 2 ^ (d % 64) else v) 0

/-- Clear the records of a doubleword, those of the partition alone (R368). -/
def State.harvestClear (s : State) (j : Nat) : State :=
  let p := s.parts[s.myPart]
  { s with dirty := s.dirty.filter fun d => !(d / 64 = j && p.owns (d * 0x10000) 0x10000) }

/-- Copy and clear one doubleword of records into its place (R368). -/
def State.harvestOne (s : State) (p : Place) (j : Nat) : State :=
  (s.harvestClear j).writePlace s.task.id.world p (leBytes 8 (s.harvestBits j))

/-- HARVEST (R368). -/
def execHarvest (a b : XReg) (s : State) : Result :=
  let base := s.x a
  let q := s.x b
  let p0 := bits q 63 32
  let n := bits q 31 0
  let js := (List.range (n / 64)).map (· + p0 / 64)
  s.settle ((s.privileged (.harvest a b)).bind fun _ =>
    (Res.need s (!s.inRival) .worldExternal 0).bind fun _ =>
      (Res.need s (base.toNat % 8 = 0) .misalignedData base).bind fun _ =>
        (Res.need s (p0 % 64 = 0 && n % 64 = 0 && p0 + n ≤ 2 ^ 25) .addressRange q).bind fun _ =>
          Res.undo s ((Res.each (fun (s, ps) j => (s.harvestCheck (base + wd (8 * j))).bind fun (s1, p) => .ok (s1, ps ++ [p]))
              js (s, [])).bind fun (s1, ps) =>
            (Res.until (s1.placesRoom ps)).bind fun _ => .ok ((ps.zip js).foldl (fun s (p, j) => s.harvestOne p j) s1).advance))

/-! ### TLBINV -/

/-- What a TLBINV names (R369). -/
structure TlbReq where
  va : Nat
  allVa : Bool
  allCtx : Bool
  cid : Nat

/-- Whether TLBINV removes an entry of a context for a page, G or not (R369). -/
def TlbReq.hits (q : TlbReq) (cid : Fin 64) (global : Bool) (base size : Nat) : Bool :=
  (q.allCtx || cid.val == q.cid || global) && (q.allVa || (base ≤ q.va && q.va < base + size))

/-- TLBINV (R369): every access of the modelled agents has taken its place before this step. -/
def execTlbinv (a b : XReg) (s : State) : Result :=
  let q : TlbReq := { va := (s.x a).toNat, allVa := bit (s.x b) 9, allCtx := bit (s.x b) 8, cid := bits (s.x b) 5 0 }
  s.settle ((s.privileged (.tlbinv a b)).bind fun _ => .ok
    { s with
      tlb := s.tlb.filter fun e => !q.hits e.cid (bit e.pte 5) e.base e.size
      ops := s.ops.filter fun k => !q.hits k.cid k.global (k.va / k.size * k.size) k.size
      lines := s.lines.filter fun k => !q.hits k.cid k.global (k.va / k.size * k.size) k.size }.advance)

end Sys2Proof.Machine
end

