-- ==== Sys2Proof/Machine/Manage.lean ====
section
/-! DEFINITION. The management path (R422): pre-emption requests (R395), the Cellar (R413 to R415), power (R378), partitions (R370),
the current cap (R424), attestation (R373) and expansion sets (R83, R84); with the lifecycle (R376) and debug levels (R377, R379). -/

namespace Sys2Proof.Machine

/-- Answer a management command: 0 done, 1 refused, 2 busy (R422). -/
def State.answer (s : State) (n : Nat) : State := { s with out := { s.out with answers := s.out.answers ++ [n] } }

/-- A management write of the module itself into a partition's memory, outside isolated dies (R370, R411). -/
def State.unitWrite (s : State) (part : Fin 16) (a : Nat) (bs : List Byte) : State :=
  if s.parts[part].owns a bs.length && !s.isolatedIn a bs.length then s.post (.root a bs) else s

/-! ### PREEMPT -/

/-- A pre-emption request for the running task can be served at this boundary (R323, R395); there is none in the middle of an
instruction. -/
def State.canPreempt (s : State) : Bool := s.running && s.task.part.isNone && !s.sup && s.preemptAsked && !s.deferred

/-- Serve a request at a boundary; a save without a frame slot is refused and the task stays (R395). A save that a running Cellar holds
back stalls the task (R414). -/
def State.servePreempt (s : State) : State :=
  if s.canPreempt && s.saveRoom then
    match s.preemptAt false s.task.pc with
    | some s1 => s1
    | none => s.answered s.myPart s.task.id.tid
  else s

/-- Whether a request of a partition, for one launch or for all, names the running task. -/
def State.asksFor (s : State) (part : Fin 16) (launch : Option (BitVec 12)) : Bool :=
  s.running && s.myPart == part && (match launch with
    | some id => id == s.task.id.launch
    | none => true)

/-- PREEMPT (R395, R422): the request is served at this boundary if it can be, else when its task returns to task mode. -/
def execPreempt (part : Fin 16) (launch : Option (BitVec 12)) (s : State) : Result :=
  .next (if !s.up || !s.parts[part].present then s.answer 1
    else if s.asksFor part launch then
      let s1 := s.setPart part { s.parts[part] with preempt := insertNat s.parts[part].preempt s.task.id.tid }
      let s2 := s1.servePreempt
      s2.answer (if s1.canPreempt && s1.saveRoom && s2.running then 1 else 0)
    else s.answer 0)

/-! ### The Cellar -/

/-- A request block's fields are valid (R413; log 24). A zero field is ignored (R4). -/
def cellarValid (p : Partition) (b : List Word) : Bool :=
  (dw b 0).toNat % 0x200000 = 0 && (dw b 4).toNat % 64 = 0 && (dw b 5).toNat % 8 = 0
    && p.owns (dw b 0).toNat (bits (dw b 1) 31 0 * 0x200000) && p.owns (dw b 4).toNat 0 && p.owns (dw b 5).toNat 8

/-- The block at a device address of a partition, if the B7 can read it (R413). -/
def State.blockAt (s : State) (part : Fin 16) (a : Nat) : Option (List Word) :=
  if s.parts[part].present && a % 64 = 0 && s.parts[part].owns a 64 && !s.isolatedAt a && !s.badLines.contains a then
    some (s.tableDwords a 8)
  else none

/-- The granules of device memory that the root's vector stores have reserved and still to write, with their tasks and numbers. -/
def State.owedNow (s : State) : List (Nat × Nat × Nat) :=
  ((if s.running then [s.task] else []) ++ s.keptTasks).flatMap fun t => t.storeQ.flatMap fun e => e.granules.filterMap fun g =>
    match g.2 with
    | .device pa => if (s.holder 6 t.id.world (pa / 4096)).isNone then some (t.id.tid, e.num, pa) else none
    | _ => none

/-- The event of a Cellar: the partition's memory as it stands, with its uncorrectable lines; what vector stores have reserved before it is
part of it when they write (R268, R414). -/
def State.cellarEvent (s : State) (part : Fin 16) (a : Nat) (b : List Word) : State :=
  let p := s.parts[part]
  let (lo, hi) := p.range
  let c : Cellar :=
    { block := b, blockAt := a, snapshot := Mem.shiftDown (s.mem.slice lo hi) lo
      lost := s.badLines.filter fun l => lo ≤ l && l < hi
      sent := [], copied := [], gone := [], owed := s.owedNow.filter fun o => p.owns o.2.2 64 }
  s.setPart part { p with cellar := some c }

/-- CELLAR (R413, R414, R422). -/
def execCellar (part : Fin 16) (block : BitVec 64) (s : State) : Result :=
  .next (match if s.awake then s.blockAt part block.toNat else none with
    | none => s.answer 1
    | some b =>
      if !cellarValid s.parts[part] b then s.answer 1
      else if s.parts[part].cellar.isSome then (s.unitWrite part (dw b 5).toNat (leBytes 8 3)).answer 2
      else (s.cellarEvent part block.toNat b).answer 0)

/-- The bytes of a partition's memory. -/
def Partition.size (p : Partition) : Nat := p.dies * Config.dieBytes

/-- The uncorrectable lines that the drain finds in a granule: those of its copy, by the granule's own addresses, or those there now
(R403, R414). -/
def State.lostLines (s : State) (c : Cellar) (g : Nat) : List Nat :=
  let now := match c.copyAt g with
    | some a => (s.badIn (a / 4096)).map fun l => l - a + 4096 * g
    | none => s.badIn g
  (c.losing now).lost.filter fun l => l / 4096 == g

/-- A granule cannot be sent: a line was uncorrectable, or the die that holds it, or its copy, is isolated (R403, R411, R414). -/
def State.lostGranule (s : State) (c : Cellar) (g : Nat) : Bool :=
  !(s.lostLines c g).isEmpty || s.isolatedAt ((c.copyAt g).getD (4096 * g))

/-- A vector store that reserved a part of a granule before the event has still to write it, and holds the granule's drain (R268,
R414). -/
def State.stillOwed (s : State) (c : Cellar) (g : Nat) : Bool := c.owed.any fun o => o.2.2 / 4096 == g && s.owedNow.contains o

/-- Where a byte of the partition goes at the target (R415). -/
def Cellar.target (c : Cellar) (off : Nat) : Nat := peerKey (bits (dw c.block 2) 15 0) ((dw c.block 3).toNat + off)

/-- The granules of a partition that its Cellar has still to send. -/
def Partition.unsent (p : Partition) (c : Cellar) (g : Nat) : Bool := p.owns (4096 * g) 4096 && !c.sent.contains g

/-- The drain sends one granule: the snapshot's bytes, or zeros where they are lost, which is logged (R405, R415). -/
def State.drainGranule (s : State) (part : Fin 16) (g : Nat) : State :=
  let p := s.parts[part]
  match p.cellar with
  | none => s
  | some c =>
    if s.awake && p.unsent c g && !s.stillOwed c g then
      let off := 4096 * g - p.range.1
      let gone := s.lostGranule c g
      let cells := if gone then [] else Mem.shiftUp (c.snapshot.slice off (off + 4096)) (c.target 0)
      let s1 := s.setPart part { p with cellar := some { c with
        sent := c.sent ++ [g], gone := if gone then c.gone ++ [g] else c.gone } }
      (s.lostLines c g).foldl (fun s l => s.logLine part (some (.device l)))
        { s1 with peer := s1.peer.replace (c.target off) (c.target (off + 4096)) cells }
    else s

/-- The granules that have a line in a list. -/
def granulesOfLines (ls : List Nat) : List Nat := ls.foldl (fun gs l => insertNat gs (l / 4096)) []

/-- The granules of which a running Cellar finds a line uncorrectable, in their places or in their copies. -/
def State.lossy (s : State) (part : Fin 16) : List Nat :=
  match s.parts[part].cellar with
  | some c => granulesOfLines (s.badLines ++ c.lost) ++ c.copied.filter fun g => !(s.lostLines c g).isEmpty
  | none => []

/-- A granule was sent as zeros, or would be (R415). -/
def State.markedLost (s : State) (c : Cellar) (g : Nat) : Bool :=
  c.gone.contains g || (!c.sent.contains g && s.isolatedAt ((c.copyAt g).getD (4096 * g)))

/-- The rest of a drain: the granules with an uncorrectable line one by one, then every other (R415). -/
def State.drainRest (s : State) (part : Fin 16) : State :=
  let s1 := (s.lossy part).foldl (fun s g => s.drainGranule part g) s
  let p := s1.parts[part]
  match p.cellar with
  | none => s1
  | some c =>
    let granuleOf (off : Nat) : Nat := (p.range.1 + off) / 4096
    let stays (k : Host.Cell) : Bool :=
      !(c.target 0 ≤ k.1 && k.1 < c.target p.size) || c.sent.contains (granuleOf (k.1 - c.target 0))
    let goes (k : Host.Cell) : Bool := !c.sent.contains (granuleOf k.1) && !s1.markedLost c (granuleOf k.1)
    { s1 with peer := (c.snapshot.filter goes).foldl (fun m k => m.put (c.target 0 + k.1) k.2) (s1.peer.filter stays) }

/-- The snapshot as it was sent: a lost granule is zeros (R415). -/
def State.sentCells (s : State) (p : Partition) (c : Cellar) : Mem :=
  c.snapshot.filter fun k => !s.markedLost c ((p.range.1 + k.1) / 4096)

/-- The manifest (R415): a CRC32C per MiB, then a bit per granule. -/
def State.manifest (s : State) (p : Partition) (c : Cellar) : List Byte :=
  let cells := s.sentCells p c
  ((List.range (p.size / 0x100000)).flatMap fun k => leBytes 4 (crc32c (cells.getBytes (k * 0x100000) 0x100000)).toNat)
    ++ (List.range (p.size / 0x8000)).map fun k =>
      BitVec.ofNat 8 ((List.range 8).foldl (fun v i =>
        if s.markedLost c (p.range.1 / 4096 + 8 * k + i) then v + 2 ^ i else v) 0)

/-- The end of a Cellar: its status, its event, and room for the next (R415). -/
def State.cellarEnd (s : State) (part : Fin 16) (c : Cellar) (status : Nat) : State :=
  let s1 := s.setPart part { s.parts[part] with cellar := none }
  (s1.unitWrite part (dw c.block 5).toNat (leBytes 8 status)).logEvent part
    { kind := 6, code := 0, die := 0, port := 0, detail := wd c.blockAt, count := 0, launch := 0 }

/-- A granule that the drain has still to send waits for a vector store (R414). -/
def State.drainHeld (s : State) (part : Fin 16) : Bool :=
  match s.parts[part].cellar with
  | some c => c.owed.any fun o => !c.sent.contains (o.2.2 / 4096) && s.owedNow.contains o
  | none => false

/-- CELLAR_DRAIN_END (R415): the granules still to go are sent, then the manifest to MANIFEST and to the target (log 24). -/
def execCellarDrainEnd (part : Fin 16) (s : State) : Result :=
  let s0 := if s.drainHeld part then s else s.drainRest part
  .next (match if s.drainHeld part then none else s0.parts[part].cellar with
    | none => s0
    | some c =>
      let p := s0.parts[part]
      let m := s0.manifest p c
      let at_ := (dw c.block 4).toNat
      let s1 := { s0 with peer := s0.peer.putBytes (c.target (at_ - p.range.1)) m }
      ((s1.setPart part { p with cellar := none }).unitWrite part at_ m).cellarEnd part c 1)

/-- TARGET_UNREACHABLE (R415): what was sent stays sent, and the drain stops with status 2. -/
def execTargetUnreachable (part : Fin 16) (s : State) : Result :=
  .next (match s.parts[part].cellar with
    | none => s
    | some c => s.cellarEnd part c 2)

/-! ### Firmware (R375) -/

/-- FWGRANT grants firmware an access: valid, of the direction, to bytes in the range, which lies in the partition's memory. -/
def Partition.grants (p : Partition) (pa n : Nat) (write : Bool) : Bool :=
  let lo := bits p.fwgrant 51 21 * 0x200000
  let size := bits p.fwgrant 15 0 * 0x200000
  p.present && bit p.fwgrant 16 && bit p.fwgrant (if write then 18 else 17) && p.owns lo size && lo ≤ pa && pa + n ≤ lo + size

/-- Firmware reads n bytes of device memory, or writes some: outside the grant it is refused and Lantern told (R375). A write that
must wait, or to an isolated die, is not made (R268, R411, R414). -/
def State.firmware (s : State) (part : Fin 16) (pa n : Nat) (bytes : Option (List Byte)) : State :=
  let p := s.parts[part]
  if !s.up then s
  else
    match bytes with
    | none => if p.grants pa n false then s else { s with dev := { s.dev with refusals := s.dev.refusals + 1 } }
    | some bs =>
      if !p.grants pa bs.length true then { s with dev := { s.dev with refusals := s.dev.refusals + 1 } }
      else if s.bar2Blocked p (pa - p.range.1) bs.length true || s.isolatedIn pa bs.length then s
      else s.writeRoot pa bs

/-! ### Power -/

/-- The module in OFF (R378, R379): everything of the crofts and of memory is lost, and the memory and link keys are zeroised. -/
def State.lost (s : State) : State :=
  let c := s.cold
  { c with
    mem := [], badLines := []
    dev := { c.dev with power := .off, meas := s.dev.meas, zeroised := s.dev.zeroised + 1 } }

/-- NAP may be entered (R378, R379): no live launch, and no partition at INVASIVE. -/
def State.mayNap (s : State) : Bool := s.launches.isEmpty && !s.running && s.parts.toList.all fun p => p.debug != .invasive

/-- POWER (R378, R422). -/
def execPower (target : PowerState) (s : State) : Result :=
  let go (s : State) : State := ({ s with dev := { s.dev with power := target } }).answer 0
  .next (if !s.up then s.answer 1
    else
      match target with
      | .run => go s
      | .idle => if s.running then s.answer 1 else go s
      | .nap => if s.mayNap then go { s with tlb := [], ops := [], lines := [] } else s.answer 1
      | .off => s.lost.answer 0)

/-- With no task to run the croft enters IDLE by itself (R378). -/
def State.goIdle (s : State) : State :=
  if s.up && !s.running && s.dev.power == .run then { s with dev := { s.dev with power := .idle } } else s

/-- LOSS_OF_POWER (R378). -/
def execLossOfPower (s : State) : Result := .next s.lost

/-! ### Partitions, limits and sets -/

/-- A partition configuration may be applied (R370): well formed, sharing nothing among themselves or with the partitions that stay,
and no named partition has a live launch. -/
def State.mayConfigure (s : State) (cs : List PartCfg) : Bool :=
  cs.all cfgShape && cs.Pairwise (fun a b => (a.num != b.num && cfgApart a b) = true)
    && cs.all (fun c => !s.launches.any (·.part == c.num))
    && (List.ofFn (n := 16) id).all fun i =>
      !s.parts[i].present || cs.any (·.num == i) || cs.all fun c => cfgApart c (s.parts[i].cfg i)

/-- Drop what crofts hold of some contexts' translations and blocks, as a change of their partition must not leave a way into
another partition's memory (R370). -/
def State.dropCached (s : State) (keep : Fin 64 → Bool) : State :=
  { s with tlb := s.tlb.filter fun e => keep e.cid && !bit e.pte 5, ops := s.ops.filter fun b => keep b.cid && !b.global
           lines := s.lines.filter fun b => keep b.cid && !b.global }

/-- PARTITION (R370, R371, R422). -/
def execPartition (cfgs : List PartCfg) (s : State) : Result :=
  .next (if s.up && s.mayConfigure cfgs then
      let touched := cfgs.flatMap (fun c => c.contexts ++ s.parts[c.num].contexts)
      (cfgs.foldl (fun s c => s.configure c) (s.dropCached fun c => !touched.contains c)).answer 0
    else s.answer 1)

/-- CAP (R424, R422). -/
def execCap (amps : Nat) (s : State) : Result :=
  .next (if s.up && 6000 ≤ amps then ({ s with dev := { s.dev with cap := amps } }).answer 0 else s.answer 1)

/-- ATTEST (R373, R422): as ATTREQ, its block and its addresses being device addresses of the partition (log 25). -/
def execAttest (part : Fin 16) (block : BitVec 64) (s : State) : Result :=
  .next (match if s.awake then s.blockAt part block.toNat else none with
    | none => s.answer 1
    | some b =>
      (s.attestAsk part none b).answer
        (if !s.launchesAllowed then 1 else if s.parts[part].attest.isSome then 2 else 0))

/-- The bytes a report signs (R373). -/
def State.reportBody (s : State) (part : Fin 16) (r : Attest) : List Byte :=
  let p := s.parts[part]
  leBytes 2 1 ++ leBytes 1 (lifecycleCode s.dev.lifecycle) ++ leBytes 1 (debugCode p.debug) ++ leBytes 1 part.val
    ++ leBytes 1 (if p.invasiveOnce then 1 else 0) ++ [0, 0] ++ (List.range 64).map Config.identityByte
    ++ s.dev.meas.toList.flatMap (padTo 32) ++ padTo 32 p.digest ++ padTo 32 r.nonce ++ leBytes 8 s.time
    ++ List.replicate 16 0

/-- The whole report, 30,080 bytes (R373). -/
def State.report30k (s : State) (part : Fin 16) (r : Attest) : List Byte :=
  let b := s.reportBody part r
  b ++ (List.range 29792).map (Config.signatureByte b)

/-- Lantern finishes a pending request: the report, then the status (R373). In BLANK and RETURN attestation is refused, a request taken
before included: it ends with status 2 and no report (R379). -/
def State.lanternStep (s : State) (part : Fin 16) : State :=
  match s.parts[part].attest with
  | none => s
  | some r =>
    let s1 := s.setPart part { s.parts[part] with attest := none }
    if s.launchesAllowed then (s1.attestWrite part r.cid r.report (s.report30k part r)).attestStatus part r.cid r.status 1
    else s1.attestStatus part r.cid r.status 2

/-- Drop the decoded-op cache entries of a slot (R84); the block being passed goes on (R85). -/
def State.dropSlot (s : State) (slot : Fin 4) : State := { s.keepPassing with ops := s.ops.filter fun b => b.slot != slot }

/-- Put a set into a slot, or take it out. -/
def State.setSlot (s : State) (slot : Fin 4) (x : Option XSet) : State :=
  { s with dev := { s.dev with slots := s.dev.slots.set slot x } }

/-- XUNLOAD (R84, R422): refused while the slot holds no set. -/
def execXunload (slot : Fin 4) (s : State) : Result :=
  .next (if s.up && s.dev.slots[slot].isSome then ((s.setSlot slot none).dropSlot slot).answer 0 else s.answer 1)

/-- A context is bound to a slot. -/
def State.slotBound (s : State) (slot : Fin 4) : Bool :=
  (List.ofFn (n := 64) id).any fun c => s.ringLive c && s.ctxs[c].xset == slot

/-- EXPANSION_SET_LOAD (R83, R84, R372): only a signed set, into a slot no context is bound to. R60 names a slot that holds no set as
one that can be loaded; whether contexts that are still bound to it after XUNLOAD stand in the way is the model's choice, by
R84 (log 30). -/
def execExpansionSetLoad (slot : Fin 4) (set : XSet) (signed : Bool) (s : State) : Result :=
  .next (if s.up && signed && !s.slotBound slot then ((s.setSlot slot (some set)).dropSlot slot).measureSet slot set else s)

/-! ### Lifecycle and debug levels -/

/-- The lifecycle moves R376 allows. -/
def lifecycleMoves : Lifecycle → Lifecycle → Bool
  | .blank, .develop => true
  | .develop, .production => true
  | .develop, .returned => true
  | .production, .returned => true
  | _, _ => false

/-- Extend MEAS3 (R372). What is extended is unknown: the spec names the events, not the value (log 7). -/
def State.measure3 (s : State) : State :=
  { s.measure 3 (s.freeBytes 32) with fresh := s.fresh + 32 }

/-- A task with its loft zeroised. -/
def Task.zeroised (t : Task) : Task := { t with loft := [], badLoft := [] }

/-- Zeroise every key, all device memory, every silo and every loft (R376), with what a Cellar holds of memory. -/
def State.zeroiseAll (s : State) : State :=
  { s with
    mem := [], badLines := [], worlds := s.worlds.map fun w => { w with bytes := [], bad := [] }
    parts := s.parts.map fun p => { p with cellar := p.cellar.map fun c => { c with snapshot := [], lost := [] } }
    launches := s.launches.map fun L =>
      { L with
        saved := L.saved.map (Saved.onTask Task.zeroised)
        queue := L.queue.map (Saved.onTask Task.zeroised)
        parked := L.parked.map fun p => { p with task := p.task.zeroised } }
    task := s.task.zeroised
    dev := { s.dev with keys := false, zeroised := s.dev.zeroised + 1 } }

/-- What a lifecycle state fuses and generates on entry: DEVELOP the identity key, PRODUCTION the digest of the owner's debug key, whose
value the spec does not give (R376, log 7). -/
def Device.enter (d : Device) (target : Lifecycle) (digest : List Byte) : Device :=
  { d with
    lifecycle := target, keys := d.keys || target == Lifecycle.develop
    debugKey := if target = .production then some digest else d.debugKey }

/-- LIFECYCLE_ADVANCE (R376): RETURN zeroises. -/
def execLifecycleAdvance (target : Lifecycle) (s : State) : Result :=
  .next (if s.up && lifecycleMoves s.dev.lifecycle target then
      let s1 := ({ s with dev := s.dev.enter target (s.freeBytes 32), fresh := s.fresh + 32 }).measure3
      if target = .returned then s1.zeroiseAll else s1
    else s)

/-- Give a partition a debug level; a grant above what it had extends MEAS3 (R372, R377, R379). -/
def State.setDebug (s : State) (part : Fin 16) (level : DebugLevel) : State :=
  let p := s.parts[part]
  let s1 := s.setPart part { p with debug := level, invasiveOnce := p.invasiveOnce || level == .invasive }
  if debugCode p.debug < debugCode level then s1.measure3 else s1

/-- Lantern issues a nonce (R377). -/
def State.issueNonce (s : State) (n : Nat) : State :=
  if s.up && !s.dev.nonces.contains n then { s with dev := { s.dev with nonces := n :: s.dev.nonces } } else s

/-- A debug token is good (R377): PRODUCTION, this device, signed, its nonce issued and not used before, and it raises the level. -/
def State.tokenGood (s : State) (t : DebugToken) : Bool :=
  s.up && s.dev.lifecycle == .production && t.identityOk && t.signatureOk && s.dev.nonces.contains t.nonce && !s.dev.usedNonces.contains t.nonce
    && s.parts[t.part].present && debugCode s.parts[t.part].debug < debugCode t.level

/-- DEBUG_TOKEN (R377): once; the partition is zeroised and rekeyed before the level rises. -/
def execDebugToken (t : DebugToken) (s : State) : Result :=
  .next (if s.tokenGood t then
      let s1 := { s with dev := { s.dev with usedNonces := t.nonce :: s.dev.usedNonces } }
      (s1.zeroPartition s1.parts[t.part]).setDebug t.part t.level
    else s)

/-- A level may be set without a token (R377, R379): not a rise to INVASIVE in PRODUCTION. -/
def State.levelFree (s : State) (part : Fin 16) (level : DebugLevel) : Bool :=
  s.up && s.parts[part].present
    && !(s.dev.lifecycle == .production && level == .invasive && s.parts[part].debug != .invasive)

/-- DEBUG_LEVEL_CHANGE (R379). -/
def execDebugLevelChange (part : Fin 16) (level : DebugLevel) (s : State) : Result :=
  .next (if s.levelFree part level then s.setDebug part level else s)

end Sys2Proof.Machine
end

