-- ==== Sys2Proof/Machine/Orb.lean ====
section
/-! DEFINITION. ORBOFF, ORBSGN and ORBMUL (R187). -/

namespace Sys2Proof.Machine

/-- The tuple of a packed index word (R186). -/
def unpackIndex (w : Word) : List Nat := quarters w

/-- Evaluate a descriptor in memory at a packed index (R187). -/
def State.orbEval (s : State) (d a b : XReg) (f : Nat × Int × Nat → Word) : Result :=
  let addr := s.x a
  s.settle ((s.readRecord addr).bind fun (s1, ws) =>
    (Res.need s1 (Desc.valid ws) .orbitInvalid addr).bind fun _ =>
      let D := Desc.ofDwords ws
      let i := unpackIndex (s.x b)
      (Res.need s1 (!D.outside i) .orbitIndex (s.x b)).bind fun _ => .ok (s1.setX d (f (D.resolve i))).advance)

/-- ORBOFF (R187). -/
def execOrboff (d a b : XReg) (s : State) : Result := s.orbEval d a b fun r => if r.2.1 = 0 then -1 else wd r.1

/-- ORBSGN (R187). -/
def execOrbsgn (d a b : XReg) (s : State) : Result := s.orbEval d a b fun r => ofInt r.2.1

/-- ORBMUL (R187). -/
def execOrbmul (d a b : XReg) (s : State) : Result := s.orbEval d a b fun r => wd r.2.2

end Sys2Proof.Machine
end

