-- ==== Sys2Proof/Machine/Dispatch.lean ====
section
/-! DEFINITION. The one match over the instructions: each arm is one direct call of that instruction's meaning. -/

namespace Sys2Proof.Machine

/-- Execute one instruction. -/
def exec (i : Instr) (s : State) : Host.Outcome State Fault Refusal :=
  match i with
  | .add d a b => Sys2Proof.Machine.execAdd d a b s
  | .sub d a b => Sys2Proof.Machine.execSub d a b s
  | .andR d a b => Sys2Proof.Machine.execAndR d a b s
  | .orR d a b => Sys2Proof.Machine.execOrR d a b s
  | .xorR d a b => Sys2Proof.Machine.execXorR d a b s
  | .sll d a b => Sys2Proof.Machine.execSll d a b s
  | .srl d a b => Sys2Proof.Machine.execSrl d a b s
  | .sra d a b => Sys2Proof.Machine.execSra d a b s
  | .slt d a b => Sys2Proof.Machine.execSlt d a b s
  | .sltu d a b => Sys2Proof.Machine.execSltu d a b s
  | .min d a b => Sys2Proof.Machine.execMin d a b s
  | .max d a b => Sys2Proof.Machine.execMax d a b s
  | .minu d a b => Sys2Proof.Machine.execMinu d a b s
  | .maxu d a b => Sys2Proof.Machine.execMaxu d a b s
  | .mul d a b => Sys2Proof.Machine.execMul d a b s
  | .mhis d a b => Sys2Proof.Machine.execMhis d a b s
  | .mhiu d a b => Sys2Proof.Machine.execMhiu d a b s
  | .div d a b => Sys2Proof.Machine.execDiv d a b s
  | .divu d a b => Sys2Proof.Machine.execDivu d a b s
  | .rem d a b => Sys2Proof.Machine.execRem d a b s
  | .remu d a b => Sys2Proof.Machine.execRemu d a b s
  | .clz d a => Sys2Proof.Machine.execClz d a s
  | .ctz d a => Sys2Proof.Machine.execCtz d a s
  | .popc d a => Sys2Proof.Machine.execPopc d a s
  | .sel d a b => Sys2Proof.Machine.execSel d a b s
  | .addi d a imm => Sys2Proof.Machine.execAddi d a imm s
  | .andi d a imm => Sys2Proof.Machine.execAndi d a imm s
  | .ori d a imm => Sys2Proof.Machine.execOri d a imm s
  | .xori d a imm => Sys2Proof.Machine.execXori d a imm s
  | .slti d a imm => Sys2Proof.Machine.execSlti d a imm s
  | .sltiu d a imm => Sys2Proof.Machine.execSltiu d a imm s
  | .slli d a n => Sys2Proof.Machine.execSlli d a n s
  | .srli d a n => Sys2Proof.Machine.execSrli d a n s
  | .srai d a n => Sys2Proof.Machine.execSrai d a n s
  | .lui d imm => Sys2Proof.Machine.execLui d imm s
  | .luipc d imm => Sys2Proof.Machine.execLuipc d imm s
  | .lb d a imm => Sys2Proof.Machine.execLb d a imm s
  | .lbu d a imm => Sys2Proof.Machine.execLbu d a imm s
  | .lh d a imm => Sys2Proof.Machine.execLh d a imm s
  | .lhu d a imm => Sys2Proof.Machine.execLhu d a imm s
  | .lw d a imm => Sys2Proof.Machine.execLw d a imm s
  | .lwu d a imm => Sys2Proof.Machine.execLwu d a imm s
  | .ld d a imm => Sys2Proof.Machine.execLd d a imm s
  | .sb b a imm => Sys2Proof.Machine.execSb b a imm s
  | .sh b a imm => Sys2Proof.Machine.execSh b a imm s
  | .sw b a imm => Sys2Proof.Machine.execSw b a imm s
  | .sd b a imm => Sys2Proof.Machine.execSd b a imm s
  | .amoswap d a b c q l w => Sys2Proof.Machine.execAmoswap d a b c q l w s
  | .amoadd d a b c q l w => Sys2Proof.Machine.execAmoadd d a b c q l w s
  | .amoand d a b c q l w => Sys2Proof.Machine.execAmoand d a b c q l w s
  | .amoor d a b c q l w => Sys2Proof.Machine.execAmoor d a b c q l w s
  | .amoxor d a b c q l w => Sys2Proof.Machine.execAmoxor d a b c q l w s
  | .amomin d a b c q l w => Sys2Proof.Machine.execAmomin d a b c q l w s
  | .amomax d a b c q l w => Sys2Proof.Machine.execAmomax d a b c q l w s
  | .amominu d a b c q l w => Sys2Proof.Machine.execAmominu d a b c q l w s
  | .amomaxu d a b c q l w => Sys2Proof.Machine.execAmomaxu d a b c q l w s
  | .amocas d a b c q l w => Sys2Proof.Machine.execAmocas d a b c q l w s
  | .amofadd d a b c q l w => Sys2Proof.Machine.execAmofadd d a b c q l w s
  | .fence r e h => Sys2Proof.Machine.execFence r e h s
  | .iflush a b => Sys2Proof.Machine.execIflush a b s
  | .svreq => Sys2Proof.Machine.execSvreq s
  | .dbgbrk => Sys2Proof.Machine.execDbgbrk s
  | .tret => Sys2Proof.Machine.execTret s
  | .waiti => Sys2Proof.Machine.execWaiti s
  | .harvest a b => Sys2Proof.Machine.execHarvest a b s
  | .tlbinv a b => Sys2Proof.Machine.execTlbinv a b s
  | .beq b a imm => Sys2Proof.Machine.execBeq b a imm s
  | .bne b a imm => Sys2Proof.Machine.execBne b a imm s
  | .blt b a imm => Sys2Proof.Machine.execBlt b a imm s
  | .bge b a imm => Sys2Proof.Machine.execBge b a imm s
  | .bltu b a imm => Sys2Proof.Machine.execBltu b a imm s
  | .bgeu b a imm => Sys2Proof.Machine.execBgeu b a imm s
  | .jal d imm => Sys2Proof.Machine.execJal d imm s
  | .jalr d a imm => Sys2Proof.Machine.execJalr d a imm s
  | .loop l a o => Sys2Proof.Machine.execLoop l a o s
  | .loopi l c o => Sys2Proof.Machine.execLoopi l c o s
  | .pushm f l b k => Sys2Proof.Machine.execPushm f l b k s
  | .popm f l b k => Sys2Proof.Machine.execPopm f l b k s
  | .spawn d a => Sys2Proof.Machine.execSpawn d a s
  | .join d a => Sys2Proof.Machine.execJoin d a s
  | .jinit d a b => Sys2Proof.Machine.execJinit d a b s
  | .exit => Sys2Proof.Machine.execExit s
  | .yield => Sys2Proof.Machine.execYield s
  | .waitt a => Sys2Proof.Machine.execWaitt a s
  | .forkw d a => Sys2Proof.Machine.execForkw d a s
  | .yieldw a => Sys2Proof.Machine.execYieldw a s
  | .choose d a => Sys2Proof.Machine.execChoose d a s
  | .abortw => Sys2Proof.Machine.execAbortw s
  | .wid d => Sys2Proof.Machine.execWid d s
  | .setshp d a => Sys2Proof.Machine.execSetshp d a s
  | .getshp d => Sys2Proof.Machine.execGetshp d s
  | .mxq a => Sys2Proof.Machine.execMxq a s
  | .cpq a b => Sys2Proof.Machine.execCpq a b s
  | .clq a => Sys2Proof.Machine.execClq a s
  | .strm a b => Sys2Proof.Machine.execStrm a b s
  | .unstrm a => Sys2Proof.Machine.execUnstrm a s
  | .qbind a b => Sys2Proof.Machine.execQbind a b s
  | .engseq d a => Sys2Proof.Machine.execEngseq d a s
  | .skwait a k => Sys2Proof.Machine.execSkwait a k s
  | .skadd a k => Sys2Proof.Machine.execSkadd a k s
  | .skset a k => Sys2Proof.Machine.execSkset a k s
  | .skrd d k => Sys2Proof.Machine.execSkrd d k s
  | .wpwait a k => Sys2Proof.Machine.execWpwait a k s
  | .csrr d c => Sys2Proof.Machine.execCsrr d c s
  | .csrw d a c => Sys2Proof.Machine.execCsrw d a c s
  | .csrs d a c => Sys2Proof.Machine.execCsrs d a c s
  | .csrc d a c => Sys2Proof.Machine.execCsrc d a c s
  | .fadd d a b f r => Sys2Proof.Machine.execFadd d a b f r s
  | .fsub d a b f r => Sys2Proof.Machine.execFsub d a b f r s
  | .fmul d a b f r => Sys2Proof.Machine.execFmul d a b f r s
  | .fdiv d a b f r => Sys2Proof.Machine.execFdiv d a b f r s
  | .fsqrt d a f r => Sys2Proof.Machine.execFsqrt d a f r s
  | .fmin d a b f => Sys2Proof.Machine.execFmin d a b f s
  | .fmax d a b f => Sys2Proof.Machine.execFmax d a b f s
  | .flt d a b f => Sys2Proof.Machine.execFlt d a b f s
  | .feq d a b f => Sys2Proof.Machine.execFeq d a b f s
  | .fle d a b f => Sys2Proof.Machine.execFle d a b f s
  | .fcvtfi d a f r => Sys2Proof.Machine.execFcvtfi d a f r s
  | .fcvtif d a f r => Sys2Proof.Machine.execFcvtif d a f r s
  | .fcvtff d a f r => Sys2Proof.Machine.execFcvtff d a f r s
  | .fmadd d a b f r => Sys2Proof.Machine.execFmadd d a b f r s
  | .orboff d a b => Sys2Proof.Machine.execOrboff d a b s
  | .orbsgn d a b => Sys2Proof.Machine.execOrbsgn d a b s
  | .orbmul d a b => Sys2Proof.Machine.execOrbmul d a b s
  | .vadd d a b => Sys2Proof.Machine.execVadd d a b s
  | .vsub d a b => Sys2Proof.Machine.execVsub d a b s
  | .vmul d a b => Sys2Proof.Machine.execVmul d a b s
  | .vdiv d a b => Sys2Proof.Machine.execVdiv d a b s
  | .vmin d a b => Sys2Proof.Machine.execVmin d a b s
  | .vmax d a b => Sys2Proof.Machine.execVmax d a b s
  | .vabs d a => Sys2Proof.Machine.execVabs d a s
  | .vneg d a => Sys2Proof.Machine.execVneg d a s
  | .vaddsat d a b => Sys2Proof.Machine.execVaddsat d a b s
  | .vsubsat d a b => Sys2Proof.Machine.execVsubsat d a b s
  | .vfma d a b c => Sys2Proof.Machine.execVfma d a b c s
  | .vfms d a b c => Sys2Proof.Machine.execVfms d a b c s
  | .vfnma d a b c => Sys2Proof.Machine.execVfnma d a b c s
  | .vand d a b => Sys2Proof.Machine.execVand d a b s
  | .vor d a b => Sys2Proof.Machine.execVor d a b s
  | .vxor d a b => Sys2Proof.Machine.execVxor d a b s
  | .vnot d a => Sys2Proof.Machine.execVnot d a s
  | .vshl d a b => Sys2Proof.Machine.execVshl d a b s
  | .vshr d a b => Sys2Proof.Machine.execVshr d a b s
  | .vsra d a b => Sys2Proof.Machine.execVsra d a b s
  | .vcmp d a b c => Sys2Proof.Machine.execVcmp d a b c s
  | .vsel d a b c => Sys2Proof.Machine.execVsel d a b c s
  | .vcvt d a f => Sys2Proof.Machine.execVcvt d a f s
  | .vexp2 d a => Sys2Proof.Machine.execVexp2 d a s
  | .vlog2 d a => Sys2Proof.Machine.execVlog2 d a s
  | .vrcp d a => Sys2Proof.Machine.execVrcp d a s
  | .vrsq d a => Sys2Proof.Machine.execVrsq d a s
  | .vsqrt d a => Sys2Proof.Machine.execVsqrt d a s
  | .vtanh d a => Sys2Proof.Machine.execVtanh d a s
  | .vsigm d a => Sys2Proof.Machine.execVsigm d a s
  | .vrotc d a r => Sys2Proof.Machine.execVrotc d a r s
  | .vrotr d a r => Sys2Proof.Machine.execVrotr d a r s
  | .vbcc d a r => Sys2Proof.Machine.execVbcc d a r s
  | .vbcr d a r => Sys2Proof.Machine.execVbcr d a r s
  | .vredcAdd d a => Sys2Proof.Machine.execVredcAdd d a s
  | .vredcMax d a => Sys2Proof.Machine.execVredcMax d a s
  | .vredcMin d a => Sys2Proof.Machine.execVredcMin d a s
  | .vredrAdd d a => Sys2Proof.Machine.execVredrAdd d a s
  | .vredrMax d a => Sys2Proof.Machine.execVredrMax d a s
  | .vredrMin d a => Sys2Proof.Machine.execVredrMin d a s
  | .vtrn d a => Sys2Proof.Machine.execVtrn d a s
  | .viota d u r => Sys2Proof.Machine.execViota d u r s
  | .vdot4 d a b c g h t => Sys2Proof.Machine.execVdot4 d a b c g h t s
  | .vcmp48 d a b g h t => Sys2Proof.Machine.execVcmp48 d a b g h t s
  | .vsmv d a b c g h t => Sys2Proof.Machine.execVsmv d a b c g h t s
  | .vsplat d u r => Sys2Proof.Machine.execVsplat d u r s
  | .vins d u r t => Sys2Proof.Machine.execVins d u r t s
  | .vext d a t => Sys2Proof.Machine.execVext d a t s
  | .vqnt d a r t => Sys2Proof.Machine.execVqnt d a r t s
  | .vdq d a r t => Sys2Proof.Machine.execVdq d a r t s
  | .vaddx d a r => Sys2Proof.Machine.execVaddx d a r s
  | .vsubx d a r => Sys2Proof.Machine.execVsubx d a r s
  | .vmulx d a r => Sys2Proof.Machine.execVmulx d a r s
  | .vmaxx d a r => Sys2Proof.Machine.execVmaxx d a r s
  | .vminx d a r => Sys2Proof.Machine.execVminx d a r s
  | .vshlx d a r => Sys2Proof.Machine.execVshlx d a r s
  | .vshrx d a r => Sys2Proof.Machine.execVshrx d a r s
  | .vsrax d a r => Sys2Proof.Machine.execVsrax d a r s
  | .vpeek d a => Sys2Proof.Machine.execVpeek d a s
  | .vld q b r m => Sys2Proof.Machine.execVld q b r m s
  | .vst q b r m => Sys2Proof.Machine.execVst q b r m s
  | .vldo q b r m => Sys2Proof.Machine.execVldo q b r m s
  | .vsto q b r m => Sys2Proof.Machine.execVsto q b r m s
  | .vldb q b m => Sys2Proof.Machine.execVldb q b m s
  | .vrngb d u r t => Sys2Proof.Machine.execVrngb d u r t s
  | .vrngu d u r t => Sys2Proof.Machine.execVrngu d u r t s
  | .mma => Sys2Proof.Machine.execMma s
  | .dist => Sys2Proof.Machine.execDist s
  | .topk => Sys2Proof.Machine.execTopk s
  | .drain => Sys2Proof.Machine.execDrain s
  | .loadacc => Sys2Proof.Machine.execLoadacc s
  | .stampOverrun engine => Sys2Proof.Machine.execStampOverrun engine s
  | .copyCmd ch => Sys2Proof.Machine.execCopyCmd ch s
  | .fillCmd ch => Sys2Proof.Machine.execFillCmd ch s
  | .gatherCmd ch => Sys2Proof.Machine.execGatherCmd ch s
  | .scatterCmd ch => Sys2Proof.Machine.execScatterCmd ch s
  | .packoCmd ch => Sys2Proof.Machine.execPackoCmd ch s
  | .unpackoCmd ch => Sys2Proof.Machine.execUnpackoCmd ch s
  | .allreduce group peers => Sys2Proof.Machine.execAllreduce group peers s
  | .reducescatter group peers => Sys2Proof.Machine.execReducescatter group peers s
  | .allgather group peers => Sys2Proof.Machine.execAllgather group peers s
  | .broadcast group peers => Sys2Proof.Machine.execBroadcast group peers s
  | .sendCmd group peers => Sys2Proof.Machine.execSendCmd group peers s
  | .recvCmd group peers => Sys2Proof.Machine.execRecvCmd group peers s
  | .collectiveTimeout group => Sys2Proof.Machine.execCollectiveTimeout group s
  | .chunkAttempt q => Sys2Proof.Machine.execChunkAttempt q s
  | .launchPacket ctx => Sys2Proof.Machine.execLaunchPacket ctx s
  | .pop => Sys2Proof.Machine.execPop s
  | .launchComplete id => Sys2Proof.Machine.execLaunchComplete id s
  | .watchdog => Sys2Proof.Machine.execWatchdog s
  | .trap => Sys2Proof.Machine.execTrap s
  | .dieIsolation die => Sys2Proof.Machine.execDieIsolation die s
  | .dataFrame port frame => Sys2Proof.Machine.execDataFrame port frame s
  | .ackFrame port frame => Sys2Proof.Machine.execAckFrame port frame s
  | .nackFrame port frame => Sys2Proof.Machine.execNackFrame port frame s
  | .rekeyFrame port frame => Sys2Proof.Machine.execRekeyFrame port frame s
  | .idleFrame port frame => Sys2Proof.Machine.execIdleFrame port frame s
  | .keyRenewal port => Sys2Proof.Machine.execKeyRenewal port s
  | .portBringUp port peer digest => Sys2Proof.Machine.execPortBringUp port peer digest s
  | .bar2Read part offset len => Sys2Proof.Machine.execBar2Read part offset len s
  | .bar2Write part offset bytes => Sys2Proof.Machine.execBar2Write part offset bytes s
  | .atomicop part offset op wide value compare => Sys2Proof.Machine.execAtomicop part offset op wide value compare s
  | .flr part => Sys2Proof.Machine.execFlr part s
  | .reset boot => Sys2Proof.Machine.execReset boot s
  | .ptpLock time => Sys2Proof.Machine.execPtpLock time s
  | .tailWrite ctx value => Sys2Proof.Machine.execTailWrite ctx value s
  | .rcfgWrite ctx value => Sys2Proof.Machine.execRcfgWrite ctx value s
  | .evcfgWrite part value => Sys2Proof.Machine.execEvcfgWrite part value s
  | .registerWrite target value => Sys2Proof.Machine.execRegisterWrite target value s
  | .fctlWrite value => Sys2Proof.Machine.execFctlWrite value s
  | .slipWrite value => Sys2Proof.Machine.execSlipWrite value s
  | .lcfgWrite value => Sys2Proof.Machine.execLcfgWrite value s
  | .statusWrite value => Sys2Proof.Machine.execStatusWrite value s
  | .loopRegisterWrite which value => Sys2Proof.Machine.execLoopRegisterWrite which value s
  | .xsetWrite value => Sys2Proof.Machine.execXsetWrite value s
  | .dseedWrite value => Sys2Proof.Machine.execDseedWrite value s
  | .lsubWrite value => Sys2Proof.Machine.execLsubWrite value s
  | .lendWrite value => Sys2Proof.Machine.execLendWrite value s
  | .attreqWrite value => Sys2Proof.Machine.execAttreqWrite value s
  | .fwgrantWrite value => Sys2Proof.Machine.execFwgrantWrite value s
  | .preempt part launch => Sys2Proof.Machine.execPreempt part launch s
  | .cellar part block => Sys2Proof.Machine.execCellar part block s
  | .cellarDrainEnd part => Sys2Proof.Machine.execCellarDrainEnd part s
  | .targetUnreachable part => Sys2Proof.Machine.execTargetUnreachable part s
  | .power target => Sys2Proof.Machine.execPower target s
  | .partition cfgs => Sys2Proof.Machine.execPartition cfgs s
  | .cap amps => Sys2Proof.Machine.execCap amps s
  | .attest part block => Sys2Proof.Machine.execAttest part block s
  | .xunload slot => Sys2Proof.Machine.execXunload slot s
  | .currentSample amps => Sys2Proof.Machine.execCurrentSample amps s
  | .lifecycleAdvance target => Sys2Proof.Machine.execLifecycleAdvance target s
  | .debugToken token => Sys2Proof.Machine.execDebugToken token s
  | .grandmasterLost => Sys2Proof.Machine.execGrandmasterLost s
  | .lossOfPower => Sys2Proof.Machine.execLossOfPower s
  | .expansionSetLoad slot set signed => Sys2Proof.Machine.execExpansionSetLoad slot set signed s
  | .uncorrectableError site => Sys2Proof.Machine.execUncorrectableError site s
  | .croftDatapathCheck queue => Sys2Proof.Machine.execCroftDatapathCheck queue s
  | .debugLevelChange part level => Sys2Proof.Machine.execDebugLevelChange part level s

end Sys2Proof.Machine
end

