-- ==== Sys2Proof/Machine/Agents.lean ====
section
/-! DEFINITION. What one step of the machine does: the sequencer's boundary work, fetch and execution (R61, R85, R384, R395), the
turns of the other agents, the idle croft, and the passing of time. -/

namespace Sys2Proof.Machine

/-! ### Caches (R85, R233, R250) -/

/-- The block of an address stays in the decoded-op cache, from the byte cache beneath it or fetched whole into both (R85). -/
def State.fillBlock (s : State) (sup : Bool) (a : Word) : State :=
  let va := granule a.toNat
  let cid := s.task.id.cid
  if (s.cachedBlock cid va).isSome || s.task.addrKind a != .global then s
  else
    match s.accessCheck (s.who sup) .fetch (wd va), s.lookup (s.who sup) va with
    | .ok (_, p), .leaf pte level =>
      let w := s.task.id.world
      let line : ByteLine :=
        { cid := cid, world := w, va := va, size := 2 ^ pageBits level, global := bit pte 5, bytes := s.readPlace w p 64 }
      let k := (s.cachedLine cid va).getD line
      let b : OpBlock :=
        { cid := cid, slot := s.ctxs[cid].xset, world := k.world, va := va, size := k.size, global := k.global, bytes := k.bytes }
      { s with
        ops := makeRoom opBlocks (fun b => s.passing b.va) (s.ops ++ [b])
        lines := makeRoom byteLines (fun b => s.passing b.va) (if (s.cachedLine cid va).isSome then s.lines else s.lines ++ [line]) }
    | _, _ => s

/-- A block is dropped, but not the one the sequencer is passing through (R85). -/
def State.dropBlock (s : State) (a : Word) : State :=
  let va := granule a.toNat
  if s.passing va then s else { s with ops := s.ops.filter fun b => b.va != va }

/-- A line of the byte cache is dropped, but not one of the block the sequencer is passing through (R85). -/
def State.dropLine (s : State) (a : Word) : State :=
  let va := granule a.toNat
  if s.passing va then s else { s with lines := s.lines.filter fun b => b.va != va }

/-- A translation of the running task's context is retained (R233). -/
def State.fillTlb (s : State) (a : Word) : State :=
  let va := a.toNat
  if !s.running || s.task.addrKind a != .global || s.tlb.any (·.covers s.task.id.cid va) then s
  else
    match s.lookup (s.who true) va with
    | .leaf pte level =>
      let size := 2 ^ pageBits level
      { s with tlb := s.tlb ++ [⟨s.task.id.cid, va / size * size, size, pte⟩] }
    | _ => s

/-- Retained translations of an address are dropped. -/
def State.dropTlb (s : State) (a : Word) : State :=
  { s with tlb := s.tlb.filter fun e => !(e.base ≤ a.toNat && a.toNat < e.base + e.size) }

/-! ### The sequencer -/

/-- The TVAL of a word that decodes to a fault (R390). -/
def decodeTval (c : Cause) (w : Nat) : Word := if c = .zeroWord then 0 else wd w

/-- FRAME counts from a task's first instruction (R322). -/
def State.beginFrame (s : State) : State :=
  s.setTask fun t => { t with id := { t.id with birth := some (t.id.birth.getD s.dev.cycle) } }

/-- Fetch the instruction at pc and execute it (R61, R79). -/
def State.fetchRun (s : State) : Result :=
  match s.fetchWord s.sup s.task.pc with
  | .bad r => .next (s.fault r)
  | .wait => .next s
  | .stop f => .fault f
  | .ok w =>
    let s1 := (s.fillBlock s.sup s.task.pc).beginFrame
    match decode s.sup w with
    | .fault c => .next (s1.fault ⟨c, decodeTval c w, none⟩)
    | .instr i => exec i s1

/-- The watchdog cause is pending from the boundary at which the budget is exceeded (R318). -/
def State.raiseWatchdog (s : State) : State :=
  if s.overBudget then
    s.setTask fun t => { t with pend := { t.pend with watchdog := true }, id := { t.id with wdogDone := true } }
  else s

/-- One boundary of the sequencer: a pre-emption (R395), else an asynchronous trap (R384), else the instruction at pc; or the next
piece of the access it is in the middle of (R195, R221). -/
def State.seqStep (s : State) : Result :=
  if !s.running then .next s
  else
    match s.task.part with
    | some p => exec p.instr s
    | none =>
      if s.canPreempt then .next s.servePreempt
      else
        let s1 := s.raiseWatchdog
        match s1.asyncTrap with
        | some s2 => .next s2
        | none => s1.fetchRun

/-! ### Other turns -/

/-- A step of the device, not an instruction of the sequencer nor a write that only one of its instructions makes. -/
def isStep (i : Instr) : Bool :=
  (encode i).isNone && match i with
    | .fctlWrite _ => false
    | .slipWrite _ => false
    | .lcfgWrite _ => false
    | .statusWrite _ => false
    | .loopRegisterWrite _ _ => false
    | .xsetWrite _ => false
    | .dseedWrite _ => false
    | .lsubWrite _ => false
    | .lendWrite _ => false
    | .attreqWrite _ => false
    | .fwgrantWrite _ => false
    | .registerWrite (.csr _) _ => false
    | _ => true

/-- Die cycles pass: the watchdog counts them while a task occupies the croft (R318). -/
def State.tick (s : State) (n : Nat) : State :=
  { s with
    dev := { s.dev with cycle := s.dev.cycle + n }
    task := if s.running then { s.task with id := { s.task.id with wdog := s.task.id.wdog + n } } else s.task }

/-- Die cycles pass while TIME is slewed towards the grandmaster's: it gains or loses at most 200 ppm, so it never decreases and
never steps (R305, R425; log 37). -/
def State.slew (s : State) (n : Nat) (ns : Int) : State :=
  let s1 := s.tick n
  if s.up && s.dev.ptpLocked && ns.natAbs * 5000 ≤ n * 10 / 27 then
    { s1 with dev := { s1.dev with timeBase := s1.dev.timeBase + ns } }
  else s1

/-- One turn of an agent (log 3). -/
def State.turn (s : State) : Turn → Result
  | .sequencer => s.seqStep
  | .ve => .next s.veStep
  | .store => .next s.storeStep
  | .thresher => .next s.thrStep
  | .copy k => .next (s.copyStep k)
  | .stream q => .next (s.streamStep q)
  | .lantern p => .next (if s.awake then s.lanternStep p else s)
  | .event i => if isStep i then exec i s else .next s
  | .corrected u => .next (if s.up then s.correctedError u else s)
  | .tlbFill a => .next (s.fillTlb a)
  | .opFill a => .next (if s.running then s.fillBlock s.sup a else s)
  | .tlbDrop a => .next (s.dropTlb a)
  | .opDrop a => .next (s.dropBlock a)
  | .lineDrop a => .next (s.dropLine a)
  | .drain p g => .next (s.drainGranule p g)
  | .idle => .next s.goIdle
  | .nonce n => .next (s.issueNonce n)
  | .badFrame j kind f => .next (s.badFrame j kind f)
  | .firmware p pa n bytes => .next (s.firmware p pa n bytes)
  | .bar0Read p offset => .next (s.bar0Read p offset)
  | .pcie p => .next (s.setPcie p)
  | .config => .next s.configRequest
  | .badEcrc => .next s.badEcrc
  | .cycles n => .next (s.tick n)
  | .slew n ns => .next (s.slew n ns)

/-! ### The default order (log 3) -/

/-- A step of every engine of the croft. -/
def State.engines (s : State) : State :=
  let s1 := s.veStep.storeStep.thrStep
  let s2 := (List.ofFn (n := 4) id).foldl State.copyStep s1
  (List.ofFn (n := 8) id).foldl State.streamStep s2

/-- A ring whose doorbell told of a packet the Gleaner has not read yet (R420). -/
def State.waitingRing (s : State) : Option (Fin 64) :=
  (List.ofFn (n := 64) id).find? s.hasPacket

/-- A step with nothing scheduled: the Gleaner takes a waiting packet, else completes a launch, else the engines and the sequencer
of a busy croft move, or an idle croft pops. -/
def State.round (s : State) : Result :=
  match s.waitingRing with
  | some c => execLaunchPacket c s
  | none =>
    match s.launches.find? s.exhausted with
    | some L => .next (s.completeLaunch L.part L.id)
    | none => if s.running then s.engines.seqStep else execPop s

/-- After every step a cycle has passed (log 3), writes of the module that waited are made if they can be (R268, R414), host accesses that waited are made if they can be (R273), and groups whose entry was
cleared are whole (R290). -/
def State.finish (s : State) : State := ((s.tick 1).deliverLate s.late.length).deliverPosted.mendGroups

/-- Do something to the next state. -/
def onNext (f : State → State) : Result → Result
  | .next s => .next (f s)
  | .fault r => .fault r
  | .refused r => .refused r

/-- One step of the machine: the next scheduled turn, or a round. -/
def State.move (s : State) : Result :=
  onNext State.finish (match s.schedule with
    | [] => s.round
    | t :: rest => ({ s with schedule := rest }).turn t)

/-! ### Placing one instruction (log 4) -/

/-- The launch that a placed instruction's task belongs to. -/
def placedLaunch : Launch :=
  { id := 0, cid := 0, part := 0, prio := 0, det := false, stamped := false, start := 0, preds := [], seed := 0, qbase := 0
    capacity := 1, hwm := 1, budget := 0, done := 0, queue := [], saved := [], parked := [], tasks := 0 }

/-- The task of a placed instruction, at the page the placement maps. -/
def placedTask : Task := Task.start 0x10000 0 0 0 false 64 { Ident.none with tid := 1 }

/-- A leaf PTE for device page 0x10000 with every permission (R231). -/
def placedPte : Word := 0x1011F#64

/-- The machine about to execute the bytes placed at pc: a task runs, its page is mapped, the sequencer moves next, and no
trap, pre-emption or cached block comes before it. -/
def State.placed (s : State) (bs : List Byte) : State :=
  let s1 := if s.running then s
    else { s with task := placedTask, running := true, launches := s.launches ++ [placedLaunch], nextTid := s.nextTid + 2 }
  let pc := s1.task.pc.toNat
  { s1 with
    task := { s1.task with pend := Pending.none, part := none, id := { s1.task.id with wdogDone := true } }
    tlb := ⟨s1.task.id.cid, pc / 0x10000 * 0x10000, 0x10000, placedPte⟩ :: s1.tlb
    ops := []
    lines := []
    mem := s1.mem.putBytes (0x10000 + pc % 0x10000) bs
    badLines := []
    schedule := [Turn.sequencer] }

end Sys2Proof.Machine
end

