-- ==== Sys2Proof/Machine/Step.lean ====
section
/-! DEFINITION. The step of the machine, and the placing of one instruction word where it is fetched next. -/

namespace Sys2Proof.Machine

/-- One step (Machine/Agents.lean). -/
def step (s : State) : Host.Outcome State Fault Refusal := s.move

/-- The state with an instruction placed where the next step fetches it (log 4): on a machine with no task a program is
loaded from outside, as a launch with one running task. -/
def State.withFetchWord (s : State) (nbits w : Nat) : State := s.placed (bytesOfWord (w % 2 ^ Nat.min nbits 32))

end Sys2Proof.Machine
end

