-- ==== Sys2Proof/Safety.lean ====
section
/-! DEFINITION. The terms that claims about the machine use: the canonical form of every memory of a state, completion of an
instruction, frames, and the results the spec gives, written with plain integers apart from the meanings. -/

namespace Sys2Proof.Machine

/-! ### The canonical form -/

/-- Every memory a state holds is in canonical form: device, host and peer memory, the lofts of the running and of every kept
task, the copies of every world, and the snapshots of Cellars in progress. -/
def State.wf (s : State) : Bool :=
  s.mem.wf && s.host.wf && s.peer.wf && s.task.loft.wf && s.keptTasks.all (fun t => t.loft.wf)
    && s.worlds.all (fun w => w.bytes.wf)
    && s.parts.toList.all fun p => match p.cellar with
      | some c => c.snapshot.wf
      | none => true

/-! ### Completion and frames -/

/-- An instruction answers a next state that has a property. -/
def Completes (i : Instr) (s : State) (P : State → Prop) : Prop := ∃ t, exec i s = .next t ∧ P t

/-- Every byte of every place reads the same, in the view of every world (R349). -/
def SameBytes (s t : State) : Prop := ∀ w p, t.readPlace w p 1 = s.readPlace w p 1

/-- Nothing but the x registers, the CSRs and the pc of the running task differs. -/
def OnlyRegs (s t : State) : Prop := t = { s with task := { s.task with x := t.task.x, csr := t.task.csr, pc := t.task.pc } }

/-- x[d] holds a value and every other register what it held; a write to x0 is discarded (R24). -/
def Wrote (s t : State) (d : XReg) (v : Word) : Prop := ∀ r : XReg, t.task.x[r] = if r = d ∧ d ≠ 0 then v else s.task.x[r]

/-- No x register changed. -/
def SameX (s t : State) : Prop := t.task.x = s.task.x

/-- The CSRs are `c` after the loop-end check of R123 for the instruction at pc, which goes on at pc + 4 unless a level steps
back. -/
def Retired (s t : State) (c : Csrs) : Prop :=
  t.task.csr = (c.loopEnd s.task.pc (s.task.pc + 4)).1 ∧ t.task.pc = (c.loopEnd s.task.pc (s.task.pc + 4)).2

/-! ### Integer results (R111 to R115) -/

/-- A condition as 0 or 1. -/
def oneIf (p : Prop) [Decidable p] : Word := if p then 1 else 0

/-- The register an integer instruction writes and the value, by integer arithmetic on the operands. -/
def aluSpec (s : State) : Instr → Option (XReg × Word)
  | .add d a b => some (d, wd ((s.x a).toNat + (s.x b).toNat))
  | .sub d a b => some (d, ofInt ((s.x a).toInt - (s.x b).toInt))
  | .andR d a b => some (d, wd ((s.x a).toNat &&& (s.x b).toNat))
  | .orR d a b => some (d, wd ((s.x a).toNat ||| (s.x b).toNat))
  | .xorR d a b => some (d, wd ((s.x a).toNat ^^^ (s.x b).toNat))
  | .sll d a b => some (d, wd ((s.x a).toNat * 2 ^ ((s.x b).toNat % 64)))
  | .srl d a b => some (d, wd ((s.x a).toNat / 2 ^ ((s.x b).toNat % 64)))
  | .sra d a b => some (d, ofInt ((s.x a).toInt / 2 ^ ((s.x b).toNat % 64)))
  | .slt d a b => some (d, oneIf ((s.x a).toInt < (s.x b).toInt))
  | .sltu d a b => some (d, oneIf ((s.x a).toNat < (s.x b).toNat))
  | .min d a b => some (d, ofInt (min (s.x a).toInt (s.x b).toInt))
  | .max d a b => some (d, ofInt (max (s.x a).toInt (s.x b).toInt))
  | .minu d a b => some (d, wd (min (s.x a).toNat (s.x b).toNat))
  | .maxu d a b => some (d, wd (max (s.x a).toNat (s.x b).toNat))
  | .mul d a b => some (d, wd ((s.x a).toNat * (s.x b).toNat))
  | .mhis d a b => some (d, ofInt ((s.x a).toInt * (s.x b).toInt / 2 ^ 64))
  | .mhiu d a b => some (d, wd ((s.x a).toNat * (s.x b).toNat / 2 ^ 64))
  | .div d a b => some (d, ofInt (
      if (s.x b).toInt = 0 then if (s.x a).toInt < 0 then -2 ^ 63 else 2 ^ 63 - 1
      else min (2 ^ 63 - 1) ((s.x a).toInt.tdiv (s.x b).toInt)))
  | .divu d a b => some (d, wd (if (s.x b).toNat = 0 then 2 ^ 64 - 1 else (s.x a).toNat / (s.x b).toNat))
  | .rem d a b => some (d, ofInt (if (s.x b).toInt = 0 then (s.x a).toInt else (s.x a).toInt.tmod (s.x b).toInt))
  | .remu d a b => some (d, wd (if (s.x b).toNat = 0 then (s.x a).toNat else (s.x a).toNat % (s.x b).toNat))
  | .clz d a => some (d, wd (if (s.x a).toNat = 0 then 64 else 63 - (s.x a).toNat.log2))
  | .ctz d a => some (d, wd (((List.range 64).find? fun k => (s.x a).toNat.testBit k).getD 64))
  | .popc d a => some (d, wd ((List.range 64).filter fun k => (s.x a).toNat.testBit k).length)
  | .sel d a b => some (d, if (s.x d).toNat = 0 then s.x b else s.x a)
  | .addi d a i => some (d, ofInt ((s.x a).toInt + i.toInt))
  | .andi d a i => some (d, wd ((s.x a).toNat &&& i.toNat))
  | .ori d a i => some (d, wd ((s.x a).toNat ||| i.toNat))
  | .xori d a i => some (d, wd ((s.x a).toNat ^^^ i.toNat))
  | .slti d a i => some (d, oneIf ((s.x a).toInt < i.toInt))
  | .sltiu d a i => some (d, oneIf ((s.x a).toNat < i.toNat))
  | .slli d a n => some (d, wd ((s.x a).toNat * 2 ^ n.toNat))
  | .srli d a n => some (d, wd ((s.x a).toNat / 2 ^ n.toNat))
  | .srai d a n => some (d, ofInt ((s.x a).toInt / 2 ^ n.toNat))
  | .lui d i => some (d, ofInt (i.toInt * 0x10000))
  | .luipc d i => some (d, ofInt ((s.task.pc.toNat / 0x10000 * 0x10000 : Nat) + i.toInt * 0x10000))
  | _ => none

/-! ### Branches, jumps and loops (R119 to R125) -/

/-- Whether a conditional branch is taken, with its offset in words. -/
def branchSpec (s : State) : Instr → Option (Prop × Int)
  | .beq b a i => some (s.x a = s.x b, i.toInt)
  | .bne b a i => some (s.x a ≠ s.x b, i.toInt)
  | .blt b a i => some ((s.x a).toInt < (s.x b).toInt, i.toInt)
  | .bge b a i => some ((s.x b).toInt ≤ (s.x a).toInt, i.toInt)
  | .bltu b a i => some ((s.x a).toNat < (s.x b).toNat, i.toInt)
  | .bgeu b a i => some ((s.x b).toNat ≤ (s.x a).toNat, i.toInt)
  | _ => none

/-- The count of a level after a taken branch from `e` to `t` (R124). -/
def leftLevel (ls le lc e t : Word) : Word :=
  if lc ≠ 0 ∧ (ls.toNat ≤ e.toNat ∧ e.toNat ≤ le.toNat) ∧ ¬ (ls.toNat ≤ t.toNat ∧ t.toNat ≤ le.toNat) then 0 else lc

/-- The level a LOOP or LOOPI sets, its count, and its LE (R122). -/
def loopSpec (s : State) : Instr → Option (Fin 2 × Word × Word)
  | .loop l a o => some (l, s.x a, s.task.pc + wd (4 * o.toNat))
  | .loopi l c o => some (l, wd c.toNat, s.task.pc + wd (4 * o.toNat))
  | _ => none

/-- The CSRs with a loop level set; bits [1:0] of LS and LE are zero (R4, R122). -/
def withLevel (c : Csrs) (l : Fin 2) (ls le lc : Word) : Csrs :=
  if l = 0 then { c with ls0 := wd (ls.toNat / 4 * 4), le0 := wd (le.toNat / 4 * 4), lc0 := lc }
  else { c with ls1 := wd (ls.toNat / 4 * 4), le1 := wd (le.toNat / 4 * 4), lc1 := lc }

/-- Level 1 lies inside level 0 whenever both are active (R125). -/
def LoopsNest (c : Csrs) : Prop :=
  c.lc0 = 0 ∨ c.lc1 = 0 ∨ (c.ls0.toNat ≤ c.ls1.toNat ∧ c.le1.toNat ≤ c.le0.toNat)

/-! ### Scalar floating point (R131 to R133) -/

/-- What an FPS instruction computes: the register written, the rounding field if it rounds (R100), and its result and flags
from the effective mode and the draw (R132). -/
def fpsSpec (s : State) : Instr → Option (XReg × Option FRnd × (RM → Nat → Nat × Flags))
  | .fadd d a b f r => some (d, some r, fun m t => fpsInto f m t (sumNum m [s.fnum f a, s.fnum f b]))
  | .fsub d a b f r => some (d, some r, fun m t => fpsInto f m t (sumNum m [s.fnum f a, (s.fnum f b).negate]))
  | .fmul d a b f r => some (d, some r, fun m t => fpsInto f m t (mulNum (s.fnum f a) (s.fnum f b)))
  | .fdiv d a b f r => some (d, some r, fun m t => fpsInto f m t (divNum (s.fnum f a) (s.fnum f b)))
  | .fsqrt d a f r => some (d, some r, fun m t => fpsInto f m t (sqrtNum (s.fnum f a)))
  | .fmadd d a b f r => some (d, some r, fun m t => fpsInto f m t (fmaNum m (s.fnum f a) (s.fnum f b) (s.fnum f d)))
  | .fcvtfi d a f r => some (d, some r, fun m t => (FFmt.float f).round m t (.ofInt (s.x a).toInt))
  | .fcvtif d a f r => some (d, some r, fun m t =>
      (wrapN 64 (roundInt m t (-(2 ^ 63)) (2 ^ 63 - 1) (s.fnum f a)).1, (roundInt m t (-(2 ^ 63)) (2 ^ 63 - 1) (s.fnum f a)).2))
  | .fcvtff d a .s r => some (d, some r, fun m t => ff32.round m t (s.fnum .d a))
  | .fcvtff d a .d _ => some (d, none, fun _ _ => ff64.round .rne 0 (s.fnum .s a))
  | .fmin d a b f => some (d, none, fun _ _ => minMaxBits (FFmt.float f).nanBits false (s.fnum f a) (s.fnum f b)
      (fOperand f (s.x a)) (fOperand f (s.x b)))
  | .fmax d a b f => some (d, none, fun _ _ => minMaxBits (FFmt.float f).nanBits true (s.fnum f a) (s.fnum f b)
      (fOperand f (s.x a)) (fOperand f (s.x b)))
  | .flt d a b f => some (d, none, fun _ _ =>
      if (s.fnum f a).isNaN ∨ (s.fnum f b).isNaN then (0, fNV)
      else (if (s.fnum f a).cmp (s.fnum f b) = .lt then 1 else 0, 0))
  | .feq d a b f => some (d, none, fun _ _ =>
      if (s.fnum f a).isNaN ∨ (s.fnum f b).isNaN then
        (0, if (s.fnum f a).isSignalling ∨ (s.fnum f b).isSignalling then fNV else 0)
      else (if (s.fnum f a).cmp (s.fnum f b) = .eq then 1 else 0, 0))
  | .fle d a b f => some (d, none, fun _ _ =>
      if (s.fnum f a).isNaN ∨ (s.fnum f b).isNaN then (0, fNV)
      else (if (s.fnum f a).cmp (s.fnum f b) = .gt then 0 else 1, 0))
  | _ => none

/-- The effective rounding mode: the field's, or FCTL[2:0] (R131). -/
def effMode (s : State) : FRnd → RM
  | .dyn => RM.ofCode (s.task.csr.fctl.toNat % 8)
  | .rne => .rne
  | .rtz => .rtz
  | .rup => .rup
  | .rdn => .rdn

/-- The draw of an FPS instruction: linear index 0 of the count S (R98, R100, R131). -/
def fpsDraw (s : State) : Nat :=
  stochDraw s.seed (wd (s.task.pc.toNat % 2 ^ 32) ^^^ wd s.task.id.launch.toNat) (wd (1024 * s.task.id.stoch))

/-- The CSRs with flags ORed into FCTL[7:3] (R101, R133). -/
def withFlags (c : Csrs) (f : Flags) : Csrs := { c with fctl := c.fctl ||| wd (8 * f.toNat) }

/-- A signed integer times a power of two. -/
def scaled (v e : Int) : Rat := if 0 ≤ e then ((v * 2 ^ e.toNat : Int) : Rat) else ((v : Int) : Rat) / ((2 ^ (-e).toNat : Nat) : Rat)

/-- The rational value of a finite number read from a format. -/
def Num.rat : Num → Option Rat
  | .fin n m e false => some (scaled (if n then -(m : Int) else m) e)
  | _ => none

/-- The magnitude of a rational. -/
def ratMag (x : Rat) : Rat := if x < 0 then -x else x

/-- The whole number of units that a magnitude of q units rounds to in a mode (R97, R98): t is the draw of R98. -/
def unitsSpec (m : RM) (neg : Bool) (t : Nat) (q : Rat) : Int :=
  let k := q.floor
  let f := q - (k : Rat)
  if f = 0 then k
  else match m with
    | .rne => if f < 1 / 2 then k else if 1 / 2 < f then k + 1 else k + k % 2
    | .rtz => k
    | .rup => if neg then k else k + 1
    | .rdn => if neg then k + 1 else k
    | .rna => if f < 1 / 2 then k else k + 1
    | .stoch => if (t : Int) < (f * 2 ^ 24).floor then k + 1 else k

/-- A binary floating format rounds the value x ≠ 0 to the bits b with the flags fl (R97, R102, R105): to a whole number of units of its
last place, which is never finer than that of the smallest normal; above the largest finite value the overflow of R105. -/
def FloatRounded (F : FloatFmt) (m : RM) (t : Nat) (x : Rat) (b : Nat) (fl : Flags) : Prop :=
  let neg := decide (x < 0)
  let top? (top : Int) : Prop := scaled 1 top ≤ ratMag x ∧ ratMag x < scaled 1 (top + 1)
  let big := (F.decode F.maxBits).rat.getD 0
  let sign := if neg then 2 ^ (F.eb + F.mb) else 0
  ∀ top, top? top →
    let rounded (u : Int) : Rat := scaled (unitsSpec m neg t (ratMag x / scaled 1 u)) u
    let y := rounded (max (top - F.mb) (F.emin - F.mb))
    (big < y → fl = fOF ||| fNX ∧ b = sign +
        (if F.mb < 7 ∨ m = .rtz ∨ (m = .rup ∧ neg = true) ∨ (m = .rdn ∧ neg = false) then F.maxBits else F.infBits))
    ∧ (y ≤ big → sign ≤ b ∧ b - sign < 2 ^ (F.eb + F.mb) ∧ (F.decode b).rat = some (if neg then -y else y)
        ∧ fl = if y = ratMag x then 0 else if rounded (top - F.mb) < scaled 1 F.emin then fUF ||| fNX else fNX)

/-- What a NaN, an infinity and a zero give in a binary floating format (R91, R105). -/
def FloatSpecial (F : FloatFmt) (n : Num) (b : Nat) (fl : Flags) : Prop :=
  match n with
  | .nan sig => b = F.nanBits ∧ fl = if sig then fNV else 0
  | .inf neg => if F.ieeeTop then b = F.signBit neg + F.infBits ∧ fl = 0 else b = F.nanBits ∧ fl = fNV
  | .fin neg m _ sticky => m = 0 → sticky = false → b = F.signBit neg ∧ fl = 0

/-- D8 rounds the value x ≠ 0 to the byte b with the flags fl (R94): the nearest value; of two equally near the one with the even code, else
the one of smaller magnitude. -/
def D8Rounded (x : Rat) (b : Nat) (fl : Flags) : Prop :=
  (scaled 1 15 < ratMag x → b = (if x < 0 then 0x81 else 0x01) ∧ fl = fOF ||| fNX)
    ∧ (ratMag x ≤ scaled 1 15 → b < 256 ∧ ∃ y, (d8Decode b).rat = some y ∧ (y = 0 → b = 0)
        ∧ (∀ c z, c < 256 → (d8Decode c).rat = some z → ratMag (y - x) ≤ ratMag (z - x)
            ∧ (ratMag (y - x) = ratMag (z - x) → z ≠ y → (b % 2 = 0 ∧ c % 2 = 1) ∨ (b % 2 = c % 2 ∧ ratMag y ≤ ratMag z)))
        ∧ fl = if y = x then 0 else if ratMag x < scaled 1 (-15) then fUF ||| fNX else fNX)

/-- An integer format from lo to hi takes the value x as the integer v with the flags fl (R104, R105): rounded under the mode, then
saturated; that a value is judged out of range after its rounding is the model's choice (log 66). -/
def IntRounded (m : RM) (t : Nat) (lo hi : Int) (x : Rat) (v : Int) (fl : Flags) : Prop :=
  let n := unitsSpec m (decide (x < 0)) t (ratMag x)
  let r := if x < 0 then -n else n
  v = max lo (min hi r) ∧ fl = if r < lo ∨ hi < r then fNV else if (r : Rat) = x then 0 else fNX

/-- A value x ≠ 0 rounded into any format (R97, R104, R105). -/
def RoundedTo (f : Fmt) (m : RM) (t : Nat) (x : Rat) (b : Nat) (fl : Flags) : Prop :=
  match floatOf f with
  | some F => FloatRounded F m t x b fl
  | none => if f = .d8 then D8Rounded x b fl
    else ∃ v, IntRounded m t (intMin f) (intMax f) x v fl ∧ b = (v % (2 ^ f.width : Nat)).toNat

/-- A result of any format from a special value (R91, R94, R95, R105). -/
def SpecialTo (f : Fmt) (n : Num) (b : Nat) (fl : Flags) : Prop :=
  let nan := match floatOf f with
    | some F => F.nanBits
    | none => if f = .d8 then 0x80 else 0
  let ieee := match floatOf f with
    | some F => F.ieeeTop
    | none => false
  match n with
  | .nan sig => b = nan ∧ fl = if f.isInt = true ∨ sig = true then fNV else 0
  | .inf neg =>
    if ieee = true then b = ((floatOf f).map fun F => F.signBit neg + F.infBits).getD 0 ∧ fl = 0
    else if f.isInt = true then b = ((if neg then intMin f else intMax f) % (2 ^ f.width : Nat)).toNat ∧ fl = fNV
    else b = nan ∧ fl = fNV
  | .fin neg m _ sticky => m = 0 → sticky = false → fl = 0 ∧ b = match floatOf f with
    | some F => F.signBit neg
    | none => 0

/-! ### CSRs (R28, R363 to R367) -/

/-- What each CSR reads as (R28, R137, R320, R343, R363 to R367, R381); LSUB reads 0 and LEND its ID alone; the TAG of WORLD reads 0 under
DET; REPSIG and ATTREQ are left out. -/
def csrReadsSpec (s : State) : List (Nat × Word) :=
  let c := s.task.csr
  let k := s.ctxs[s.task.id.cid]
  let p := s.parts[s.myPart]
  let det := c.status.toNat / 16 % 2 = 1
  let sh := c.sh.toNat
  let world := s.task.id.worldCsr.toNat
  let cycles := match s.task.id.birth with
    | some b => (s.dev.cycle : Int) - b
    | none => 0
  let lifecycle := match s.dev.lifecycle with
    | .blank => 0 | .develop => 1 | .production => 2 | .returned => 3
  let debug := match p.debug with
    | .off => 0 | .observe => 1 | .invasive => 2
  [(0x000, c.status), (0x001, c.cause), (0x002, c.epc), (0x003, c.tval), (0x004, k.tvec), (0x005, c.scratch), (0x006, c.vepc),
   (0x010, c.fctl), (0x020, c.ls0), (0x021, c.le0), (0x022, c.lc0), (0x023, c.ls1), (0x024, c.le1), (0x025, c.lc1)]
  ++ [(0x030, if det then wd (sh / 2 ^ 32 * 2 ^ 32 + s.partMin p * 2 ^ 24 + sh % 2 ^ 24)
        else if sh % 2 ^ 8 = 0 then wd (sh / 2 ^ 32 * 2 ^ 32 + s.cmax % 2 ^ 8 * 2 ^ 24 + sh % 2 ^ 24) else c.sh),
      (0x031, c.rsh), (0x032, c.arow), (0x033, c.slip), (0x034, c.ssp), (0x035, c.sslim)]
  ++ [(0x040, wd (s.dev.timeBase + (s.dev.cycle * 10 / 27 : Nat)).toNat), (0x041, wd cycles.toNat), (0x042, c.dslack),
      (0x050, (s.myLaunch.map (·.seed)).getD 0), (0x051, s.dev.dseed),
      (0x060, if det then wd (world / 2 ^ 10 * 2 ^ 10) else s.task.id.worldCsr), (0x080, c.lcfg)]
  ++ [(0x090, wd s.task.id.launch.toNat), (0x091, wd ((s.myLaunch.map (·.prio)).getD 0)), (0x0A0, wd k.xset.val),
      (0x100, wd s.task.id.cid.val), (0x101, k.ptbase), (0x102, k.lpool), (0x103, k.wpool), (0x104, k.wtrap)]
  ++ [(0x105, wd (lifecycle * 2 ^ 18 + debug * 2 ^ 16 + p.dies * 2 ^ 8 + p.firstDie * 2 ^ 4 + s.myPart.val)),
      (0x108, p.coltab), (0x109, 0), (0x10A, wd p.lendId.toNat), (0x10B, p.fwgrant)]

/-- The 70 bytes of which REPSIGL and REPSIGH are a digest (R324), for the measurement of the context's expansion set; a croft of an isolated
die is disabled (R411). -/
def repsigSpec (s : State) (measure : List Byte) : List Byte :=
  let p := s.parts[s.myPart]
  let table := (List.range p.dies).flatMap fun d => (List.range 128).map fun c =>
    if s.dev.isolated.any (·.val == p.firstDie + d) then 0 else (s.dev.colmax.getD (p.firstDie + d) []).getD c 0
  measure ++ shake256 (table.map fun c => BitVec.ofNat 8 c) 32 ++ leBytes 2 p.dies ++ leBytes 2 (table.filter (· ≠ 0)).length
    ++ leBytes 1 (s.task.csr.fctl.toNat % 8) ++ leBytes 1 (s.task.csr.status.toNat / 16 % 2)

/-- A CSR instruction (R364): rd, the number, whether it reads, and the value it writes, if it writes. -/
def csrSpec (s : State) : Instr → Option (XReg × Nat × Bool × Option Word)
  | .csrr d n => some (d, n.toNat, true, none)
  | .csrw d a n => some (d, n.toNat, decide (d ≠ 0), some (s.x a))
  | .csrs d a n => some (d, n.toNat, true, if a = 0 then none else some (s.csrValue n.toNat ||| s.x a))
  | .csrc d a n => some (d, n.toNat, true, if a = 0 then none else some (s.csrValue n.toNat &&& ~~~ (s.x a)))
  | _ => none

/-- The CSRC in task mode that may clear STATUS.SB (R363): its mask has no other bit. -/
def clearsSb (s : State) : Instr → Prop
  | .csrc _ a n => n = 0 ∧ (s.x a = 0 ∨ s.x a = 0x20)
  | _ => False

/-- Checks 1 to 4 of R365 pass. -/
def CsrAllowed (s : State) (i : Instr) (n : Nat) (reads writes : Bool) : Prop :=
  (s.sup = true ∨ csrUse n = .readWrite ∨ (csrUse n = .readOnly ∧ writes = false) ∨ clearsSb s i)
    ∧ csrUse n ≠ .unassigned ∧ (writes = true → csrFixed n = false)
    ∧ (s.det = true → reads = true → n ≠ 0x040 ∧ n ≠ 0x041)
    ∧ (s.inRival = true → writes = true → n ∉ [0x051, 0x108, 0x109, 0x10A])

/-- The stall of a CSR's own rule is over (R22, R194, R224); what a trap holds aside does not count (R391). -/
def CsrIdle (s : State) (n : Nat) (writes : Bool) : Prop :=
  (n = 0x010 → s.task.veQ = [])
    ∧ (n = 0x000 → ∀ e ∈ s.task.openStores, e.isVsto = false ∨ e.begun = true)
    ∧ (n = 0x080 → writes = true → s.task.veQ = [] ∧ s.task.openStores = [] ∧ s.enginesDone = true)

/-- What a write leaves in the CSRs held per task (R4, R21, R99, R223, R363, R366). -/
def taskCsrSpec (n : Nat) (v : Word) (c : Csrs) : Option Csrs :=
  let x := v.toNat
  match n with
  | 0x000 => some { c with status := wd (x / 2 % 8 * 2 + x / 32 % 2 * 32 + c.status.toNat % 2 + c.status.toNat / 16 % 2 * 16) }
  | 0x001 => some { c with cause := wd (x % 2 ^ 15) }
  | 0x002 => some { c with epc := wd (x / 4 * 4 + x % 2) }
  | 0x003 => some { c with tval := v }
  | 0x005 => some { c with scratch := v }
  | 0x006 => some { c with vepc := v }
  | 0x010 => some { c with fctl := wd (x % 256 / 8 * 8 + if x % 8 < 6 then x % 8 else c.fctl.toNat % 8) }
  | 0x020 => some { c with ls0 := wd (x / 4 * 4) }
  | 0x021 => some { c with le0 := wd (x / 4 * 4) }
  | 0x022 => some { c with lc0 := v }
  | 0x023 => some { c with ls1 := wd (x / 4 * 4) }
  | 0x024 => some { c with le1 := wd (x / 4 * 4) }
  | 0x025 => some { c with lc1 := v }
  | 0x032 => some { c with arow := wd (x % 4) }
  | 0x033 => some { c with slip := wd (max 1 (min 32 x)) }
  | 0x034 => some { c with ssp := v }
  | 0x035 => some { c with sslim := v }
  | 0x042 => some { c with dslack := wd (x % 2 ^ 32) }
  | 0x080 => some { c with lcfg := if x % 32 ≤ 16 then wd (x % 32) else c.lcfg }
  | _ => none

/-- The loop registers, whose writes R125 checks. -/
def isLoopCsr (n : Nat) : Bool := 0x020 ≤ n && n ≤ 0x025

/-- What a write leaves in a context's CSRs (R4, R366). -/
def ctxCsrSpec (n : Nat) (v : Word) (k : Context) : Option Context :=
  let x := v.toNat
  match n with
  | 0x004 => some { k with tvec := wd (x / 4 * 4) }
  | 0x101 => some { k with ptbase := wd (x % 2 ^ 52 / 2 ^ 16 * 2 ^ 16) }
  | 0x102 => some { k with lpool := wd (x % 2 ^ 52 / 2 ^ 21 * 2 ^ 21 + x % 2 ^ 17) }
  | 0x103 => some { k with wpool := wd (x % 2 ^ 52 / 2 ^ 21 * 2 ^ 21 + x % 2 ^ 17) }
  | 0x104 => some { k with wtrap := wd (x % 2 ^ 56 / 4 * 4 + x % 2) }
  | _ => none

/-- What a write leaves in a partition's CSRs (R4, R366, R375). -/
def partCsrSpec (n : Nat) (v : Word) (p : Partition) : Option Partition :=
  let x := v.toNat
  match n with
  | 0x108 => some { p with coltab := wd (x % 2 ^ 52 / 2 ^ 16 * 2 ^ 16 + x % 2) }
  | 0x10A => if x / 2 ^ 15 % 2 = 0 then some { p with lendId := BitVec.ofNat 12 (x % 2 ^ 12) } else none
  | 0x10B => some { p with fwgrant := wd (x % 2 ^ 52 / 2 ^ 21 * 2 ^ 21 + x % 2 ^ 19) }
  | _ => none

/-- The state in which the running task's context, or its partition, or DSEED holds what a write leaves (R366). -/
def sharedCsrSpec (s : State) (n : Nat) (v : Word) : Option State :=
  if n = 0x051 then some { s with dev := { s.dev with dseed := v } }
  else
    match ctxCsrSpec n v s.ctxs[s.task.id.cid], partCsrSpec n v s.parts[s.myPart] with
    | some k, _ => some { s with ctxs := s.ctxs.set s.task.id.cid k }
    | none, some p => some { s with parts := s.parts.set s.myPart p }
    | none, none => none

/-- The step of the table that writes a CSR (log 10), with the CSR's number. -/
def writeStepSpec : Instr → Option (Nat × Word)
  | .fctlWrite v => some (0x010, v)
  | .slipWrite v => some (0x033, v)
  | .lcfgWrite v => some (0x080, v)
  | .statusWrite v => some (0x000, v)
  | .loopRegisterWrite k v => some (0x020 + k.val, v)
  | .xsetWrite v => some (0x0A0, v)
  | .dseedWrite v => some (0x051, v)
  | .lsubWrite v => some (0x109, v)
  | .lendWrite v => some (0x10A, v)
  | .attreqWrite v => some (0x10C, v)
  | .fwgrantWrite v => some (0x10B, v)
  | .registerWrite (.csr n) v => some (n.toNat, v)
  | _ => none

/-! ### Memory accesses (R116 to R118, R226, R242 to R244) -/

/-- The kind of a place and its byte number there. -/
def Place.key : Place → Nat × Nat
  | .loft o => (0, o)
  | .device pa => (1, pa)
  | .host a => (2, a)
  | .peer e o => (3, peerKey e o)

/-- A byte's place lies among the n bytes from a place on. -/
def Place.among (q p : Place) (n : Nat) : Prop := q.key.1 = p.key.1 ∧ p.key.2 ≤ q.key.2 ∧ q.key.2 < p.key.2 + n

/-- The bytes of a place as the running task reads them. -/
def State.sees (s : State) (p : Place) (n : Nat) : List Byte := s.readPlace s.task.id.world p n

/-- Checks 3 to 5 of R117 find the place p of an access of n bytes, in the state s1 after a refill of the loft page (R226), and nothing
holds the access back: no vector store of this or of a kept task (R236, R268), no Thresher command (R215), no claim and no Cellar
that a write would wait for (R349, R414). -/
def Finds (s : State) (acc : Acc) (a : Word) (n : Nat) (s1 : State) (p : Place) : Prop :=
  s.placeFind (s.who s.sup) acc a = .ok (s1, p) ∧ s1.task.windowBusy = .free ∧ s1.busy p n (acc != .load) = .free
    ∧ s1.keptHolds s1.task.id.world p n (acc != .load) = false ∧ (acc ≠ .load → s1.writeHeld s1.task.id.world p = false)

/-- Checks 6 and 7 of R117 pass for n bytes at a place. -/
def Sound (s : State) (acc : Acc) (a : Word) (n : Nat) (p : Place) : Prop :=
  s.windowCheck (s.who s.sup) a p = .ok () ∧ s.lineCheck (s.who s.sup) acc a n p = .ok ()

/-- Where an access of the running task to n bytes at an address goes: checks 3 to 7 of R117 pass and nothing holds it back. -/
def Reaches (s : State) (acc : Acc) (a : Word) (n : Nat) (s1 : State) (p : Place) : Prop :=
  Finds s acc a n s1 p ∧ Sound s1 acc a n p

/-- A byte lies in the reserve of a running Cellar, which root writes may fill (R414). -/
def State.inReserve (s : State) (q : Place) : Prop :=
  ∃ i : Fin 16, ∃ c pa, s.parts[i].present = true ∧ s.parts[i].cellar = some c ∧ q = .device pa
    ∧ (c.block.getD 0 0).toNat ≤ pa ∧ pa < (c.block.getD 0 0).toNat + (c.block.getD 1 0).toNat % 2 ^ 32 * 0x200000

/-- The reserve of every running Cellar has room for n more granules (R414). -/
def CellarRoom (s : State) (n : Nat) : Prop :=
  ∀ (i : Fin 16) (c : Cellar), s.parts[i].cellar = some c → c.copied.length + n ≤ (c.block.getD 1 0).toNat % 2 ^ 32 * 512

/-- Nothing of the partitions differs but what running Cellars have kept. -/
def CellarsOnly (s t : State) : Prop :=
  ∀ i : Fin 16, t.parts[i] = { s.parts[i] with cellar := t.parts[i].cellar } ∧ t.parts[i].cellar.isSome = s.parts[i].cellar.isSome

/-- Nothing but the loft and the list of its pages to refill differs, and no byte outside a page refilled does (R226). -/
def RefillOnly (s s1 : State) : Prop :=
  s1 = { s with task := { s.task with loft := s1.task.loft, id := { s.task.id with unfilled := s1.task.id.unfilled } } }
    ∧ ∀ o, (s.task.id.unfilled.contains (o / 0x10000) = false ∨ s1.task.id.unfilled.contains (o / 0x10000) = true) →
        s1.task.loft.get o = s.task.loft.get o

/-- The Thresher's latch stands, or is empty because a byte of its tile was written (R200). -/
def LatchKept (s t : State) : Prop := t.task.thr.latch = s.task.thr.latch ∨ t.task.thr.latch = none

/-- The value of the low `w` bits, sign-extended. -/
def sx (w n : Nat) : Word := if n % 2 ^ w < 2 ^ (w - 1) then wd (n % 2 ^ w) else ofInt ((n % 2 ^ w : Nat) - (2 ^ w : Nat))

/-- A load: rd, its address, its width in bytes, and how its value is extended (R116). -/
def loadSpec (s : State) : Instr → Option (XReg × Word × Nat × (Nat → Word))
  | .lb d a i => some (d, s.x a + ofInt i.toInt, 1, sx 8)
  | .lbu d a i => some (d, s.x a + ofInt i.toInt, 1, wd)
  | .lh d a i => some (d, s.x a + ofInt i.toInt, 2, sx 16)
  | .lhu d a i => some (d, s.x a + ofInt i.toInt, 2, wd)
  | .lw d a i => some (d, s.x a + ofInt i.toInt, 4, sx 32)
  | .lwu d a i => some (d, s.x a + ofInt i.toInt, 4, wd)
  | .ld d a i => some (d, s.x a + ofInt i.toInt, 8, wd)
  | _ => none

/-- A store: its address, its width in bytes and the register's value (R116). -/
def storeSpec (s : State) : Instr → Option (Word × Nat × Word)
  | .sb b a i => some (s.x a + ofInt i.toInt, 1, s.x b)
  | .sh b a i => some (s.x a + ofInt i.toInt, 2, s.x b)
  | .sw b a i => some (s.x a + ofInt i.toInt, 4, s.x b)
  | .sd b a i => some (s.x a + ofInt i.toInt, 8, s.x b)
  | _ => none

/-- The frame of a store of bytes at a place: nothing differs but the CSRs, the x registers and the pc, the loft, the memories and
their line and dirty records, and what a running Cellar keeps; no byte but those and those of its reserve is read differently; a
rival writes its own view only (R349). -/
def Stored (s t : State) (p : Place) (bs : List Byte) : Prop :=
  t = { s with
        task := { s.task with
          x := t.task.x, csr := t.task.csr, pc := t.task.pc, loft := t.task.loft, badLoft := t.task.badLoft
          loftPages := t.task.loftPages, thr := { s.task.thr with latch := t.task.thr.latch } }
        mem := t.mem, host := t.host, peer := t.peer, badLines := t.badLines, dirty := t.dirty, worlds := t.worlds, parts := t.parts }
    ∧ CellarsOnly s t ∧ LatchKept s t ∧ t.sees p bs.length = bs
    ∧ (∀ q, ¬ q.among p bs.length → ¬ s.inReserve q → t.sees q 1 = s.sees q 1)
    ∧ (∀ u, u ≠ s.task.id.world → t.world? u = s.world? u)
    ∧ ((s.world? s.task.id.world).isSome = true → t.mem = s.mem ∧ t.badLines = s.badLines ∧ t.parts = s.parts)

/-- The new value of an AMO on `w` bytes, from old, s and c; none when nothing is written (R242). -/
def amoSpec (w old v c : Nat) : Instr → Option Nat
  | .amoswap .. => some v
  | .amoadd .. => some ((old + v) % 2 ^ (8 * w))
  | .amoand .. => some (old &&& v)
  | .amoor .. => some (old ||| v)
  | .amoxor .. => some (old ^^^ v)
  | .amomin .. => some (if (sx (8 * w) old).toInt ≤ (sx (8 * w) v).toInt then old else v)
  | .amomax .. => some (if (sx (8 * w) old).toInt ≤ (sx (8 * w) v).toInt then v else old)
  | .amominu .. => some (min old v)
  | .amomaxu .. => some (max old v)
  | .amocas .. => if old = c then some v else none
  | .amofadd .. => some ((if w = 4 then ff32 else ff64).round .rne 0
      (sumNum .rne [(if w = 4 then ff32 else ff64).decode old, (if w = 4 then ff32 else ff64).decode v]).1).1
  | _ => none

/-- The flags of AMOFADD (R245). -/
def amoFlags (w old v : Nat) : Instr → Flags
  | .amofadd .. =>
    let F := if w = 4 then ff32 else ff64
    let n := sumNum .rne [F.decode old, F.decode v]
    n.2 ||| (F.round .rne 0 n.1).2
  | _ => 0

/-- The fields of an AMO: rd, the registers of the address and of s, the scope and whether w is 4 (R242). -/
def amoFields : Instr → Option (XReg × XReg × XReg × Scope × Bool)
  | .amoswap d a b c _ _ w => some (d, a, b, c, w) | .amoadd d a b c _ _ w => some (d, a, b, c, w)
  | .amoand d a b c _ _ w => some (d, a, b, c, w) | .amoor d a b c _ _ w => some (d, a, b, c, w)
  | .amoxor d a b c _ _ w => some (d, a, b, c, w) | .amomin d a b c _ _ w => some (d, a, b, c, w)
  | .amomax d a b c _ _ w => some (d, a, b, c, w) | .amominu d a b c _ _ w => some (d, a, b, c, w)
  | .amomaxu d a b c _ _ w => some (d, a, b, c, w) | .amocas d a b c _ _ w => some (d, a, b, c, w)
  | .amofadd d a b c _ _ w => some (d, a, b, c, w)
  | _ => none

/-- The release flag of an AMO (R242). -/
def amoRel : Instr → Bool
  | .amoswap _ _ _ _ _ l _ => l
  | .amoadd _ _ _ _ _ l _ => l
  | .amoand _ _ _ _ _ l _ => l
  | .amoor _ _ _ _ _ l _ => l
  | .amoxor _ _ _ _ _ l _ => l
  | .amomin _ _ _ _ _ l _ => l
  | .amomax _ _ _ _ _ l _ => l
  | .amominu _ _ _ _ _ l _ => l
  | .amomaxu _ _ _ _ _ l _ => l
  | .amocas _ _ _ _ _ l _ => l
  | .amofadd _ _ _ _ _ l _ => l
  | _ => false

/-- A vector store entry has a granule in a type-2 page (R236). -/
def StoreEntry.toWindow (e : StoreEntry) : Prop := ∃ g ∈ e.granules ++ e.left, g.2.isWindow = true

/-- The operations a host performs (R244). -/
def hostAmo : Instr → Bool
  | .amoswap .. => true
  | .amoadd .. => true
  | .amocas .. => true
  | _ => false

/-- Target and scope agree (R244). -/
def scopeAgrees (i : Instr) (c : Scope) : Place → Prop
  | .loft _ => c = .croft
  | .device _ => True
  | .host _ => c = .fabric ∧ hostAmo i = true
  | .peer _ _ => c = .fabric

/-- The state in the middle of an access: the pieces left, and what was read of those moved (R195, R221). -/
def amid (s : State) (i : Instr) (desc : List Word) (left : List (Nat × Place)) (got : List (Nat × List Byte)) : State :=
  { s with task := { s.task with part := some { instr := i, desc := desc, left := left, got := got } } }

/-! ### Register lists (R127 to R130) -/

/-- Bytes of a piece of a list: an 8-byte slot, or a granule of a v register. -/
def listBytes (k : Bool) : Nat := if k then 64 else 8

/-- How many pieces a list has. -/
def listCount (f l : Fin 32) (k : Bool) : Nat := (l.val + 1 - f.val) * if k then 64 else 1

/-- The first address of a list (R127): x[xb], or SSP, less the list's size for a stack-form PUSHM. -/
def listBase (s : State) (f l : Fin 32) (b : XReg) (k push : Bool) : Word :=
  if b ≠ 0 then s.x b
  else if push then s.task.csr.ssp - wd (listCount f l k * listBytes k) else s.task.csr.ssp

/-- A lane of a v register. -/
def State.lane (s : State) (v n : Nat) : Lane := (s.task.v.toList.getD v Tile.zero).toList.getD n 0

/-- What piece j of a list holds: an x register, or 16 lanes of a v register, row by row (R127). -/
def listPiece (s : State) (f : Fin 32) (k : Bool) (j : Nat) : List Byte :=
  if k then (List.range 16).flatMap fun n => leBytes 4 (s.lane (f.val + j / 64) (16 * (j % 64) + n)).toNat
  else leBytes 8 (s.x (xr (f.val + j))).toNat

/-- The bytes of a list's piece in the steps of a PUSHM or POPM, one piece a step (R130, logs 40 and 61): the pieces not yet moved, by
address and place. -/
def listLeft (base : Word) (w : Nat) (ps : Nat → Place) (j n : Nat) : List (Nat × Place) :=
  (List.range (n - j)).map fun k => ((base + wd (w * (j + k))).toNat, ps (j + k))

/-- A list may start, piece j at the place `ps j`: the alignment, the limit and the range hold, the VE is idle for a v list, every
piece's checks 3 to 5 pass with no refill and no wait, and for a PUSHM every other check and claim too (R128 to R130). -/
def ListReaches (s : State) (f l : Fin 32) (b : XReg) (k push : Bool) (ps : Nat → Place) : Prop :=
  let base := listBase s f l b k push
  let w := listBytes k
  (k = true → s.task.veQ = []) ∧ (if b ≠ 0 then s.x b else s.task.csr.ssp).toNat % w = 0
    ∧ (push = true → b = 0 → s.task.csr.sslim.toNat ≤ base.toNat)
    ∧ (∀ j, j < listCount f l k * w / 8 → s.task.addrKind (base + wd (8 * j)) ≠ .out)
    ∧ ∀ j, j < listCount f l k →
        let a := base + wd (w * j)
        Finds s (if push then .store else .load) a w s (ps j)
          ∧ (push = true → Sound s .store a w (ps j) ∧ s.claimCheck (s.who s.sup) a (ps j) = .ok s)

/-- A list instruction i stands at its piece j: it starts, or the pieces before j have moved; `got` is what was read of them. -/
def ListAt (s : State) (i : Instr) (f l : Fin 32) (b : XReg) (k push : Bool) (ps : Nat → Place) (j : Nat)
    (got : List (Nat × List Byte)) : Prop :=
  (got.length = if push then 0 else j) ∧ (∀ g ∈ got, g.2.length = listBytes k) ∧ ((j = 0 ∧ got = [] ∧ s.task.part = none ∧ ListReaches s f l b k push ps)
    ∨ s.task.part = some { instr := i, desc := [], left := listLeft (listBase s f l b k push) (listBytes k) ps j (listCount f l k)
                           got := got })

/-- SSP after a list instruction (R127). -/
def listSsp (s : State) (f l : Fin 32) (b : XReg) (k push : Bool) : Word :=
  let n := wd (listCount f l k * listBytes k)
  if b ≠ 0 then s.task.csr.ssp else if push then s.task.csr.ssp - n else s.task.csr.ssp + n

/-! ### The page walk (R229 to R232) -/

/-- The address of the PTE a walk reads in a table at a level (R230). -/
def pteAddr (table va level : Nat) : Nat := table + 8 * (va / 2 ^ (16 + 10 * level) % 1024)

/-- The PTE a walk reads in a table at a level. -/
def State.pteIn (s : State) (table va level : Nat) : Word := wd (leValue (s.mem.getBytes (pteAddr table va level) 8))

/-- A walk can read the PTE for an access: it lies in the installed memory, not in an isolated die, is not uncorrectable, and no earlier
vector store has still to write it (R233, R268). -/
def State.pteReadable (s : State) (w : Who) (table va level : Nat) : Prop :=
  pteAddr table va level + 8 ≤ 0x20000000000 ∧ s.pteHeld w (pteAddr table va level) = false
    ∧ s.isolatedAt (pteAddr table va level) = false
    ∧ s.badLines.contains (granule (pteAddr table va level)) = false

/-- A PTE that names the next table: V set, every other field but PA zero (R231, R232). -/
def pointsTo (pte : Word) (table : Nat) : Prop := pte.toNat = table + 1 ∧ table % 0x10000 = 0 ∧ table < 2 ^ 52

/-- A field of the page a PTE maps or of the next table: PA[51:16] (R231). -/
def pteBase (pte : Word) : Nat := pte.toNat / 2 ^ 16 % 2 ^ 36 * 2 ^ 16

/-- A leaf PTE at a level that R232 accepts for a partition. -/
def leafAccepted (P : Partition) (pte : Word) (level : Nat) : Prop :=
  pte.getLsbD 0 = true ∧ pte.getLsbD 8 = true ∧ pte.toNat / 2 ^ 52 = 0 ∧ pte.toNat / 2 ^ 9 % 2 ^ 7 = 0
    ∧ level < 3 ∧ (pte.getLsbD 2 = true → pte.getLsbD 1 = true) ∧ pteBase pte % 2 ^ (16 + 10 * level) = 0
    ∧ (if pte.toNat / 64 % 4 = 2 then pte.toNat / 2 ^ 50 % 4 < 2
       else pte.toNat / 64 % 4 ≠ 3 ∧ P.firstDie * 0x2000000000 ≤ pteBase pte
        ∧ pteBase pte + 2 ^ (16 + 10 * level) ≤ (P.firstDie + P.dies) * 0x2000000000)

/-- The tables of a walk from the root at level 3 down to a level, each reached by a PTE that can be read. -/
def walksTo (s : State) (w : Who) (root va : Nat) : Nat → Nat → Prop
  | 0, t => t = root
  | n + 1, t => ∃ u, walksTo s w root va n u ∧ s.pteReadable w u va (3 - n) ∧ pointsTo (s.pteIn u va (3 - n)) t

/-- The root table of the running task's context (R229). -/
def State.root (s : State) : Nat := pteBase s.ctxs[s.task.id.cid].ptbase

/-- A PTE read at a level names neither a table nor an accepted leaf. -/
def refusedPte (P : Partition) (pte : Word) (level : Nat) : Prop :=
  ¬ leafAccepted P pte level ∧ (level = 0 ∨ ∀ t, ¬ pointsTo pte t)

/-- The causes of checks 3 and 4 of R117 for a load, and for a store or an AMO. -/
def pageCauseOf : Acc → Cause
  | .load => .loadPage
  | .fetch => .fetchPage
  | _ => .storePage

/-- See `pageCauseOf`. -/
def protCauseOf : Acc → Cause
  | .load => .loadProt
  | .fetch => .fetchProt
  | _ => .storeProt

/-- The permissions an access needs of a PTE, T besides in task mode (R232, R243). -/
def grants (sup : Bool) (acc : Acc) (pte : Word) : Prop :=
  (match acc with
    | .load => pte.getLsbD 1 = true
    | .store => pte.getLsbD 2 = true
    | .amo => pte.getLsbD 1 = true ∧ pte.getLsbD 2 = true
    | .fetch => pte.getLsbD 3 = true)
  ∧ (sup = true ∨ pte.getLsbD 4 = true)

/-- A scalar access an instruction makes: what it is for, its address and its width. -/
def accessSpec (s : State) (i : Instr) : Option (Acc × Word × Nat) :=
  match loadSpec s i, storeSpec s i, amoFields i with
  | some (_, a, w, _), _, _ => some (.load, a, w)
  | _, some (a, w, _), _ => some (.store, a, w)
  | _, _, some (_, a, _, _, n) => some (.amo, s.x a, if n then 4 else 8)
  | _, _, _ => none

/-! ### Traps (R381 to R389) -/

/-- The CAUSE word: CODE, VE, SOURCE and QN in their places (R381). -/
def causeWord (q : TrapReq) : Word := wd (q.cause.code + (if q.ve then 0x80 else 0) + 0x100 * q.source + 0x1000 * q.qn)

/-- The vector store that stands stopped at an address, if no outer trap holds it (R391). -/
def stoppedAt (t : Task) (a : Word) : Option Nat :=
  (t.storeQ.filter fun e => decide (e.stopped = true ∧ e.addr = a ∧ ∀ h ∈ t.held, h.store ≠ some e.num)).head?.map (·.num)

/-- What a trap holds aside (R382, R391): the VE's instructions but a VEXT whose wait ends (R159); for a queue-precise trap its own
stopped store; for another a queue-precise cause still pending, with its store (log 46); and the stream whose fault it delivers
(R338). -/
def asideSpec (t : Task) (q : TrapReq) : HeldLevel :=
  { ves := t.veQ.filter fun e => match e.instr with | .vext .. => false | _ => true
    cause := if q.ve then none else t.pend.ve.map fun r => (r, t.pend.veAt)
    store := if q.ve then stoppedAt t q.vepc else t.pend.ve.bind fun _ => stoppedAt t t.pend.veAt
    stream := if q.source = 7 then some (Fin.ofNat 8 q.qn) else none }

/-- The state a trap entry leaves at a boundary (R382): EPC[63:2] names the next instruction and EPC[1] is zero (R381). -/
def entered (s : State) (q : TrapReq) (target : Word) : State :=
  let x := s.task.csr.status.toNat
  { s with task := { s.task with
      pc := target
      held := asideSpec s.task q :: s.task.held
      veQ := []
      pend := { s.task.pend with ve := none }
      part := none
      csr := { s.task.csr with
        cause := causeWord q, epc := wd (s.task.pc.toNat / 4 * 4), tval := q.tval
        vepc := if q.ve then wd (q.vepc.toNat / 2 * 2) else 0
        status := wd (x / 16 * 16 + x / 2 % 2 * 8 + x % 2 * 4 + 1) } } }

/-- Where a trap goes: WTRAP.ADDR for 0x51 while WTRAP.EN, else TVEC.ADDR (R382). -/
def handlerOf (s : State) (c : Cause) : Word :=
  let k := s.ctxs[s.task.id.cid]
  if c.code = 0x51 ∧ k.wtrap.toNat % 2 = 1 then wd (k.wtrap.toNat / 4 * 4) else wd (k.tvec.toNat / 4 * 4)

/-- A trap that is delivered to a handler: it does not re-execute the task (R407), is not the exhaustion of a pool without a handler
of its own (R353), and the instruction at its target can be fetched (R383). -/
def Delivered (s : State) (q : TrapReq) : Prop :=
  (s.sup = true ∨ q.cause.code ∉ [0x62, 0x70, 0x72] ∨ s.task.reruns = false)
    ∧ (q.cause.code = 0x51 → s.ctxs[s.task.id.cid].wtrap.toNat % 2 = 1)
    ∧ handlerOf s q.cause ≠ 0
    ∧ (s.fetchWord true (handlerOf s q.cause) = .wait ∨ ∃ w, s.fetchWord true (handlerOf s q.cause) = .ok w)

/-- A trap of the sequencer's own instruction (SOURCE 0). -/
def ownTrap (c : Cause) (tval : Word) : TrapReq :=
  { cause := c, tval := tval, source := 0, qn := 0, ve := false, vepc := 0, line := none }

/-- STATUS after TRET: MODE := PMODE, IE := PIE, PMODE := 0, PIE := 0 (R387). -/
def statusAfterTret (x : Nat) : Nat := x / 16 * 16 + x / 8 % 2 * 2 + x / 4 % 2

/-- The task at the delivery of a cause: a stamp overrun is told once, at the head command of the engine it is of (R206, R396). -/
def told (t : Task) (q : TrapReq) : Task :=
  if q.cause.code = 0x44 then
    { t with
      thr := if q.source = 2 then { t.thr with cmds := t.thr.cmds.modifyHead fun c => { c with stampDone := true } } else t.thr
      ch := Vector.ofFn fun k : Fin 4 =>
        if q.source = k.val + 3 then { t.ch[k] with cmds := t.ch[k].cmds.modifyHead fun c => { c with stampDone := true } } else t.ch[k] }
  else t

/-- The task TRET leaves (R387): the held queue ahead of later dispatches, the mode restored, the pc at EPC. The cause the trap took
along is pending again, unless the VE has one of its own; else the store the trap stopped goes on; and so does the stream it
delivered a fault of. Back in task mode so do the engines that a delivered fault stopped. One whose fault is still pending stays
stopped (R218, R261, R338, R391). -/
def returned (t : Task) : Task :=
  let x := statusAfterTret t.csr.status.toNat
  let h := t.held.headD { ves := [], store := none, cause := none, stream := none }
  let back := h.cause.isSome && t.pend.ve.isNone
  { t with
    veQ := h.ves ++ t.veQ
    held := t.held.tail
    pend := if back then { t.pend with ve := h.cause.map (·.1), veAt := (h.cause.map (·.2)).getD 0 } else t.pend
    storeQ := if back then t.storeQ
      else t.storeQ.map fun e => if h.store = some e.num then { e with stopped := false } else e
    thr := if x % 2 = 0 then { t.thr with halted := t.thr.halted && t.pend.thresher.isSome } else t.thr
    ch := if x % 2 = 0 then Vector.ofFn fun k : Fin 4 => { t.ch[k] with halted := t.ch[k].halted && t.pend.ch[k].isSome } else t.ch
    q := Vector.ofFn fun k : Fin 8 => if x % 2 = 0 ∨ h.stream = some k then { t.q[k] with
        stream := t.q[k].stream.map fun d => { d with stopped := d.stopped && t.pend.stream[k].isSome } } else t.q[k]
    csr := { t.csr with status := wd x }
    pc := wd (t.csr.epc.toNat / 2 * 2) }

/-- u is the task without the queue-precise instruction that VEPC names, as SKIP asks (R387): without the store that the trap delivered,
its reservation and its tile, else without the first held VE instruction of that address, the innermost level first. -/
def Skipped (t u : Task) : Prop :=
  let a := wd (t.csr.vepc.toNat / 2 * 2)
  let stands (e : StoreEntry) : Prop := ∃ h hs, t.held = h :: hs ∧ h.cause = none ∧ h.store = some e.num ∧ e.addr = a
  (∃ e l1 l2, stands e ∧ t.storeQ = l1 ++ e :: l2 ∧ (∀ k ∈ l1, k.num ≠ e.num) ∧
      u = { t with storeQ := l1 ++ l2, q := match e.instr.memQ with
        | some n => t.q.set n { t.q[n] with tiles := t.q[n].tiles.tail }
        | none => t.q })
    ∨ (∀ e ∈ t.storeQ, ¬ stands e) ∧
      ((∃ pre k post e l1 l2, t.held = pre ++ k :: post ∧ (∀ j ∈ pre, ∀ v ∈ j.ves, v.addr ≠ a) ∧ k.ves = l1 ++ e :: l2 ∧ e.addr = a
          ∧ (∀ v ∈ l1, v.addr ≠ a) ∧ u = { t with held := pre ++ { k with ves := l1 ++ l2 } :: post })
        ∨ ((∀ j ∈ t.held, ∀ v ∈ j.ves, v.addr ≠ a) ∧ u = t))

/-! ### Waits, stooks and shapes (R136 to R138, R247 to R267, R317) -/

/-- The condition that an instruction waits for. -/
def waitSpec (s : State) : Instr → Option Prop
  | .fence _ eng _ => some (s.task.openStores = [] ∧ (eng = true → s.enginesDone = true))
  | .waitt a => some ((s.x a).toNat ≤ s.time)
  | .skwait a k => some (s.task.stooks[k].phase = (s.x a).getLsbD 0)
  | .wpwait a c => some ((s.x a).toNat ≤ s.task.ch[c].wp.toNat)
  | _ => none

/-- The grant a SETSHP request gives under a column maximum (R136): SH and RSH, or none where it faults 0x34. -/
def shapeSpec (q m : Nat) : Option (Word × Word) :=
  let rows := q % 2 ^ 8
  let cols := q / 2 ^ 8 % 2 ^ 8
  let fmt := q / 2 ^ 16 % 2 ^ 4
  if q = 0 then some (wd (m * 2 ^ 24), 0)
  else if q / 2 ^ 21 ≠ 0 ∨ rows = 0 ∨ cols = 0 ∨ 13 ≤ fmt then none
  else if q / 2 ^ 20 % 2 = 1 ∧ (16 < rows ∨ m < cols) then none
  else some (wd (m * 2 ^ 24 + fmt * 2 ^ 16 + min cols m * 2 ^ 8 + min rows 16), wd (q % 2 ^ 21))

/-! ### Orbit descriptors (R184 to R187) -/

/-- The clause table of R185: packed coordinate, sign and multiplicity, from the kind, the extents n and m of axes a and b, and the
indices i, j and l of axes a, b and c. -/
def clauseSpec (kind n m i j l : Nat) : Nat × Int × Nat :=
  let p := max i (max j l)
  let r := min i (min j l)
  let q := i + j + l - p - r
  match kind with
  | 1 => (max i j * (max i j + 1) / 2 + min i j, 1, if i = j then 1 else 2)
  | 2 => (max i j * (max i j - 1) / 2 + min i j, if j < i then 1 else if i < j then -1 else 0, if i = j then 1 else 2)
  | 3 => (p * (p + 1) * (p + 2) / 6 + q * (q + 1) / 2 + r, 1,
      if i = j ∧ j = l then 1 else if i ≠ j ∧ j ≠ l ∧ i ≠ l then 6 else 3)
  | 4 => ((((j : Int) - i) % n).toNat, 1, n)
  | 5 => (min (i * m + j) (n * m - 1 - (i * m + j)), 1, if 2 * (i * m + j) + 1 = n * m then 1 else 2)
  | 6 => (min i (n - 1 - i), 1, if 2 * i + 1 = n then 1 else 2)
  | _ => (min i (n - 1 - i), if 2 * i + 1 < n then 1 else if n < 2 * i + 1 then -1 else 0, if 2 * i + 1 = n then 1 else 2)

/-- A clause of a descriptor at a tuple. -/
def Desc.at (D : Desc) (k : Clause) (i : List Nat) : Nat × Int × Nat :=
  clauseSpec k.kind (D.ext k.a) (D.ext k.b) (i.getD k.a 0) (i.getD k.b 0) (i.getD k.c 0)

/-- The clauses of a descriptor that are not NONE. -/
def Desc.clauses (D : Desc) : List Clause := [D.c1, D.c2].filter (·.kind ≠ 0)

/-- The storage coordinates of a tuple with their positions: the index of every axis in no clause, and the packed coordinate of
every clause at its lowest axis (R186). -/
def Desc.entries (D : Desc) (i : List Nat) : List (Nat × Nat) :=
  ((List.range D.rank).filter fun k => D.clauses.all fun c => !c.axes.contains k).map (fun k => (k, i.getD k 0))
    ++ D.clauses.map fun c => (c.a, (D.at c i).1)

/-- Offset, sign and multiplicity of a tuple (R186): storage coordinate n, in rising position, counts with stride n. -/
def orbitSpec (D : Desc) (i : List Nat) : Nat × Int × Nat :=
  let E := D.entries i
  ((E.map fun e => e.2 * D.st.getD (E.countP fun k => k.1 < e.1) 0).sum,
    (D.clauses.map fun c => (D.at c i).2.1).prod, (D.clauses.map fun c => (D.at c i).2.2).prod)

/-- An ORB instruction: its registers, and what it writes from offset, sign and multiplicity (R187). -/
def orbSpec : Instr → Option (XReg × XReg × XReg × (Nat × Int × Nat → Word))
  | .orboff d a b => some (d, a, b, fun r => if r.2.1 = 0 then 0xFFFFFFFFFFFFFFFF else wd r.1)
  | .orbsgn d a b => some (d, a, b, fun r => ofInt r.2.1)
  | .orbmul d a b => some (d, a, b, fun r => wd r.2.2)
  | _ => none

/-! ### Tasks and launches (R302, R308, R312 to R316) -/

/-- The record a queue holds for a record in memory: zero fields cleared, the launch ID filled in (R302). -/
def queuedSpec (r : List Word) (id : BitVec 12) : List Word :=
  let d := (r.getD 3 0).toNat
  [r.getD 0 0, r.getD 1 0, r.getD 2 0, wd (d / 2 ^ 32 * 2 ^ 32 + d / 2 ^ 16 % 8 * 2 ^ 16 + id.toNat)]

/-- The 32 bytes at a place as doublewords. -/
def recordAt (s : State) (p : Place) : List Word :=
  (List.range 4).map fun k => wd (leValue (((s.sees p 32).drop (8 * k)).take 8))

/-- Only one live launch's record differs. -/
def OnlyLaunch (s t : State) (L L' : Launch) : Prop :=
  t.launches = s.launches.map fun k => if k.part = L.part ∧ k.id = L.id then L' else k

/-- A record that waits in a launch's queue, as the Gleaner will start it (R308). -/
def waitingRecord (r : List Word) (src : Word) : Saved := .again ⟨r, src⟩ 0

/-- The records that wait in a launch's queue; the saved entries among them do not count (R308). -/
def waitingCount (L : Launch) : Nat := (L.queue.filter fun e => match e with
  | .again _ n => n == 0
  | .task _ => false).length

/-- The join counter at `j` can be decremented (R313, R314): its access as an AMO goes through, in device memory, to the place p, where
COUNT is c and WAITER is w; if the decrement enqueues the waiter, the waiter's record reads at q, the task is no rival, and the
launch's queue has room. No loft page needs a refill. -/
def JoinReady (s : State) (j : Word) (p : Place) (c : Nat) (w : Word) (q : Place) (L : Launch) : Prop :=
  s.task.addrKind j = .global ∧ j.toNat % 16 = 0 ∧ (∃ pa, p = .device pa) ∧ Reaches s .amo j 16 s p
    ∧ (∃ s2, s.claimCheck (s.who s.sup) j p = .ok s2)
    ∧ c = leValue (s.sees p 4) ∧ w = wd (leValue ((s.sees p 16).drop 8)) ∧ c ≠ 0 ∧ s.myLaunch = some L
    ∧ (c = 1 → w ≠ 0 → s.task.id.world = 0 ∧ w.toNat % 32 = 0 ∧ s.task.addrKind w ≠ .out ∧ Reaches s .load w 32 s q
        ∧ waitingCount L < L.capacity)

/-- The launch after a decrement: the waiter's record, read after it, joins the queue when the count reaches zero (R314). -/
def joinedLaunch (t : State) (c : Nat) (w : Word) (q : Place) (L : Launch) : Launch :=
  if c = 1 ∧ w ≠ 0 then { L with queue := L.queue ++ [waitingRecord (queuedSpec (recordAt t q) L.id) w] } else L

/-! ### Worlds (R343 to R359) -/

/-- The pc after the FORKW or YIELD at pc (R123). -/
def nextPc (s : State) : Word := (s.task.csr.loopEnd s.task.pc (s.task.pc + 4)).2

/-- The rank CHOOSE takes from the rivals that ended by YIELDW, with their scores, for a selector (R355). -/
def picked (rivals : List Rival) (sel : Int) (r : Option Rival) : Prop :=
  match r with
  | none => if 0 ≤ sel then ∀ k ∈ rivals, (k.rank : Int) = sel → k.score = none else ∀ k ∈ rivals, k.score = none
  | some r => r ∈ rivals ∧ ∃ v, r.score = some v ∧ (0 ≤ sel → (r.rank : Int) = sel)
      ∧ (sel = -1 → ∀ k ∈ rivals, ∀ u, k.score = some u → v.toInt < u.toInt ∨ (v = u ∧ r.rank ≤ k.rank))
      ∧ (sel = -2 → ∀ k ∈ rivals, ∀ u, k.score = some u → u.toInt < v.toInt ∨ (v = u ∧ r.rank ≤ k.rank))

/-- Rivals in rank order, one per rank, each in a world of its own that is no ancestor of the running task. -/
def RivalsSane (s : State) (rivals : List Rival) : Prop :=
  (∀ k, ∀ h : k < rivals.length, rivals[k].rank = k) ∧ (rivals.map (·.world)).Nodup
    ∧ (∀ r ∈ rivals, r.world ≠ 0 ∧ s.under r.world 6 s.task.id.world = false)
    ∧ ∀ r ∈ rivals, r.score ≠ none → ∃ w, s.world? r.world = some w ∧ w.parent = s.task.id.world

/-! ### Engine commands (R203, R252, R281) -/

/-- The 128 bytes of a record at a loft address that is a multiple of 128 can be read. -/
def ReadsRecord (s : State) (d : Word) (s1 : State) (r : List Word) : Prop :=
  ∃ o, s.task.addrKind d = .loft o ∧ d.toNat % 128 = 0 ∧ Reaches s .load d 64 s1 (.loft o)
    ∧ Reaches s1 .load (d + 64) 64 s1 (.loft (o + 64))
    ∧ r = (List.range 16).map fun k => wd (leValue (((s1.task.loft.getBytes o 128).drop (8 * k)).take 8))

/-- Every earlier VE and vector memory instruction that names a queue register has completed (R251). -/
def QueueQuiet (s : State) (q : Fin 8) : Prop :=
  (∀ e ∈ s.task.veQ, e.instr.namesQ q = false) ∧ ∀ e ∈ s.task.openStores, e.instr.memQ ≠ some q

/-- Only the queue register `q` of the running task, its CSRs and its pc differ. -/
def OnlyQueue (s t : State) (q : Fin 8) (v : QueueReg) : Prop :=
  t = { s with task := { s.task with q := s.task.q.set q v, csr := t.task.csr, pc := t.task.pc } }
    ∧ Retired s t s.task.csr ∧ SameBytes s t

/-! ### The vector engine (R20, R139 to R179) -/

/-- The scalars a VE instruction captures at dispatch: x[xs] and x[xt] where it names them (R20); none for an instruction the VE does
not run. VEXT has its own entry, since the sequencer stalls at it (R159). -/
def veScalars (s : State) : Instr → Option (Word × Word)
  | .vadd .. | .vsub .. | .vmul .. | .vdiv .. | .vmin .. | .vmax .. | .vabs .. | .vneg .. | .vaddsat .. | .vsubsat ..
  | .vfma .. | .vfms .. | .vfnma .. | .vand .. | .vor .. | .vxor .. | .vnot .. | .vshl .. | .vshr .. | .vsra ..
  | .vcmp .. | .vsel .. | .vcvt .. | .vexp2 .. | .vlog2 .. | .vrcp .. | .vrsq .. | .vsqrt .. | .vtanh .. | .vsigm ..
  | .vredcAdd .. | .vredcMax .. | .vredcMin .. | .vredrAdd .. | .vredrMax .. | .vredrMin .. | .vtrn ..
  | .vdot4 .. | .vcmp48 .. | .vsmv .. | .vpeek .. => some (0, 0)
  | .vrotc _ _ r | .vrotr _ _ r | .vbcc _ _ r | .vbcr _ _ r | .viota _ _ r | .vsplat _ _ r
  | .vaddx _ _ r | .vsubx _ _ r | .vmulx _ _ r | .vmaxx _ _ r | .vminx _ _ r | .vshlx _ _ r | .vshrx _ _ r
  | .vsrax _ _ r => some (s.x r, 0)
  | .vins _ _ r t | .vqnt _ _ r t | .vdq _ _ r t | .vrngb _ _ r t | .vrngu _ _ r t => some (s.x r, s.x t)
  | _ => none

/-- What an instruction captures when the sequencer dispatches it (R20, R100, R139), and whether its queue registers have the roles it
needs (R143, R144). -/
def Captured (s : State) (i : Instr) (xs xt : Word) (e : VeEntry) : Prop :=
  e.instr = i ∧ e.addr = s.task.pc ∧ e.xs = xs ∧ e.xt = xt ∧ e.sh = s.task.csr.sh ∧ e.arow.toNat = s.task.csr.arow.toNat % 4
    ∧ e.rm.toNat = s.task.csr.fctl.toNat % 8 ∧ e.issued = s.task.thr.issued
    ∧ (i.counts = true → s.task.csr.fctl.toNat % 8 = 5 → e.stoch = s.task.id.stoch)
    ∧ (e.roleOk = true ↔ (∀ q ∈ i.popped, s.task.q[q].role ≠ .store) ∧ ∀ q, i.pushed = some q → s.task.q[q].role = .store)

/-- The VE's next instruction can run: it is first in the queue, nothing holds the VE, its queue registers have their roles, every
Thresher command issued before it that writes a tile it reads has completed (R216), each register it pops holds a tile (R143),
and the one it pushes has room (R144). -/
def VeReady (s : State) (e : VeEntry) (rest : List VeEntry) : Prop :=
  s.running = true ∧ s.dev.limiting = false ∧ s.task.veQ = e :: rest ∧ s.task.pend.ve = none ∧ e.roleOk = true
    ∧ (∀ n ∈ e.instr.readsAcc, ∀ c ∈ s.task.thr.cmds, c.ordinal ≤ e.issued → n ∉ thrTiles c.record)
    ∧ (∀ q ∈ e.instr.popped, s.task.q[q].tiles ≠ []) ∧ ∀ q, e.instr.pushed = some q → s.task.q[q].tiles.length < 4

/-- The lane of a source operand at a linear index: of a v register, of the head tile of a q register, or of the accumulator rows that
the captured AROW shows (R24, R26, R143). -/
def srcLane (s : State) (e : VeEntry) (a : VSrc) (k : Nat) : Nat :=
  match a with
  | .v n => (s.lane n.val k).toNat
  | .q n => (((s.task.q[n].tiles.headD Tile.zero).toList.getD k 0)).toNat
  | .a n => (s.task.thr.acc.toList.getD (4096 * n.val + 1024 * e.arow.toNat + k) 0).toNat

/-- Rows and columns of a captured shape (R135). -/
def rowsOf (sh : Word) : Nat := min 16 (sh.toNat % 2 ^ 8)
/-- See `rowsOf`. -/
def colsOf (sh : Word) : Nat := min 64 (sh.toNat / 2 ^ 8 % 2 ^ 8)

/-- Element (k div 64, k mod 64) is active (R141). -/
abbrev isActive (sh : Word) (k : Nat) : Prop := k / 64 < rowsOf sh ∧ k % 64 < colsOf sh

/-- The integer an element of an integer format stands for. -/
def intOf (f : Fmt) (x : Nat) : Int := if f.isSigned = true ∧ 2 ^ (f.width - 1) ≤ x then (x : Int) - (2 ^ f.width : Nat) else x

/-- The low w bits of an integer. -/
def lowBits (f : Fmt) (v : Int) : Nat := (v % (2 ^ f.width : Nat)).toNat

/-- The least and the greatest value of an integer format. -/
def leastOf (f : Fmt) : Int := if f.isSigned then -(2 ^ (f.width - 1) : Nat) else 0
/-- See `leastOf`. -/
def greatestOf (f : Fmt) : Int := if f.isSigned then (2 ^ (f.width - 1) : Nat) - 1 else (2 ^ f.width : Nat) - 1

/-- The integer quotient of R149. -/
def quotient (f : Fmt) (a b : Int) : Int :=
  if b = 0 then if a < 0 then leastOf f else greatestOf f else min (greatestOf f) (a.tdiv b)

/-- Whether an integer comparison holds (R153). -/
def condInt (c : Cond) (a b : Int) : Bool :=
  match c with
  | .eq => decide (a = b)
  | .ne => decide (a ≠ b)
  | .lt => decide (a < b)
  | .le => decide (a ≤ b)
  | .gt => decide (b < a)
  | .ge => decide (b ≤ a)
  | .un => false

/-- Right shift with copies of bit w − 1 in (R152). -/
def shiftIn (f : Fmt) (x n : Nat) : Nat :=
  lowBits f ((if 2 ^ (f.width - 1) ≤ x then (x : Int) - (2 ^ f.width : Nat) else x) / (2 ^ min n f.width : Nat))

/-- An element-wise instruction: whether it needs an integer format for this result, its sources, and an element of the result from
the low w bits of its sources' elements and of the captured scalar (R148 to R154, R157). -/
def laneSpec (f : Fmt) (xs : Nat) (i : Instr) : Option (Bool × List VSrc × (List Nat → Nat)) :=
  let w := f.width
  let two (g : Int → Int → Int) (l : List Nat) : Nat := lowBits f (g (intOf f (l.getD 0 0)) (intOf f (l.getD 1 0)))
  let raw (g : Nat → Nat → Nat) (l : List Nat) : Nat := g (l.getD 0 0) (l.getD 1 0)
  let x (g : Int → Int → Int) (l : List Nat) : Nat := lowBits f (g (intOf f (l.getD 0 0)) (intOf f (xs % 2 ^ w)))
  let three (g : Int → Int → Int → Int) (l : List Nat) : Nat :=
    lowBits f (g (intOf f (l.getD 0 0)) (intOf f (l.getD 1 0)) (intOf f (l.getD 2 0)))
  let lim (v : Int) : Int := max (leastOf f) (min (greatestOf f) v)
  let shl (a n : Nat) : Nat := if w ≤ n then 0 else a * 2 ^ n % 2 ^ w
  let shr (a n : Nat) : Nat := if w ≤ n then 0 else a / 2 ^ n
  match i with
  | .vadd _ a b => some (true, [a, b], two (· + ·))
  | .vsub _ a b => some (true, [a, b], two (· - ·))
  | .vmul _ a b => some (true, [a, b], two (· * ·))
  | .vdiv _ a b => some (true, [a, b], two (quotient f))
  | .vmin _ a b => some (true, [a, b], two min)
  | .vmax _ a b => some (true, [a, b], two max)
  | .vabs _ a => some (true, [a], fun l => lowBits f (intOf f (l.getD 0 0)).natAbs)
  | .vneg _ a => some (true, [a], fun l => lowBits f (-intOf f (l.getD 0 0)))
  | .vaddsat _ a b => some (true, [a, b], two fun p q => lim (p + q))
  | .vsubsat _ a b => some (true, [a, b], two fun p q => lim (p - q))
  | .vfma _ a b c => some (true, [a, b, c], three fun p q r => p * q + r)
  | .vfms _ a b c => some (true, [a, b, c], three fun p q r => p * q - r)
  | .vfnma _ a b c => some (true, [a, b, c], three fun p q r => -(p * q) + r)
  | .vaddx _ a _ => some (true, [a], x (· + ·))
  | .vsubx _ a _ => some (true, [a], x (· - ·))
  | .vmulx _ a _ => some (true, [a], x (· * ·))
  | .vmaxx _ a _ => some (true, [a], x max)
  | .vminx _ a _ => some (true, [a], x min)
  | .vcmp _ a b c => some (true, [a, b], fun l =>
      if condInt c (intOf f (l.getD 0 0)) (intOf f (l.getD 1 0)) then 2 ^ w - 1 else 0)
  | .vand _ a b => some (false, [a, b], raw (· &&& ·))
  | .vor _ a b => some (false, [a, b], raw (· ||| ·))
  | .vxor _ a b => some (false, [a, b], raw (· ^^^ ·))
  | .vnot _ a => some (false, [a], fun l => 2 ^ w - 1 - l.getD 0 0)
  | .vshl _ a b => some (false, [a, b], raw shl)
  | .vshr _ a b => some (false, [a, b], raw shr)
  | .vsra _ a b => some (false, [a, b], raw (shiftIn f))
  | .vshlx _ a _ => some (false, [a], fun l => shl (l.getD 0 0) (xs % 2 ^ w))
  | .vshrx _ a _ => some (false, [a], fun l => shr (l.getD 0 0) (xs % 2 ^ w))
  | .vsrax _ a _ => some (false, [a], fun l => shiftIn f (l.getD 0 0) (xs % 2 ^ w))
  | .vsel _ a b c => some (false, [a, b, c], fun l => if l.getD 2 0 = 0 then l.getD 1 0 else l.getD 0 0)
  | .vsplat _ _ _ => some (false, [], fun _ => xs % 2 ^ w)
  | _ => none

/-- A movement (R169): its source, and the source element that destination element (r, c) takes under a shape of R rows and C columns
and the captured scalar; an element outside the grant, or none, gives 0. -/
def moveSpec (R C : Nat) (xs : Word) : Instr → Option (VSrc × (Nat → Nat → Option (Nat × Nat)))
  | .vrotc _ a _ => some (a, fun r c => some (((r + xs.toInt) % (R : Int)).toNat, c))
  | .vrotr _ a _ => some (a, fun r c => some (r, ((c + xs.toInt) % (C : Int)).toNat))
  | .vbcc _ a _ => some (a, fun _ c => if xs.toNat < R then some (xs.toNat, c) else none)
  | .vbcr _ a _ => some (a, fun r _ => if xs.toNat < C then some (r, xs.toNat) else none)
  | .vtrn _ a => some (a, fun r c => some (c % 16, 16 * (c / 16) + r))
  | _ => none

/-- A reduction in an integer format (R170): whether along columns, its source, and its result from the terms. -/
def reduceSpec (f : Fmt) : Instr → Option (Bool × VSrc × (List Nat → Nat → Prop))
  | .vredcAdd _ a => some (true, a, fun l v => v = lowBits f (l.map (intOf f)).sum)
  | .vredrAdd _ a => some (false, a, fun l v => v = lowBits f (l.map (intOf f)).sum)
  | .vredcMax _ a => some (true, a, fun l v => v ∈ l ∧ ∀ x ∈ l, intOf f x ≤ intOf f v)
  | .vredrMax _ a => some (false, a, fun l v => v ∈ l ∧ ∀ x ∈ l, intOf f x ≤ intOf f v)
  | .vredcMin _ a => some (true, a, fun l v => v ∈ l ∧ ∀ x ∈ l, intOf f v ≤ intOf f x)
  | .vredrMin _ a => some (false, a, fun l v => v ∈ l ∧ ∀ x ∈ l, intOf f v ≤ intOf f x)
  | _ => none

/-! ### Floating results of the VE (R91, R92, R105, R107, R108, R148 to R161, R170 to R177) -/

/-- A sum of one or more terms, before its rounding, with the flags of its special values (R91, R92, R107, R108). -/
def SumSpec (m : RM) (ts : List Num) (n : Num) (fl : Flags) : Prop :=
  if .nan false ∈ ts ∨ .nan true ∈ ts then n = .nan false ∧ fl = if .nan true ∈ ts then fNV else 0
  else if .inf false ∈ ts ∧ .inf true ∈ ts then n = .nan false ∧ fl = fNV
  else if .inf false ∈ ts then n = .inf false ∧ fl = 0
  else if .inf true ∈ ts then n = .inf true ∧ fl = 0
  else fl = 0 ∧ ∃ xs : List Rat, ts.map Num.rat = xs.map some ∧ n.rat = some xs.sum
    ∧ (xs.sum = 0 → n.neg? = decide (m = .rdn ∨ ∀ t ∈ ts, t.isZero = true ∧ t.neg? = true))

/-- A product, exact, with the flags of its special values (R91, R92); a zero takes the XOR of the signs (the model's choice, log 66). -/
def ProdSpec (a b n : Num) (fl : Flags) : Prop :=
  let neg := a.neg? != b.neg?
  if a.isNaN = true ∨ b.isNaN = true then n = .nan false ∧ fl = if a.isSignalling || b.isSignalling then fNV else 0
  else match a.rat, b.rat with
    | some x, some y => n.rat = some (x * y) ∧ n.neg? = neg ∧ fl = 0
    | some x, none | none, some x => if x = 0 then n = .nan false ∧ fl = fNV else n = .inf neg ∧ fl = 0
    | none, none => n = .inf neg ∧ fl = 0

/-- A number that comes with the flags g, delivered into a format with one rounding (R97, R102, R105). -/
def Rounds (f : Fmt) (m : RM) (t : Nat) (n : Num) (g : Flags) (b : Nat) (fl : Flags) : Prop :=
  ∃ h, fl = g ||| h ∧ (∀ x, n.rat = some x → x ≠ 0 → RoundedTo f m t x b h) ∧ SpecialTo f n b h

/-- The bits of an infinity, or of the largest finite magnitude in a format that has no infinity, with a sign (R92). -/
def endBits (f : Fmt) (neg : Bool) : Nat :=
  match floatOf f with
  | some F => F.signBit neg + if F.ieeeTop then F.infBits else F.maxBits
  | none => if neg then 0x81 else 0x01

/-- A quotient delivered into a floating format (R91, R92); a zero takes the XOR of the signs (the model's choice, log 66). -/
def DivSpec (f : Fmt) (m : RM) (t : Nat) (a b : Num) (v : Nat) (fl : Flags) : Prop :=
  let neg := a.neg? != b.neg?
  if a.isNaN = true ∨ b.isNaN = true then SpecialTo f (.nan (a.isSignalling || b.isSignalling)) v fl
  else match a.rat, b.rat with
    | some x, some y =>
      if y ≠ 0 then if x = 0 then SpecialTo f (.exact neg 0 0) v fl else RoundedTo f m t (x / y) v fl
      else if x = 0 then SpecialTo f (.nan true) v fl else v = endBits f neg ∧ fl = fDZ
    | some _, none => SpecialTo f (.exact neg 0 0) v fl
    | none, some _ => SpecialTo f (.inf neg) v fl
    | none, none => SpecialTo f (.nan true) v fl

/-- A number that comes with the flags g, delivered into a binary floating format with one rounding (R97, R105, R132). -/
def Delivers (F : FloatFmt) (m : RM) (t : Nat) (n : Num) (g : Flags) (b : Nat) (fl : Flags) : Prop :=
  ∃ h, fl = g ||| h ∧ (∀ x, n.rat = some x → x ≠ 0 → FloatRounded F m t x b h) ∧ FloatSpecial F n b h

/-- FDIV in a format (R92, R132); a zero takes the XOR of the signs (the model's choice, log 66). -/
def QuotientSpec (F : FloatFmt) (m : RM) (t : Nat) (a b : Num) (v : Nat) (fl : Flags) : Prop :=
  let neg := a.neg? != b.neg?
  if a.isNaN = true ∨ b.isNaN = true then FloatSpecial F (.nan (a.isSignalling || b.isSignalling)) v fl
  else match a.rat, b.rat with
    | some x, some y =>
      if y ≠ 0 then if x = 0 then FloatSpecial F (.exact neg 0 0) v fl else FloatRounded F m t (x / y) v fl
      else if x = 0 then FloatSpecial F (.nan true) v fl else v = F.signBit neg + F.infBits ∧ fl = fDZ
    | some _, none => FloatSpecial F (.exact neg 0 0) v fl
    | none, some _ => FloatSpecial F (.inf neg) v fl
    | none, none => FloatSpecial F (.nan true) v fl

/-- FSQRT in a format (R92, R132): a rational root is rounded as it is; any other lies between two rationals that round alike. -/
def RootSpec (F : FloatFmt) (m : RM) (t : Nat) (a : Num) (v : Nat) (fl : Flags) : Prop :=
  match a with
  | .nan sig => FloatSpecial F (.nan sig) v fl
  | .inf neg => FloatSpecial F (if neg then .nan true else .inf false) v fl
  | .fin neg _ _ _ => ∀ x, a.rat = some x →
      (x = 0 → FloatSpecial F (.exact neg 0 0) v fl) ∧ (x < 0 → FloatSpecial F (.nan true) v fl)
        ∧ (0 < x → (∀ y, 0 < y → y * y = x → FloatRounded F m t y v fl)
            ∧ ∃ p q, 0 < p ∧ 0 < q ∧ p * p ≤ x ∧ x ≤ q * q ∧ FloatRounded F m t p v fl ∧ FloatRounded F m t q v fl)

/-- FCVTIF (R105, R132): a value rounded to an integer and saturated to 64 bits (range judged after rounding, log 66). -/
def ToIntSpec (m : RM) (t : Nat) (a : Num) (z : Int) (fl : Flags) : Prop :=
  match a with
  | .nan _ => z = 0 ∧ fl = fNV
  | .inf neg => z = (if neg then -(2 ^ 63) else 2 ^ 63 - 1) ∧ fl = fNV
  | .fin _ _ _ _ => ∀ x, a.rat = some x → IntRounded m t (-(2 ^ 63)) (2 ^ 63 - 1) x z fl

/-- One number that is no NaN is below another (R153). -/
def numBelow (a b : Num) : Prop :=
  (a = .inf true ∧ b ≠ .inf true) ∨ (b = .inf false ∧ a ≠ .inf false) ∨ ∃ x y, a.rat = some x ∧ b.rat = some y ∧ x < y

/-- Two numbers that are no NaN are equal, the zeros too (R153). -/
def numSame (a b : Num) : Prop := (a = b ∧ a.rat = none) ∨ ∃ x, a.rat = some x ∧ b.rat = some x

/-- FMIN, or FMAX, of two operands read as a and b from the bits p and q (R132): −0 below +0. -/
def ExtremeOf (F : FloatFmt) (big : Bool) (a b : Num) (p q v : Nat) (fl : Flags) : Prop :=
  let upTo (x y : Num) : Prop := numBelow x y ∨ numSame x y ∧ (x.rat = some 0 → y.neg? = true → x.neg? = true)
  if a.isNaN = true ∨ b.isNaN = true then FloatSpecial F (.nan (a.isSignalling || b.isSignalling)) v fl
  else fl = 0 ∧ ((v = p ∧ if big then upTo b a else upTo a b) ∨ (v = q ∧ if big then upTo a b else upTo b a))

/-- Whether a floating comparison holds (R153). -/
def condNum (c : Cond) (a b : Num) : Prop :=
  if a.isNaN = true ∨ b.isNaN = true then c = .ne ∨ c = .un
  else match c with
    | .eq => numSame a b
    | .ne => ¬ numSame a b
    | .lt => numBelow a b
    | .le => numBelow a b ∨ numSame a b
    | .gt => numBelow b a
    | .ge => numBelow b a ∨ numSame a b
    | .un => False

/-- The greatest or the least of some elements of a floating format, −0 below +0 (R91, R132, R148, R170). -/
def ExtremeSpec (f : Fmt) (big : Bool) (l : List Nat) (b : Nat) (fl : Flags) : Prop :=
  let n := readNum f
  if ∃ x ∈ l, (n x).isNaN = true then SpecialTo f (.nan (l.any fun x => (n x).isSignalling)) b fl
  else fl = 0 ∧ b ∈ l ∧ ∀ x ∈ l,
    let lo := if big then n x else n b
    let hi := if big then n b else n x
    numBelow lo hi ∨ numSame lo hi ∧ (lo.rat = some 0 → hi.neg? = true → lo.neg? = true)

/-- The magnitude, or the opposite, of an element of a floating format: exact, with a flag for a signalling NaN alone (R91, R148). -/
def SignSpec (f : Fmt) (flip : Bool) (x b : Nat) (fl : Flags) : Prop :=
  let n := readNum f x
  let neg := flip && !n.neg?
  if n.isNaN = true then SpecialTo f (.nan n.isSignalling) b fl
  else fl = 0 ∧ b < 2 ^ f.width ∧ (n.rat = none → readNum f b = .inf neg)
    ∧ ∀ v, n.rat = some v → (readNum f b).rat = some (if flip then -v else ratMag v)
      ∧ (v = 0 → (readNum f b).neg? = (neg && decide (f ≠ .d8)))

/-- An element-wise instruction in a floating format: its sources, and an element of the result with its flags, from the low w bits of its
sources' elements, the captured scalar, the mode and the draw (R148, R150, R151, R153). -/
def floatLane (f : Fmt) (m : RM) (t xs : Nat) (i : Instr) : Option (List VSrc × (List Nat → Nat → Flags → Prop)) :=
  let n (l : List Nat) (j : Nat) : Num := readNum f (l.getD j 0)
  let add (l : List Nat) (b : Nat) (fl : Flags) : Prop := ∃ r g, SumSpec m [n l 0, n l 1] r g ∧ Rounds f m t r g b fl
  let sub (l : List Nat) (b : Nat) (fl : Flags) : Prop := ∃ r g, SumSpec m [n l 0, (n l 1).negate] r g ∧ Rounds f m t r g b fl
  let mul (l : List Nat) (b : Nat) (fl : Flags) : Prop := ∃ r g, ProdSpec (n l 0) (n l 1) r g ∧ Rounds f m t r g b fl
  let fused (p q : Num → Num) (l : List Nat) (b : Nat) (fl : Flags) : Prop := ∃ r g z h,
    ProdSpec (p (n l 0)) (n l 1) r g ∧ SumSpec m [r, q (n l 2)] z h ∧ Rounds f m t z (g ||| h) b fl
  let with_ (P : List Nat → Nat → Flags → Prop) (l : List Nat) : Nat → Flags → Prop := P (l ++ [xs % 2 ^ f.width])
  match i with
  | .vadd _ a b => some ([a, b], add)
  | .vsub _ a b => some ([a, b], sub)
  | .vmul _ a b => some ([a, b], mul)
  | .vaddx _ a _ => some ([a], with_ add)
  | .vsubx _ a _ => some ([a], with_ sub)
  | .vmulx _ a _ => some ([a], with_ mul)
  | .vfma _ a b c => some ([a, b, c], fused id id)
  | .vfms _ a b c => some ([a, b, c], fused id Num.negate)
  | .vfnma _ a b c => some ([a, b, c], fused Num.negate id)
  | .vdiv _ a b => some ([a, b], fun l => DivSpec f m t (n l 0) (n l 1))
  | .vmin _ a b => some ([a, b], ExtremeSpec f false)
  | .vmax _ a b => some ([a, b], ExtremeSpec f true)
  | .vminx _ a _ => some ([a], with_ (ExtremeSpec f false))
  | .vmaxx _ a _ => some ([a], with_ (ExtremeSpec f true))
  | .vabs _ a => some ([a], fun l => SignSpec f false (l.getD 0 0))
  | .vneg _ a => some ([a], fun l => SignSpec f true (l.getD 0 0))
  | .vcmp _ a b c => some ([a, b], fun l b fl =>
      (condNum c (n l 0) (n l 1) → b = 2 ^ f.width - 1) ∧ (¬ condNum c (n l 0) (n l 1) → b = 0)
        ∧ fl = if (n l 0).isSignalling || (n l 1).isSignalling
            || (((n l 0).isNaN || (n l 1).isNaN) && [Cond.lt, .le, .gt, .ge].contains c) then fNV else 0)
  | _ => none

/-- VQNT's element: the value times 2^e into a format; FP32, BF16 and FP16 take their largest finite value for an infinity, with NV, and on
overflow (R105, R106, R160). -/
def QuantSpec (f : Fmt) (m : RM) (t : Nat) (n : Num) (e : Int) (b : Nat) (fl : Flags) : Prop :=
  let limited : Prop := f = .fp32 ∨ f = .bf16 ∨ f = .fp16
  let top (neg : Bool) : Nat := ((floatOf f).map fun F => F.signBit neg + F.maxBits).getD 0
  match n with
  | .nan s => SpecialTo f (.nan s) b fl
  | .inf neg => (limited → b = top neg ∧ fl = fNV) ∧ (¬ limited → SpecialTo f (.inf neg) b fl)
  | .fin neg _ _ _ => ∀ x, n.rat = some x → (x = 0 → SpecialTo f (.exact neg 0 0) b fl)
      ∧ (x ≠ 0 → ∃ b', RoundedTo f m t (x * scaled 1 e) b' fl
          ∧ b = if (f == .fp32 || f == .bf16 || f == .fp16) && fl &&& fOF != 0 then top (decide (x < 0)) else b')

/-- A reduction in a floating format (R170): whether along columns, its source, and its result with its flags from the terms. -/
def floatReduce (f : Fmt) (m : RM) (t : Nat) : Instr → Option (Bool × VSrc × (List Nat → Nat → Flags → Prop)) :=
  let sum (l : List Nat) (b : Nat) (fl : Flags) : Prop := ∃ r g, SumSpec m (l.map (readNum f)) r g ∧ Rounds f m t r g b fl
  fun
  | .vredcAdd _ a => some (true, a, sum)
  | .vredrAdd _ a => some (false, a, sum)
  | .vredcMax _ a => some (true, a, ExtremeSpec f true)
  | .vredrMax _ a => some (false, a, ExtremeSpec f true)
  | .vredcMin _ a => some (true, a, ExtremeSpec f false)
  | .vredrMin _ a => some (false, a, ExtremeSpec f false)
  | _ => none

/-- The exact sum of the products of some pairs and of further terms, rounded once to FP32 (R96, R107, R108, R172). -/
def DotSpec (m : RM) (t : Nat) (pairs : List (Num × Num)) (more : List Num) (b : Nat) (fl : Flags) : Prop :=
  ∃ (ps : List Num) (gs : List Flags) (n : Num) (g : Flags), ps.length = pairs.length ∧ gs.length = pairs.length
    ∧ (∀ j, ∀ h : j < pairs.length, ProdSpec pairs[j].1 pairs[j].2 (ps.getD j .zero) (gs.getD j 0))
    ∧ SumSpec m (ps ++ more) n g ∧ Rounds .fp32 m t n (gs.foldl (· ||| ·) g) b fl

/-- An element of FMT's width read with the signedness that an instruction field gives (R172). -/
def fieldInt (f : Fmt) (isSigned : Bool) (x : Nat) : Int :=
  if isSigned = true ∧ 2 ^ (f.width - 1) ≤ x then (x : Int) - (2 ^ f.width : Nat) else x

/-- An exact integer total as an INT32 lane: limited once under SAT, else modulo 2^32 (R109, R173). -/
def totalBits (sat : Bool) (v : Int) : Nat := ((if sat then max (-2 ^ 31) (min (2 ^ 31 - 1) v) else v) % 2 ^ 32).toNat

/-- One element ranks before another by magnitude, a NaN above every number (R175). -/
def outranks (f : Fmt) (isSigned : Bool) (x y : Nat) : Prop :=
  if f.isInt then (fieldInt f isSigned y).natAbs < (fieldInt f isSigned x).natAbs
  else
    let a := readNum f x
    let b := readNum f y
    b.isNaN = false ∧ (a.isNaN = true ∨ (a.rat = none ∧ b.rat ≠ none)
      ∨ ∃ u v, a.rat = some u ∧ b.rat = some v ∧ ratMag v < ratMag u)

/-- Position j of a metadata lane (R176). -/
def positionAt (v j : Nat) : Nat := v / 8 ^ j % 8

/-- A valid metadata lane (R176). -/
abbrev metaGood (v : Nat) : Prop :=
  v < 2 ^ 12 ∧ positionAt v 0 < positionAt v 1 ∧ positionAt v 1 < positionAt v 2 ∧ positionAt v 2 < positionAt v 3

/-- The draw for the destination element at a linear index of an entry (R98, R100). -/
def veDraw (s : State) (e : VeEntry) (k : Nat) : Nat :=
  if RM.ofCode e.rm.toNat = .stoch then
    stochDraw s.seed (wd (e.addr.toNat % 2 ^ 32) ^^^ wd s.task.id.launch.toNat) (wd (e.stoch * 1024 + k))
  else 0

/-- A result of one tile: each active element has a property with its flags, every other lane is 0, and the flags of the instruction are
those of its elements together (R141, R142). -/
def LeavesTile (sh : Word) (o : VeOut) (P : Nat → Nat → Flags → Prop) : Prop :=
  o.x = none ∧ ∃ fl : Nat → Flags,
    (∀ k, ∀ h : k < 1024, (isActive sh k → P k o.tile[k].toNat (fl k)) ∧ (¬ isActive sh k → o.tile[k] = 0))
      ∧ o.flags = (List.range 1024).foldl (fun acc k => if isActive sh k then acc ||| fl k else acc) 0

/-- A VSF instruction: the code of its function and its source (R156). -/
def specialOf : Instr → Option (Nat × VSrc)
  | .vexp2 _ a => some (0, a)
  | .vlog2 _ a => some (1, a)
  | .vrcp _ a => some (2, a)
  | .vrsq _ a => some (3, a)
  | .vsqrt _ a => some (4, a)
  | .vtanh _ a => some (5, a)
  | .vsigm _ a => some (6, a)
  | _ => none

/-- The results of the VSF functions at the special values, of VRCP at every value, and of VSQRT and VRSQ, whose exact value lies between
any p and q that enclose it (R91, R92, R156). -/
def VsfSpec (f : Fmt) (fn : Nat) (n : Num) (b : Nat) (fl : Flags) : Prop :=
  let sp (r : Num) : Prop := SpecialTo f r b fl
  let is (x : Rat) : Prop := RoundedTo f .rne 0 x b fl
  let pole (neg : Bool) : Prop := b = endBits f neg ∧ fl = fDZ
  (n.isNaN = true → sp (.nan n.isSignalling))
    ∧ (∀ neg, n = .inf neg →
        ((fn = 0 ∨ fn = 6) → neg = true → sp .zero) ∧ (fn = 0 → neg = false → sp (.inf false))
          ∧ (fn = 6 → neg = false → is 1) ∧ (fn = 5 → is (if neg then -1 else 1))
          ∧ ((fn = 1 ∨ fn = 3 ∨ fn = 4) → neg = true → sp (.nan true))
          ∧ ((fn = 1 ∨ fn = 4) → neg = false → sp (.inf false)) ∧ (fn = 3 → neg = false → sp .zero))
    ∧ (n.isZero = true → (fn = 0 → is 1) ∧ (fn = 1 → pole true) ∧ (fn = 3 → pole n.neg?)
        ∧ ((fn = 4 ∨ fn = 5) → sp (.exact n.neg? 0 0)) ∧ (fn = 6 → is (1 / 2)))
    ∧ (fn = 2 → DivSpec f .rne 0 (.ofInt 1) n b fl)
    ∧ (∀ x, n.rat = some x → x < 0 → (fn = 1 ∨ fn = 3 ∨ fn = 4) → sp (.nan true))
    ∧ (∀ x, n.rat = some x → x ≠ 0 →
        (∀ k : Int, x = (k : Rat) → fn = 0 → is (scaled 1 k))
          ∧ (∀ k : Int, x = scaled 1 k → fn = 1 → (k ≠ 0 → is (k : Rat)) ∧ (k = 0 → sp .zero))
          ∧ (0 < x → (fn = 3 ∨ fn = 4) →
              (∀ y, 0 < y → (if fn = 4 then y * y = x else y * y * x = 1) → is y)
                ∧ ∃ p q, 0 < p ∧ (if fn = 4 then p * p ≤ x else p * p * x ≤ 1) ∧ (if fn = 4 then x ≤ q * q else 1 ≤ q * q * x) ∧ 0 < q
                  ∧ is p ∧ is q))

/-- p and q enclose the exact value of 2^x, log2 x, tanh x or 1 / (1 + e^-x) (R156). -/
def Encloses (fn : Nat) (x p q : Rat) : Prop :=
  let between (v : ℝ) : Prop := (p : ℝ) ≤ v ∧ v ≤ (q : ℝ)
  (fn = 0 → between ((2 : ℝ) ^ (x : ℝ))) ∧ (fn = 1 → between (Real.logb 2 (x : ℝ)))
    ∧ (fn = 5 → between (Real.tanh (x : ℝ))) ∧ (fn = 6 → between (1 / (1 + Real.exp (-(x : ℝ)))))

/-! ### Vector memory (R162 to R165, R189 to R193, R268) -/

/-- The address of element (r, c) of a dense access in a memory format (R162, R164). -/
def elemAddr (m : Fmt) (base stride : Word) (r c : Nat) : Word :=
  base + wd r * stride + wd (if m.width = 4 then c / 2 else c * m.bytes)

/-- The bits of the element at the head of some bytes; a 4-bit element is a nibble of its byte, 0 the low one (R89). -/
def elemIn (m : Fmt) (bs : List Byte) (nib : Nat) : Nat :=
  if m.width = 4 then (bs.headD 0).toNat / 16 ^ nib % 16 else leValue (bs.take m.bytes)

/-- An element between the memory format and the lane format: RNE, or R94 into D8, and no flag (R164). -/
def converted (src dst : Fmt) (b : Nat) : Nat :=
  if src = dst then b % 2 ^ src.width else (roundTo dst .rne 0 (readNum src b)).1

/-- An element of w bytes at an address goes through, in its granule's place: the granule's checks 3 to 5 pass with no refill, nothing holds
the element back, and a store needs no claim. (Before a load an open store to a type-2 page is in the way too, R236.) -/
def GranuleOpen (s : State) (acc : Acc) (w : Nat) (pl : Nat → Place) (a : Word) : Prop :=
  let g := granule a.toNat
  s.task.addrKind (wd g) ≠ .out ∧ s.placeFind (s.who s.sup) acc (wd g) = .ok (s, pl g)
    ∧ s.busy ((pl g).add (a.toNat % 64)) w (acc == .store) = .free
    ∧ s.keptHolds s.task.id.world ((pl g).add (a.toNat % 64)) w (acc == .store) = false
    ∧ (acc = .store → s.writeHeld s.task.id.world ((pl g).add (a.toNat % 64)) = false
        ∧ s.claimCheck (s.who s.sup) (wd g) (pl g) = .ok s)

/-- The granules of the elements for which a predicate holds, rising, each with its place (R165). -/
def GranuleList (pl : Nat → Place) (elems : Word → Prop) (gs : List (Nat × Place)) : Prop :=
  (gs.map (·.1)).Pairwise (· < ·) ∧ (∀ g ∈ gs, g.2 = pl g.1) ∧ ∀ n, n ∈ gs.map (·.1) ↔ ∃ a, elems a ∧ n = granule a.toNat

/-- Checks 6 and 7 of R117 pass for the elements of w bytes that lie in a granule and its place, as it is read. -/
def GranuleSound (s : State) (w : Nat) (elems : Word → Prop) (g : Nat × Place) : Prop :=
  s.windowCheck (s.who s.sup) (wd g.1) g.2 = .ok ()
    ∧ ∀ a, elems a → granule a.toNat = g.1 → s.lineCheck (s.who s.sup) .load (wd g.1) w (g.2.add (a.toNat % 64)) = .ok ()

/-- The bytes from an address on in the granules read. -/
def readOf (got : List (Nat × List Byte)) (a : Nat) : List Byte :=
  (((got.find? fun k => k.1 == granule a).map (·.2)).getD []).drop (a % 64)

/-- One step of a vector load at the granules `left`, with those `got` before it: the next granule moves (R195, R221; one granule a step
is the model's choice, logs 40 and 61), and the last one pushes a tile and completes. -/
def LoadStep (s t : State) (i : Instr) (q : Fin 8) (desc : List Word) (left : List (Nat × Place)) (got : List (Nat × List Byte))
    (tile : (Nat → List Byte) → Tile → Prop) : Prop :=
  let completes (all : List (Nat × List Byte)) : Prop := ∃ T, tile (readOf all) T
    ∧ OnlyQueue { s with task := { s.task with part := none } } t q { s.task.q[q] with tiles := s.task.q[q].tiles ++ [T] }
  match left with
  | [] => completes got
  | (g, p) :: rest =>
    let all := got ++ [(g, s.sees p 64)]
    if rest = [] then completes all
    else t = amid s i desc rest all

/-- A vector access may start: a grant, and a queue register of the role it needs (R31, R77, R165). -/
def VmemReady (s : State) (q : Fin 8) (role : QRole) : Prop := s.task.csr.sh.toNat % 2 ^ 8 ≠ 0 ∧ s.task.q[q].role = role

/-- The tuple of element (r, c) from an origin (R189). -/
def tupleAt (origin : Word) (r c : Nat) : List Nat :=
  [origin.toNat % 2 ^ 16 + r, origin.toNat / 2 ^ 16 % 2 ^ 16 + c, origin.toNat / 2 ^ 32 % 2 ^ 16, origin.toNat / 2 ^ 48]

/-- The address and the nibble of the element at an offset of a descriptor (R186). -/
def orbitElem (D : Desc) (m : Fmt) (off : Nat) : Word × Nat :=
  if m.width = 4 then (D.base + wd (off / 2), off % 2) else (D.base + wd (off * m.bytes), 0)

/-- The symmetry-breaking store rule of R192 on the elements `active`, in row-major order k: the pending values by rising offset, each that
of the last element with a sign that maps there, and whether SB is set: by a non-zero value at a position of sign 0, or by two
values that differ at one representative. -/
def Pending192 (m : Fmt) (active : Nat → Prop) (rep : Nat → Nat × Int × Nat) (v : Nat → Nat) (ps : List (Nat × Nat)) (sb : Bool) : Prop :=
  let signed (k : Nat) : Nat := if (rep k).2.1 < 0 then negateBits m (v k) else v k
  let counts (k : Nat) : Prop := active k ∧ (rep k).2.1 ≠ 0
  (ps.map (·.1)).Pairwise (· < ·)
    ∧ (∀ o u, (o, u) ∈ ps ↔ ∃ k, counts k ∧ (rep k).1 = o ∧ u = signed k ∧ ∀ l, k < l → counts l → (rep l).1 ≠ o)
    ∧ (sb = true ↔ (∃ k, active k ∧ (rep k).2.1 = 0 ∧ isZeroBits m (v k) = false)
        ∨ ∃ k l, counts k ∧ counts l ∧ (rep k).1 = (rep l).1 ∧ signed k ≠ signed l)

/-- What a vector store entry writes from its tile T of format F, in order: address, nibble and bits of each element, and whether it
breaks the symmetry (R162, R164, R192). A VST writes its active elements row by row, a VSTO each representative once. -/
def StoreWrites (e : StoreEntry) (F m : Fmt) (T : Tile) (ws : List (Word × Nat × Nat)) (sb : Bool) : Prop :=
  let v (k : Nat) : Nat := converted F m (T.toList.getD k 0).toNat
  let D := Desc.ofDwords e.desc
  match e.instr with
  | .vst .. => sb = false ∧ ws = (List.range (rowsOf e.sh)).flatMap fun x => (List.range (colsOf e.sh)).map fun y =>
      (elemAddr m e.base e.stride x y, if m.width = 4 then y % 2 else 0, v (64 * x + y))
  | .vsto .. => ∃ ps, Pending192 m (isActive e.sh) (fun k => orbitSpec D (tupleAt e.stride (k / 64) (k % 64))) v ps sb
      ∧ ws = ps.map fun p => ((orbitElem D m p.1).1, (orbitElem D m p.1).2, p.2)
  | _ => False

/-- What nibble n, counted from address 0, takes from elements written in order: the last one's that covers it. -/
def nibbleFrom (m : Fmt) (ws : List (Word × Nat × Nat)) (n : Nat) : Option Nat :=
  (ws.reverse.find? fun w => 2 * w.1.toNat + w.2.1 ≤ n && n < 2 * w.1.toNat + w.2.1 + m.width / 4).map fun w =>
    w.2.2 / 16 ^ (n - (2 * w.1.toNat + w.2.1)) % 16

/-- A nibble of the byte at a place as the running task reads it: 0 the low one (R89). -/
def State.nibble (s : State) (p : Place) (h : Nat) : Nat := leValue (s.sees p 1) / 16 ^ h % 16

/-- The running task writes a place in the view it has: at the root, or in a copy its world holds (R349). -/
def State.ownView (s : State) : Place → Prop
  | .device pa => ∀ k, s.world? s.task.id.world = some k → k.granules.contains (pa / 4096) = true
  | _ => True

/-- The descriptor at x[xb] reads, is valid, of rank 2 to 4 and of the instruction's format, its base is aligned, and every active
element's tuple lies inside its extents (R189). -/
def OrbitReady (s : State) (b : XReg) (m : Fmt) (origin : Word) (ws : List Word) (D : Desc) : Prop :=
  ∃ p, s.task.addrKind (s.x b) ≠ .out ∧ (s.x b).toNat % 32 = 0 ∧ Reaches s .load (s.x b) 32 s p ∧ ws = recordAt s p
    ∧ D = Desc.ofDwords ws ∧ Desc.valid ws = true ∧ D.rank ≠ 1 ∧ D.fmt = Fmt.code m ∧ D.base.toNat % m.bytes = 0
    ∧ ∀ r c, r < rowsOf s.task.csr.sh → c < colsOf s.task.csr.sh → ∀ k, k < D.rank →
        (tupleAt origin r c).getD k 0 < D.ext k

/-! ### Engine commands at work (R204 to R211, R254 to R260) -/

/-- A stook after `n` was added (R263). -/
def Signalled (o v : Stook) (n : Nat) : Prop :=
  let sum := o.count.toNat + n
  v.target = o.target
    ∧ (o.target = 0 → v.phase = o.phase ∧ v.count.toNat = min sum 0xFFFFFFFF)
    ∧ (o.target ≠ 0 → ∃ m, sum = m * o.target.toNat + v.count.toNat ∧ v.count.toNat < o.target.toNat
        ∧ v.phase = (o.phase != decide (m % 2 = 1)))

/-- The stooks after the signal that dw1 of a record asks for: SIG_EN [20], SIG_STOOK [19:16], SIG_COUNT [47:21] (R206, R289). -/
def RecordSignalled (s t : State) (r : List Word) : Prop :=
  let d := (r.getD 1 0).toNat
  ∀ k : Fin 16, if d / 2 ^ 20 % 2 = 1 ∧ d / 2 ^ 16 % 16 = k.val
    then Signalled s.task.stooks[k] t.task.stooks[k] (d / 2 ^ 21 % 2 ^ 27) else t.task.stooks[k] = s.task.stooks[k]

/-- When a command may start (R206): its stamp counts only while STAMPED is set and no overrun of it was delivered. -/
structure StartSpec where
  overrun : Prop
  mayStart : Prop

/-- The start of a command from its STAMP, its captured slack and its wait (R206 steps 1 and 2). -/
def startSpec (s : State) (r : List Word) (stamped stampDone : Bool) (slack : Nat) : StartSpec :=
  let stamp := (r.getD 0 0).toNat / 2 ^ 32
  let d := (r.getD 1 0).toNat
  let counts := stamped = true ∧ stampDone = false
  let waits := d / 2 ^ 5 % 2 = 1
  { overrun := counts ∧ stamp + slack < s.frame
    mayStart := (counts → stamp ≤ s.frame ∧ s.frame ≤ stamp + slack)
      ∧ (waits → s.task.stooks.toList[d % 16]?.map (·.phase) = some (decide (d / 2 ^ 4 % 2 = 1))) }

/-- The index of level `l` at the point of a linear index: level 0 is the fastest (R204, R254). -/
def indexAt (counts : List Nat) (p l : Nat) : Nat := p / (counts.take l).prod % counts.getD l 1

/-- A base plus the sum of index times step over six levels (R204). -/
def along (is : Nat → Nat) (base : Int) (step : Nat → Int) : Int := base + ((List.range 6).map fun l => (is l : Int) * step l).sum

/-- The same at the point of a linear index. -/
def alongNest (counts : List Nat) (p : Nat) (base : Int) (step : Nat → Int) : Int := along (indexAt counts p) base step

/-- The KIND of the Thresher step that an instruction of the table runs (R202). -/
def thrStepSpec : Instr → Option Nat
  | .mma => some 0
  | .dist => some 1
  | .topk => some 2
  | .drain => some 3
  | .loadacc => some 4
  | _ => none

/-- The Thresher's head command has started, has a nest point left and has read its descriptors, each of them valid, and nothing holds the Thresher; every loft
page is in place and sound, and a latched tile holds what its rows hold (R200). -/
def ThrReady (s : State) (c : ThrCmd) (rest : List ThrCmd) (kind : Nat) : Prop :=
  s.running = true ∧ s.dev.limiting = false ∧ s.task.thr.halted = false ∧ s.task.thr.cmds = c :: rest
    ∧ c.started = true ∧ c.point < (thrWalk c.record).prod ∧ (∃ ds, c.descs = some ds ∧ ds.length = 4 ∧ ∀ n, n < 4 → thrDesc c.record n = true → Desc.valid (ds.getD n []) = true)
    ∧ (c.record.getD 0 0).toNat % 2 ^ 8 = kind ∧ thrDesc c.record 3 = (c.record.getD 0 0).getLsbD 10
    ∧ s.task.id.unfilled = [] ∧ s.task.badLoft = []
    ∧ ∀ l, s.task.thr.latch = some l → l.rows ≠ [] → l.bytes = l.rows.flatMap fun o => s.task.loft.getBytes o (rowBytes l.fmt)

/-- A release at fabric scope can be made: no vector store to a type-2 page that came before the command's MXQ is left (R202, R239, R271). -/
def ThrReleased (s : State) (c : ThrCmd) : Prop :=
  (c.record.getD 0 0).getLsbD 14 = true → (c.record.getD 0 0).toNat / 2 ^ 15 % 4 = 3 → ∀ e ∈ s.task.storeQ, e.issued < c.ordinal → ¬ e.toWindow

/-- The head command moves to its next nest point, or completes after its last, once its release is made: its number becomes the Thresher's
and its signal is given (R206 steps 6 and 7). -/
def ThrMoved (s t : State) (c : ThrCmd) (rest : List ThrCmd) : Prop :=
  t.task.thr.issued = s.task.thr.issued ∧ t.task.thr.halted = false ∧
  if c.point + 1 < (thrWalk c.record).prod then
    t.task.thr.cmds = { c with point := c.point + 1 } :: rest ∧ t.task.thr.done = s.task.thr.done ∧ t.task.stooks = s.task.stooks
  else (ThrReleased s c → t.task.thr.cmds = rest ∧ t.task.thr.done = c.ordinal ∧ RecordSignalled s t c.record)
    ∧ (¬ ThrReleased s c → t.task.thr.cmds = { c with point := (thrWalk c.record).prod } :: rest ∧ t.task.thr.done = s.task.thr.done
      ∧ t.task.stooks = s.task.stooks)

/-- An element of a format in loft bytes from an offset on: element n of a row (R89, R204). -/
def loftElem (m : Mem) (f : Fmt) (o n : Nat) : Nat :=
  if f.width = 4 then (m.get (o + n / 2)).toNat / 16 ^ (n % 2) % 16 else leValue (m.getBytes (o + n * f.bytes) f.bytes)

/-- The nest indices of a point of a command; with ORB the contraction level stands at z (R214). -/
def stepIndex (r : List Word) (p z l : Nat) : Nat := if (r.getD 0 0).getLsbD 10 = true ∧ l = thrZk r then z else indexAt (thrWalk r) p l

/-- The origin block of a descriptor operand: row (half 0) and column (half 1) from the two bytes of a field (R204). -/
def blockOf (r : List Word) (field which : Nat) (is : Nat → Nat) (half : Nat) : Nat :=
  (along is ((field / 256 ^ half % 256 : Nat) : Int) fun l => thrHalf r which half l).toNat

/-- A loft byte offset of a virtual address. -/
def loftOf (t : Task) (a : Word) : Option Nat :=
  match t.addrKind a with
  | .loft o => some o
  | _ => none

/-- The representative at an offset lies below the loft limits (R209, R212). -/
def repInLoft (t : Task) (D : Desc) (f : Fmt) (off : Nat) : Prop :=
  (loftOf t (orbitElem D f off).1).isSome = true ∧ (loftOf t ((orbitElem D f off).1 + wd (f.bytes - 1))).isSome = true

/-- Element (row, n) of operand k of MMA and DIST, 0 A and 1 B, at nest indices: a dense row (R204), or through its descriptor, with 0
beyond an extent and at sign 0 (R212). -/
def opndElem (s : State) (r : List Word) (k : Nat) (f : Fmt) (D : Option Desc) (is : Nat → Nat) (row n : Nat) : Nat :=
  match D with
  | none =>
    let b := (along is (opndBase r k) fun l => 64 * thrStep r k l).toNat
    loftElem s.task.loft f (b + row / 16 * opndQ r k + row % 16 * opndPitch r k) n
  | some D =>
    let tup := [64 * blockOf r (opndPitch r k) k is 0 + row, 64 * blockOf r (opndPitch r k) k is 1 + n, 0, 0]
    let q := orbitSpec D tup
    if D.ext 0 ≤ tup.getD 0 0 ∨ D.ext 1 ≤ tup.getD 1 0 ∨ q.2.1 = 0 then 0
    else
      let v := elemIn f (s.task.loft.getBytes ((loftOf s.task (orbitElem D f q.1).1).getD 0) f.bytes) (orbitElem D f q.1).2
      if q.2.1 < 0 then negateBits f v else v

/-- A descriptor operand can be fetched at nest indices: its origin lies inside the extents and every representative it reads below the
loft limits (R212). -/
def OpndReady (s : State) (r : List Word) (k : Nat) (f : Fmt) (D : Option Desc) (is : Nat → Nat) : Prop :=
  ∀ E, D = some E → E.rank = 2 ∧ ∀ row n, row < 64 → n < 64 →
    let tup := [64 * blockOf r (opndPitch r k) k is 0 + row, 64 * blockOf r (opndPitch r k) k is 1 + n, 0, 0]
    (row = 0 → n = 0 → tup.getD 0 0 < E.ext 0 ∧ tup.getD 1 0 < E.ext 1)
      ∧ (tup.getD 0 0 < E.ext 0 → tup.getD 1 0 < E.ext 1 → (orbitSpec E tup).2.1 ≠ 0 → repInLoft s.task E f (orbitSpec E tup).1)

/-- The positions of the contraction of one step with their multiplicities (R207, R214): k from 0 to 63, or with ORB every orbit of the
index space at its lowest position, by offset and then by position. -/
def Positions (r : List Word) (D : Option Desc) (ps : List (Nat × Nat)) : Prop :=
  match D with
  | none => ps = (List.range 64).map fun k => (k, 1)
  | some D =>
    let tup (p : Nat) : List Nat := if D.rank = 1 then [p, 0, 0, 0] else [p / D.ext 1, p % D.ext 1, 0, 0]
    (∀ p, p ∈ ps.map (·.1) ↔ p < 64 * (thrCounts r).getD (thrZk r) 1 ∧ ∀ k, k < p → D.coordsAt (tup k) ≠ D.coordsAt (tup p))
      ∧ ps.Pairwise (fun a b => (orbitSpec D (tup a.1)).1 < (orbitSpec D (tup b.1)).1
          ∨ ((orbitSpec D (tup a.1)).1 = (orbitSpec D (tup b.1)).1 ∧ a.1 < b.1))
      ∧ ∀ p ∈ ps, p.2 = (orbitSpec D (tup p.1)).2.2

/-- The output block of an operand (R213): A's origin row block, B's origin column block or with TB its row block, or the row block of a
dense same operand. -/
def outBlock (r : List Word) (k : Nat) (D : Option Desc) (is : Nat → Nat) : Int :=
  if D.isSome then (blockOf r (opndPitch r k) k is (if k = 1 ∧ (r.getD 0 0).getLsbD 12 = false then 1 else 0) : Int)
  else along is 0 (fun l => thrStep r k l) / (opndPitch r k : Int)

/-- A step of ASSERT lies off the stored half of C (R213). -/
def offStored (c : ThrCmd) (is : Nat → Nat) : Prop :=
  (c.record.getD 0 0).getLsbD 11 = true ∧ ∃ D, c.desc 2 = some D ∧
    ((∃ k ∈ [D.c1, D.c2], k.kind = 1 ∧ k.a = 0 ∧ k.b = 1 ∧ outBlock c.record 0 (c.desc 0) is < outBlock c.record 1 (c.desc 1) is)
      ∨ ∃ k ∈ [D.c1, D.c2], k.kind = 4 ∧ k.a = 0 ∧ k.b = 1 ∧ 0 < outBlock c.record 0 (c.desc 0) is)

/-- An accumulator lane as INT32. -/
def signedLane (x : Nat) : Int := if x < 2 ^ 31 then x else (x : Int) - 2 ^ 32

/-- How a column ranks (R211): INT32 rows as signed integers; FP32 rows with −0 below +0 and every NaN above all else. -/
def rankKey (int : Bool) (b : Nat) : Int :=
  if int then if b < 2 ^ 31 then (b : Int) else (b : Int) - 2 ^ 32
  else if 0x7F800000 < b % 2 ^ 31 then 2 ^ 31
  else if b < 2 ^ 31 then (b : Int) else -((b : Int) - 2 ^ 31) - 1

/-- The accumulator row of a nest point: from CSTEP for MMA and DIST, else from ASTEP (R204). -/
def rowAt (r : List Word) (p : Nat) : Nat :=
  (alongNest (thrWalk r) p (thrAccRow r) (thrStep r (if thrKind r < 2 then 2 else 0))).toNat

/-- The loft offset of a nest point of DRAIN, LOADACC and TOPK (R204). -/
def loftAt (r : List Word) (p : Nat) : Nat := (alongNest (thrWalk r) p (thrLoft r) fun l => 64 * thrStep r 2 l).toNat

/-- The draw for element (row, n) of a Thresher command's nest point (R208, R210). -/
def thrDrawSpec (s : State) (c : ThrCmd) (row n : Nat) : Nat :=
  if (c.record.getD 11 0).toNat / 2 ^ 32 % 8 = 5 then
    stochDraw s.seed (wd (c.addr.toNat % 2 ^ 32) ^^^ wd s.task.id.launch.toNat)
      (wd (c.ordinal * 2 ^ 20 + c.point * 2 ^ 12 + row * 64 + n))
  else 0

/-- A step of a copy channel in the table: its channel and the KIND it runs (R253). -/
def copyStepSpec : Instr → Option (Fin 4 × Nat)
  | .copyCmd k => some (k, 0)
  | .fillCmd k => some (k, 1)
  | .gatherCmd k => some (k, 2)
  | .scatterCmd k => some (k, 3)
  | .packoCmd k => some (k, 4)
  | .unpackoCmd k => some (k, 5)
  | _ => none

/-- The value of n bytes from an address on, byte by byte at their places. -/
def State.seenAt (s : State) (pl : Nat → Place) (a n : Nat) : Nat := leValue ((List.range n).flatMap fun k => s.sees (pl (a + k)) 1)

/-- Bytes of a source or destination element of a copy command: level 0 of an unconverted COPY counts bytes (R254). -/
def copyBytes (r : List Word) (dst : Bool) : Nat := copyUnit r dst / 2

/-- The address of the element at a nest position, from BASE and the strides (R254). -/
def copyAddr (r : List Word) (dst : Bool) (j : Nat) : Int :=
  ((r.getD (if dst then 3 else 2) 0).toNat : Int) + ((List.range 4).map fun l => (indexAt (copyCounts r) j l : Int)
    * (if l = 0 ∧ copyStride r dst 0 = 0 then (copyBytes r dst : Int) else copyStride r dst l)).sum

/-- The index tuple of a nest position of PACKO and UNPACKO: level 0 stands for axis 1 and level 1 for axis 0 (R255). -/
def copyTupleSpec (r : List Word) (D : Desc) (j : Nat) : List Nat :=
  let i := indexAt (copyCounts r) j
  if D.rank = 1 then [i 0, 0, 0, 0] else [i 1, i 0, i 2, i 3]

/-- The address of the representative of a tuple. -/
def repAddr (D : Desc) (f : Fmt) (tup : List Nat) : Int := ((D.elemAt f (orbitSpec D tup).1).1.toNat : Int)

/-- The format a code names. -/
def fmtNamed (code : Nat) : Fmt := (Fmt.ofCode code).getD .uint8

/-- Where the element at position j is read (R255): none for FILL and for a member of UNPACKO whose sign is 0. -/
def copyFrom (s : State) (r : List Word) (D : Desc) (pl : Nat → Place) (j : Nat) : Option Int :=
  if copyKind r = 1 then none
  else if copyKind r = 2 then some ((r.getD 2 0).toNat + s.seenAt pl ((r.getD 9 0).toNat + 4 * j) 4 * copyBytes r false : Nat)
  else if copyKind r = 5 then
    if (orbitSpec D (copyTupleSpec r D j)).2.1 = 0 then none
    else some (repAddr D (fmtNamed (copySfmt r)) (copyTupleSpec r D j))
  else some (copyAddr r false j)

/-- Where it is written (R255): for PACKO only the first member of its orbit with sign +1, in nest order, is written. -/
def copyTo (s : State) (r : List Word) (D : Desc) (pl : Nat → Place) (j : Nat) : Option Int :=
  if copyKind r = 3 then some ((r.getD 3 0).toNat + s.seenAt pl ((r.getD 9 0).toNat + 4 * j) 4 * copyBytes r true : Nat)
  else if copyKind r = 4 then
    let tup := copyTupleSpec r D
    let plus (k : Nat) : Prop := (orbitSpec D (tup k)).2.1 = 1
    open Classical in
    if plus j ∧ ∀ k, k < j → plus k → D.coordsAt (tup k) ≠ D.coordsAt (tup j) then
      some (repAddr D (fmtNamed (copyDfmt r)) (tup j))
    else none
  else some (copyAddr r true j)

/-- The bits written for position j (R254, R255): the source's, negated where UNPACKO's sign is −1, rounded once into the destination
format where the command converts. -/
def copyBits (s : State) (c : CopyCmd) (D : Desc) (pl : Nat → Place) (j : Nat) : Nat :=
  let r := c.record
  let src := fmtNamed (copySfmt r)
  let v := if copyKind r = 1 then (r.getD 8 0).toNat / 2 ^ 32
    else match copyFrom s r D pl j with
      | none => 0
      | some a =>
        let b := s.seenAt pl a.toNat (copyBytes r false)
        if copyKind r = 5 ∧ (orbitSpec D (copyTupleSpec r D j)).2.1 < 0 then negateBits src b else b
  if copyKind r ≠ 1 ∧ (copySfmt r ≠ copyDfmt r ∨ copyScale r ≠ 0) then
    let m := RM.ofCode (copyRnd r)
    let t := if m = .stoch then
      stochDraw s.seed (wd (c.addr.toNat % 2 ^ 32) ^^^ wd s.task.id.launch.toNat) (wd (c.ordinal * 2 ^ 32 + j)) else 0
    (roundTo (fmtNamed (copyDfmt r)) m t ((readNum src v).scale (copyScale r))).1
  else v % 2 ^ (8 * copyBytes r true)

/-- The head command of a channel has started, and nothing stops it. -/
def CopyReady (s : State) (k : Fin 4) (c : CopyCmd) (rest : List CopyCmd) (kind : Nat) : Prop :=
  s.running = true ∧ s.task.ch[k].cmds = c :: rest ∧ s.task.ch[k].halted = false ∧ c.started = true ∧ copyKind c.record = kind

/-- Engine accesses of some bytes go through at once, each byte at its place: for reads, or for writes with their claims. -/
def EngineBytes (s : State) (sup : Bool) (after : Nat) (write : Bool) (pl : Nat → Place) (a n : Nat) : Prop :=
  ∀ k, k < n → (pl (a + k)).key.2 % 64 = (a + k) % 64
    ∧ (∀ j, j < n → (a + j) / 64 = (a + k) / 64 → (pl (a + j)).granule = (pl (a + k)).granule)
    ∧ if write then s.engineOpen (s.engine sup after) (wd (a + k)) = .ok (s, (pl (a + k)).granule)
      else s.enginePlace (s.engine sup after) .load (wd (a + k)) = .ok (s, pl (a + k))

/-- Nothing differs but the channels, the stooks, memory and what a running Cellar keeps. -/
def OnlyCopied (s t : State) : Prop :=
  t = { s with
    task := { s.task with
      ch := t.task.ch, stooks := t.task.stooks, loft := t.task.loft, badLoft := t.task.badLoft, loftPages := t.task.loftPages
      thr := { s.task.thr with latch := t.task.thr.latch } }
    mem := t.mem, host := t.host, peer := t.peer, badLines := t.badLines, dirty := t.dirty, worlds := t.worlds, parts := t.parts }
    ∧ CellarsOnly s t ∧ LatchKept s t

/-! ### Collectives (R278 to R292) -/

/-- A step of the collective unit: its KIND, its group and the commands of the other members. -/
def collStepSpec : Instr → Option (Nat × BitVec 32 × List PeerCmd)
  | .allreduce g ps => some (0, g, ps)
  | .reducescatter g ps => some (1, g, ps)
  | .allgather g ps => some (2, g, ps)
  | .broadcast g ps => some (3, g, ps)
  | .sendCmd g ps => some (4, g, ps)
  | .recvCmd g ps => some (5, g, ps)
  | _ => none

/-- The running task's command c is the one a step of its kind takes: the only one of its kind and group, with none before it under its
ordinals (R289), and the phase it waits for has come (R284). -/
def CollFirst (s : State) (c : CollCmd) (l1 l2 : List CollCmd) : Prop :=
  s.running = true ∧ c.tid = s.task.id.tid ∧ s.partOfDie s.die.val = some c.part ∧ s.coll.cmds = l1 ++ c :: l2
    ∧ (∀ e ∈ l1, collKey e.part e.record ≠ collKey c.part c.record)
    ∧ (∀ e ∈ l1 ++ l2, collGroup e.record = collGroup c.record → collKind e.record ≠ collKind c.record)
    ∧ (c.group = none → (c.record.getD 1 0).toNat / 2 ^ 5 % 2 = 1 →
        s.task.stooks.toList[(c.record.getD 1 0).toNat % 16]?.map (·.phase) = some (decide ((c.record.getD 1 0).toNat / 2 ^ 4 % 2 = 1)))

/-- The group g of a command is valid and whole for this member, and its buffers do not overlap (R279, R280, R284, R290). -/
def CollGroupOk (s : State) (c : CollCmd) (g : Group) : Prop :=
  let P := s.parts[c.part]
  let at_ := P.coltab.toNat / 2 ^ 16 % 2 ^ 36 * 2 ^ 16 + 0x2000 + 64 * collGroup c.record
  let e := (List.range 8).map fun k => wd (leValue (s.mem.getBytes (at_ + 8 * k) 8))
  let f (k lo n : Nat) : Nat := (e.getD k 0).toNat / 2 ^ lo % 2 ^ n
  P.coltab.toNat % 2 = 1 ∧ collGroup c.record < 256 ∧ (c.part.val, collGroup c.record) ∉ s.coll.broken
    ∧ s.tableRead c.part at_ 64 c.addr = .ok () ∧ groupValid e = true ∧ s.tableRead c.part (e.getD 3 0).toNat (2 * g.n) c.addr = .ok ()
    ∧ g = { n0 := f 0 0 5, n1 := f 0 16 16, n2 := f 0 32 8, site := f 1 32 8, module := f 1 16 16, part := f 1 0 4, tmo := f 2 0 16
            dir := (List.range g.n).map fun k => leValue (s.mem.getBytes ((e.getD 3 0).toNat + 2 * k) 2) }
    ∧ (3 ≤ collKind c.record → collPeer c.record < g.n) ∧ (4 ≤ collKind c.record → collPeer c.record ≠ g.me)
    ∧ collOverlap c.record g = false

/-- A command that starts now with the group g, or has started with it and is not overdue (R284, R291). -/
def CollOpen (s : State) (c : CollCmd) (g : Group) : Prop :=
  (c.group = none ∧ CollGroupOk s c g)
    ∨ (c.group = some g ∧ g.part < g.n0 ∧ g.module < g.n1 ∧ g.site < g.n2 ∧ (3 ≤ collKind c.record → collPeer c.record < g.n)
        ∧ (4 ≤ collKind c.record → collPeer c.record ≠ g.me) ∧ s.dev.cycle - c.since < g.tmo * 2700000)

/-- The other members a command needs, and the command of each that matches it (R284). -/
def CollMatched (r : List Word) (g : Group) (peers : List PeerCmd) (P : Nat → PeerCmd) : Prop :=
  ∀ j, (if 4 ≤ collKind r then j = collPeer r else j < g.n ∧ j ≠ g.me) → matchOf r g peers j = some (P j)

/-- A matched command agrees (R284). -/
def CollAgrees (r : List Word) (p : PeerCmd) : Prop :=
  p.fmt = collFmt r ∧ p.count = collCount r
    ∧ (collKind r < 4 → p.kind = collKind r ∧ p.op = collOp r ∧ p.winnow = collWinnow r ∧ (collKind r = 3 → p.peer = collPeer r))

/-- Element e of the send buffer of member j. -/
def collSent (s : State) (r : List Word) (g : Group) (P : Nat → PeerCmd) (pl : Nat → Place) (j e : Nat) : Nat :=
  let b := collSize r
  if j = g.me then s.seenAt pl ((r.getD 2 0).toNat + b * e) b else leValue (((P j).send.drop (e * b)).take b)

/-- The fold of some values, the first passing unchanged (R286). -/
def foldAll (r : List Word) (ys : List Nat) : Nat := ys.tail.foldl (foldElem r) (ys.headD 0)

/-- E of a block of 32 elements from its values v, FP32 (R287). -/
def IsBlockExp (vs : List Nat) (E : Int) : Prop :=
  ((∀ v ∈ vs, ∀ x, (readNum .fp32 v).rat = some x → x = 0) → E = 0)
    ∧ ∀ top, (∃ v ∈ vs, ∃ x, (readNum .fp32 v).rat = some x ∧ scaled 1 top ≤ ratMag x) →
        (∀ v ∈ vs, ∀ x, (readNum .fp32 v).rat = some x → ratMag x < scaled 1 (top + 1)) → E = max (top - 1) (-128)

/-- The winnowing of n elements x with their chaff h in a format: the values y that go on and the new chaff (R287). -/
def Winnows (f : Fmt) (n : Nat) (x h y new : Nat → Nat) : Prop :=
  let v (e : Nat) : Nat := (roundTo .fp32 .rne 0 (sumNum .rne [readNum f (x e), readNum .fp32 (h e)]).1).1
  ∀ e, e < n → ∃ E, IsBlockExp (((List.range n).filter fun k => k / 32 = e / 32).map v) E ∧
    let code := (roundTo .d8 .rne 0 ((readNum .fp32 (v e)).scale (-E))).1
    let y' := (roundTo f .rne 0 ((readNum .d8 code).scale E)).1
    y e = y' ∧ new e = if code = 0x80 ∨ readNum f y' = .inf true ∨ readNum f y' = .inf false then 0
      else (roundTo .fp32 .rne 0 (sumNum .rne [readNum .fp32 (v e), (readNum f y').negate]).1).1

/-- The owner of the chaff of element e at a level, in the unit at a site, a module and a partition (R287, R288). -/
def ownerSpec (r : List Word) (g : Group) (lvl site module part e : Nat) : Nat :=
  let chunk := e / (0x100000 / collSize r)
  site * (g.n0 * g.n1) + match lvl with
    | 0 => module * g.n0 + part
    | 1 => module * g.n0 + chunk % g.n0
    | _ => chunk % (g.n0 * g.n1)

/-- Elements of the vector that a command reduces (R285, R287). -/
def reducedLen (r : List Word) (g : Group) : Nat := if collKind r = 1 then g.n * collCount r else collCount r

/-- The byte offset of a chaff element in its owner's buffer (R287). -/
def chaffSpec (r : List Word) (g : Group) (lvl e : Nat) : Nat :=
  4 * (reducedLen r g * ((List.range lvl).filter (winnowed r)).length + e)

/-- The reduction of R286 from the members' vectors and their chaff: partitions, then modules, then sites, each in ascending index, an input
of a level winnowed where the command asks for it; `res` the result, and `new` the new chaff of this member's units by level. -/
def Reduces (r : List Word) (g : Group) (sent : Nat → Nat → Nat) (chaff : Nat → Nat → Nat) (res : Nat → Nat)
    (new : Nat → Nat → Nat) : Prop :=
  let n := reducedLen r g
  let f := if collFmt r = 0 then Fmt.fp32 else .bf16
  ∃ (in0 : Nat → Nat → Nat → Nat → Nat) (in1 : Nat → Nat → Nat → Nat) (in2 : Nat → Nat → Nat)
    (h0 : Nat → Nat → Nat → Nat → Nat) (h1 : Nat → Nat → Nat → Nat) (h2 : Nat → Nat → Nat),
    let level (lvl site module part : Nat) (x y h : Nat → Nat) : Prop :=
      if winnowed r lvl then Winnows f n x (fun e => chaff (ownerSpec r g lvl site module part e) (chaffSpec r g lvl e)) y h
      else ∀ e, e < n → y e = x e
    (∀ k m p, k < g.n2 → m < g.n1 → p < g.n0 → level 0 k m p (sent (k * (g.n0 * g.n1) + m * g.n0 + p)) (in0 k m p) (h0 k m p))
      ∧ (∀ k m, k < g.n2 → m < g.n1 → level 1 k m 0 (fun e => foldAll r ((List.range g.n0).map fun p => in0 k m p e)) (in1 k m) (h1 k m))
      ∧ (∀ k, k < g.n2 → level 2 k 0 0 (fun e => foldAll r ((List.range g.n1).map fun m => in1 k m e)) (in2 k) (h2 k))
      ∧ (∀ e, e < n → res e = foldAll r ((List.range g.n2).map fun k => in2 k e))
      ∧ ∀ e, e < n → new 0 e = h0 g.site g.module g.part e ∧ new 1 e = h1 g.site g.module e ∧ new 2 e = h2 g.site e

/-- The chaff elements that this member owns: level and element (R287). -/
def ownsChaff (r : List Word) (g : Group) (lvl e : Nat) : Prop :=
  lvl < 3 ∧ winnowed r lvl = true ∧ e < reducedLen r g ∧ ownerSpec r g lvl g.site g.module g.part e = g.me

/-- The addresses whose bytes a faulted command leaves unknown: its own receive and owned chaff bytes that its send buffer does not hold;
of an ALLREDUCE in place all of them (R290; that those are unknown is the model's choice, log 12). -/
def collSpoils (r : List Word) (g : Group) (a : Nat) : Prop :=
  let b := collSize r
  let send := (r.getD 2 0).toNat
  let recv := (r.getD 3 0).toNat
  let n := if collKind r = 4 then 0 else if collKind r = 2 then g.n * collCount r else collCount r
  ((∃ u, u < b * n ∧ a = recv + u) ∨ ∃ lvl e u, ownsChaff r g lvl e ∧ u < 4 ∧ a = (r.getD 5 0).toNat + chaffSpec r g lvl e + u)
    ∧ ((collKind r = 0 ∧ send = recv) ∨ a < send ∨ send + b * collSends r g ≤ a)

/-- The chaff element at an offset of member j's buffer. -/
def chaffAt (s : State) (r : List Word) (g : Group) (P : Nat → PeerCmd) (pl : Nat → Place) (j o : Nat) : Nat :=
  if j = g.me then s.seenAt pl ((r.getD 5 0).toNat + o) 4 else leValue (((P j).chaff.drop o).take 4)

/-- Element e of the receive buffer (R285), from the reduction's result. -/
def collReceived (s : State) (r : List Word) (g : Group) (P : Nat → PeerCmd) (pl : Nat → Place) (res : Nat → Nat) (e : Nat) : Nat :=
  let n := collCount r
  match collKind r with
  | 0 => res e
  | 1 => res (g.me * n + e)
  | 2 => collSent s r g P pl (e / n) (e % n)
  | _ => collSent s r g P pl (collPeer r) e

/-! ### Streams (R330 to R338) -/

/-- The token stream of ZRUN and the bytes it stands for (R333). -/
inductive ZrunBytes : List Byte → List Byte → Prop
  | done : ZrunBytes [] []
  | literal (t : Byte) (ls rest out : List Byte) : t.toNat < 0x80 → ls.length = t.toNat + 1 → ZrunBytes rest out →
      ZrunBytes (t :: (ls ++ rest)) (ls ++ out)
  | zeros (t : Byte) (rest out : List Byte) : 0x80 ≤ t.toNat → ZrunBytes rest out →
      ZrunBytes (t :: rest) (List.replicate (t.toNat - 0x7F) 0 ++ out)

/-- A body stands for the uncompressed bytes under a codec (R333): RAW, ZRUN or PREFIX. -/
def ChunkBytes (codec ulen : Nat) (body bs : List Byte) : Prop :=
  bs.length = ulen ∧ ((codec = 3 ∧ body = bs) ∨ (codec = 1 ∧ ZrunBytes body bs)
    ∨ (codec = 2 ∧ prefixDecode ulen body = some bs))

/-- A chunk header that keeps R332, with its fields. -/
def HeaderSpec (bs : List Byte) (codec ulen clen crc : Nat) : Prop :=
  let f (o n : Nat) : Nat := leValue ((bs.drop o).take n)
  f 0 1 = 0x42 ∧ f 1 1 = 0x4C ∧ f 2 1 = 1 ∧ f 3 1 = codec ∧ f 4 4 = ulen ∧ f 8 4 = clen ∧ f 12 4 = crc ∧ f 16 16 = 0
    ∧ 1 ≤ codec ∧ codec ≤ 3 ∧ 1 ≤ ulen ∧ ulen ≤ 65536 ∧ clen ≠ 0

/-- The lanes of the whole elements of `n` nibbles in some input, unconverted (R330). -/
def elemLanes (n : Nat) (ns : List (BitVec 4)) : List Lane :=
  (List.range (ns.length / n)).map fun k =>
    BitVec.ofNat 32 (((ns.drop (k * n)).take n).foldr (fun x acc => x.toNat + 16 * acc) 0)

/-- The nibbles of bytes, the low one first (R89). -/
def inputNibbles (bs : List Byte) : List (BitVec 4) := bs.flatMap fun b => [BitVec.ofNat 4 (b.toNat % 16), BitVec.ofNat 4 (b.toNat / 16)]

/-- A stream of Bale chunks at the start of a chunk, which needs input and may take it: no operator changes its elements, no fault
stops it, and its queue register has room (R331, R336, R338). -/
def StreamReady (s : State) (q : Fin 8) (d : Stream) : Prop :=
  s.running = true ∧ s.task.q[q].stream = some d ∧ d.stopped = false ∧ s.task.pend.stream[q] = none ∧ s.task.q[q].tiles.length < 4
    ∧ streamOps d.desc = [1] ∧ d.built = false ∧ d.chunk < (d.desc.getD 2 0).toNat % 2 ^ 32 ∧ d.waiting.length < d.tileLen
    ∧ d.carry.length < d.inNibbles ∧ d.skip = 0 ∧ d.attempt < 3 ∧ 1 ≤ d.sh.toNat % 2 ^ 8 ∧ 1 ≤ d.sh.toNat / 2 ^ 8 % 2 ^ 8
    ∧ d.sh.toNat % 2 ^ 8 ≤ 16 ∧ d.sh.toNat / 2 ^ 8 % 2 ^ 8 ≤ 64

/-- Only the stream of a queue register and its tiles differ. -/
def OnlyStream (s t : State) (q : Fin 8) (tiles : List Tile) (d : Stream) : Prop :=
  t = { s with task := { s.task with q := s.task.q.set q { s.task.q[q] with tiles := tiles, stream := some d } } }

/-! ### Launches (R299 to R309) -/

/-- A completion record (R300). -/
def completionSpec (id status code time tasks : Nat) (frec : Word) : List Byte :=
  leBytes 8 (code % 128 * 2 ^ 24 + status * 2 ^ 16 + id) ++ leBytes 8 time ++ leBytes 8 tasks ++ leBytes 8 frec.toNat

/-- Bytes were written at a place outside the crofts: no other byte of the root's view reads differently but those of a Cellar's
reserve, and no other state differs but what a running Cellar keeps. -/
def WroteAt (s t : State) (p : Place) (bs : List Byte) : Prop :=
  t = { s with mem := t.mem, host := t.host, peer := t.peer, badLines := t.badLines, dirty := t.dirty, parts := t.parts }
    ∧ CellarsOnly s t ∧ t.readPlace 0 p bs.length = bs
    ∧ ∀ q, ¬ q.among p bs.length → ¬ s.inReserve q → t.readPlace 0 q 1 = s.readPlace 0 q 1

/-- A completion record was written at DONE in a context, if its 32 bytes can be written there (R299, R301). It waits behind the module's
writes that wait, and for a vector store that has still to write there, or for the reserve of a Cellar (R233, R268, R414; that it is
kept as a pending write is the model's choice, log 77). Where the walk meets an uncorrectable PTE, its event is logged (R405)
and nothing is said here. -/
def RecordWritten (s t : State) (cid : Fin 64) (done : Word) (bs : List Byte) : Prop :=
  done.toNat % 32 = 0 →
  if s.late ≠ [] ∨ s.gleanHeld cid done.toNat bs.length true = true then t = { s with late := s.late ++ [.glean cid done bs] }
  else
    match s.gleanPlace cid .store done with
    | some p => WroteAt s t p bs
    | none => (∃ pa, s.lookup (s.gleaner cid) done.toNat = .poisoned pa) ∨ t = s

/-- An event record (R406). -/
def eventSpec (kind code die port part launch time : Nat) (detail : Word) (count : Nat) : List Byte :=
  leBytes 8 (launch * 2 ^ 48 + port * 2 ^ 32 + die * 2 ^ 24 + part * 2 ^ 16 + code * 2 ^ 8 + kind) ++ leBytes 8 time
    ++ leBytes 8 detail.toNat ++ leBytes 8 (count % 2 ^ 32)

/-- An event record was put into a partition's ring, with its message, or counted lost where the ring takes none (R405, R421). It waits behind
the module's writes that wait, and for a vector store that has still to write the slot, or for the reserve of a Cellar (R268, R414;
that it is kept as a pending write is the model's choice, log 77). -/
def EventTold (s t : State) (part : Fin 16) (rec : List Byte) : Prop :=
  if s.late ≠ [] ∨ ∃ a, s.eventSlot part = some a ∧ s.rootHeld a 32 = true then t = { s with late := s.late ++ [.event part rec] }
  else
    match s.eventSlot part with
    | none => t = { s with parts := s.parts.set part { s.parts[part] with evLost := s.parts[part].evLost + 1 } }
    | some a => ∃ v, WroteAt s v (.device a) rec ∧ t = { v with
        parts := v.parts.set part { v.parts[part] with evTail := (s.parts[part].evTail + 1) % 2 ^ 64 }
        out := { s.out with msix := s.out.msix ++ [(part, 0)] } }

/-- The reason a packet is refused for in a context, in the order of R299. -/
def refusalSpec (s : State) (cid : Fin 64) (p : List Word) : Option Nat :=
  let w (k : Nat) : Nat := (p.getD k 0).toNat
  let f (k lo n : Nat) : Nat := w k / 2 ^ lo % 2 ^ n
  if ∃ L ∈ s.launches, L.part = s.partOfCtx cid ∧ L.id.toNat = f 0 0 12 then some 1
  else if f 0 32 16 ≠ cid.val then some 2
  else if f 0 48 16 ≠ 0 ∨ f 0 22 10 ≠ 0 ∨ f 0 18 2 ≠ 0 ∨ f 0 12 4 ≠ 0 ∨ w 3 / 2 ^ 26 ≠ 0 ∨ f 6 0 32 = 0 ∨ f 6 0 32 < f 6 32 16
      ∨ w 2 % 32 ≠ 0 ∨ w 5 % 64 ≠ 0 ∨ (f 3 24 1 = 1 ∧ f 3 0 12 = f 0 0 12) ∨ (f 3 25 1 = 1 ∧ f 3 12 12 = f 0 0 12) then some 3
  else if s.gleanRead cid (p.getD 2 0) 32 = none ∨ s.gleanArea cid (w 5) (32 * f 6 0 32) = false then some 4
  else none

/-- The launch that an admitted packet makes (R298, R299, R304): its root record is in its queue. -/
def admittedLaunch (s : State) (cid : Fin 64) (p : List Word) (root : List Byte) : Launch :=
  let w (k : Nat) : Nat := (p.getD k 0).toNat
  let f (k lo n : Nat) : Nat := w k / 2 ^ lo % 2 ^ n
  let part := s.partOfCtx cid
  let live (v n : Nat) : List (BitVec 12) :=
    if v = 1 ∧ ∃ L ∈ s.launches, L.part = part ∧ L.id.toNat = n then [BitVec.ofNat 12 n] else []
  let rec4 := (List.range 4).map fun k => wd (leValue ((root.drop (8 * k)).take 8))
  { id := BitVec.ofNat 12 (f 0 0 12), cid := cid, part := part, prio := f 0 16 2, det := decide (f 0 20 1 = 1)
    stamped := decide (f 0 21 1 = 1), start := p.getD 1 0, preds := live (f 3 24 1) (f 3 0 12) ++ live (f 3 25 1) (f 3 12 12)
    seed := if p.getD 4 0 = 0 then s.dev.dseed else p.getD 4 0, qbase := p.getD 5 0, capacity := f 6 0 32, hwm := f 6 32 16
    budget := f 6 48 16 * 65536, done := p.getD 7 0, queue := [waitingRecord (queuedSpec rec4 (BitVec.ofNat 12 (f 0 0 12))) (p.getD 2 0)]
    saved := [], parked := [], tasks := 0 }

/-- No walk of a context that the Gleaner may make meets an uncorrectable PTE: each of those is logged first (R403, R405). -/
def CleanWalks (s : State) (cid : Fin 64) : Prop := ∀ a pa, s.lookup (s.gleaner cid) a ≠ .poisoned pa

/-- A packet submitted in a context (R299): dropped when DONE is no multiple of 32 or cannot be written, else refused with a completion
record, else admitted; a launch it waits for rises to its priority (R306). -/
def Submitted (s : State) (cid : Fin 64) (p : List Word) (t : State) : Prop :=
  let done := p.getD 7 0
  let ring := s.ctxs[cid].ring
  CleanWalks s cid →
  if done.toNat % 32 ≠ 0 ∨ s.gleanPlace cid .store done = none then
    t = { s with ctxs := s.ctxs.set cid { s.ctxs[cid] with ring := { ring with drops := ring.drops + 1 } } }
  else
    match refusalSpec s cid p with
    | some reason => RecordWritten s t cid done (completionSpec ((p.getD 0 0).toNat % 2 ^ 12) 2 reason s.time 0 0)
    | none => ∃ root, s.gleanRead cid (p.getD 2 0) 32 = some root ∧
        let L := admittedLaunch s cid p root
        t = { s with launches := t.launches, dev := { s.dev with launched := true } }
          ∧ t.launches.map (fun k => { k with prio := 0 }) = (s.launches ++ [L]).map (fun k => { k with prio := 0 })
          ∧ (L.preds = [] → t.launches = s.launches ++ [L])
          ∧ ∀ k ∈ t.launches, k.part = L.part → k.id ∈ L.preds → L.prio ≤ k.prio

/-- The choice of R307 among the launches E of a partition. -/
def Chosen (P : Partition) (E : List Launch) (L : Launch) : Prop :=
  let l := L.prio
  let ctr (m : Nat) : Nat := P.ctr.toList.getD m 0
  let ptr (m : Nat) : Nat := P.ptr.toList.getD m 0
  let due (m : Nat) : Prop := (∃ K ∈ E, K.prio = m) ∧ (∃ K ∈ E, m < K.prio) ∧ 61 ≤ ctr m
  L ∈ E ∧ ((∀ m, ¬ due m) → ∀ K ∈ E, K.prio ≤ l)
    ∧ ((∃ m, due m) → due l ∧ ∀ m, due m → ctr m < ctr l ∨ (ctr m = ctr l ∧ m ≤ l))
    ∧ if ∃ K ∈ E, K.prio = l ∧ ptr l < K.id.toNat
      then ptr l < L.id.toNat ∧ ∀ K ∈ E, K.prio = l → ptr l < K.id.toNat → L.id.toNat ≤ K.id.toNat
      else ∀ K ∈ E, K.prio = l → L.id.toNat ≤ K.id.toNat

/-- The pointers and counters after a pop (R307). -/
def poppedSpec (P : Partition) (E : List Launch) (L : Launch) : Partition :=
  { P with
    ptr := Vector.ofFn fun m => if m.val = L.prio then L.id.toNat else P.ptr[m]
    ctr := Vector.ofFn fun m => if m.val ≠ L.prio ∧ ∃ K ∈ E, K.prio = m.val then P.ctr[m] + 1 else 0 }

/-- The entry a launch gives next, and the launch without it (R308): one that YIELD saved first, else the head of its queue while the
records that wait are at most HWM, and the tail above. -/
def NextEntry (L : Launch) (e : Saved) (L' : Launch) : Prop :=
  match L.saved with
  | k :: rest => e = k ∧ L' = { L with saved := rest }
  | [] => if waitingCount L ≤ L.hwm then ∃ rest, L.queue = e :: rest ∧ L' = { L with queue := rest }
      else ∃ front, L.queue = front ++ [e] ∧ L' = { L with queue := front }

/-- What a started task is (R18): its pc, x2, x3 and x4 from its record, every other register 0, and the rest as at task start. -/
def Started (s : State) (L : Launch) (e : Entry) (attempts : Nat) (u : Task) : Prop :=
  let det := L.det || (e.record.getD 3 0).getLsbD 18
  u = Task.start (e.record.getD 0 0) (e.record.getD 1 0) (e.record.getD 2 0) (wd ((e.record.getD 3 0).toNat / 2 ^ 32)) det
      (if det then s.partMin s.parts[L.part] else s.cmax)
      { Ident.none with tid := s.nextTid, launch := L.id, cid := L.cid, entry := e, birth := none, attempts := attempts }

/-! ### Links, the host and the management path (R293 to R296, R370 to R379, R416 to R427) -/

/-- The steps of the table for a frame that arrives: its port, its TYPE and the frame (R293). -/
def frameSpec : Instr → Option (Fin 32 × Nat × Frame)
  | .dataFrame j f => some (j, 0, f)
  | .ackFrame j f => some (j, 1, f)
  | .nackFrame j f => some (j, 2, f)
  | .rekeyFrame j f => some (j, 3, f)
  | .idleFrame j f => some (j, 4, f)
  | _ => none

/-- Sequence number `a` lies at or after `b`, modulo 2^48 (R293). -/
def notBefore (a b : Nat) : Prop := (a + 2 ^ 48 - b % 2 ^ 48) % 2 ^ 48 < 2 ^ 47

/-- The frames of a replay store that an ACKSEQ does not cover (R295). -/
noncomputable def unacked (p : Port) (ack : Nat) : List Packet :=
  open Classical in p.replay.filter fun f => ¬ notBefore ack f.seq

/-- The last sequence number a port received in order, as its frames acknowledge it (R295). -/
def ackOf (p : Port) : Nat := (p.expect + 2 ^ 48 - 1) % 2 ^ 48

/-- A frame of a port as it goes on the wire: FLITS, the acknowledged number and the key phase of the moment (R293). -/
def onWire (p : Port) (j : Fin 32) (k : Packet) : Sent :=
  { port := j, packet := k, flits := k.payload.length / 64 - 1, ack := ackOf p, keyPhase := p.keyPhase }

/-- The replay store of a port has room for a frame of some payload bytes: 48 bytes and its flits each (log 21), in 4 MiB or RSIZE MiB
(R295). -/
def hasRoom (p : Port) (replay : List Packet) (payload : Nat) : Prop :=
  (replay.map fun k => 48 + k.payload.length).sum + 48 + payload ≤ (if p.longHaul then p.rsize else 4) * 2 ^ 20

/-- A NACK wants a frame: its bit in the bitmap counted from the base (R295; the layout is log 21). -/
def nacked (payload : List Byte) (seq : Nat) : Prop :=
  let k := (seq + 2 ^ 48 - leValue (payload.take 8) % 2 ^ 48) % 2 ^ 48
  k < 256 ∧ (leValue ((payload.drop (8 + k / 8)).take 1)).testBit (k % 8) = true

/-- A BAR2 access finds its function and its window (R416, R417). -/
def Bar2Serves (s : State) (part : Fin 16) (offset n : Nat) : Prop :=
  s.up = true ∧ s.dev.pcie.serves part = true ∧ offset + n ≤ s.dev.pcie.bar2

/-- A BAR2 access that its function serves waits for nothing: not for the requester's earlier ones, for a vector store or for the reserve
of a Cellar (R268, R273, R414). -/
def Bar2Free (s : State) (part : Fin 16) (offset n : Nat) (write : Bool) : Prop :=
  Bar2Serves s part offset n ∧ (∀ i ∈ s.posted, ∀ h, bar2Shape i = some h → h.1 ≠ part) ∧ s.bar2Blocked s.parts[part] offset n write = false

/-- A BAR2 access of n bytes can be made and moves them: the device is up, a function serves the partition, the window and the partition's
range hold every byte, in memory that is not isolated, sound, and not held back, and nothing of the same requester waits (R268, R273,
R416, R417). -/
def Bar2Open (s : State) (part : Fin 16) (offset n : Nat) (write : Bool) : Prop :=
  let P := s.parts[part]
  Bar2Free s part offset n write ∧ P.present = true ∧ offset + n ≤ P.dies * Config.dieBytes
    ∧ ∀ k, k < n → let pa := P.firstDie * Config.dieBytes + offset + k
        s.isolatedAt pa = false ∧ s.badLines.contains (granule pa) = false

/-- Management: a step that answers (R422), done 0, refused 1 or busy 2, and changes nothing else. -/
def AnswersOnly (s : State) (i : Instr) (n : Nat) : Prop := exec i s = .next { s with out := { s.out with answers := s.out.answers ++ [n] } }

/-- The state with an answer. -/
def answered (s : State) (n : Nat) : State := { s with out := { s.out with answers := s.out.answers ++ [n] } }

/-- Where what the drain reads of a granule stands (R414): in the reserve, the k-th copy 4,096 × k bytes on (log 24), or in its own place. -/
def drainedFrom (C : Cellar) (g : Nat) : Nat :=
  match C.copied.idxOf? g with
  | some k => (C.block.getD 0 0).toNat + 4096 * k
  | none => 4096 * g

/-- A granule of a running Cellar is lost: a line of it was uncorrectable at the event or as it was copied, or is so where the drain reads
it, or that lies in an isolated die (R403, R411, R414, R415). -/
def lostSpec (s : State) (C : Cellar) (g : Nat) : Prop :=
  (∃ l ∈ C.lost, l / 4096 = g) ∨ (∃ l ∈ s.badLines, l / 4096 = drainedFrom C g / 4096) ∨ s.isolatedAt (drainedFrom C g) = true

/-- A partition's range. -/
def inRange (P : Partition) (pa : Nat) : Prop := P.firstDie * Config.dieBytes ≤ pa ∧ pa < (P.firstDie + P.dies) * Config.dieBytes

/-! ### A step -/

/-- The instructions of supervisor mode only (R70, R79). -/
def privileged : Instr → Bool
  | .tret => true
  | .waiti => true
  | .harvest _ _ => true
  | .tlbinv _ _ => true
  | _ => false

/-- `u` is the state at whose instruction boundary the step of `s` fetches: the sequencer's turn comes next, or nothing is scheduled,
no packet waits and no launch is complete; a task runs, is not in the middle of an access, and no pre-emption, watchdog or pending
trap comes first. -/
def AtBoundary (s u : State) : Prop :=
  ((∃ rest, s.schedule = .sequencer :: rest ∧ u = { s with schedule := rest })
      ∨ (s.schedule = [] ∧ s.running = true ∧ s.waitingRing = none ∧ s.launches.find? s.exhausted = none ∧ u = s.engines))
    ∧ u.running = true ∧ u.task.part = none ∧ u.canPreempt = false ∧ u.overBudget = false ∧ u.asyncTrap = none

end Sys2Proof.Machine
end

