-- ==== Sys2Proof/Certificates/Slice0/Obligations.lean ====
section
/-! DEFINITION. The statements about the machine that are to be proved, each named for what it states. Spec terms are in
Safety.lean. A clause that rests on a log entry says so. -/

open Sys2Proof Sys2Proof.Machine

/-! ### Integer instructions, branches and loops (R110 to R125) -/

/-- Every integer instruction completes from every state: it writes the result that integer arithmetic gives to rd (a write to
x0 is discarded), changes no other register, no CSR but a loop count, and no byte of memory (R24, R110 to R115, R123).

The loop-end check of R123 for an integer instruction at pc, level 1 first: a level that ends here with a count above 1 counts
down and steps back to its LS; with count 1 it falls through with count 0, and level 0 is examined; else pc + 4. -/
def Obligations.IntegerResults : Prop :=
  (∀ (i : Instr) (s : State) (d : XReg) (v : Word), aluSpec s i = some (d, v) →
       Completes i s fun t => OnlyRegs s t ∧ Wrote s t d v ∧ Retired s t s.task.csr ∧ SameBytes s t)
    ∧ (∀ (i : Instr) (s : State) (d : XReg) (v : Word), aluSpec s i = some (d, v) →
         Completes i s fun t =>
           let c := s.task.csr
           let u := t.task.csr
           let e := s.task.pc
           u = { c with lc0 := u.lc0, lc1 := u.lc1 }
             ∧ (c.le1 = e ∧ 1 < c.lc1.toNat → t.task.pc = c.ls1 ∧ u.lc1.toNat + 1 = c.lc1.toNat ∧ u.lc0 = c.lc0)
             ∧ (¬ (c.le1 = e ∧ 1 < c.lc1.toNat) →
                 u.lc1 = (if c.le1 = e then 0 else c.lc1)
                   ∧ (c.le0 = e ∧ 1 < c.lc0.toNat → t.task.pc = c.ls0 ∧ u.lc0.toNat + 1 = c.lc0.toNat)
                   ∧ (¬ (c.le0 = e ∧ 1 < c.lc0.toNat) → t.task.pc = e + 4 ∧ u.lc0 = if c.le0 = e then 0 else c.lc0)))

/-- A conditional branch always completes. Taken, it goes to pc + 4 × the offset, modulo 2^64, and clears the count of every
active level it leaves (R124), with no loop-end check (R123); not taken, it goes on at pc + 4 with that check. Nothing else
changes (R119, R121).

JAL and JALR always complete: rd takes pc + 4, pc the target, JALR's from the old x[rs1] with no bit cleared; no loop register
and no byte of memory changes (R120, R121, R123, R124).

LOOP and LOOPI set a level: a count of 0 goes to LE + 4, any other count into the body; a level 1 that would not lie inside an
active level 0 faults 0x36 (R122, R125). The loop-end check of the instruction's own address is made with the registers it
leaves (R123; that a count of 0 does not exempt it is DEDUCED, log 26). -/
def Obligations.ControlFlow : Prop :=
  (∀ (i : Instr) (s : State) (p : Prop) (k : Int), branchSpec s i = some (p, k) →
       Completes i s fun t =>
         OnlyRegs s t ∧ SameX s t ∧ SameBytes s t ∧ (¬ p → Retired s t s.task.csr)
           ∧ (p → t.task.pc = s.task.pc + ofInt (4 * k)
               ∧ t.task.csr = { s.task.csr with
                   lc0 := leftLevel s.task.csr.ls0 s.task.csr.le0 s.task.csr.lc0 s.task.pc t.task.pc
                   lc1 := leftLevel s.task.csr.ls1 s.task.csr.le1 s.task.csr.lc1 s.task.pc t.task.pc }))
    ∧ (∀ (s : State) (d a : XReg) (i : BitVec 21) (j : BitVec 16),
         (Completes (.jal d i) s fun t => OnlyRegs s t ∧ Wrote s t d (s.task.pc + 4) ∧ t.task.csr = s.task.csr
             ∧ t.task.pc = s.task.pc + ofInt (4 * i.toInt) ∧ SameBytes s t)
           ∧ Completes (.jalr d a j) s fun t => OnlyRegs s t ∧ Wrote s t d (s.task.pc + 4) ∧ t.task.csr = s.task.csr
             ∧ t.task.pc = s.x a + ofInt j.toInt ∧ SameBytes s t)
    ∧ (∀ (i : Instr) (s : State) (l : Fin 2) (n le : Word), loopSpec s i = some (l, n, le) →
         let c := withLevel s.task.csr l (s.task.pc + 4) le n
         (n = 0 → Completes i s fun t => OnlyRegs s t ∧ SameX s t ∧ SameBytes s t
             ∧ t.task.csr = (c.loopEnd s.task.pc (le + 4)).1 ∧ t.task.pc = (c.loopEnd s.task.pc (le + 4)).2)
           ∧ (n ≠ 0 → LoopsNest c → Completes i s fun t => OnlyRegs s t ∧ SameX s t ∧ SameBytes s t ∧ Retired s t c)
           ∧ (n ≠ 0 → ¬ LoopsNest c → exec i s = .next (s.fault ⟨.loopNesting, instrWord i, none⟩)))

/-! ### Scalar floating point (R131 to R133) -/

/-- Every FPS instruction completes from every state: rd takes its result, FCTL[7:3] its flags ORed in, and S advances exactly
when the instruction rounds in STOCH; nothing else changes (R100, R131, R132, R133). -/
def Obligations.FpsResults : Prop :=
  ∀ (i : Instr) (s : State) (d : XReg) (r : Option FRnd) (f : RM → Nat → Nat × Flags), fpsSpec s i = some (d, r, f) →
    let m := (r.map (effMode s)).getD .rne
    let v := f m (if m = .stoch then fpsDraw s else 0)
    Completes i s fun t =>
      t = { s with task := { s.task with
              x := t.task.x, csr := t.task.csr, pc := t.task.pc
              id := { s.task.id with stoch := if m = .stoch then s.task.id.stoch + 1 else s.task.id.stoch } } }
        ∧ Wrote s t d (wd v.1) ∧ Retired s t (withFlags s.task.csr v.2) ∧ SameBytes s t

/-- FADD, FSUB, FMUL and FMADD of finite operands round the exact rational value once: rd is the rounding of one number whose
value is the exact sum, difference, product or product plus addend (R92, R107, R132).

A finite value that a binary floating format holds is returned unchanged, with no flag, in every rounding mode, STOCH included
(R97).

Any other finite value is rounded to the neighbour that its mode names, in every format: upward, downward, towards zero, to nearest with
either tie rule, or by the draw; with the overflow of R105, and OF, UF and NX as R102 sets them. D8 takes the nearest value of R94, an
integer format the rounded value saturated with NV (R104, R105; that the range is judged after rounding is the model's choice, log
66). A NaN, an infinity and a zero give what R91, R94, R95 and R105 name for each format.

FADD, FSUB, FMUL and FMADD deliver the exact sum, product or both, special values among them (a quiet NaN beside infinities of both signs
sets no NV, the model's choice, log 73); FDIV the exact quotient, a finite value over zero an infinity with DZ; FSQRT the exact root;
FCVTFI the integer; FCVTIF the value rounded to an integer and saturated; FMIN and FMAX the lesser or greater operand, −0 below +0; FLT,
FEQ and FLE compare the values (R92, R105, R107, R108, R132; a zero product or quotient takes the XOR of the signs, log 66). -/
def Obligations.FpsExact : Prop :=
  (∀ (s : State) (d a b : XReg) (f : FFmt) (r : FRnd) (x y z : Rat),
       (s.fnum f a).rat = some x → (s.fnum f b).rat = some y →
         let m := effMode s r
         let k := if m = .stoch then fpsDraw s else 0
         let once (i : Instr) (q : Rat) : Prop := ∃ n, Num.rat n = some q ∧ Completes i s fun t =>
           Wrote s t d (wd ((FFmt.float f).round m k n).1)
             ∧ Retired s t (withFlags s.task.csr ((FFmt.float f).round m k n).2)
         once (.fadd d a b f r) (x + y) ∧ once (.fsub d a b f r) (x - y) ∧ once (.fmul d a b f r) (x * y)
           ∧ ((s.fnum f d).rat = some z → once (.fmadd d a b f r) (x * y + z)))
    ∧ (∀ (F : FloatFmt) (m : RM) (t b : Nat), F ∈ [ff64, ff32, ffBf16, ff16, ffE4m3, ffE5m2] → b < 2 ^ F.width →
         (F.decode b).rat.isSome = true → F.round m t (F.decode b) = (b, 0))
    ∧ (∀ (F : FloatFmt) (m : RM) (t : Nat) (n : Machine.Num) (x : Rat), F ∈ [ff64, ff32, ffBf16, ff16, ffE4m3, ffE5m2] → n.rat = some x → x ≠ 0 →
         FloatRounded F m t x (F.round m t n).1 (F.round m t n).2)
    ∧ (∀ (f : Fmt) (m : RM) (t : Nat) (n : Machine.Num),
         (∀ x, n.rat = some x → x ≠ 0 → RoundedTo f m t x (roundTo f m t n).1 (roundTo f m t n).2)
           ∧ SpecialTo f n (roundTo f m t n).1 (roundTo f m t n).2)
    ∧ ∀ (s : State) (d a b : XReg) (f : FFmt) (r : FRnd),
        let F := FFmt.float f
        let m := effMode s r
        let k := if m = .stoch then fpsDraw s else 0
        let x := s.fnum f a
        let y := s.fnum f b
        let z := s.fnum f d
        let gives (i : Instr) (P : Nat → Flags → Prop) : Prop := Completes i s fun t =>
          ∃ v fl, P v fl ∧ Wrote s t d (wd v) ∧ Retired s t (withFlags s.task.csr fl)
        let compares (i : Instr) (holds : Prop) (invalid : Bool) : Prop := gives i fun v fl =>
          (x.isNaN = true ∨ y.isNaN = true → v = 0 ∧ fl = if invalid then fNV else 0)
            ∧ (¬ (x.isNaN = true ∨ y.isNaN = true) → fl = 0 ∧ (holds → v = 1) ∧ (¬ holds → v = 0))
        gives (.fadd d a b f r) (fun v fl => ∃ n g, SumSpec m [x, y] n g ∧ Delivers F m k n g v fl)
          ∧ gives (.fsub d a b f r) (fun v fl => ∃ n g, SumSpec m [x, y.negate] n g ∧ Delivers F m k n g v fl)
          ∧ gives (.fmul d a b f r) (fun v fl => ∃ n g, ProdSpec x y n g ∧ Delivers F m k n g v fl)
          ∧ gives (.fmadd d a b f r) (fun v fl => ∃ n g w h, ProdSpec x y n g ∧ SumSpec m [n, z] w h ∧ Delivers F m k w (g ||| h) v fl)
          ∧ gives (.fdiv d a b f r) (QuotientSpec F m k x y)
          ∧ gives (.fsqrt d a f r) (RootSpec F m k x)
          ∧ gives (.fcvtfi d a f r) (fun v fl =>
              if s.x a = 0 then v = 0 ∧ fl = 0 else FloatRounded F m k (((s.x a).toInt : Int) : Rat) v fl)
          ∧ gives (.fcvtif d a f r) (fun v fl => ∃ i : Int, v = (i % 2 ^ 64).toNat ∧ ToIntSpec m k x i fl)
          ∧ gives (.fmin d a b f) (ExtremeOf F false x y (fOperand f (s.x a)) (fOperand f (s.x b)))
          ∧ gives (.fmax d a b f) (ExtremeOf F true x y (fOperand f (s.x a)) (fOperand f (s.x b)))
          ∧ compares (.flt d a b f) (numBelow x y) true
          ∧ compares (.feq d a b f) (numSame x y) (x.isSignalling || y.isSignalling)
          ∧ compares (.fle d a b f) (numBelow x y ∨ numSame x y) true

/-! ### CSRs (R28, R363 to R366) -/

/-- A CSR access that writes nothing: rd takes the value the CSR reads as, and nothing else changes (R364, R365; REPSIG of an empty
slot and ATTREQ read as free values, log 7, and are left out here).

Each number reads as its register does: the task's, the context's or the partition's; SH with the column maximum of R31 and R137, TIME,
FRAME from the task's first instruction, WORLD without its TAG under DET, LSUB 0, LEND its ID alone, PART with the lifecycle, the debug
level and the dies (R28, R137, R305, R320, R322, R343, R363, R366, R367, R381). REPSIGL and REPSIGH of a slot that holds a set read as
the halves of the digest of R324's 70 bytes. -/
def Obligations.CsrReads : Prop :=
  (∀ (i : Instr) (s : State) (d : XReg) (n : Nat) (reads : Bool), csrSpec s i = some (d, n, reads, none) →
     CsrAllowed s i n reads false → CsrIdle s n false → s.running = true → s.csrFree n = false →
       Completes i s fun t => OnlyRegs s t ∧ Wrote s t d (s.csrValue n) ∧ Retired s t s.task.csr ∧ SameBytes s t)
    ∧ (∀ (s : State) (n : Nat) (v : Word), (n, v) ∈ csrReadsSpec s → s.csrValue n = v)
    ∧ ∀ (s : State) (x : XSet), s.dev.slots[s.ctxs[s.task.id.cid].xset] = some x → x.measure.length = 32 →
        let D := shake256 (repsigSpec s x.measure) 16
        (repsigSpec s x.measure).length = 70 ∧ s.csrValue 0x070 = wd (leValue (D.take 8)) ∧ s.csrValue 0x071 = wd (leValue ((D.drop 8).take 8))

/-- A CSR instruction that writes a CSR held per task: the CSR takes what its write rule leaves of CSRW's x[rs1], of CSRS's old value OR x[rs1], or of CSRC's old value AND NOT x[rs1]; rd takes the old value if the instruction reads; nothing else changes
(R4, R21, R99, R223, R363, R364, R366; that a supervisor write of STATUS sets SB is R363 against R194, the model's choice, log 65). A loop register write that breaks the nesting faults 0x36 (R125).

A CSR instruction in supervisor mode that writes a CSR of the context or of the partition, or DSEED: that register takes what
its write rule leaves, rd the old value if the instruction reads, and nothing else changes (R181, R320, R364, R366, R375). -/
def Obligations.CsrWrites : Prop :=
  (∀ (i : Instr) (s : State) (d : XReg) (n : Nat) (reads : Bool) (v : Word) (c : Csrs), csrSpec s i = some (d, n, reads, some v) →
       taskCsrSpec n v s.task.csr = some c → CsrAllowed s i n reads true → CsrIdle s n true → s.running = true →
         ((isLoopCsr n = true → LoopsNest c) →
             Completes i s fun t => OnlyRegs s t ∧ Retired s t c ∧ SameBytes s t
               ∧ if reads then Wrote s t d (s.csrValue n) else SameX s t)
           ∧ (isLoopCsr n = true → ¬ LoopsNest c → exec i s = .next (s.fault ⟨.loopNesting, instrWord i, none⟩)))
    ∧ (∀ (i : Instr) (s u : State) (d : XReg) (n : Nat) (reads : Bool) (v : Word), csrSpec s i = some (d, n, reads, some v) →
         sharedCsrSpec s n v = some u → s.sup = true → CsrAllowed s i n reads true → s.running = true →
           Completes i s fun t => OnlyRegs u t ∧ Retired s t s.task.csr ∧ SameBytes s t
             ∧ if reads then Wrote s t d (s.csrValue n) else SameX s t)

/-- The faults of R365 in their order, each with TVAL the instruction word, and 0x52 with TVAL 0: a task-mode access R28 forbids
0x04; an unassigned or never written number 0x01; TIME or FRAME under DET 0x60; a rival's write of DSEED, LSUB, LEND or COLTAB
0x52. -/
def Obligations.CsrFaults : Prop :=
  ∀ (i : Instr) (s : State) (d : XReg) (n : Nat) (reads : Bool) (w : Option Word), csrSpec s i = some (d, n, reads, w) →
    let faults (c : Cause) (tval : Word) : Prop := exec i s = .next (s.fault ⟨c, tval, none⟩)
    let c1 : Prop := s.sup = true ∨ csrUse n = .readWrite ∨ (csrUse n = .readOnly ∧ w = none) ∨ clearsSb s i
    let c2 : Prop := csrUse n ≠ .unassigned ∧ (w.isSome = true → csrFixed n = false)
    let c3 : Prop := s.det = true → reads = true → n ≠ 0x040 ∧ n ≠ 0x041
    let c4 : Prop := s.inRival = true → w.isSome = true → n ∉ [0x051, 0x108, 0x109, 0x10A]
    (¬ c1 → faults .privileged (instrWord i)) ∧ (c1 → ¬ c2 → faults .illegal (instrWord i))
      ∧ (c1 → c2 → ¬ c3 → faults .nondeterministic (instrWord i)) ∧ (c1 → c2 → c3 → ¬ c4 → faults .worldExternal 0)

/-- The steps of the table that write a CSR held per task, for a running task that may make the write: the CSR takes what its write
rule leaves and the task goes on (R366; that the step is a CSRW with rd x0 is a DESIGN CHOICE, log 10; that a write of STATUS sets SB
from the written bit is the model's choice, log 65).

The steps of the table that write DSEED, FWGRANT or LEND without failing a launch, in supervisor mode (R181, R320, R375; the
form of the step is log 10).

XSET binds the context to a slot that holds a set and drops its decoded blocks (the byte cache may take the block being passed, R85), and
faults 0x68 for an empty slot; LSUB reads a packet and submits it in the task's context, waiting while a vector store has still to write
what its checks read; LEND with GO ends a live launch, shown for one that is not running and that none waits for, and does nothing for
an ID that names none; ATTREQ leaves its block's request with Lantern (R268, R299, R320, R366, R373; that a completion record may wait is
log 77). -/
def Obligations.CsrWriteSteps : Prop :=
  (∀ (i : Instr) (s : State) (n : Nat) (v : Word) (c : Csrs), writeStepSpec i = some (n, v) →
       taskCsrSpec n v s.task.csr = some c → s.running = true → s.task.part = none → (s.sup = true ∨ csrUse n = .readWrite) →
         CsrIdle s n true → (isLoopCsr n = true → LoopsNest c) →
           Completes i s fun t => OnlyRegs s t ∧ SameX s t ∧ Retired s t c ∧ SameBytes s t)
    ∧ (∀ (i : Instr) (s u : State) (n : Nat) (v : Word), writeStepSpec i = some (n, v) → sharedCsrSpec s n v = some u →
         s.running = true → s.task.part = none → s.sup = true → s.inRival = false →
           Completes i s fun t => OnlyRegs u t ∧ SameX s t ∧ Retired s t s.task.csr ∧ SameBytes s t)
    ∧ ∀ (s s1 : State) (v : Word) (p : Place), s.running = true → s.task.part = none → s.sup = true → s.task.id.world = 0 →
        s.world? 0 = none → s.wf = true →
        let slot : Fin 4 := ⟨v.toNat % 4, Nat.mod_lt _ (by decide)⟩
        let cid := s.task.id.cid
        let P := s.parts[s.myPart]
        let goesOn (u t : State) : Prop := OnlyRegs u t ∧ SameX s t ∧ Retired s t s.task.csr
        let block (n : Nat) : List Word := (List.range n).map fun k => wd (leValue (((s1.sees p 64).drop (8 * k)).take 8))
        (s.dev.slots[slot].isSome = true → Completes (.xsetWrite v) s fun t => goesOn { s with
            ctxs := s.ctxs.set cid { s.ctxs[cid] with xset := slot }, ops := s.ops.filter fun b => b.cid != cid, lines := t.lines } t
            ∧ ∀ k ∈ t.lines, k ∈ s.lines ∨ ∃ b ∈ s.ops, b.cid = k.cid ∧ b.world = k.world ∧ b.va = k.va ∧ b.bytes = k.bytes)
          ∧ (s.dev.slots[slot] = none → exec (.xsetWrite v) s = .next (s.fault ⟨.expansionAbsent, 0, none⟩))
          ∧ (v.toNat % 64 = 0 → s.task.addrKind v ≠ .out → Reaches s .load v 64 s1 p →
              (s.launchesAllowed = true → (s.launches.map fun k => (k.part, k.id)).Nodup →
                  (s1.submitHeld cid (block 8) = true → exec (.lsubWrite v) s = .next s)
                    ∧ (s1.submitHeld cid (block 8) = false →
                        Completes (.lsubWrite v) s fun t => RefillOnly s s1 ∧ ∃ u, Submitted s1 cid (block 8) u ∧ goesOn u t))
                ∧ (s.launchesAllowed = true → P.attest = none → Completes (.attreqWrite v) s fun t => RefillOnly s s1 ∧
                    goesOn { s1 with parts := s.parts.set s.myPart { P with
                      attest := some ⟨(s1.sees p 64).take 32, (block 8).getD 4 0, (block 8).getD 5 0, some cid⟩ } } t))
          ∧ (s.task.addrKind v ≠ .out → v.toNat % 64 ≠ 0 → ∀ i ∈ [Instr.lsubWrite v, .attreqWrite v],
              exec i s = .next (s.fault ⟨.misalignedData, v, none⟩))
          ∧ ((∀ L ∈ s.launches, L.part = s.myPart → L.id.toNat ≠ v.toNat % 2 ^ 12) →
              Completes (.lendWrite v) s fun t => goesOn s t)
          ∧ ∀ (L : Launch) (l1 l2 : List Launch), s.launches = l1 ++ L :: l2 → (s.launches.map fun k => (k.part, k.id)).Nodup →
              L.part = s.myPart → L.id.toNat = v.toNat % 2 ^ 12 → v.toNat / 2 ^ 15 % 2 = 1 → s.task.id.launch ≠ L.id →
              L.saved = [] → L.parked = [] → (∀ e ∈ L.queue, ∃ k n, e = .again k n) → (∀ k ∈ l1 ++ l2, k.part = L.part → L.id ∉ k.preds) →
                Completes (.lendWrite v) s fun t => ∃ u0 u, RecordWritten u0 u L.cid L.done
                    (completionSpec L.id.toNat 1 (v.toNat / 2 ^ 16 % 2 ^ 7) s.time L.tasks 0) ∧ goesOn u t
                  ∧ u0 = { s with
                      parts := s.parts.set s.myPart { P with lendId := L.id }
                      worlds := s.worlds.filter fun w => !(w.launch == L.id && s.partOfCtx w.cid == L.part)
                      coll := { s.coll with cmds := s.coll.cmds.filter fun c => !(c.launch == L.id && c.part == L.part) }
                      launches := l1 ++ l2 }

/-! ### Memory (R116 to R130, R226 to R245) -/

/-- The page walk: from the context's root, through PTEs that name tables, to an accepted leaf at level 2, 1 or 0, the walk finds
that leaf; at a PTE that is neither, it finds no valid translation (R229, R230, R231, R232; a PTE outside the installed memory
stops the model, an uncorrectable one is R403's, and one that an earlier vector store has still to write is waited for, so the PTEs are
readable here).

Where an access of the running task goes when nothing stands in its way: a loft address to that loft byte; a global address
to the byte its leaf names, in device memory, at the host, or at the peer, if the leaf grants it (R29, R232, R235, R117).
Reservations, Thresher commands and Cellars stand in no way here: no store is queued, no kept task has one, and a write meets no Cellar.
A loft read is refused for an uncorrectable doubleword among its own bytes (R400; log 70).

A first access to a loft page still in its backing slot fills the page with the slot's bytes and nothing else changes; when the
slot cannot be reached it fails with 0x16 (R226, R227). Pair k's first slot is slot 2k of the pool, which backs the loft while LPOOL.SIZE
holds it, that is from 2k + 1 on (the model's reading, log 78). -/
def Obligations.Translation : Prop :=
  (∀ (s : State) (needT : Bool) (va n t : Nat),
     let w := s.who needT
     n ≤ 3 → walksTo s w s.root va n t → s.pteReadable w t va (3 - n) →
     let pte := s.pteIn t va (3 - n)
     (s.tlb.find? (·.covers w.cid va)) = none →
       (leafAccepted s.parts[w.part] pte (3 - n) → s.lookup w va = .leaf pte (3 - n))
         ∧ (refusedPte s.parts[w.part] pte (3 - n) → s.lookup w va = .invalid))
    ∧ ((∀ (s : State) (acc : Acc) (a : Word) (w : Nat), acc ≠ .fetch → s.task.storeQ = [] → s.task.thr.cmds = [] →
            (∀ t ∈ s.keptTasks, t.storeQ = []) → (acc = .load ∨ s.cellars = false) →
            (∀ o, s.task.addrKind a = .loft o → s.task.id.unfilled.contains (o / 0x10000) = false →
                (acc = .store ∨ ∀ l ∈ s.task.badLoft, l + 8 ≤ o ∨ o + w ≤ l) → Reaches s acc a w s (.loft o))
              ∧ ∀ pte level, s.task.addrKind a = .global → s.lookup (s.who s.sup) a.toNat = .leaf pte level → grants s.sup acc pte →
                  let pa := pteBase pte + a.toNat % 2 ^ (16 + 10 * level)
                  let type := pte.toNat / 64 % 4
                  (type ≠ 2 → s.isolatedAt (s.copyDie s.task.id.world pa) = false → (acc = .store ∨ s.badDevice s.task.id.world pa = false) →
                      Reaches s acc a w s (.device pa))
                    ∧ (type = 2 → (s.task.id.world = 0 ∨ acc = .load) →
                        (pte.toNat / 2 ^ 50 % 4 = 0 → s.hostErr.contains (granule (pa % 2 ^ 50)) = false →
                            Reaches s acc a w s (.host (pa % 2 ^ 50)))
                          ∧ (pte.toNat / 2 ^ 50 % 4 ≠ 0 → s.peerUp s.myPart (pa / 2 ^ 41 % 2 ^ 9) = true →
                              s.peerErr.contains (peerKey (pa / 2 ^ 41 % 2 ^ 9) (granule (pa % 2 ^ 41))) = false →
                              Reaches s acc a w s (.peer (pa / 2 ^ 41 % 2 ^ 9) (pa % 2 ^ 41)))))
         ∧ (∀ (s : State) (acc : Acc) (a : Word) (o : Nat), acc ≠ .fetch → s.wf = true → s.task.addrKind a = .loft o →
              s.task.id.unfilled.contains (o / 0x10000) = true →
                let lpool := s.ctxs[s.task.id.cid].lpool.toNat
                let live (k base : Nat) : Prop := lpool / 2 ^ 16 % 2 = 1 ∧ 2 * k + 1 ≤ lpool % 2 ^ 16 ∧ base + 0x200000 ≤ 0x20000000000
                ((∀ k base, s.task.id.pair = some (k, base) → ¬ live k base) → s.placeFind (s.who s.sup) acc a = .bad ⟨.loftBacking, a, none⟩)
                  ∧ ∀ k base, s.task.id.pair = some (k, base) → live k base → s.isolatedAt (base + o / 0x10000 * 0x10000) = false →
                      (∀ l ∈ s.badLines, l < base + o / 0x10000 * 0x10000 ∨ base + o / 0x10000 * 0x10000 + 0x10000 ≤ l) →
                      ∃ s1, s.placeFind (s.who s.sup) acc a = .ok (s1, .loft o) ∧ RefillOnly s s1
                        ∧ s1.task.id.unfilled = s.task.id.unfilled.filter (· != o / 0x10000)
                        ∧ ∀ k, k / 0x10000 = o / 0x10000 → s1.task.loft.get k = s.mem.get (base + k)))

/-- A load in range, aligned, whose access goes through: rd takes the little-endian bytes, sign- or zero-extended; nothing else
changes but a refilled loft page (R116, R118, R226). -/
def Obligations.Loads : Prop :=
  ∀ (i : Instr) (s s1 : State) (d : XReg) (a : Word) (w : Nat) (ext : Nat → Word) (p : Place), loadSpec s i = some (d, a, w, ext) →
    s.wf = true → s.task.addrKind a ≠ .out → a.toNat % w = 0 → Reaches s .load a w s1 p →
      Completes i s fun t => RefillOnly s s1 ∧ OnlyRegs s1 t ∧ Wrote s t d (ext (leValue (s1.sees p w)))
        ∧ Retired s t s.task.csr ∧ SameBytes s1 t

/-- A store in range, aligned, whose access goes through, in a world that holds or can claim the granule: the low bytes of x[rs2]
are at its place, and nothing else is read differently, but for what a running Cellar keeps in its reserve (R116, R118, R226, R349,
R414).

A store that would claim a granule when the context's pool has none left is not made: it faults 0x51 with TVAL the address, and a
forked rival whose context has no WTRAP handler is aborted instead (R353). -/
def Obligations.Stores : Prop :=
  (∀ (i : Instr) (s s1 s2 : State) (a v : Word) (w : Nat) (p : Place), storeSpec s i = some (a, w, v) → s.wf = true →
       s.task.addrKind a ≠ .out → a.toNat % w = 0 → Reaches s .store a w s1 p → s1.claimCheck (s1.who s1.sup) a p = .ok s2 →
         Completes i s fun t => RefillOnly s s1 ∧ SameX s t ∧ Retired s t s.task.csr
           ∧ Stored s1 t p ((List.range w).map fun k => BitVec.ofNat 8 (v.toNat / 256 ^ k)))
    ∧ (∀ (i : Instr) (s s1 : State) (a v : Word) (w pa : Nat), storeSpec s i = some (a, w, v) → s.task.addrKind a ≠ .out →
         a.toNat % w = 0 → Reaches s .store a w s1 (.device pa) → s1.claim s1.task.id.world (pa / 4096) = none →
           exec i s = .next (s1.fault ⟨.worldPool, a, none⟩)
             ∧ (s.task.id.forked = true → s.ctxs[s.task.id.cid].wtrap.toNat % 2 = 0 → exec i s = exec .abortw s1 ∨ s.task.id.choice ≠ none))

/-- The faults of a scalar load, store or AMO in the order of R117 and R243, each leaving the state as it was before the trap: out of
range 0x17; misaligned 0x0C or 0x21; no valid translation; no permission; a loft page whose backing is absent 0x16. TVAL is the
address, but for a failed translation or permission the address of its granule (R390). AMOFADD is meant outside DET.

AMOFADD under DET faults 0x60 with TVAL its word before any other check; a target that the scope does not allow faults 0x20, and
a rival's AMO on a type-2 page 0x52 (R243, R244). -/
def Obligations.ScalarFaults : Prop :=
  (∀ (i : Instr) (s : State) (acc : Acc) (a : Word) (w : Nat), accessSpec s i = some (acc, a, w) →
       (s.det = true → ∀ d a b c q l n, i ≠ .amofadd d a b c q l n) →
         let faults (c : Cause) : Prop := exec i s = .next (s.fault ⟨c, a, none⟩)
         let faultsPage (c : Cause) : Prop := exec i s = .next (s.fault ⟨c, wd (a.toNat / 64 * 64), none⟩)
         (s.task.addrKind a = .out → faults .addressRange)
           ∧ (s.task.addrKind a ≠ .out → a.toNat % w ≠ 0 → faults (if acc = .amo then .amoMisaligned else .misalignedData))
           ∧ (s.task.addrKind a = .global → a.toNat % w = 0 → s.lookup (s.who s.sup) a.toNat = .invalid → faultsPage (pageCauseOf acc))
           ∧ (∀ pte level, s.task.addrKind a = .global → a.toNat % w = 0 → s.lookup (s.who s.sup) a.toNat = .leaf pte level →
               ¬ grants s.sup acc pte → faultsPage (protCauseOf acc))
           ∧ (∀ o, s.task.addrKind a = .loft o → a.toNat % w = 0 → s.task.id.unfilled.contains (o / 0x10000) = true →
               (s.task.id.pair = none ∨ s.ctxs[s.task.id.cid].lpool.toNat / 2 ^ 16 % 2 = 0) →
               (∀ d b e c n, amoFields i = some (d, b, e, c, n) → c = .croft) → faults .loftBacking))
    ∧ ((∀ (s : State) (d a b : XReg) (c : Scope) (q l n : Bool), s.det = true →
           exec (.amofadd d a b c q l n) s = .next (s.fault ⟨.nondeterministic, instrWord (.amofadd d a b c q l n), none⟩))
         ∧ ∀ (i : Instr) (s : State) (d a b : XReg) (c : Scope) (n : Bool), amoFields i = some (d, a, b, c, n) →
             (s.det = true → ∀ d a b c q l n, i ≠ .amofadd d a b c q l n) → (s.x a).toNat % (if n then 4 else 8) = 0 →
               (∀ o, s.task.addrKind (s.x a) = .loft o → c ≠ .croft → exec i s = .next (s.fault ⟨.amoScope, s.x a, none⟩))
                 ∧ ∀ pte level, s.task.addrKind (s.x a) = .global → s.lookup (s.who s.sup) (s.x a).toNat = .leaf pte level →
                     grants s.sup .amo pte → pte.toNat / 64 % 4 = 2 →
                       (s.task.id.world ≠ 0 → exec i s = .next (s.fault ⟨.worldExternal, s.x a, none⟩))
                         ∧ (s.task.id.world = 0 → (c ≠ .fabric ∨ (pte.toNat / 2 ^ 50 % 4 = 0 ∧ hostAmo i = false)) →
                             exec i s = .next (s.fault ⟨.amoScope, s.x a, none⟩)))

/-- Every AMO in range, aligned, of a scope that its target allows, whose access goes through: rd takes the old value (sign-extended
from 4 bytes), the place holds the new one if the operation writes, AMOFADD adds its flags, and nothing else is read differently
(R242, R244, R245). With REL at fabric scope it is made only when no earlier vector store to a type-2 page is left, and waits for one
whose tile will come (R239, R246; log 57). -/
def Obligations.AtomicOps : Prop :=
  ∀ (i : Instr) (s s1 : State) (d a b : XReg) (c : Scope) (n : Bool) (p : Place), amoFields i = some (d, a, b, c, n) →
    s.wf = true → (s.det = true → ∀ d a b c q l n, i ≠ .amofadd d a b c q l n) →
    let w := if n then 4 else 8
    let old := leValue (s1.sees p w)
    let v := (s.x b).toNat % 2 ^ (8 * w)
    s.task.addrKind (s.x a) ≠ .out → (s.x a).toNat % w = 0 → scopeAgrees i c p →
      let releases : Prop := amoRel i = true ∧ c = .fabric
      (releases → s.placeFind (s.who s.sup) .amo (s.x a) = .ok (s1, p) → ∀ k e, s.task.storeQ[k]? = some e → e.toWindow → (∀ j < k, ∀ f, s.task.storeQ[j]? = some f → ¬ f.toWindow) →
          s.task.storeDead k = false → exec i s = .next s)
      ∧ (Reaches s .amo (s.x a) w s1 p → (releases → ∀ e ∈ s.task.storeQ, ¬ e.toWindow) → ((∃ s2, s1.claimCheck (s1.who s1.sup) (s.x a) p = .ok s2) ∨ amoSpec w old v ((s.x d).toNat % 2 ^ (8 * w)) i = none) →
        Completes i s fun t => RefillOnly s s1 ∧ Wrote s t d (if n then sx 32 old else wd old)
          ∧ Retired s t (withFlags s.task.csr (amoFlags w old v i))
          ∧ match amoSpec w old v ((s.x d).toNat % 2 ^ (8 * w)) i with
            | some r => Stored s1 t p (leBytes w r)
            | none => OnlyRegs s1 t ∧ SameBytes s1 t)

/-- PUSHM, both classes and forms, one piece a step: the next piece of the list is stored at its address, rising from SSP − size or
x[xb], and nothing else is read differently; after the last SSP moves down in the stack form and the instruction completes (R127, R129,
R130; that a step moves one piece, an 8-byte slot or a granule, is the model's choice, logs 40 and 61).

POPM, both classes and forms, one piece a step: after the last piece is read each register of the list takes its slot's value, the base
register among them, from addresses formed with the old base; SSP moves up in the stack form; nothing else changes (R127, R129, R130).

A PUSHM or POPM that fails a check of R128, in the order given there, leaves every register, SSP and every byte as it was: the
trap is taken from the state before the instruction. -/
def Obligations.RegisterLists : Prop :=
  ((∀ (s : State) (f l : Fin 32) (b : XReg) (k : Bool) (ps : Nat → Place) (j : Nat), f.val ≤ l.val → (k = true → l.val < 16) →
        s.wf = true →
        let n := listCount f l k
        let i := Instr.pushm f l b k
        let a := listBase s f l b k true + wd (listBytes k * j)
        j < n → ListAt s i f l b k true ps j [] → s.rootFull s.task.id.world (ps j) = false →
        s.claimCheck (s.who s.sup) a (ps j) = .ok s →
          Completes i s fun t => SameX s t ∧ Stored { s with task := { s.task with part := t.task.part } } t (ps j) (listPiece s f k j)
            ∧ (j + 1 < n → t.task.csr = s.task.csr ∧ t.task.pc = s.task.pc ∧ t.task.part = some
                { instr := i, desc := [], left := listLeft (listBase s f l b k true) (listBytes k) ps (j + 1) n, got := [] })
            ∧ (j + 1 = n → t.task.part = none ∧ Retired s t { s.task.csr with ssp := listSsp s f l b k true }))
     ∧ (∀ (s : State) (f l : Fin 32) (b : XReg) (k : Bool) (ps : Nat → Place) (j : Nat) (got : List (Nat × List Byte)),
          f.val ≤ l.val → (k = true → l.val < 16) →
          let n := listCount f l k
          let w := listBytes k
          let i := Instr.popm f l b k
          let a := listBase s f l b k false + wd (w * j)
          let all := got ++ [(a.toNat, s.sees (ps j) w)]
          let piece (m : Nat) : List Byte := (all.getD m (0, [])).2
          j < n → ListAt s i f l b k false ps j got → Sound s .load a w (ps j) →
            (j + 1 < n → exec i s = .next (amid s i [] (listLeft (listBase s f l b k false) w ps (j + 1) n) all))
              ∧ (j + 1 = n → Completes i s fun t =>
                  t = { s with task := { s.task with x := t.task.x, v := t.task.v, csr := t.task.csr, pc := t.task.pc, part := none } }
                    ∧ Retired s t { s.task.csr with ssp := listSsp s f l b k false } ∧ SameBytes s t
                    ∧ (∀ r : XReg, t.task.x[r] = if k = false ∧ r ≠ 0 ∧ f.val ≤ r.val ∧ r.val ≤ l.val
                        then wd (leValue (piece (r.val - f.val))) else s.task.x[r])
                    ∧ ∀ v m, v < 16 → m < 1024 → t.lane v m = if k = true ∧ f.val ≤ v ∧ v ≤ l.val
                        then BitVec.ofNat 32 (leValue (((piece (64 * (v - f.val) + m / 16)).drop (4 * (m % 16))).take 4))
                        else s.lane v m)))
    ∧ (∀ (s : State) (f l : Fin 32) (b : XReg) (k push : Bool), (k = true → s.task.veQ = []) → s.task.part = none →
         let i : Instr := if push then .pushm f l b k else .popm f l b k
         let base := listBase s f l b k push
         let align := if b ≠ 0 then s.x b else s.task.csr.ssp
         let slots := listCount f l k * listBytes k / 8
         let faults (c : Cause) (a : Word) : Prop := exec i s = .next (s.fault ⟨c, a, none⟩)
         (∀ j, j < slots → (∀ m, m < j → s.task.addrKind (base + wd (8 * m)) ≠ .out) → s.task.addrKind (base + wd (8 * j)) = .out →
             faults .addressRange (base + wd (8 * j)))
           ∧ ((∀ m, m < slots → s.task.addrKind (base + wd (8 * m)) ≠ .out) →
               (align.toNat % listBytes k ≠ 0 → faults .misalignedData align)
                 ∧ (align.toNat % listBytes k = 0 → push = true → b = 0 → base.toNat < s.task.csr.sslim.toNat → faults .spillLimit base)
                 ∧ (align.toNat % listBytes k = 0 → (push = true → b = 0 → s.task.csr.sslim.toNat ≤ base.toNat) →
                     ∀ (j : Nat) (r : Raise) (ps : Nat → Place), j < listCount f l k →
                       (∀ m, m < j → s.placeFind (s.who s.sup) (if push then .store else .load) (base + wd (listBytes k * m)) = .ok (s, ps m)) →
                       s.placeFind (s.who s.sup) (if push then .store else .load) (base + wd (listBytes k * j)) = .bad r →
                         exec i s = .next (s.fault r))))

/-! ### Traps (R382 to R389) -/

/-- Taking a trap: CAUSE, EPC, TVAL, VEPC and STATUS take the values of R382, the VE queue is held aside, and pc goes to the handler;
no other state changes (but the event of an uncorrectable line, R405). A trap of another source takes a queue-precise cause still pending
along, and its stopped store, until its TRET (the model's choice, log 46).

A trap without a handler (target 0, or its instruction cannot be fetched) ends the task: in a forked rival the launch goes on; in
any other task the launch is no longer live (R383; the causes of R407 and R353 apart). -/
def Obligations.TrapEntry : Prop :=
  (∀ (s : State) (q : TrapReq), Delivered (s.logLine s.myPart q.line) q →
       s.takeTrap q = entered (s.logLine s.myPart q.line) q (handlerOf s q.cause))
    ∧ (∀ (s : State) (q : TrapReq) (L : Launch), s.running = true → s.myLaunch = some L →
         (s.sup = true ∨ q.cause.code ∉ [0x62, 0x70, 0x72] ∨ s.task.reruns = false) → q.cause.code ≠ 0x51 →
         (handlerOf s q.cause = 0 ∨ (∃ r, (s.logLine s.myPart q.line).fetchWord true (handlerOf s q.cause) = .bad r)) →
           (s.takeTrap q).running = false
             ∧ (s.task.id.forked = false → (s.takeTrap q).launch? L.part L.id = none)
             ∧ (s.task.id.forked = true → ((s.takeTrap q).launch? L.part L.id).isSome = true))

/-- The order in which pending causes are taken at a boundary outside a wait: the hardware check, the watchdog, an absent expansion
set in task mode, the VE, the Thresher, the channels, the streams, the collective unit; each with its SOURCE, and taken once.
In supervisor mode with IE clear none is taken (R384, R385). A queue-precise cause that a trap took along is taken where the VE has none of
its own, the innermost level's first, and a stamp overrun is told once (the model's choices, log 46). -/
def Obligations.TrapOrder : Prop :=
  ∀ (s : State), s.running = true → s.task.part = none → s.canPreempt = false → s.overBudget = false →
    let p := s.task.pend
    let takes (q : TrapReq) (t : Task) : Prop := s.seqStep = .next (({ s with task := told t q } : State).takeTrap q)
    let t (q : TrapReq) (p : Pending) : Prop := takes q { s.task with pend := p }
    let from_ (r : Raised) (source qn : Nat) : TrapReq := { ownTrap r.cause r.tval with source := source, qn := qn }
    let veFrom (r : Raised) (at_ : Word) : TrapReq := { from_ r 1 0 with ve := true, vepc := at_ }
    (s.sup = true → s.task.csr.status.toNat / 2 % 2 = 0 → s.seqStep = s.fetchRun)
      ∧ ((s.sup = true → s.task.csr.status.toNat / 2 % 2 = 1) →
          (p.hw = true → t { ownTrap .datapathCheck 0 with source := 10 } { p with hw := false })
            ∧ (p.hw = false →
              (p.watchdog = true → t { ownTrap .watchdog 0 with source := 9 } { p with watchdog := false })
                ∧ (p.watchdog = false →
                  (s.sup = false → s.slotHeld s.task.id.cid = false → t { ownTrap .expansionAbsent 0 with source := 10 } p)
                    ∧ ((s.sup = true ∨ s.slotHeld s.task.id.cid = true) →
                      (∀ r, p.ve = some r → t (veFrom r p.veAt) { p with ve := none })
                        ∧ (∀ r at_ pre h post, p.ve = none → s.task.held = pre ++ h :: post → (∀ k ∈ pre, k.cause = none) →
                            h.cause = some (r, at_) →
                              takes (veFrom r at_) { s.task with held := pre ++ { h with cause := none, store := none } :: post })
                        ∧ (p.ve = none → (∀ h ∈ s.task.held, h.cause = none) →
                          (∀ r, p.thresher = some r → t (from_ r 2 0) { p with thresher := none })
                            ∧ (p.thresher = none →
                              (∀ (k : Fin 4) r, p.ch[k] = some r → (∀ j : Fin 4, j < k → p.ch[j] = none) →
                                  t (from_ r (3 + k.val) 0) { p with ch := p.ch.set k none })
                                ∧ ((∀ j : Fin 4, p.ch[j] = none) →
                                  (∀ (k : Fin 8) r, p.stream[k] = some r → (∀ j : Fin 8, j < k → p.stream[j] = none) →
                                      t (from_ r 7 k.val) { p with stream := p.stream.set k none })
                                    ∧ ((∀ j : Fin 8, p.stream[j] = none) →
                                      (∀ r rest, p.coll = r :: rest → t (from_ r 8 0) { p with coll := rest })
                                        ∧ (p.coll = [] → s.seqStep = s.fetchRun)))))))))

/-- SVREQ and DBGBRK complete, with the loop-end check, and then trap: 0x08 from task mode, 0x09 from supervisor mode, 0x0A for DBGBRK,
with SOURCE 0 and TVAL their own address; EPC takes the resulting pc (R388). The state entered takes a pending queue-precise cause along (the
model's choice, log 46). -/
def Obligations.ServiceRequests : Prop :=
  ∀ (s u : State), u = { s with task := { s.task with csr := u.task.csr, pc := u.task.pc } } → Retired s u s.task.csr →
    let completes (i : Instr) (c : Cause) : Prop := Delivered u (ownTrap c s.task.pc) →
      exec i s = .next (entered u (ownTrap c s.task.pc) (handlerOf s c))
    (s.sup = false → completes .svreq .svreqTask) ∧ (s.sup = true → completes .svreq .svreqSuper) ∧ completes .dbgbrk .debugBreak

/-- TRET in supervisor mode, once the VE is idle: the task goes on at EPC in the mode and with the IE that the trap saved, what the trap
held aside restored; with SKIP, without the queue-precise instruction; with SAVE back in task mode the task is saved at EPC and joins
its launch's queue, or, if the save is refused, stays in supervisor mode at pc + 4, with CODE 0x16 and SOURCE 9, no VE, no QN and VEPC
0, its other CSRs as they were (R308, R381, R387, R391, R394). A save that R323 defers is asked for instead: it is made when the STAMPED
command has issued (log 46); one for which the reserve of a running Cellar has no room waits (R414; log 77). -/
def Obligations.TrapReturn : Prop :=
  ∀ (s : State) (u : Task), s.sup = true → s.task.veQ = [] →
    let c := s.task.csr
    let skip := c.vepc.toNat % 2 = 1 ∧ c.cause.toNat / 0x80 % 2 = 1
    let save := c.epc.toNat % 2 = 1 ∧ c.status.toNat / 4 % 2 = 0
    let back := { s with task := returned u }
    (¬ skip → u = s.task) → (skip → Skipped s.task u) →
      (¬ save → exec .tret s = .next back)
        ∧ (save → back.deferred = true → exec .tret s = .next { back with
            parts := s.parts.set s.myPart { s.parts[s.myPart] with
              preempt := if s.parts[s.myPart].preempt.contains s.task.id.tid then s.parts[s.myPart].preempt
                else s.parts[s.myPart].preempt ++ [s.task.id.tid] } })
        ∧ (save → back.deferred = false → back.saveRoom = false → exec .tret s = .next s)
        ∧ (save → back.deferred = false → back.saveRoom = true → ∀ L, s.myLaunch = some L → (back.pairFor (returned u)).isSome = true →
            Completes .tret s fun t => t.running = false ∧ ∃ t1, t.launch? L.part L.id = some { L with queue := L.queue ++ [.task t1] }
              ∧ t1.pc = (returned u).pc ∧ t1.csr = (returned u).csr ∧ t1.x = u.x ∧ t1.v = u.v ∧ t1.stooks = u.stooks)
        ∧ (save → back.deferred = false → back.pairFor (returned u) = none →
            Completes .tret s fun t => t.running = s.running ∧ t.task.csr = { c with cause := 0x916, vepc := 0 }
              ∧ t.task.pc = s.task.pc + 4 ∧ t.task.x = s.task.x)

/-- A privileged instruction in task mode faults 0x04 with TVAL its word and has no other effect (R70, R79).

HARVEST in supervisor mode at the root, of whole doublewords of records: doubleword j of the bitmap at x[rs1] takes the dirty records
of its 64 pages, those of other partitions read as clear, and the records copied are cleared; every other record and byte stays,
but the pages written become dirty (and what a running Cellar keeps changes, R414; while its reserve has no room for the bitmap, HARVEST
waits). Before any record moves, a rival faults 0x52, a misaligned bitmap 0x0C, a range that is not whole doublewords or passes 2^25
pages 0x17 with TVAL x[rs2], and a doubleword in a type-2 page 0x14 with TVAL its granule's address (R234, R368, R390). -/
def Obligations.Harvest : Prop :=
  (∀ (s : State) (a b : XReg), s.sup = false → ∀ i ∈ [Instr.tret, .waiti, .harvest a b, .tlbinv a b],
     exec i s = .next (s.fault ⟨.privileged, instrWord i, none⟩))
    ∧ ∀ (s : State) (a b : XReg), s.sup = true →
        let base := s.x a
        let first := (s.x b).toNat / 2 ^ 32
        let n := (s.x b).toNat % 2 ^ 32
        let whole := first % 64 = 0 ∧ n % 64 = 0 ∧ first + n ≤ 2 ^ 25
        let faults (c : Cause) (v : Word) : Prop := exec (.harvest a b) s = .next (s.fault ⟨c, v, none⟩)
        (s.task.id.world ≠ 0 → faults .worldExternal 0)
          ∧ (s.task.id.world = 0 →
              (base.toNat % 8 ≠ 0 → faults .misalignedData base)
                ∧ (base.toNat % 8 = 0 → ¬ whole → faults .addressRange (s.x b))
                ∧ (base.toNat % 8 = 0 → whole → s.wf = true → s.world? 0 = none → s.dirty.Nodup → ∀ ps : Nat → Place,
                    (∀ j, j < n / 64 → s.task.addrKind (base + wd (8 * j)) ≠ .out ∧ Reaches s .store (base + wd (8 * j)) 8 s (ps j)
                      ∧ (ps j).isWindow = false
                      ∧ ∀ pa, ps j = .device pa → pa / 0x10000 < first ∨ first + n ≤ pa / 0x10000) →
                    (∀ i j, i < n / 64 → j < n / 64 → i ≠ j → ¬ (ps i).among (ps j) 8) →
                      (s.placesRoom ((List.range (n / 64)).map ps) = false → exec (.harvest a b) s = .next s)
                      ∧ (s.placesRoom ((List.range (n / 64)).map ps) = true → Completes (.harvest a b) s fun t =>
                        let mine (d : Nat) : Prop := s.parts[s.myPart].owns (d * 0x10000) 0x10000 = true
                        SameX s t ∧ Retired s t s.task.csr
                          ∧ t = { s with
                              task := { s.task with
                                csr := t.task.csr, pc := t.task.pc, loft := t.task.loft, badLoft := t.task.badLoft
                                loftPages := t.task.loftPages, thr := { s.task.thr with latch := t.task.thr.latch } }
                              mem := t.mem, badLines := t.badLines, dirty := t.dirty, parts := t.parts }
                          ∧ CellarsOnly s t ∧ LatchKept s t
                          ∧ (s.cellars = false → ∀ j k, j < n / 64 → k < 64 →
                              ((leValue (t.sees (ps j) 8)).testBit k = true ↔ first + 64 * j + k ∈ s.dirty ∧ mine (first + 64 * j + k)))
                          ∧ (s.cellars = false → ∀ d, d ∈ t.dirty ↔ (d ∈ s.dirty ∧ ¬ (first ≤ d ∧ d < first + n ∧ mine d))
                              ∨ ∃ j pa, j < n / 64 ∧ ps j = .device pa ∧ d = pa / 0x10000)
                          ∧ ∀ q, (∀ j, j < n / 64 → ¬ q.among (ps j) 8) → ¬ s.inReserve q → t.sees q 1 = s.sees q 1))
                ∧ (base.toNat % 8 = 0 → whole → ∀ (ps : Nat → Place) (j level : Nat) (pte : Word), j < n / 64 →
                    (∀ i, i < j → s.task.addrKind (base + wd (8 * i)) ≠ .out ∧ Reaches s .store (base + wd (8 * i)) 8 s (ps i)
                      ∧ (ps i).isWindow = false) →
                    let a := base + wd (8 * j)
                    s.task.addrKind a = .global → s.lookup (s.who s.sup) a.toNat = .leaf pte level → grants s.sup .store pte →
                      pte.toNat / 64 % 4 = 2 → faults .storeProt (wd (a.toNat / 64 * 64))))

/-! ### Waiting, stooks, sequence numbers, shapes (R136 to R138, R247 to R267, R317, R389) -/

/-- FENCE, WAITT, SKWAIT and WPWAIT complete exactly when what they wait for holds, and then change nothing else (R247, R265, R266, R317);
while it does not hold the pc does not move. WPWAIT waits until the write pointer of its channel reaches x[rs1], compared unsigned; its
word for channel 0 and x7 is 0x9C07_0004 (R266).

WAITI in supervisor mode completes as soon as an asynchronous cause or a pre-emption request is pending, at once if one already is,
and changes nothing else: a cause that is pending stays pending, also one that a trap took along (R389; log 46). -/
def Obligations.Waits : Prop :=
  (∀ (i : Instr) (s : State) (c : Prop), waitSpec s i = some c →
    (c → Completes i s fun t => OnlyRegs s t ∧ SameX s t ∧ Retired s t s.task.csr ∧ SameBytes s t)
      ∧ (¬ c → Completes i s fun t => t = { s with task := { s.task with pend := t.task.pend } }
          ∧ ((∀ r e h, i ≠ .fence r e h) → t = s)))
    ∧ encode (.wpwait 7 0) = some 0x9C070004
    ∧ ∀ (s : State), s.sup = true →
      let p := s.task.pend
      let pending := p.hw = true ∨ p.watchdog = true ∨ p.ve.isSome = true ∨ p.thresher.isSome = true
        ∨ (∃ k : Fin 4, p.ch[k].isSome = true) ∨ (∃ k : Fin 8, p.stream[k].isSome = true) ∨ p.coll ≠ []
        ∨ (∃ h ∈ s.task.held, h.cause.isSome = true)
        ∨ s.task.id.tid ∈ s.parts[s.myPart].preempt
      (pending → Completes .waiti s fun t => OnlyRegs s t ∧ SameX s t ∧ Retired s t s.task.csr ∧ SameBytes s t)
        ∧ (¬ pending → exec .waiti s = .next s)

/-- IFLUSH, once every vector store of the task is performed: with x0 every block of the croft's caches is dropped, else those of the
task's context that hold a byte of [x[rs1], x[rs1] + x[rs2]) modulo 2^64, none if the length is 0; while a store is left it waits
(R248, R276).

TLBINV in supervisor mode drops exactly the translations, and the blocks of both caches fetched through them, whose context it names (or every one,
or any global one) and whose page covers the address (or every one); nothing else changes (R369). -/
def Obligations.Flushes : Prop :=
  (∀ (s : State) (a b : XReg),
     let kept (cid : Fin 64) (va : Nat) : Prop := a ≠ 0
       ∧ ¬ (cid = s.task.id.cid ∧ ∃ j, j < 64 ∧ (wd (va + j) - s.x a).toNat < (s.x b).toNat)
     (s.task.storeQ ≠ [] → exec (.iflush a b) s = .next s)
       ∧ (s.task.storeQ = [] → Completes (.iflush a b) s fun t =>
           t = { s with ops := t.ops, lines := t.lines, task := { s.task with csr := t.task.csr, pc := t.task.pc } }
             ∧ Retired s t s.task.csr ∧ SameBytes s t
             ∧ (∀ k, k ∈ t.ops ↔ k ∈ s.ops ∧ kept k.cid k.va) ∧ ∀ k, k ∈ t.lines ↔ k ∈ s.lines ∧ kept k.cid k.va))
    ∧ (∀ (s : State) (a b : XReg), s.sup = true → Completes (.tlbinv a b) s fun t =>
         let y := (s.x b).toNat
         let hit (cid : Fin 64) (g : Prop) (base size : Nat) : Prop :=
           (cid.val = y % 64 ∨ y / 256 % 2 = 1 ∨ g) ∧ (y / 512 % 2 = 1 ∨ (base ≤ (s.x a).toNat ∧ (s.x a).toNat < base + size))
         t = { s with tlb := t.tlb, ops := t.ops, lines := t.lines, task := { s.task with csr := t.task.csr, pc := t.task.pc } }
           ∧ Retired s t s.task.csr ∧ SameBytes s t
           ∧ (∀ e, e ∈ t.tlb ↔ e ∈ s.tlb ∧ ¬ hit e.cid (e.pte.getLsbD 5 = true) e.base e.size)
           ∧ (∀ k, k ∈ t.ops ↔ k ∈ s.ops ∧ ¬ hit k.cid (k.global = true) (k.va / k.size * k.size) k.size)
           ∧ ∀ k, k ∈ t.lines ↔ k ∈ s.lines ∧ ¬ hit k.cid (k.global = true) (k.va / k.size * k.size) k.size)

/-- The stook instructions: SKSET clears count and phase and sets the target; SKADD adds exactly and reduces by the target, each
reduction flipping the phase, or saturates with target 0; SKRD reads phase, target and count. No other stook, no memory and
no other register changes; SKRD faults 0x60 under DET (R263, R264, R321). -/
def Obligations.Stooks : Prop :=
  ∀ (s : State) (a d : XReg) (k : Fin 16),
    let only (t : State) (v : Stook) : Prop :=
      t = { s with task := { s.task with stooks := s.task.stooks.set k v, csr := t.task.csr, pc := t.task.pc } }
        ∧ Retired s t s.task.csr ∧ SameBytes s t
    let o := s.task.stooks[k]
    let n := o.count.toNat + (s.x a).toNat % 2 ^ 32
    (Completes (.skset a k) s fun t => only t ⟨0, BitVec.ofNat 31 ((s.x a).toNat % 2 ^ 31), false⟩)
      ∧ (Completes (.skadd a k) s fun t => ∃ v : Stook, only t v ∧ v.target = o.target
          ∧ (o.target = 0 → v.phase = o.phase ∧ v.count.toNat = min n 0xFFFFFFFF)
          ∧ (o.target ≠ 0 → ∃ m, n = m * o.target.toNat + v.count.toNat ∧ v.count.toNat < o.target.toNat
              ∧ v.phase = (o.phase != decide (m % 2 = 1))))
      ∧ (s.det = false → Completes (.skrd d k) s fun t => OnlyRegs s t ∧ Retired s t s.task.csr ∧ SameBytes s t
          ∧ Wrote s t d (wd ((if o.phase then 2 ^ 63 else 0) + o.target.toNat * 2 ^ 32 + o.count.toNat)))
      ∧ (s.det = true → exec (.skrd d k) s = .next (s.fault ⟨.nondeterministic, instrWord (.skrd d k), none⟩))

/-- ENGSEQ writes the sequence number of the engine that x[rs1] selects, 0 the Thresher, 1 to 4 copy channels 0 to 3, and 0 for any
other value (R267); it faults 0x60 under DET (R321). -/
def Obligations.EngineSequence : Prop :=
  ∀ (s : State) (d a : XReg),
    let v : Word := if s.x a = 0 then wd s.task.thr.done else if s.x a = 1 then wd s.task.ch[0].done
      else if s.x a = 2 then wd s.task.ch[1].done else if s.x a = 3 then wd s.task.ch[2].done
      else if s.x a = 4 then wd s.task.ch[3].done else 0
    (s.det = false → Completes (.engseq d a) s fun t => OnlyRegs s t ∧ Wrote s t d v ∧ Retired s t s.task.csr ∧ SameBytes s t)
      ∧ (s.det = true → exec (.engseq d a) s = .next (s.fault ⟨.nondeterministic, instrWord (.engseq d a), none⟩))
      ∧ encode (.engseq 11 12) = some 0x996C0006

/-- SETSHP grants what R136 gives under the croft's column maximum, under DET the partition's least (R137): SH, RSH and rd take the
grant, or it faults 0x34 with TVAL the request and changes nothing. GETSHP reads the same SH (R138). -/
def Obligations.Shapes : Prop :=
  ∀ (s : State) (d a : XReg),
    let m := if s.det then s.partMin s.parts[s.myPart] else s.cmax
    (∀ sh rsh, shapeSpec (s.x a).toNat m = some (sh, rsh) →
        Completes (.setshp d a) s fun t => OnlyRegs s t ∧ Wrote s t d sh ∧ Retired s t { s.task.csr with sh := sh, rsh := rsh }
          ∧ SameBytes s t)
      ∧ (shapeSpec (s.x a).toNat m = none → exec (.setshp d a) s = .next (s.fault ⟨.shape, s.x a, none⟩))
      ∧ Completes (.getshp d) s fun t => OnlyRegs s t ∧ Wrote s t d (s.csrValue 0x030) ∧ Retired s t s.task.csr ∧ SameBytes s t

/-! ### Orbit descriptors (R184 to R187) -/

/-- ORBOFF, ORBSGN and ORBMUL read the descriptor at x[rs1] and write the offset (−1 where the sign is 0), the sign or the
multiplicity that R185 and R186 give the tuple in x[rs2]; nothing else changes (R187).

An ORB instruction's faults before the index check: a descriptor address that is no multiple of 32 0x0C, out of range 0x17, an
invalid descriptor 0x3B, each with TVAL the address (R184, R187). -/
def Obligations.OrbitResults : Prop :=
  (∀ (i : Instr) (s s1 : State) (d a b : XReg) (f : Nat × Int × Nat → Word) (p : Place), orbSpec i = some (d, a, b, f) →
       s.wf = true → s.task.addrKind (s.x a) ≠ .out → (s.x a).toNat % 32 = 0 → Reaches s .load (s.x a) 32 s1 p →
       let ws := recordAt s1 p
       let D := Desc.ofDwords ws
       let idx := (List.range 4).map fun k => (s.x b).toNat / 2 ^ (16 * k) % 2 ^ 16
       Desc.valid ws = true →
         ((∀ k, k < D.rank → idx.getD k 0 < D.ext k) → Completes i s fun t => RefillOnly s s1 ∧ OnlyRegs s1 t
             ∧ Wrote s t d (f (orbitSpec D idx)) ∧ Retired s t s.task.csr ∧ SameBytes s1 t)
           ∧ ((∃ k, k < D.rank ∧ D.ext k ≤ idx.getD k 0) → exec i s = .next (s1.fault ⟨.orbitIndex, s.x b, none⟩)))
    ∧ (∀ (i : Instr) (s : State) (d a b : XReg) (f : Nat × Int × Nat → Word), orbSpec i = some (d, a, b, f) →
         ((s.x a).toNat % 32 ≠ 0 → exec i s = .next (s.fault ⟨.misalignedData, s.x a, none⟩))
           ∧ ((s.x a).toNat % 32 = 0 → s.task.addrKind (s.x a) = .out → exec i s = .next (s.fault ⟨.addressRange, s.x a, none⟩))
           ∧ ∀ s1 p, (s.x a).toNat % 32 = 0 → s.task.addrKind (s.x a) ≠ .out → Reaches s .load (s.x a) 32 s1 p →
               Desc.valid (recordAt s1 p) = false → exec i s = .next (s1.fault ⟨.orbitInvalid, s.x a, none⟩))

/-! ### Tasks (R311 to R316) -/

/-- SPAWN outside a rival, of a record that reads, into a queue with room: the record joins the tail of the launch's queue with its
zero fields cleared and the launch ID filled in, rd takes the occupancy after it (0 under DET), and nothing else changes
(R302, R308, R312).

SPAWN in a rival faults 0x52, with TVAL 0; else a record address that is no multiple of 32 faults 0x0C and one out of range
0x17 (R312, R350). That no byte at QBASE changes when the record joins the queue is the model's choice (log 53). -/
def Obligations.Spawn : Prop :=
  (∀ (s s1 : State) (d a : XReg) (p : Place) (L : Launch), s.wf = true → s.task.id.world = 0 → (s.x a).toNat % 32 = 0 →
       s.task.addrKind (s.x a) ≠ .out → Reaches s .load (s.x a) 32 s1 p → s.myLaunch = some L →
         (waitingCount L < L.capacity → Completes (.spawn d a) s fun t => RefillOnly s s1
             ∧ t = { s1 with
                 launches := t.launches, task := { s1.task with x := t.task.x, csr := t.task.csr, pc := t.task.pc } }
             ∧ OnlyLaunch s t L { L with queue := L.queue ++ [waitingRecord (queuedSpec (recordAt s1 p) L.id) (s.x a)] }
             ∧ Wrote s t d (if s.det then 0 else wd (waitingCount L + 1)) ∧ Retired s t s.task.csr ∧ SameBytes s1 t)
           ∧ (L.capacity ≤ waitingCount L → exec (.spawn d a) s = .next (s1.fault ⟨.queueFull, s.x a, none⟩)))
    ∧ (∀ (s : State) (d a : XReg),
         (s.task.id.world ≠ 0 → exec (.spawn d a) s = .next (s.fault ⟨.worldExternal, 0, none⟩))
           ∧ (s.task.id.world = 0 → (s.x a).toNat % 32 ≠ 0 → exec (.spawn d a) s = .next (s.fault ⟨.misalignedData, s.x a, none⟩))
           ∧ (s.task.id.world = 0 → (s.x a).toNat % 32 = 0 → s.task.addrKind (s.x a) = .out →
               exec (.spawn d a) s = .next (s.fault ⟨.addressRange, s.x a, none⟩)))

/-- JOIN decrements the counter at x[rs1] and writes the count after it to rd (0 under DET); when it reaches zero the waiter's record
joins the launch's queue; nothing else is read or kept differently. A counter that is zero faults 0x63 (R313, R314). That only the
counter's bytes change, and none at QBASE, is the model's choice (log 53).

JINIT at an address whose AMO and store go through in device memory writes COUNT x[rs2][31:0] and WAITER x[rd] there as 16 bytes,
and no register; at a loft address it faults 0x20, misaligned 0x21 (R313). -/
def Obligations.Join : Prop :=
  (∀ (s : State) (d a : XReg) (p q : Place) (c : Nat) (w : Word) (L : Launch), s.wf = true →
       (JoinReady s (s.x a) p c w q L → Completes (.join d a) s fun t =>
           Stored { s with launches := t.launches } t p (leBytes 4 (c - 1)) ∧ OnlyLaunch s t L (joinedLaunch t c w q L)
             ∧ Wrote s t d (if s.det then 0 else wd (c - 1)) ∧ Retired s t s.task.csr)
         ∧ ((∃ pa, p = .device pa) → s.task.addrKind (s.x a) = .global → (s.x a).toNat % 16 = 0 → Reaches s .amo (s.x a) 16 s p →
             leValue (s.sees p 4) = 0 → exec (.join d a) s = .next (s.fault ⟨.joinUnderflow, s.x a, none⟩)))
    ∧ (∀ (s s2 : State) (d a b : XReg) (pa : Nat), s.wf = true →
         (s.task.addrKind (s.x a) = .global → (s.x a).toNat % 16 = 0 → Reaches s .amo (s.x a) 16 s (.device pa) →
             Reaches s .store (s.x a) 16 s (.device pa) → s.claimCheck (s.who s.sup) (s.x a) (.device pa) = .ok s2 →
               Completes (.jinit d a b) s fun t => SameX s t ∧ Retired s t s.task.csr
                 ∧ Stored s t (.device pa) (leBytes 8 ((s.x b).toNat % 2 ^ 32) ++ leBytes 8 (s.x d).toNat))
           ∧ (s.task.addrKind (s.x a) ≠ .out → (s.x a).toNat % 16 ≠ 0 →
               exec (.jinit d a b) s = .next (s.fault ⟨.amoMisaligned, s.x a, none⟩))
           ∧ ∀ o, s.task.addrKind (s.x a) = .loft o → (s.x a).toNat % 16 = 0 →
               exec (.jinit d a b) s = .next (s.fault ⟨.amoScope, s.x a, none⟩))

/-- EXIT of a task at the root whose work is done: the croft is free, TASKS counts the task, and the join counter of its record, if it
names one, is decremented as JOIN does it; while its VE or vector stores are busy it waits, and while its engines are, its
streams are detached and it waits; in a forked rival it faults 0x52, with a choice pending 0x54 (R315, R339, R350, R354).

YIELD never faults: it completes with the loop-end check; in task mode, when a ready launch of the partition has a higher effective
priority, its own launch's queue is not full, no STAMPED command defers it and a frame can be had, the task is then saved behind the
entries that YIELD saved before, to go on at the pc that check gives (R308, R316, R323); while the reserve of a running Cellar has no room
for the frame it waits (R414; log 77).

The model's choices: a waiter's record that joins a queue changes no byte at QBASE (log 53), and in a forked rival with a choice pending
0x52 comes before 0x54 (log 47). -/
def Obligations.ExitAndYield : Prop :=
  (∀ (s : State) (p q : Place) (c : Nat) (w : Word) (L : Launch), s.wf = true →
     let j := s.task.id.entry.record.getD 2 0
     let quiet := s.task.veQ = [] ∧ s.task.storeQ = [] ∧ ∀ h ∈ s.task.held, h.ves = []
     let engines := s.task.thr.cmds = [] ∧ (∀ k : Fin 4, s.task.ch[k].cmds = []) ∧ ∀ e ∈ s.coll.cmds, e.tid ≠ s.task.id.tid
     (s.task.id.forked = true → exec .exit s = .next (s.fault ⟨.worldExternal, 0, none⟩))
       ∧ (s.task.id.forked = false → s.task.id.choice ≠ none → exec .exit s = .next (s.fault ⟨.chooseMisuse, 0, none⟩))
       ∧ (s.task.id.forked = false → s.task.id.choice = none →
           (s.task.id.exitDone = false → quiet → ¬ engines →
               Completes .exit s fun t => t.running = s.running ∧ t.task.pc = s.task.pc ∧ t.task.x = s.task.x
                 ∧ ∀ k : Fin 8, t.task.q[k].stream = none)
             ∧ (s.task.id.exitDone = false → ¬ quiet → Completes .exit s fun t =>
                 t = { s with task := { s.task with pend := t.task.pend } })
             ∧ ((s.task.id.exitDone = true ∨ (quiet ∧ engines)) → s.task.id.world = 0 → s.world? 0 = none → s.myLaunch = some L →
                 (j = 0 → Completes .exit s fun t => t.running = false ∧ OnlyLaunch s t L { L with tasks := L.tasks + 1 }
                     ∧ t.mem = s.mem ∧ t.worlds = s.worlds ∧ t.parts = s.parts)
                   ∧ (j ≠ 0 → JoinReady s j p c w q L → Completes .exit s fun t => t.running = false ∧ t.worlds = s.worlds
                     ∧ t.readPlace 0 p 4 = leBytes 4 (c - 1)
                     ∧ (∀ r, (∀ o, r ≠ .loft o) → ¬ r.among p 4 → ¬ s.inReserve r → t.readPlace 0 r 1 = s.readPlace 0 r 1)
                     ∧ OnlyLaunch s t L { joinedLaunch { t with task := s.task } c w q L with tasks := L.tasks + 1 }))))
    ∧ (∀ (s : State) (L : Launch), s.myLaunch = some L →
         let t0 := s.task.advance
         let due := s.sup = false ∧ s.deferred = false ∧ waitingCount L < L.capacity
           ∧ ∃ k ∈ s.launches, k.part = L.part ∧ s.eligible k = true ∧ k.nextEntry ≠ none ∧ L.prio < k.prio
         (due → (s.pairFor s.task).isSome = true → s.saveRoom = false → exec .yield s = .next s)
           ∧ (due → (s.pairFor s.task).isSome = true → s.saveRoom = true → Completes .yield s fun t => t.running = false
             ∧ ∃ t1, OnlyLaunch s t L { L with saved := L.saved ++ [.task t1] } ∧ t1.pc = nextPc s ∧ t1.x = s.task.x ∧ t1.v = s.task.v
               ∧ t1.stooks = s.task.stooks ∧ t1.csr = t0.csr ∧ t1.id.tid = s.task.id.tid)
           ∧ ((¬ due ∨ s.pairFor s.task = none) → Completes .yield s fun t =>
               OnlyRegs s t ∧ SameX s t ∧ Retired s t s.task.csr ∧ SameBytes s t))

/-! ### Worlds (R343 to R359) -/

/-- FORKW in a state that allows it makes n rivals in rank order as saved entries at the tail of its launch's queue and suspends the parent at the pc that
follows: rival k holds k in rd, a free tag of its own, the parent's depth + 1 and rank k, and otherwise the parent's registers,
CSRs, tiles, stooks and counters (R346, R347). In supervisor mode, where no save is made, and without a backing pair, the fork is refused
with 0x16, its TVAL a free value (R346, R395; that supervisor mode is refused so is the model's choice, log 47). While the reserve of a running Cellar
has no room for the save it waits (R414; log 77).

The faults of FORKW in their order: a pending choice 0x54 with TVAL 0, a count outside 2 to 8 0x54 with TVAL the count, depth 4
0x53, an attached stream 0x54; and, once its work is done and a frame can be had, too few tags 0x50 (R346). -/
def Obligations.Fork : Prop :=
  (∀ (s : State) (d a : XReg) (L : Launch), s.myLaunch = some L → (∀ w ∈ s.worlds, w.num < s.nextWorld) →
       let n := (s.x a).toNat
       let t0 := s.task.advance
       s.task.id.choice = none → 2 ≤ n → n ≤ 8 → s.task.id.worldCsr.toNat / 2 ^ 16 % 8 ≠ 4 → (∀ k : Fin 8, s.task.q[k].stream = none) →
         s.task.vectorDone = true → s.commandsDone = true → s.sup = false → (s.pairFor s.task).isSome = true → s.saveRoom = true → n ≤ s.freeTags.length →
           Completes (.forkw d a) s fun t => t.running = false ∧ ∃ (ts : List Task) (parent : Task) (rs : List Rival) (tags : List Nat),
             OnlyLaunch s t L { L with queue := L.queue ++ ts.map Saved.task
                                       parked := L.parked ++ [{ task := parent, rd := d, rivals := rs }] }
               ∧ parent.pc = nextPc s ∧ parent.x = s.task.x ∧ parent.id.tid = s.task.id.tid ∧ ts.length = n ∧ rs.length = n
               ∧ tags.length = n ∧ tags.Nodup ∧ (∀ g ∈ tags, g ∈ s.freeTags)
               ∧ ∀ k, ∀ h : k < n, ∃ u v g, ts[k]? = some u ∧ rs[k]? = some v ∧ tags[k]? = some g
                 ∧ v.rank = k ∧ v.ended = false ∧ v.score = none ∧ u.id.world = v.world ∧ u.id.forked = true
                 ∧ u.id.worldCsr = wd (k * 2 ^ 24 + (s.task.id.worldCsr.toNat / 2 ^ 16 % 8 + 1) * 2 ^ 16 + g)
                 ∧ u.pc = nextPc s ∧ (∀ r : XReg, u.x[r] = if r = d ∧ d ≠ 0 then wd k else s.task.x[r])
                 ∧ u.csr = t0.csr ∧ u.v = s.task.v ∧ u.q = s.task.q ∧ u.stooks = s.task.stooks ∧ u.thr = s.task.thr ∧ u.ch = s.task.ch
                 ∧ u.id.wdog = s.task.id.wdog ∧ u.id.birth = s.task.id.birth ∧ u.id.stoch = s.task.id.stoch
                 ∧ (∃ W, t.world? v.world = some W ∧ W.granules = [] ∧ W.parent = s.task.id.world ∧ W.tag = g))
    ∧ (∀ (s : State) (d a : XReg),
         let n := (s.x a).toNat
         let faults (c : Cause) (v : Word) : Prop := exec (.forkw d a) s = .next (s.fault ⟨c, v, none⟩)
         (s.task.id.choice ≠ none → faults .chooseMisuse 0)
           ∧ (s.task.id.choice = none → (n < 2 ∨ 8 < n → faults .chooseMisuse (s.x a))
               ∧ (2 ≤ n → n ≤ 8 → (s.task.id.worldCsr.toNat / 2 ^ 16 % 8 = 4 → faults .worldDepth 0)
                   ∧ (s.task.id.worldCsr.toNat / 2 ^ 16 % 8 ≠ 4 → ((∃ k : Fin 8, s.task.q[k].stream ≠ none) → faults .chooseMisuse 0)
                       ∧ ((∀ k : Fin 8, s.task.q[k].stream = none) → s.task.vectorDone = true → s.commandsDone = true →
                           (s.sup = false → s.saveRoom = false → exec (.forkw d a) s = .next s)
                             ∧ (s.sup = false → s.myLaunch ≠ none → (s.pairFor s.task).isSome = true → s.saveRoom = true →
                                 s.freeTags.length < n → faults .worldTags 0)
                             ∧ (s.sup = true ∨ s.pairFor s.task = none → exec (.forkw d a) s
                                 = .next ({ s with fresh := s.fresh + 1 }.fault ⟨.loftBacking, Config.freeBits s.fresh, none⟩)))))))

/-- YIELDW and ABORTW in a forked rival without a pending choice, its work done: the croft is free, and the parent's entry for the rival
holds its end, with the score after YIELDW, none after ABORTW; the last rival's end places the parent as a saved entry with the choice
pending, which takes −1 in its FORKW's rd when it resumes. In any other task both fault 0x54 (R351, R352, R354). -/
def Obligations.RivalEnd : Prop :=
  ∀ (s : State) (a : XReg) (L : Launch) (P : Parent) (l1 l2 : List Parent), s.myLaunch = some L → L.parked = l1 ++ P :: l2 →
    P.task.id.tid = s.task.id.parent → (∀ Q ∈ l1 ++ l2, Q.task.id.tid ≠ s.task.id.parent ∧ ∃ r ∈ Q.rivals, r.ended = false) →
    let ended (score : Option Word) (t : State) : Prop :=
      let rs := P.rivals.map fun r => if r.world = s.task.id.world then { r with ended := true, score := score } else r
      t.running = false
        ∧ ((∃ r ∈ rs, r.ended = false) → OnlyLaunch s t L { L with parked := l1 ++ { P with rivals := rs } :: l2 })
        ∧ ((∀ r ∈ rs, r.ended = true) → ∃ u, OnlyLaunch s t L { L with parked := l1 ++ l2, queue := L.queue ++ [.task u] }
            ∧ u.pc = P.task.pc ∧ u.x = P.task.x ∧ u.id.choice = some ⟨rs, some P.rd⟩
            ∧ (∀ r : XReg, u.wakeParent.x[r] = if r = P.rd ∧ P.rd ≠ 0 then -1 else P.task.x[r])
            ∧ u.wakeParent.id.choice = some ⟨rs, none⟩)
    (s.task.id.forked = false ∨ s.task.id.choice ≠ none →
        exec (.yieldw a) s = .next (s.fault ⟨.chooseMisuse, 0, none⟩) ∧ exec .abortw s = .next (s.fault ⟨.chooseMisuse, 0, none⟩))
      ∧ (s.task.id.forked = true → s.task.id.choice = none →
          Completes .abortw s (ended none)
            ∧ (s.task.vectorDone = true → s.commandsDone = true → Completes (.yieldw a) s (ended (some (s.x a)))))

/-- CHOOSE with a choice pending takes the rank R355 names, commits that rival's view into the task's, discards every other, frees the
rivals' tags and writes the rank, −1 for none, to rd. At the root, a byte of a granule the rival held reads as the rival had it, and
every other as before, but for the reserve of a running Cellar (R355, R356, R414); while a vector store has still to write a granule of the
commit, it waits (R268, R275); one whose tile will never come is a deadlock, 0x30 (R269), and a commit that would read or write the stack
of an isolated die faults 0x70 before any byte moves (R411), each with a free TVAL, as a commit has no virtual address (log 7). A selector
out of range faults 0x54, and so does a task with no choice pending.

WID writes the WORLD register, its TAG read as 0 under DET, and never faults (R343, R345). -/
def Obligations.Choose : Prop :=
  (∀ (s : State) (d a : XReg), s.wf = true →
       let v := (s.x a).toInt
       (s.task.id.choice = none → exec (.choose d a) s = .next (s.fault ⟨.chooseMisuse, 0, none⟩))
         ∧ ∀ c : Choice, s.task.id.choice = some c →
             (¬ (v = -1 ∨ v = -2 ∨ (0 ≤ v ∧ v < c.rivals.length)) → exec (.choose d a) s = .next (s.fault ⟨.chooseMisuse, s.x a, none⟩))
               ∧ ((v = -1 ∨ v = -2 ∨ (0 ≤ v ∧ v < c.rivals.length)) → RivalsSane s c.rivals →
                   let from_ (r : Option Rival) : Nat := (r.map (·.world)).getD 0
                   let faults (c : Cause) : Prop := exec (.choose d a) s = .next ({ s with fresh := s.fresh + 1 }.fault ⟨c, Config.freeBits s.fresh, none⟩)
                   (∀ r, picked c.rivals v r → s.commitIsolated (from_ r) = true → faults .uncorrectable)
                   ∧ (∀ r, picked c.rivals v r → s.commitIsolated (from_ r) = false →
                       (s.commitBusy (from_ r) = .wait → exec (.choose d a) s = .next s)
                         ∧ (s.commitBusy (from_ r) = .dead → faults .queueUnderflow))
                   ∧ ((∀ r, picked c.rivals v r → s.commitIsolated (from_ r) = false ∧ s.commitBusy (from_ r) = .free) → ∃ r, picked c.rivals v r ∧ Completes (.choose d a) s fun t =>
                     Wrote s t d (match r with | some r => wd r.rank | none => -1) ∧ Retired s t s.task.csr
                       ∧ t = { s with
                           task := { s.task with x := t.task.x, csr := t.task.csr, pc := t.task.pc, id := { s.task.id with choice := none } }
                           mem := t.mem, badLines := t.badLines, dirty := t.dirty, worlds := t.worlds, parts := t.parts }
                       ∧ CellarsOnly s t ∧ (∀ k ∈ c.rivals, t.world? k.world = none)
                       ∧ (s.task.id.world = 0 → s.world? 0 = none → ∀ pa, ¬ s.inReserve (.device pa) → t.readPlace 0 (.device pa) 1 =
                           match r.bind fun r => s.world? r.world with
                           | some W => if W.granules.contains (pa / 4096) then [W.bytes.get pa] else s.readPlace 0 (.device pa) 1
                           | none => s.readPlace 0 (.device pa) 1)
                       ∧ ∀ P, s.world? s.task.id.world = some P → t.mem = s.mem ∧ ∃ Q, t.world? s.task.id.world = some Q
                           ∧ match r.bind fun r => s.world? r.world with
                             | some W => (∀ g, g ∈ Q.granules ↔ g ∈ P.granules ∨ g ∈ W.granules)
                                 ∧ ∀ pa, Q.bytes.get pa = if W.granules.contains (pa / 4096) then W.bytes.get pa else P.bytes.get pa
                             | none => Q = P)))
    ∧ (∀ (s : State) (d : XReg), Completes (.wid d) s fun t => OnlyRegs s t ∧ Retired s t s.task.csr ∧ SameBytes s t
         ∧ Wrote s t d (if s.det then wd (s.task.id.worldCsr.toNat / 1024 * 1024) else s.task.id.worldCsr))

/-! ### Engine queues and queue registers (R203, R251, R252, R281, R327 to R329) -/

/-- MXQ, CPQ and CLQ copy a record that passes its checks to the end of its queue, with the number of the command and the captured
DSLACK; nothing else changes (R203, R206, R252, R281; a CLQ drops RESTART, R409). The ordinal of a collective command counts per
group, or per peer and direction (R284).

The faults and waits of MXQ, CPQ and CLQ in their order: CLQ in a rival 0x52; a record address outside the loft 0x17, one that is no
multiple of 128 0x0C; CPQ to a channel above 3 0x40 with TVAL the channel; a full queue waits, changing nothing; a record that
fails its checks faults with their code and TVAL the address (R203, R252, R281). -/
def Obligations.EngineIssue : Prop :=
  (∀ (s s1 : State) (a b : XReg) (r : List Word), s.wf = true → ReadsRecord s (s.x a) s1 r →
       let slack := s.task.csr.dslack.toNat % 2 ^ 32
       (s.task.thr.cmds.length < 8 → thrCheck r s.task.loftLimit = none → Completes (.mxq a) s fun t => RefillOnly s s1
           ∧ Retired s t s.task.csr ∧ SameBytes s1 t
           ∧ t = { s1 with task := { s1.task with
               csr := t.task.csr, pc := t.task.pc
               thr := { s.task.thr with
                 issued := s.task.thr.issued + 1
                 cmds := s.task.thr.cmds ++ [⟨r, s.x a, slack, s.task.thr.issued + 1, false, false, none, 0⟩] } } })
         ∧ (∀ k : Fin 4, (s.x b).toNat = k.val → s.task.ch[k].cmds.length < 8 → s1.task.copyCheck r = none →
             Completes (.cpq a b) s fun t => RefillOnly s s1 ∧ Retired s t s.task.csr ∧ SameBytes s1 t
               ∧ t = { s1 with task := { s1.task with
                   csr := t.task.csr, pc := t.task.pc
                   ch := s.task.ch.set k { s.task.ch[k] with
                     issued := s.task.ch[k].issued + 1
                     cmds := s.task.ch[k].cmds
                       ++ [⟨r, s.x a, slack, s.task.ch[k].issued + 1, s.sup, s.task.stores, false, false, none, 0, 0, 0xFFFFFFFF⟩] } } })
         ∧ (s.task.id.world = 0 → (s.coll.cmds.filter fun c => c.tid == s.task.id.tid).length < 8 → collCheck r = none →
             let key := collKey s.myPart r
             let n := s.coll.count key
             Completes (.clq a) s fun t => RefillOnly s s1 ∧ Retired s t s.task.csr ∧ SameBytes s1 t
               ∧ t = { s1 with
                   task := { s1.task with csr := t.task.csr, pc := t.task.pc, id := { s1.task.id with restart := false } }
                   coll := t.coll }
               ∧ t.coll.cmds = s.coll.cmds
                   ++ [⟨r, s.x a, s.task.id.tid, s.task.id.cid, s.task.id.launch, s.myPart, s.sup, n, s.task.stores, none, 0⟩]
               ∧ t.coll.broken = s.coll.broken ∧ ∀ k, t.coll.count k = if k = key then n + 1 else s.coll.count k))
    ∧ (∀ (s s1 : State) (a b : XReg) (i : Instr), i ∈ [Instr.mxq a, .cpq a b, .clq a] →
         let d := s.x a
         let rival := s.task.id.world ≠ 0
         (rival → exec (.clq a) s = .next (s.fault ⟨.worldExternal, 0, none⟩))
           ∧ (¬ (rival ∧ i = .clq a) →
               ((∀ o, s.task.addrKind d ≠ .loft o) → exec i s = .next (s.fault ⟨.addressRange, d, none⟩))
                 ∧ ((∃ o, s.task.addrKind d = .loft o) → d.toNat % 128 ≠ 0 → exec i s = .next (s.fault ⟨.misalignedData, d, none⟩)))
           ∧ ∀ o, s.task.addrKind d = .loft o → d.toNat % 128 = 0 →
               (3 < (s.x b).toNat → exec (.cpq a b) s = .next (s.fault ⟨.recordMalformed, s.x b, none⟩))
                 ∧ (8 ≤ s.task.thr.cmds.length → exec (.mxq a) s = .next s)
                 ∧ (∀ k : Fin 4, (s.x b).toNat = k.val → 8 ≤ s.task.ch[k].cmds.length → exec (.cpq a b) s = .next s)
                 ∧ (¬ rival → 8 ≤ (s.coll.cmds.filter fun c => c.tid == s.task.id.tid).length → exec (.clq a) s = .next s)
                 ∧ ∀ (r : List Word) (c : Cause), ReadsRecord s d s1 r →
                     (s.task.thr.cmds.length < 8 → thrCheck r s1.task.loftLimit = some c →
                         exec (.mxq a) s = .next (s1.fault ⟨c, d, none⟩))
                       ∧ (∀ k : Fin 4, (s.x b).toNat = k.val → s.task.ch[k].cmds.length < 8 → s1.task.copyCheck r = some c →
                           exec (.cpq a b) s = .next (s1.fault ⟨c, d, none⟩))
                       ∧ (¬ rival → (s.coll.cmds.filter fun c => c.tid == s.task.id.tid).length < 8 → collCheck r = some c →
                           exec (.clq a) s = .next (s1.fault ⟨c, d, none⟩)))

/-- QBIND gives an idle, empty queue register without a stream its role; UNSTRM empties one and detaches its stream with an undelivered
fault; both, and STRM, fault 0x32 for a register above 7, QBIND also for a role above 2 or a register that is not empty; and they wait for the
instructions that name the register (R251, R329).

STRM attaches a stream described by the 64 bytes at x[rs2] to an idle, empty register bound STREAM, under a grant, with the mode it
was issued in and the captured SH; an invalid descriptor faults 0x4A and attaches nothing (R326, R327, R328, R232). -/
def Obligations.QueueRoles : Prop :=
  ((∀ (s : State) (a b : XReg), 7 < (s.x a).toNat →
         exec (.qbind a b) s = .next (s.fault ⟨.queueRole, instrWord (.qbind a b), none⟩)
           ∧ exec (.unstrm a) s = .next (s.fault ⟨.queueRole, s.x a, none⟩)
           ∧ exec (.strm a b) s = .next (s.fault ⟨.queueRole, s.x a, none⟩))
     ∧ ∀ (s : State) (a b : XReg) (q : Fin 8), (s.x a).toNat = q.val →
       (QueueQuiet s q →
           ((s.x b).toNat ≤ 2 → s.task.q[q].tiles = [] → s.task.q[q].stream = none → Completes (.qbind a b) s fun t =>
               OnlyQueue s t q { s.task.q[q] with
                 role := if s.x b = 0 then .load else if s.x b = 1 then .store else .stream })
             ∧ ((s.x b).toNat ≤ 2 → (s.task.q[q].tiles ≠ [] ∨ s.task.q[q].stream ≠ none) →
                 exec (.qbind a b) s = .next (s.fault ⟨.queueRole, wd q.val, none⟩))
             ∧ Completes (.unstrm a) s fun t =>
                 OnlyQueue { s with task := { s.task with pend := t.task.pend } } t q { s.task.q[q] with tiles := [], stream := none }
                   ∧ t.task.pend = { s.task.pend with stream := s.task.pend.stream.set q none })
         ∧ (¬ QueueQuiet s q → (Completes (.unstrm a) s fun t => t = { s with task := { s.task with pend := t.task.pend } })
             ∧ ((s.x b).toNat ≤ 2 → Completes (.qbind a b) s fun t => t = { s with task := { s.task with pend := t.task.pend } }))
         ∧ (2 < (s.x b).toNat → exec (.qbind a b) s = .next (s.fault ⟨.queueRole, instrWord (.qbind a b), none⟩)))
    ∧ (∀ (s s1 : State) (a b : XReg) (q : Fin 8) (p : Place), (s.x a).toNat = q.val → s.wf = true → QueueQuiet s q →
         s.task.q[q].role = .stream → s.task.q[q].tiles = [] → s.task.q[q].stream = none → (s.csrValue 0x030).toNat % 256 ≠ 0 →
         (s.x b).toNat % 64 = 0 → s.task.addrKind (s.x b) ≠ .out → Reaches s .load (s.x b) 64 s1 p →
           let sh := s.csrValue 0x030
           let desc := (List.range 8).map fun k => wd (leValue (((s1.sees p 64).drop (8 * k)).take 8))
           (streamValid desc sh = true → (3 ∉ streamOps desc ∨ sh.toNat / 2 ^ 8 % 8 = 0) → Completes (.strm a b) s fun t =>
               RefillOnly s s1 ∧ OnlyQueue s1 t q { s1.task.q[q] with
                 stream := some ⟨desc, s.x b, sh, s.sup, 0, 0, 0, [], 0, [], [], [], false, false, s.task.stores⟩ })
             ∧ (streamValid desc sh = false → exec (.strm a b) s = .next (s1.fault ⟨.streamDescriptor, s.x b, none⟩)))


/-! ### The vector engine (R19 to R21, R31, R100, R135 to R179) -/

/-- Dispatch: under a grant and with room in the VE queue (SLIP and 32 entries), every VE instruction but VEXT is queued with its
captures and completes, taking a stochastic count when it rounds in STOCH; VEXT is queued likewise and the sequencer stays at it until
the VE completes it. Without a grant it faults 0x34 with TVAL its word; without room the sequencer waits (R20, R21, R31, R100,
R139, R159). -/
def Obligations.VeDispatch : Prop :=
  ∀ (s : State),
    let grant := s.task.csr.sh.toNat % 2 ^ 8 ≠ 0
    let room := s.task.veQ.length < min (s.task.csr.slip.toNat % 64) 32
    let waits (i : Instr) : Prop := Completes i s fun t => t = { s with task := { s.task with pend := t.task.pend } }
    (∀ (i : Instr) (xs xt : Word), veScalars s i = some (xs, xt) →
        (grant → room → Completes i s fun t => ∃ e, Captured s i xs xt e ∧ Retired s t s.task.csr ∧ SameBytes s t
            ∧ t = { s with task := { s.task with
                csr := t.task.csr, pc := t.task.pc, veQ := s.task.veQ ++ [e]
                id := { s.task.id with
                  stoch := if i.counts = true ∧ s.task.csr.fctl.toNat % 8 = 5 then s.task.id.stoch + 1 else s.task.id.stoch } } })
          ∧ (¬ grant → exec i s = .next (s.fault ⟨.shape, instrWord i, none⟩)) ∧ (grant → ¬ room → waits i))
      ∧ ∀ (d r : XReg) (a : VSrc),
          let i := Instr.vext d a r
          let queued := ∃ e ∈ s.task.veQ, e.instr.isVext = true ∧ e.addr = s.task.pc
          (queued → waits i)
            ∧ (¬ queued → (grant → room → Completes i s fun t => ∃ e, Captured s i 0 (s.x r) e
                  ∧ t = { s with task := { s.task with veQ := s.task.veQ ++ [e] } } ∧ SameBytes s t)
              ∧ (¬ grant → exec i s = .next (s.fault ⟨.shape, instrWord i, none⟩)) ∧ (grant → ¬ room → waits i))

/-- The VE runs its queue in order. An instruction whose result is `o` pops each queue register it pops once, writes or pushes its tile,
ORs its flags into FCTL, and leaves the queue; a VEXT writes its x register and completes, with the loop-end check; nothing else
changes. A fault of it, or a queue register without the role it needs (0x32), is raised queue-precisely with its address, and the
VE stays at it (R20, R24, R142 to R145, R159, R165, R391). -/
def Obligations.VeOrder : Prop :=
  (∀ (s : State) (e : VeEntry) (rest : List VeEntry) (f : VeCtx → VeAns), VeReady s e rest → e.instr.ve = some f →
      (∀ r, f (s.veCtx e) = .error r →
          s.veStep = { s with task := { s.task with pend := { s.task.pend with ve := some r, veAt := e.addr } } })
        ∧ ∀ o, f (s.veCtx e) = .ok o →
            let t := s.veStep
            t = { s with
                fresh := t.fresh
                task := { s.task with
                  veQ := rest, v := t.task.v, q := t.task.q, x := t.task.x, csr := t.task.csr, pc := t.task.pc } }
              ∧ (∀ q : Fin 8, t.task.q[q] = { s.task.q[q] with
                  tiles := (if e.instr.pops q then s.task.q[q].tiles.tail else s.task.q[q].tiles)
                    ++ if e.instr.pushed = some q then [o.tile] else [] })
              ∧ (∀ n : Fin 16, t.task.v[n] = match o.second with
                  | some (m, T) => if m = n then T else if e.instr.vdst = some (.v n) then o.tile else s.task.v[n]
                  | none => if e.instr.vdst = some (.v n) then o.tile else s.task.v[n])
              ∧ match o.x with
                | some (d, v) => Wrote s t d v ∧ Retired s t (withFlags s.task.csr o.flags)
                | none => SameX s t ∧ t.task.pc = s.task.pc ∧ t.task.csr = withFlags s.task.csr o.flags)
    ∧ ∀ (s : State) (e : VeEntry) (rest : List VeEntry), s.running = true → s.dev.limiting = false → s.task.veQ = e :: rest →
        s.task.pend.ve = none → e.roleOk = false →
          s.veStep = { s with task := { s.task with
            pend := { s.task.pend with ve := some ⟨.queueRole, instrWord e.instr⟩, veAt := e.addr } } }

/-- Element-wise results in integer formats, and bitwise, select and splat results in every format: each active lane holds the result
on its elements' low w bits, each other lane 0, and no flag is set (R141, R142, R148 to R154, R157). VADDSAT and VSUBSAT in a
floating format fault 0x37. -/
def Obligations.VeLanes : Prop :=
  ∀ (s : State) (e : VeEntry) (F : Fmt) (f : VeCtx → VeAns), Fmt.ofCode (e.sh.toNat / 2 ^ 16 % 2 ^ 4) = some F → e.instr.ve = some f →
    (∀ (ints : Bool) (srcs : List VSrc) (g : List Nat → Nat), laneSpec F e.xs.toNat e.instr = some (ints, srcs, g) →
        (ints = true → F.isInt = true) →
          ∃ o, f (s.veCtx e) = .ok o ∧ o.second = none ∧ o.x = none ∧ o.flags = 0
            ∧ ∀ k, ∀ h : k < 1024, (isActive e.sh k → o.tile[k].toNat = g (srcs.map fun a => srcLane s e a k % 2 ^ F.width))
              ∧ (¬ isActive e.sh k → o.tile[k] = 0))
      ∧ (F.isInt = false → (∃ d a b, e.instr = .vaddsat d a b ∨ e.instr = .vsubsat d a b) →
          f (s.veCtx e) = .error ⟨.format, instrWord e.instr⟩)

/-- Movements copy the elements that R169 names, a source element outside the grant as 0, in every format; reductions in integer formats
leave the wrapped sum, the greatest or the least of the active terms in row 0 or column 0 and 0 elsewhere (R169, R170); VIOTA
writes the row, the column or the linear index in an integer format (R171); VINS replaces one element (R158); VEXT reads one
(R159); VPEEK copies the head tile's active lanes (R146); VRNGB writes random bits (R178, R179). None sets a flag. -/
def Obligations.VeMoves : Prop :=
  ∀ (s : State) (e : VeEntry) (F : Fmt) (f : VeCtx → VeAns), Fmt.ofCode (e.sh.toNat / 2 ^ 16 % 2 ^ 4) = some F → e.instr.ve = some f →
    let w := F.width
    let elem (a : VSrc) (r c : Nat) : Nat :=
      if r < rowsOf e.sh ∧ c < colsOf e.sh then srcLane s e a (64 * r + c) % 2 ^ w else 0
    let gives (P : Nat → Nat → Nat → Prop) : Prop := ∃ o, f (s.veCtx e) = .ok o ∧ o.second = none ∧ o.x = none ∧ o.flags = 0
      ∧ ∀ r c, r < 16 → c < 64 → ∀ h : 64 * r + c < 1024, (isActive e.sh (64 * r + c) → P r c o.tile[64 * r + c].toNat)
        ∧ (¬ isActive e.sh (64 * r + c) → o.tile[64 * r + c] = 0)
    (∀ a g, moveSpec (rowsOf e.sh) (colsOf e.sh) e.xs e.instr = some (a, g) → gives fun r c v =>
        v = match g r c with | some p => elem a p.1 p.2 | none => 0)
      ∧ (∀ cols a g, F.isInt = true → reduceSpec F e.instr = some (cols, a, g) → gives fun r c v =>
          if cols then if r = 0 then g ((List.range (rowsOf e.sh)).map fun j => elem a j c) v else v = 0
          else if c = 0 then g ((List.range (colsOf e.sh)).map fun j => elem a r j) v else v = 0)
      ∧ (∀ d u x, F.isInt = true → e.instr = .viota d u x → gives fun r c v =>
          v = (if e.xs = 0 then r else if e.xs = 1 then c else if e.xs = 2 then 64 * r + c else 0) % 2 ^ w)
      ∧ (∀ d u x y, e.instr = .vrngb d u x y → gives fun r c v =>
          v = (gen s.seed e.xs (e.xt + wd (64 * r + c))).toNat / 2 ^ (64 - w))
      ∧ (∀ d a, e.instr = .vpeek d a → gives fun r c v => v = srcLane s e (.q a) (64 * r + c))
      ∧ (∀ d a x, e.instr = .vext d a x → ∃ o, f (s.veCtx e) = .ok o ∧ o.second = none ∧ o.flags = 0
          ∧ o.x = some (d, if e.xt.toNat < 1024 ∧ isActive e.sh e.xt.toNat then
              if F.isSigned then sx w (elem a (e.xt.toNat / 64) (e.xt.toNat % 64)) else wd (elem a (e.xt.toNat / 64) (e.xt.toNat % 64))
            else 0))
      ∧ ∀ d u x y, e.instr = .vins d u x y → ∃ o, f (s.veCtx e) = .ok o ∧ o.second = none ∧ o.x = none ∧ o.flags = 0
          ∧ ∀ k, ∀ h : k < 1024, o.tile[k].toNat = if k = e.xt.toNat ∧ isActive e.sh k then e.xs.toNat % 2 ^ w
              else match d with | .v n => (s.lane n.val k).toNat | .q _ => 0

/-- Element-wise results in floating formats: arithmetic, the fused and scalar forms, VDIV, VMIN, VMAX, VABS, VNEG and VCMP leave in each
active lane the result that R148, R150, R151 and R153 name, rounded once in the captured mode with the draw of its linear index (R92,
R97, R98, R107, R108), D8 under R94. VCVT, VQNT and VDQ do so in every format, and a reserved format code faults 0x37 (R155, R160, R161).
Reductions and VIOTA in floating formats leave the one rounding of the exact sum, the extreme, or the index (R170, R171). The flags of
the instruction are those of its elements together (R142).

VSF runs in FP32, BF16 and FP16 and faults 0x37 in any other format; its results at the special values, of VRCP everywhere, and of VSQRT and
VRSQ, each the exact value rounded once to nearest even, are those of R156.

The sign of an exact zero product or quotient is the model's choice, and so is that the range of an integer format is judged after
rounding (log 66), and that a quiet NaN beside infinities of both signs sets no NV (log 73). -/
def Obligations.VeFloats : Prop :=
  ∀ (s : State) (e : VeEntry) (F : Fmt) (f : VeCtx → VeAns), Fmt.ofCode (e.sh.toNat / 2 ^ 16 % 2 ^ 4) = some F → e.instr.ve = some f →
    let m := RM.ofCode e.rm.toNat
    let R := rowsOf e.sh
    let C := colsOf e.sh
    let low (g : Fmt) (a : VSrc) (k : Nat) : Nat := srcLane s e a k % 2 ^ g.width
    let leaves (P : Nat → Nat → Flags → Prop) : Prop := ∃ o, f (s.veCtx e) = .ok o ∧ o.second = none ∧ LeavesTile e.sh o P
    let code := Fmt.ofCode (e.xt.toNat % 16)
    let fault : Prop := f (s.veCtx e) = .error ⟨.format, instrWord e.instr⟩
    (F.isInt = false → (floatLane F m 0 0 e.instr).isSome = true → leaves fun k b fl =>
        ∀ srcs P, floatLane F m (veDraw s e k) e.xs.toNat e.instr = some (srcs, P) → P (srcs.map fun a => low F a k) b fl)
      ∧ (∀ d a D, e.instr = .vcvt d a D → leaves fun k b fl => Rounds D m (veDraw s e k) (readNum F (low F a k)) 0 b fl)
      ∧ (∀ d a u x, e.instr = .vqnt d a u x → (code = none → fault) ∧ ∀ D, code = some D → leaves fun k b fl =>
          QuantSpec D m (veDraw s e k) (readNum F (low F a k)) e.xs.toInt b fl)
      ∧ (∀ d a u x, e.instr = .vdq d a u x → (code = none → fault) ∧ ∀ D, code = some D → leaves fun k b fl =>
          Rounds F m (veDraw s e k) ((readNum D (low D a k)).scale e.xs.toInt) 0 b fl)
      ∧ (F.isInt = false → (floatReduce F m 0 e.instr).isSome = true → leaves fun k b fl =>
          ∀ cols a P, floatReduce F m (veDraw s e k) e.instr = some (cols, a, P) → if cols then if k / 64 = 0 then P ((List.range R).map fun r => low F a (64 * r + k)) b fl else b = 0 ∧ fl = 0
            else if k % 64 = 0 then P ((List.range C).map fun c => low F a (k + c)) b fl else b = 0 ∧ fl = 0)
      ∧ (∀ d u x, F.isInt = false → e.instr = .viota d u x → leaves fun k b fl =>
          Rounds F m (veDraw s e k) (.ofInt (if e.xs = 0 then k / 64 else if e.xs = 1 then k % 64 else if e.xs = 2 then k else 0 : Nat))
            0 b fl)
      ∧ ∀ fn a, specialOf e.instr = some (fn, a) → (F ∉ [Fmt.fp32, .bf16, .fp16] → fault)
          ∧ (F ∈ [Fmt.fp32, .bf16, .fp16] → leaves fun k b fl => VsfSpec F fn (readNum F (low F a k)) b fl)

/-- VDOT4, VSMV and VCMP48: a format that R172 does not allow faults 0x37, COLS that is no multiple of 8 0x34, and the first malformed metadata
lane 0x38 with TVAL its linear index, each with nothing written; that 0x37 comes first for VSMV, and that a
quiet NaN beside infinities of both signs sets no NV, are the model's choices (logs 39 and 73). VDOT4
leaves the exact sum of the addend and of four products, VSMV that of the COLS / 2 kept products of each row, wrapped or limited once in
the integer case and rounded once to FP32 in the floating case (R172, R173, R176, R177). VCMP48 leaves the four elements of largest
magnitude of each group of eight, raw, and their positions in its second register (R174, R175). VRNGU leaves 24 random bits as a
fraction and faults 0x37 outside FP32 (R178, R179). -/
def Obligations.VeDots : Prop :=
  ∀ (s : State) (e : VeEntry) (F : Fmt) (f : VeCtx → VeAns), Fmt.ofCode (e.sh.toNat / 2 ^ 16 % 2 ^ 4) = some F → e.instr.ve = some f →
    let m := RM.ofCode e.rm.toNat
    let R := rowsOf e.sh
    let C := colsOf e.sh
    let low (a : VSrc) (r c : Nat) : Nat := srcLane s e a (64 * r + c) % 2 ^ F.width
    let fault (c : Cause) : Prop := f (s.veCtx e) = .error ⟨c, instrWord e.instr⟩
    let leaves (P : Nat → Nat → Nat → Flags → Prop) : Prop := ∃ o, f (s.veCtx e) = .ok o ∧ o.second = none
      ∧ LeavesTile e.sh o fun k => P (k / 64) (k % 64)
    let bad (sat : Bool) : Prop := F = .int32 ∨ (sat = true ∧ F.isInt = false)
    (∀ d a b c g h t, e.instr = .vdot4 d a b c g h t → (bad t → fault .format) ∧ (¬ bad t → leaves fun r q v fl =>
        if (C + 3) / 4 ≤ q then v = 0 ∧ fl = 0
        else if F.isInt then fl = 0 ∧ v = totalBits t (fieldInt .int32 true (srcLane s e c (64 * r + q)) + ((List.range 4).map fun j =>
          if 4 * q + j < C then fieldInt F h (low a r (4 * q + j)) * fieldInt F g (low b r (4 * q + j)) else 0).sum)
        else DotSpec m (veDraw s e (64 * r + q)) ((List.range 4).map fun j =>
          if 4 * q + j < C then (readNum F (low a r (4 * q + j)), readNum F (low b r (4 * q + j))) else (.zero, .zero))
          [readNum .fp32 (srcLane s e c (64 * r + q))] v fl))
      ∧ (∀ d a b c g h t, e.instr = .vsmv d a b c g h t →
          let wrong (k : Nat) : Prop := k / 64 < R ∧ 8 * (k % 64) < C ∧ ¬ metaGood (srcLane s e c k)
          let pos (r n : Nat) : Nat := 8 * (n / 4) + positionAt (srcLane s e c (64 * r + n / 4)) (n % 4)
          (bad t → fault .format) ∧ (¬ bad t → C % 8 ≠ 0 → fault .shape)
            ∧ (¬ bad t → C % 8 = 0 → (∀ k, wrong k → (∀ j, j < k → ¬ wrong j) → f (s.veCtx e) = .error ⟨.sparseMeta, wd k⟩)
              ∧ ((∀ k, ¬ wrong k) → leaves fun r q v fl =>
                  if q ≠ 0 then v = 0 ∧ fl = 0
                  else if F.isInt then fl = 0 ∧ v = totalBits t ((List.range (C / 2)).map fun n =>
                    fieldInt F h (low a r n) * fieldInt F g (low b 0 (pos r n))).sum
                  else DotSpec m (veDraw s e (64 * r)) ((List.range (C / 2)).map fun n =>
                    (readNum F (low a r n), readNum F (low b 0 (pos r n)))) [] v fl)))
      ∧ (∀ d a b g h t, e.instr = .vcmp48 d a b g h t → (C % 8 ≠ 0 → fault .shape)
          ∧ (C % 8 = 0 → ∃ o M, f (s.veCtx e) = .ok o ∧ o.second = some (b, M) ∧ o.flags = 0 ∧ o.x = none
            ∧ (∀ r q, r < R → 8 * q < C → ∃ p : Nat → Nat, p 0 < p 1 ∧ p 1 < p 2 ∧ p 2 < p 3 ∧ p 3 < 8
                ∧ (∀ i j, (∃ n, n < 4 ∧ p n = i) → j < 8 → (∀ n, n < 4 → p n ≠ j) →
                    let x := low a r (8 * q + i)
                    let y := low a r (8 * q + j)
                    outranks F h x y ∨ (¬ outranks F h y x ∧ i < j))
                ∧ (∀ n, n < 4 → ∀ lt : 64 * r + (4 * q + n) < 1024, o.tile[64 * r + (4 * q + n)].toNat = low a r (8 * q + p n))
                ∧ ∀ lt : 64 * r + q < 1024, M[64 * r + q].toNat = p 0 + 8 * p 1 + 64 * p 2 + 512 * p 3)
            ∧ ∀ k, ∀ lt : k < 1024, (¬ (k / 64 < R ∧ 8 * (k % 64 / 4) < C) → o.tile[k] = 0)
              ∧ (¬ (k / 64 < R ∧ 8 * (k % 64) < C) → M[k] = 0)))
      ∧ ∀ d u x y, e.instr = .vrngu d u x y → (F ≠ .fp32 → fault .format) ∧ (F = .fp32 → leaves fun r q v fl => fl = 0
          ∧ v < 2 ^ 31 ∧ (readNum .fp32 v).rat = some (scaled ((gen s.seed e.xs (e.xt + wd (64 * r + q))).toNat / 2 ^ 40 : Nat) (-24)))

/-- VEXP2, VLOG2, VTANH and VSIGM of a finite x ≠ 0: the result and its flags are the rounding to nearest even of the exact value, shown by two
values that enclose it and round alike; where the model's bounds do not settle the rounding, it is that of one of two values that
enclose the exact one and lie within 2^-140 of it (R156; that the model settles no more is its choice, log 20). At every other value
the result is that of R156, as above. -/
def Obligations.SpecialFunctions : Prop :=
  ∀ (s : State) (e : VeEntry) (F : Fmt) (f : VeCtx → VeAns) (fn : Nat) (a : VSrc),
    Fmt.ofCode (e.sh.toNat / 2 ^ 16 % 2 ^ 4) = some F → F ∈ [Fmt.fp32, .bf16, .fp16] → e.instr.ve = some f →
    specialOf e.instr = some (fn, a) → fn ∈ [0, 1, 5, 6] → ∃ o, f (s.veCtx e) = .ok o ∧ LeavesTile e.sh o fun k b fl =>
      VsfSpec F fn (readNum F (srcLane s e a k % 2 ^ F.width)) b fl
        ∧ ∀ x, (readNum F (srcLane s e a k % 2 ^ F.width)).rat = some x → x ≠ 0 → (fn = 1 → 0 < x ∧ x ≠ 1) →
        let is (y : Rat) : Prop := RoundedTo F .rne 0 y b fl
        ∃ p q, p ≠ 0 ∧ q ≠ 0 ∧ Encloses fn x p q ∧ (is p ∧ is q ∨ (q - p ≤ ratMag p * scaled 1 (-140) ∧ (is p ∨ is q)))

/-! ### Vector memory (R162 to R165, R189 to R193, R268) -/

/-- VLD, VLDB and VLDO, one granule a step (the model's choice, logs 40 and 61): under a grant, from a LOAD register with room, aligned,
when every granule is found and no element is held back, the load starts at its granules in rising order; each step moves the next,
and the last one pushes a tile. Lane (r, c) holds the element at x[xb] + r × x[xs] + c elements, for VLDB that of row 0, for VLDO the
representative of the tuple with its sign, 0 where the sign is 0, converted to the lane format; inactive lanes are 0; no flag is set and
nothing else changes (R141, R162, R163, R164, R165, R186, R189, R190).

The faults of the vector accesses that come first: no grant 0x34, a queue register of another role 0x32, each with TVAL the word; a
dense access with a byte out of range 0x17, TVAL the first such granule's address (that it is the granule's is the model's choice, log
40), then a misaligned base, then a misaligned stride, 0x0C (R31, R77, R164, R165; that TVAL is then the stride is the model's choice, log
67). -/
def Obligations.VectorLoads : Prop :=
  (∀ (s : State) (q : Fin 8) (b r : XReg) (m F : Fmt) (pl : Nat → Place) (desc : List Word) (left : List (Nat × Place))
       (got : List (Nat × List Byte)), Fmt.ofCode (s.task.csr.sh.toNat / 2 ^ 16 % 2 ^ 4) = some F →
     let R := rowsOf s.task.csr.sh
     let C := colsOf s.task.csr.sh
     let at_ (i : Instr) (elems : Word → Prop) (ready : Prop) : Prop :=
       (∀ g ∈ left.head?, GranuleSound s m.bytes elems g)
         ∧ ((VmemReady s q .load ∧ s.task.windowBusy = .free ∧ s.task.q[q].tiles.length < 4 ∧ s.task.part = none ∧ got = [] ∧ ready ∧ GranuleList pl elems left
               ∧ ∀ a, elems a → GranuleOpen s .load m.bytes pl a)
             ∨ s.task.part = some { instr := i, desc := desc, left := left, got := got })
     let moves (i : Instr) (v : (Nat → List Byte) → Nat → Nat → Nat) : Prop := Completes i s fun t =>
       LoadStep s t i q desc left got fun bytes T =>
         ∀ x y, x < 16 → y < 64 → ∀ h : 64 * x + y < 1024, T[64 * x + y].toNat = if x < R ∧ y < C then v bytes x y else 0
     let dense (stride : Word) (x y : Nat) : Word := elemAddr m (s.x b) stride x y
     (desc = [] → at_ (.vld q b r m) (fun a => ∃ x y, x < R ∧ y < C ∧ a = dense (s.x r) x y)
           ((s.x b).toNat % m.bytes = 0 ∧ (s.x r).toNat % m.bytes = 0) →
         moves (.vld q b r m) fun bytes x y => converted m F (elemIn m (bytes (dense (s.x r) x y).toNat) (y % 2)))
       ∧ (desc = [] → at_ (.vldb q b m) (fun a => ∃ y, y < C ∧ a = dense 0 0 y) ((s.x b).toNat % m.bytes = 0) →
         moves (.vldb q b m) fun bytes _ y => converted m F (elemIn m (bytes (dense 0 0 y).toNat) (y % 2)))
       ∧ (let D := Desc.ofDwords desc
          let rep (x y : Nat) : Nat × Int × Nat := orbitSpec D (tupleAt (s.x r) x y)
          Desc.valid desc = true → D.rank ≠ 1 →
          (∀ x y, x < R → y < C → ∀ k, k < D.rank → (tupleAt (s.x r) x y).getD k 0 < D.ext k) →
          at_ (.vldo q b r m) (fun a => ∃ x y, x < R ∧ y < C ∧ (rep x y).2.1 ≠ 0 ∧ a = (orbitElem D m (rep x y).1).1)
            (OrbitReady s b m (s.x r) desc D) →
           moves (.vldo q b r m) fun bytes x y =>
             let a := orbitElem D m (rep x y).1
             let v := elemIn m (bytes a.1.toNat) a.2
             if (rep x y).2.1 = 0 then 0 else converted m F (if (rep x y).2.1 < 0 then negateBits m v else v)))
    ∧ (∀ (s : State) (q : Fin 8) (b r : XReg) (m : Fmt), s.task.part = none →
         let word (i : Instr) (c : Cause) : Prop := exec i s = .next (s.fault ⟨c, instrWord i, none⟩)
         let R := rowsOf s.task.csr.sh
         let C := colsOf s.task.csr.sh
         let touched (g : Nat) : Prop := ∃ x y, x < R ∧ y < C ∧ ∃ k, k < m.bytes ∧ g = granule (elemAddr m (s.x b) (s.x r) x y + wd k).toNat
         let out (g : Nat) : Prop := s.task.addrKind (wd g) = .out
         (∀ i ∈ [Instr.vld q b r m, .vldb q b m, .vldo q b r m, .vst q b r m, .vsto q b r m],
             s.task.csr.sh.toNat % 2 ^ 8 = 0 → word i .shape)
           ∧ (s.task.csr.sh.toNat % 2 ^ 8 ≠ 0 →
               (s.task.q[q].role ≠ .load → ∀ i ∈ [Instr.vld q b r m, .vldb q b m, .vldo q b r m], word i .queueRole)
                 ∧ (s.task.q[q].role ≠ .store → ∀ i ∈ [Instr.vst q b r m, .vsto q b r m], word i .queueRole)
                 ∧ ∀ i, ((i = .vld q b r m ∧ s.task.q[q].role = .load) ∨ (i = .vst q b r m ∧ s.task.q[q].role = .store)) →
                     (∀ g, touched g → out g → (∀ h, touched h → out h → g ≤ h) →
                         exec i s = .next (s.fault ⟨.addressRange, wd g, none⟩))
                       ∧ ((∀ g, touched g → ¬ out g) →
                           ((s.x b).toNat % m.bytes ≠ 0 → exec i s = .next (s.fault ⟨.misalignedData, s.x b, none⟩))
                             ∧ ((s.x b).toNat % m.bytes = 0 → (s.x r).toNat % m.bytes ≠ 0 →
                                 exec i s = .next (s.fault ⟨.misalignedData, s.x r, none⟩)))))

/-- VST and VSTO under a grant, into a STORE register, with room in the store address queue: an entry is queued that holds what the store
captured, and the granules of its elements, for VSTO those of the representatives with a sign, take their places one a step, rising; no
byte moves yet. With the last granule the instruction completes (R19, R162, R189, R192, R268). One granule a step is the model's choice
(logs 57 and 61). -/
def Obligations.VectorStores : Prop :=
  ∀ (s : State) (q : Fin 8) (b r : XReg) (m : Fmt) (pl : Nat → Place),
    let R := rowsOf s.task.csr.sh
    let C := colsOf s.task.csr.sh
    let queues (i : Instr) (desc : List Word) (elems : Word → Prop) : Prop :=
      VmemReady s q .store → s.task.storeQ.length < 16 → s.task.part = none → (∀ a, elems a → GranuleOpen s .store m.bytes pl a) →
      Completes i s fun t => ∃ (e : StoreEntry) (gs : List (Nat × Place)), GranuleList pl elems gs
          ∧ t = { s with task := { s.task with storeQ := s.task.storeQ ++ [e], stores := s.task.stores + 1, part := t.task.part
                                               csr := t.task.csr, pc := t.task.pc } }
          ∧ e = { instr := i, addr := s.task.pc, base := s.x b, stride := s.x r, sh := s.task.csr.sh, desc := desc
                  granules := gs.take 1, left := gs.drop 1, num := s.task.stores, issued := s.task.thr.issued, begun := false
                  stopped := false }
          ∧ SameBytes s t
          ∧ if gs.length ≤ 1 then t.task.part = none ∧ Retired s t s.task.csr
            else t.task.part = some { instr := i, desc := [], left := [], got := [] } ∧ t.task.csr = s.task.csr ∧ t.task.pc = s.task.pc
    ((s.x b).toNat % m.bytes = 0 → (s.x r).toNat % m.bytes = 0 →
        queues (.vst q b r m) [] fun a => ∃ x y, x < R ∧ y < C ∧ a = elemAddr m (s.x b) (s.x r) x y)
      ∧ (∀ ws D, OrbitReady s b m (s.x r) ws D →
          let rep (x y : Nat) : Nat × Int × Nat := orbitSpec D (tupleAt (s.x r) x y)
          queues (.vsto q b r m) ws fun a => ∃ x y, x < R ∧ y < C ∧ (rep x y).2.1 ≠ 0 ∧ a = (orbitElem D m (rep x y).1).1)
      ∧ ∀ (front : List StoreEntry) (e : StoreEntry) (g : Nat × Place) (rest : List (Nat × Place)),
          s.task.part.isSome = true → s.task.storeQ = front ++ [e] → e.left = g :: rest →
          ∀ i ∈ [Instr.vst q b r m, .vsto q b r m], Completes i s fun t =>
            t = { s with task := { s.task with
              storeQ := front ++ [{ e with granules := e.granules ++ [g], left := rest }]
              part := if rest = [] then none else s.task.part, csr := t.task.csr, pc := t.task.pc } }
            ∧ SameBytes s t
            ∧ if rest = [] then Retired s t s.task.csr else t.task.csr = s.task.csr ∧ t.task.pc = s.task.pc

/-- A step of the store side whose first entry has its tile (R19, R162, R164, R165, R192, R193, R268). A VSTO under FAULT with a non-zero value
at a position of sign 0 writes nothing: it stops, and 0x3A is pending with the packed index of the first such element and SB as it was.

Else the next granule that the entry still reserves, in the order of its elements, is written as one: the nibbles that elements cover
take them, converted, the last one winning, and every other nibble reads as before. SB is set with the first granule, before any byte
(R192). With the last granule, none being left to reserve, the entry and its tile go. A granule in a stack that cannot be written stops
the entry with 0x70. (What a granule adds to a Cellar's snapshot whose event it precedes is not said here.)

One granule a step is the model's choice (logs 40 and 61). -/
def Obligations.StorePairing : Prop :=
  ∀ (s : State) (e : StoreEntry) (q : Fin 8) (m F : Fmt) (T : Tile) (rest : List Tile) (later : List StoreEntry),
    s.wf = true → s.running = true → s.task.pend.ve = none → s.task.storeQ = e :: later → e.stopped = false →
    e.instr.memQ = some q → s.task.q[q].tiles = T :: rest → Fmt.ofCode (e.sh.toNat / 2 ^ 16 % 2 ^ 4) = some F →
    let D := Desc.ofDwords e.desc
    let v (k : Nat) : Nat := converted F m (T.toList.getD k 0).toNat
    let rep (k : Nat) : Nat × Int × Nat := orbitSpec D (tupleAt e.stride (k / 64) (k % 64))
    let breaks (k : Nat) : Prop := isActive e.sh k ∧ (rep k).2.1 = 0 ∧ isZeroBits m (v k) = false
    let stops (s : State) (u : State) (x : StoreEntry) (c : Cause) (tval : Word) : Prop := u = { s with task := { s.task with
      storeQ := { x with stopped := true } :: later
      pend := { s.task.pend with ve := some ⟨c, tval⟩, veAt := e.addr } } }
    ((∃ b r, e.instr = .vst q b r m ∧ e.base.toNat % m.bytes = 0 ∧ e.stride.toNat % m.bytes = 0)
      ∨ ∃ b r, e.instr = .vsto q b r m ∧ Desc.valid e.desc = true ∧ D.rank ≠ 1 ∧ D.base.toNat % m.bytes = 0
        ∧ ∀ k, isActive e.sh k → ∀ l, l < D.rank → (tupleAt e.stride (k / 64) (k % 64)).getD l 0 < D.ext l) →
      (∀ k, e.isVsto = true → D.policy = 0 → breaks k → (∀ l, l < k → ¬ breaks l) →
          stops s s.storeStep e .symmetryBreak (packIndex (tupleAt e.stride (k / 64) (k % 64))))
      ∧ ∀ ws sb, StoreWrites e F m T ws sb → (e.isVsto = true → D.policy = 0 → ∀ k, ¬ breaks k) →
          let csr := if e.begun = false ∧ sb = true then { s.task.csr with status := s.task.csr.status ||| 0x20 } else s.task.csr
          ∀ g p w, ws.find? (fun w => (e.placeAt (granule w.1.toNat)).isSome) = some w → granule w.1.toNat = g → e.placeAt g = some p →
            p.key.2 % 64 = 0 → s.ownView p → s.owedTo e p = none → s.rootFull s.task.id.world p = false →
            (∀ o, p = .loft o → s.task.id.unfilled.contains (o / 0x10000) = false) →
            s.targetCheck (s.who false) .store (wd g) p = .ok () →
              (s.lineCheck (s.who false) .store (wd g) 64 p = .ok () →
                let t := s.storeStep
                let left := e.granules.filter (·.1 ≠ g)
                t = { s with
                  task := { s.task with
                    storeQ := if left = [] ∧ e.left = [] then later else { e with begun := true, granules := left } :: later
                    q := if left = [] ∧ e.left = [] then s.task.q.set q { s.task.q[q] with tiles := rest } else s.task.q
                    thr := { s.task.thr with latch := t.task.thr.latch }
                    csr := csr, loft := t.task.loft, badLoft := t.task.badLoft, loftPages := t.task.loftPages }
                  mem := t.mem, host := t.host, peer := t.peer, badLines := t.badLines, dirty := t.dirty, worlds := t.worlds
                  parts := t.parts }
                ∧ CellarsOnly s t ∧ LatchKept s t
                ∧ (∀ o h, o < 64 → h < 2 → match nibbleFrom m ws (2 * (g + o) + h) with
                    | some x => t.nibble (p.add o) h = x
                    | none => ¬ s.inReserve (p.add o) → t.nibble (p.add o) h = s.nibble (p.add o) h)
                ∧ ∀ x, ¬ x.among p 64 → ¬ s.inReserve x → t.sees x 1 = s.sees x 1)
              ∧ (s.lineCheck (s.who false) .store (wd g) 64 p = .fail .uncorrectable (wd g) →
                  stops { s with task := { s.task with csr := csr } } s.storeStep { e with begun := true } .uncorrectable (wd g))

/-! ### Engines at work (R204 to R211, R254 to R260) -/

/-- The start of an engine's head command (R206): past STAMP plus the captured slack it faults 0x44 with TVAL its record's address, and
the engine stops; before STAMP, or while the phase it waits for has not come, nothing changes; else it starts. The step STAMP_OVERRUN
does the first and else nothing. A started Thresher command waits with its first step while an earlier vector store to its loft bytes or an
earlier VE read of a tile it writes is left (R215, R216). That the head command's phases are steps of their own is the model's choice
(log 61). -/
def Obligations.EngineStarts : Prop :=
  (∀ (i : Instr) (s : State) (kind : Nat) (c : ThrCmd) (rest : List ThrCmd), thrStepSpec i = some kind → s.running = true →
     s.dev.limiting = false → s.task.thr.halted = false → s.task.thr.cmds = c :: rest → c.started = false →
     (c.record.getD 0 0).toNat % 2 ^ 8 = kind →
       let q := startSpec s c.record ((c.record.getD 0 0).getLsbD 17) c.stampDone c.dslack
       let late := { s with task := { s.task with
         thr := { s.task.thr with cmds := { c with descs := none } :: rest, halted := true }
         pend := { s.task.pend with thresher := some ⟨.stampOverrun, c.addr⟩ } } }
       (q.overrun → exec i s = .next late ∧ exec (.stampOverrun 0) s = .next late)
         ∧ (¬ q.overrun → ¬ q.mayStart → exec i s = .next s)
         ∧ (¬ q.overrun → exec (.stampOverrun 0) s = .next s)
         ∧ (q.mayStart → exec i s = .next { s with
             task := { s.task with thr := { s.task.thr with cmds := { c with started := true } :: rest } } }))
    ∧ (∀ (i : Instr) (s : State) (kind : Nat) (c : ThrCmd) (rest : List ThrCmd), thrStepSpec i = some kind → s.running = true →
         s.dev.limiting = false → s.task.thr.halted = false → s.task.thr.cmds = c :: rest → c.started = true → c.descs = none →
         c.point < (thrWalk c.record).prod → (c.record.getD 0 0).toNat % 2 ^ 8 = kind →
           ((∃ e ∈ s.task.veQ, e.issued < c.ordinal ∧ ∃ a ∈ e.instr.readsAcc, a ∈ thrTiles c.record) → exec i s = .next s)
             ∧ ((∃ e ∈ s.task.storeQ, e.issued < c.ordinal ∧ ∃ g ∈ e.granules, ∃ o, g.2 = .loft o
                  ∧ (thrReads (fun _ => some []) c.record o = true ∨ thrWrites (fun _ => some []) c.record o = true)) →
                  (∀ n, n < 4 → thrDesc c.record n = false) → exec i s = .next s)
             ∧ (s.task.storeQ = [] → s.task.dispatched = [] → (∀ n, n < 4 → thrDesc c.record n = false) →
                  exec i s = .next { s with task := { s.task with
                    thr := { s.task.thr with cmds := { c with descs := some [[], [], [], []] } :: rest } } }))
    ∧ (∀ (i : Instr) (s : State) (k : Fin 4) (kind : Nat) (c : CopyCmd) (rest : List CopyCmd), copyStepSpec i = some (k, kind) →
         s.running = true → s.task.ch[k].halted = false → s.task.ch[k].cmds = c :: rest → c.started = false →
         (c.record.getD 0 0).toNat % 2 ^ 8 = kind →
           let q := startSpec s c.record ((c.record.getD 0 0).getLsbD 14) c.stampDone c.dslack
           let late := { s with task := { s.task with
             ch := s.task.ch.set k { s.task.ch[k] with halted := true }
             pend := { s.task.pend with ch := s.task.pend.ch.set k (some ⟨.stampOverrun, c.addr⟩) } } }
           (q.overrun → exec i s = .next late ∧ ∀ e : Fin 5, e.val = k.val + 1 → exec (.stampOverrun e) s = .next late)
             ∧ (¬ q.overrun → ¬ q.mayStart → exec i s = .next s)
             ∧ (¬ q.overrun → ∀ e : Fin 5, e.val = k.val + 1 → exec (.stampOverrun e) s = .next s)
             ∧ (q.mayStart → exec i s = .next { s with task := { s.task with
                 ch := s.task.ch.set k { s.task.ch[k] with cmds := { c with started := true, w0 := s.task.ch[k].wp } :: rest } } }))
    ∧ ∀ (i : Instr) (s : State),
        (∀ kind, thrStepSpec i = some kind → (∀ c rest, s.task.thr.cmds = c :: rest → thrKind c.record ≠ kind) → exec i s = .next s)
          ∧ ∀ k kind, copyStepSpec i = some (k, kind) → (∀ c rest, s.task.ch[k].cmds = c :: rest → copyKind c.record ≠ kind) →
              exec i s = .next s

/-- A nest point of the Thresher's head command, with every loft page in place (R204, R206 to R214). One nest point a step is the model's
choice (log 61).

LOADACC: accumulator (c0 + row, n) takes element n of loft row `row`, scaled and rounded once, and the rows' class bits the class of the
format. DRAIN: the loft rows take the accumulators, read by their class bits, scaled and rounded once into DRAIN_FMT (rows that do not
overlap), or with the C bit the representatives of C take them by the rule of R192; an origin beyond the extents faults 0x3C, and under
FAULT a non-zero value at sign 0 faults 0x3A, before anything is written (which of them comes before 0x17 is the model's choice, log 68, and so is the TVAL of an origin past
65,535, log 67). TOPK: per row the column numbers, then the lanes, of the
first k columns in rank order, equal ones by the lower column.

MMA and DIST, dense or through descriptors: the contraction positions, with ORB the orbits with their multiplicities, go in runs of 16.
Each run's exact sum is added to the lane, or stands alone in the first run of a fresh step, and is taken once: modulo 2^32, saturated
under SAT, or rounded to FP32. A step that ASSERT puts off the stored half leaves every row. Every other lane, class bit and loft byte
stays. -/
def Obligations.ThresherResults : Prop :=
  ∀ (i : Instr) (s : State) (c : ThrCmd) (rest : List ThrCmd) (kind : Nat), thrStepSpec i = some kind → ThrReady s c rest kind →
    s.wf = true →
    let r := c.record
    let c0 := rowAt r c.point
    let L := loftAt r c.point
    let f := (Fmt.ofCode (thrDrainFmt r)).getD .fp32
    let m := RM.ofCode ((r.getD 11 0).toNat / 2 ^ 32 % 8)
    let lane (s : State) (row n : Nat) : Nat := (s.task.thr.acc.toList.getD (64 * row + n) 0).toNat
    let cls (s : State) (row : Nat) : Bool := s.task.thr.cls.getLsbD row
    let drained (row n : Nat) : Nat := (roundTo f m (thrDrawSpec s c row n)
      ((readNum (if cls s (c0 + row) then .int32 else .fp32) (lane s (c0 + row) n)).scale (thrScale r 24))).1
    let rows (t : State) (int : Bool) (v : Nat → Nat → Nat → Prop) : Prop := ∀ row, row < 256 →
      (cls t row = if c0 ≤ row ∧ row < c0 + 64 then int else cls s row)
        ∧ ∀ n, n < 64 → if c0 ≤ row ∧ row < c0 + 64 then v (row - c0) n (lane t row n) else lane t row n = lane s row n
    let onlyLoft (t : State) : Prop := t = { s with task := { s.task with
      thr := { s.task.thr with cmds := t.task.thr.cmds, done := t.task.thr.done, latch := t.task.thr.latch }, stooks := t.task.stooks
      csr := t.task.csr, loft := t.task.loft, loftPages := t.task.loftPages } } ∧ LatchKept s t
    let faults (cause : Cause) (tval : Word) : State := { s with task := { s.task with
      thr := { s.task.thr with cmds := { c with descs := none } :: rest, halted := true }
      pend := { s.task.pend with thresher := some ⟨cause, tval⟩ } } }
    (kind = 4 → (Fmt.ofCode (thrDrainFmt r)).isSome = true → Completes i s fun t => ThrMoved s t c rest
        ∧ t = { s with task := { s.task with thr := t.task.thr, stooks := t.task.stooks } } ∧ t.task.thr.latch = s.task.thr.latch
        ∧ rows t f.isInt fun row n v => v = (roundTo (if f.isInt then .int32 else .fp32) m (thrDrawSpec s c row n)
            ((readNum f (loftElem s.task.loft f (L + row * thrPitch r) n)).scale (thrScale r 24))).1)
      ∧ (kind = 3 → c.desc 2 = none → 8 * f.width ≤ thrPitch r → (Fmt.ofCode (thrDrainFmt r)).isSome = true → Completes i s fun t =>
          ThrMoved s t c rest ∧ onlyLoft t ∧ t.task.csr = s.task.csr
          ∧ (∀ row n, row < 64 → n < 64 → loftElem t.task.loft f (L + row * thrPitch r) n = drained row n)
          ∧ ∀ o, (∀ row, row < 64 → o < L + row * thrPitch r ∨ L + row * thrPitch r + 8 * f.width ≤ o) →
              t.task.loft.get o = s.task.loft.get o)
      ∧ (kind = 3 → (Fmt.ofCode (thrDrainFmt r)).isSome = true → ∀ D, c.desc 2 = some D → D.rank = 2 → D.base.toNat % f.bytes = 0 →
          let is := indexAt (thrWalk r) c.point
          let tup (k : Nat) : List Nat := [64 * blockOf r (thrPitch r) 2 is 0 + k / 64, 64 * blockOf r (thrPitch r) 2 is 1 + k % 64, 0, 0]
          let inside (k : Nat) : Prop := k < 4096 ∧ (tup k).getD 0 0 < D.ext 0 ∧ (tup k).getD 1 0 < D.ext 1
          let v (k : Nat) : Nat := drained (k / 64) (k % 64)
          let breaks (k : Nat) : Prop := inside k ∧ (orbitSpec D (tup k)).2.1 = 0 ∧ isZeroBits f (v k) = false
          (¬ inside 0 → exec i s = .next (faults .orbitIndex (packIndex (tup 0))))
            ∧ (∀ k, inside 0 → D.policy = 0 → breaks k → (∀ l, l < k → ¬ breaks l) →
                exec i s = .next (faults .symmetryBreak (packIndex (tup k))))
            ∧ ∀ ps sb, inside 0 → (D.policy = 0 → ∀ k, ¬ breaks k) → Pending192 f inside (fun k => orbitSpec D (tup k)) v ps sb →
                (∀ p ∈ ps, repInLoft s.task D f p.1) → Completes i s fun t => ThrMoved s t c rest ∧ onlyLoft t
                  ∧ t.task.csr = (if sb = true then { s.task.csr with status := s.task.csr.status ||| 0x20 } else s.task.csr)
                  ∧ ∀ o h, h < 2 → (t.task.loft.get o).toNat / 16 ^ h % 16
                      = (nibbleFrom f (ps.map fun p => (wd ((loftOf s.task (orbitElem D f p.1).1).getD 0), (orbitElem D f p.1).2, p.2))
                          (2 * o + h)).getD ((s.task.loft.get o).toNat / 16 ^ h % 16))
      ∧ (kind = 2 → Completes i s fun t => ThrMoved s t c rest ∧ onlyLoft t ∧ t.task.csr = s.task.csr
          ∧ (∀ row j, row < 64 → j < 64 → j < thrTopK r → ∃ n, n < 64
              ∧ leValue (t.task.loft.getBytes (L + 2 * (row * min 64 (thrTopK r) + j)) 2) = n
              ∧ leValue (t.task.loft.getBytes (L + 128 * min 64 (thrTopK r) + 4 * (row * min 64 (thrTopK r) + j)) 4) = lane s (c0 + row) n
              ∧ ((List.range 64).filter fun k =>
                  let key (x : Nat) : Int := rankKey (cls s (c0 + row)) (lane s (c0 + row) x)
                  if (r.getD 0 0).getLsbD 18 then decide (key n < key k ∨ (key k = key n ∧ k < n))
                  else decide (key k < key n ∨ (key k = key n ∧ k < n))).length = j)
          ∧ ∀ o, (o < L ∨ L + 384 * min 64 (thrTopK r) ≤ o) → t.task.loft.get o = s.task.loft.get o)
      ∧ (kind < 2 →
          let fa := (Fmt.ofCode (opndFmt r 0)).getD .bf16
          let fb := (Fmt.ofCode (opndFmt r 1)).getD .bf16
          let is (p : Nat) : Nat → Nat := stepIndex r c.point (p / 64)
          let a (row p : Nat) : Nat := opndElem s r 0 fa (c.desc 0) (is p) row (p % 64)
          let b (p n : Nat) : Nat :=
            if (r.getD 0 0).getLsbD 12 then opndElem s r 1 fb (c.desc 1) (is p) n (p % 64) else opndElem s r 1 fb (c.desc 1) (is p) (p % 64) n
          let zero : Prop := (r.getD 0 0).getLsbD 8 = true ∧ indexAt (thrWalk r) c.point (thrZk r) = 0
          (Fmt.ofCode (opndFmt r 0)).isSome = true → (Fmt.ofCode (opndFmt r 1)).isSome = true →
          (offStored c (indexAt (thrWalk r) c.point) → Completes i s fun t =>
            ThrMoved s t c rest ∧ t.task.thr.acc = s.task.thr.acc ∧ t.task.thr.cls = s.task.thr.cls
              ∧ t = { s with task := { s.task with thr := t.task.thr, stooks := t.task.stooks } })
          ∧ ∀ ps, Positions r (c.desc 3) ps → ¬ offStored c (indexAt (thrWalk r) c.point) →
            (∀ p ∈ ps, OpndReady s r 0 fa (c.desc 0) (is p.1) ∧ OpndReady s r 1 fb (c.desc 1) (is p.1)) → Completes i s fun t =>
            ThrMoved s t c rest ∧ t = { s with task := { s.task with thr := t.task.thr, stooks := t.task.stooks } }
            ∧ (fa.isInt = true → fb.isInt = true → thrClass (opndFmt r 0) = 2 →
                rows t true fun row n v => ∃ u : Nat → Nat, u 0 = lane s (c0 + row) n ∧ u ((ps.length + 15) / 16) = v ∧
                  ∀ q, q < (ps.length + 15) / 16 →
                    let term (p : Nat × Nat) : Int := p.2
                      * (if kind = 0 then intOf fa (a row p.1) * intOf fb (b p.1 n) else (intOf fa (a row p.1) - intOf fb (b p.1 n)) ^ 2)
                    let w := (if q = 0 ∧ zero then 0 else signedLane (u q)) + (((ps.drop (16 * q)).take 16).map term).sum
                    (u (q + 1) : Int) = (if (r.getD 0 0).getLsbD 9 then max (-2 ^ 31) (min (2 ^ 31 - 1) w) else w) % 2 ^ 32)
            ∧ (fa.isInt = false → fb.isInt = false → rows t false fun row n v =>
                ∃ u : Nat → Nat, u 0 = lane s (c0 + row) n ∧ u ((ps.length + 15) / 16) = v ∧
                  ∀ q, q < (ps.length + 15) / 16 → ∀ (x y : Nat → Rat) (w : Rat),
                  (∀ p ∈ (ps.drop (16 * q)).take 16,
                    ((readNum fa (a row p.1)).scale (thrScale r 8)).rat = some (x p.1)
                      ∧ ((readNum fb (b p.1 n)).scale (thrScale r 16)).rat = some (y p.1)) →
                  (if q = 0 ∧ zero then w = 0 else (ff32.decode (u q)).rat = some w) →
                    ∃ N, Num.rat N = some (w + (((ps.drop (16 * q)).take 16).map fun p =>
                        (p.2 : Rat) * if kind = 0 then x p.1 * y p.1 else (x p.1 - y p.1) ^ 2).sum)
                      ∧ u (q + 1) = (ff32.round .rne 0 N).1))

/-- A step of a copy channel whose head command has started, with elements of whole bytes and every access going through at once: it
delivers m ≥ 1 of the next elements (one granule event, R270), each copied, filled, gathered, scattered, packed or unpacked as R255
says and converted as R254 says; the write pointer counts the bytes, the CRC takes them in order, BYTES adds 256 for each multiple of
256 passed, and no other byte changes but those of a Cellar's reserve (R258 to R260, R414). Elements that are written do not overlap
here.

After the last element the command completes: the CRC is written if the record asks for it, the channel's number and its signals are
given, with REL the last 256 bytes of BYTES among them (R257, R259, R260). PACKO and UNPACKO read their descriptor first; an invalid one
faults 0x3B (R255, R261). How much a step delivers, and the order of its accesses, are the model's choice (logs 40, 41 and 61). -/
def Obligations.CopyResults : Prop :=
  ∀ (i : Instr) (s : State) (k : Fin 4) (kind : Nat) (c : CopyCmd) (rest : List CopyCmd) (pl : Nat → Place),
    copyStepSpec i = some (k, kind) → CopyReady s k c rest kind → s.wf = true →
    let r := c.record
    let d0 := (r.getD 0 0).toNat
    let total := (copyCounts r).prod
    let n := copyBytes r true
    let ch := s.task.ch[k]
    let others (t : State) : Prop := ∀ l : Fin 4, l ≠ k → t.task.ch[l] = s.task.ch[l]
    (∀ D : Desc, (4 ≤ kind → ∃ ws, c.desc = some ws ∧ Desc.valid ws = true ∧ D = Desc.ofDwords ws) →
        let dest := copyTo s r D pl
        c.pos < total → 1 ≤ copyBytes r false → 1 ≤ n → CellarRoom s 2 →
        (∀ j, c.pos ≤ j → j < total →
          (kind = 2 ∨ kind = 3 → EngineBytes s c.sup c.after false pl ((r.getD 9 0).toNat + 4 * j) 4)
            ∧ (∀ a, copyFrom s r D pl j = some a → 0 ≤ a ∧ EngineBytes s c.sup c.after false pl a.toNat (copyBytes r false))
            ∧ ∀ a, dest j = some a → 0 ≤ a ∧ EngineBytes s c.sup c.after true pl a.toNat n) →
        (∀ j l a b u v, c.pos ≤ j → j < total → c.pos ≤ l → l < total → dest j = some a → dest l = some b → u < n → v < n →
          (j, u) ≠ (l, v) → (pl (a.toNat + u)).key ≠ (pl (b.toNat + v)).key) →
        (∀ j l a b u v, dest j = some a → dest l = some b → u < n → v < n → (a.toNat + u) / 64 = (b.toNat + v) / 64 →
          (pl (a.toNat + u)).granule = (pl (b.toNat + v)).granule) →
          Completes i s fun t => ∃ m, 1 ≤ m ∧ c.pos + m ≤ total ∧
            let js := (List.range m).filterMap fun d => (dest (c.pos + d)).map fun a => (a.toNat, copyBits s c D pl (c.pos + d))
            let before := (ch.wp - c.w0).toNat
            let after := before + n * js.length
            let last : Prop := d0 / 2 ^ 11 % 2 = 1 ∧ ∀ j, c.pos + m ≤ j → j < total → dest j = none
            let adds := (open Classical in if last then after - 1 else after) / 256 - before / 256
            OnlyCopied s t ∧ others t
              ∧ (∀ j : Fin 16, if d0 / 2 ^ 8 % 2 = 1 ∧ adds ≠ 0 ∧ (r.getD 1 0).toNat / 2 ^ 16 % 16 = j.val
                  then Signalled s.task.stooks[j] t.task.stooks[j] (256 * adds) else t.task.stooks[j] = s.task.stooks[j])
              ∧ t.task.ch[k] = { ch with
                  wp := ch.wp + wd (n * js.length)
                  cmds := { c with pos := c.pos + m, crc := crcBytes c.crc (js.flatMap fun q => leBytes n q.2) } :: rest }
              ∧ (∀ q ∈ js, (∀ u, u < n → ¬ s.inReserve (pl (q.1 + u))) → t.seenAt pl q.1 n = q.2)
              ∧ ∀ p, (∀ q ∈ js, ∀ u, u < n → p.key ≠ (pl (q.1 + u)).key) → ¬ s.inReserve p → t.sees p 1 = s.sees p 1)
      ∧ (total ≤ c.pos → (4 ≤ kind → c.desc.isSome = true) →
          (d0 / 2 ^ 11 % 2 = 1 → d0 / 2 ^ 12 % 4 = 3 → ∀ e ∈ s.task.storeQ, e.num < c.after → ¬ e.toWindow) →
          (d0 / 2 ^ 9 % 2 = 1 → CellarRoom s 2 ∧ EngineBytes s c.sup c.after true pl (r.getD 10 0).toNat 4
            ∧ ∀ u v, u < 4 → v < 4 → u ≠ v → (pl ((r.getD 10 0).toNat + u)).key ≠ (pl ((r.getD 10 0).toNat + v)).key) →
            Completes i s fun t => OnlyCopied s t ∧ others t ∧ t.task.ch[k] = { ch with cmds := rest, done := c.ordinal }
              ∧ (d0 / 2 ^ 8 % 2 = 0 → RecordSignalled s t r)
              ∧ (d0 / 2 ^ 8 % 2 = 1 → let D := (ch.wp - c.w0).toNat
                  let left := if D % 256 = 0 ∧ D ≠ 0 ∧ d0 / 2 ^ 11 % 2 = 1 then 256 else D % 256
                  ∀ j : Fin 16, if left ≠ 0 ∧ (r.getD 1 0).toNat / 2 ^ 16 % 16 = j.val
                    then Signalled s.task.stooks[j] t.task.stooks[j] left else t.task.stooks[j] = s.task.stooks[j])
              ∧ (d0 / 2 ^ 9 % 2 = 0 → SameBytes s t)
              ∧ (d0 / 2 ^ 9 % 2 = 1 → t.seenAt pl (r.getD 10 0).toNat 4 = (~~~ c.crc).toNat
                  ∧ ∀ p, (∀ u, u < 4 → p.key ≠ (pl ((r.getD 10 0).toNat + u)).key) → ¬ s.inReserve p → t.sees p 1 = s.sees p 1))
      ∧ (4 ≤ kind → c.desc = none → EngineBytes s c.sup c.after false pl (r.getD 9 0).toNat 32 →
          let ws := (List.range 4).map fun j => wd (s.seenAt pl ((r.getD 9 0).toNat + 8 * j) 8)
          let D := Desc.ofDwords ws
          let ext := if D.rank = 1 then [D.ext 0, 0, 0, 0] else [D.ext 1, D.ext 0, D.ext 2, D.ext 3]
          let good := Desc.valid ws = true ∧ copyCounts r = ext.map (max 1) ∧ D.fmt = if kind = 4 then copyDfmt r else copySfmt r
          (good → exec i s = .next { s with task := { s.task with
              ch := s.task.ch.set k { ch with cmds := { c with desc := some ws } :: rest } } })
            ∧ (¬ good → exec i s = .next { s with task := { s.task with
                ch := s.task.ch.set k { ch with cmds := c :: rest, halted := true }
                pend := { s.task.pend with ch := s.task.pend.ch.set k (some ⟨.orbitInvalid, r.getD 9 0⟩) } } }))

/-- A collective command of the running task, its group valid and its buffers apart, that waits for nothing more (R284 to R288, R290, R291).
It starts once. While a member's matched command is missing, nothing else happens; when one does not agree, it faults 0x4C with TVAL
its record, and nothing is written.

When all agree, the receive buffer takes what R285 says: for a reduction the fold of R286 in its fixed order, its inputs winnowed at the
levels the command names, and then the chaff elements this member owns take the losses. No other byte changes but those of a Cellar's
reserve, the signal is given and the command leaves the unit. Accesses go through at once here, and the bytes
written lie apart.

Once it has waited TMO without progress, a step of its kind or COLLECTIVE_TIMEOUT faults it 0x4D, removes it and breaks the group for this
member; before that COLLECTIVE_TIMEOUT does nothing. Its own receive and owned chaff bytes are then unknown, and every other byte, its
send buffer among them, reads as before (R290). That TMO counts 2,700,000 die cycles a millisecond is log 35, that of a REDUCESCATTER the
reduced vector has N × COUNT elements log 11, what is unknown of an ALLREDUCE in place log 12; that a command moves its data in one step
is the model's choice (log 61). -/
def Obligations.Collectives : Prop :=
  ∀ (i : Instr) (s : State) (kind : Nat) (group : BitVec 32) (peers : List PeerCmd) (c : CollCmd) (l1 l2 : List CollCmd) (g : Group)
    (P : Nat → PeerCmd) (pl : Nat → Place),
    collStepSpec i = some (kind, group, peers) → CollFirst s c l1 l2 → collKind c.record = kind → collGroup c.record = group.toNat →
    s.wf = true →
    let r := c.record
    let b := collSize r
    let recv := (r.getD 3 0).toNat
    let chaff := (r.getD 5 0).toNat
    let n := if kind = 4 then 0 else if kind = 2 then g.n * collCount r else collCount r
    let c1 := { c with group := some g, since := if c.group = none then s.dev.cycle else c.since }
    let others (j : Nat) : Prop := if 4 ≤ kind then j = collPeer r else j < g.n ∧ j ≠ g.me
    let failed (cause : Cause) : State := { s with
      task := { s.task with pend := { s.task.pend with coll := s.task.pend.coll ++ [⟨cause, c.addr⟩] } }
      coll := { s.coll with cmds := l1 ++ l2, broken := s.coll.broken ++ [(c.part.val, collGroup r)] } }
    let gone (cause : Cause) (t : State) : Prop := CellarsOnly s t ∧ LatchKept s t ∧ t = { failed cause with
      task := { (failed cause).task with
        thr := { s.task.thr with latch := t.task.thr.latch }
        loft := t.task.loft, badLoft := t.task.badLoft, loftPages := t.task.loftPages, id := t.task.id }
      fresh := t.fresh, mem := t.mem, host := t.host, peer := t.peer, badLines := t.badLines, dirty := t.dirty, worlds := t.worlds
      parts := t.parts }
      ∧ ((∀ a, collSpoils r g a → a < 2 ^ 64 ∧ EngineBytes s c.sup c.after true pl a 1) →
          ∀ p, (∀ a, collSpoils r g a → p.key ≠ (pl a).key) → ¬ s.inReserve p → t.sees p 1 = s.sees p 1)
    let released : Prop := (r.getD 0 0).toNat / 2 ^ 15 % 2 = 1 → ∀ e ∈ s.task.storeQ, e.num < c.after → ¬ e.toWindow
    (CollOpen s c g →
        ((∃ j, others j ∧ matchOf r g peers j = none) → exec i s = .next { s with coll := { s.coll with cmds := l1 ++ c1 :: l2 } })
      ∧ (¬ released → exec i s = .next { s with coll := { s.coll with cmds := l1 ++ c1 :: l2 } })
      ∧ (released → CollMatched r g peers P → (∃ j, others j ∧ ¬ CollAgrees r (P j)) → exec i s = .next (failed .collectiveInvalid))
      ∧ (released → CollMatched r g peers P → (∀ j, others j → CollAgrees r (P j)) →
          CellarRoom s (b * n + chaffBytes r g) → (∀ l, l < 3 → winnowed r l = true → kind < 2) → (∀ x y, x / 64 = y / 64 → (pl x).granule = (pl y).granule) →
          EngineBytes s c.sup c.after false pl (r.getD 2 0).toNat (if kind = 3 ∧ collPeer r ≠ g.me then 0 else b * collSends r g) →
          EngineBytes s c.sup c.after true pl recv (b * n) → recv + b * n ≤ 2 ^ 64 →
          (∀ lvl e, ownsChaff r g lvl e → ∀ write, EngineBytes s c.sup c.after write pl (chaff + chaffSpec r g lvl e) 4) →
          chaff + chaffBytes r g ≤ 2 ^ 64 →
          (∀ u v, u < b * n → v < b * n → u ≠ v → (pl (recv + u)).key ≠ (pl (recv + v)).key) →
          (∀ u v, u < chaffBytes r g → v < chaffBytes r g → u ≠ v → (pl (chaff + u)).key ≠ (pl (chaff + v)).key) →
          (∀ u v, u < b * n → v < chaffBytes r g → (pl (recv + u)).key ≠ (pl (chaff + v)).key) →
            Completes i s fun t =>
              t = { s with
                task := { s.task with
                  stooks := t.task.stooks, loft := t.task.loft, badLoft := t.task.badLoft, loftPages := t.task.loftPages
                  thr := { s.task.thr with latch := t.task.thr.latch } }
                mem := t.mem, host := t.host, peer := t.peer, badLines := t.badLines, dirty := t.dirty, worlds := t.worlds
                parts := t.parts, coll := { s.coll with cmds := l1 ++ l2 } }
              ∧ CellarsOnly s t ∧ LatchKept s t ∧ RecordSignalled s t r
              ∧ (∃ res new, (kind < 2 → Reduces r g (collSent s r g P pl) (chaffAt s r g P pl) res new)
                  ∧ (∀ e, e < n → (∀ u, u < b → ¬ s.inReserve (pl (recv + b * e + u))) →
                      t.seenAt pl (recv + b * e) b = collReceived s r g P pl res e)
                  ∧ ∀ lvl e, ownsChaff r g lvl e → t.seenAt pl (chaff + chaffSpec r g lvl e) 4 = new lvl e)
              ∧ ∀ p, (∀ u, u < b * n → p.key ≠ (pl (recv + u)).key) →
                  (∀ lvl e u, ownsChaff r g lvl e → u < 4 → p.key ≠ (pl (chaff + chaffSpec r g lvl e + u)).key) →
                  ¬ s.inReserve p → t.sees p 1 = s.sees p 1))
      ∧ ((∀ e ∈ l1 ++ l2, collGroup e.record ≠ collGroup r) →
          (c.group = none ∨ c.group = some g ∧ s.dev.cycle - c.since < g.tmo * 2700000 → exec (.collectiveTimeout group) s = .next s)
            ∧ (c.group = some g → g.tmo * 2700000 ≤ s.dev.cycle - c.since →
                Completes i s (gone .collectiveTimeout) ∧ Completes (.collectiveTimeout group) s (gone .collectiveTimeout)))

/-- One attempt of a Bale chunk (R330 to R336, R338). When its table entry, header and body pass, the chunk's bytes join the input: whole
tiles are pushed in element order while the queue has room, the last one completed with zeros; the elements that are not pushed
stay, and the next chunk is tried afresh.

A failed attempt counts, twice from the source and then from the replica, if there is one; after the last the stream faults 0x48, and
a chunk past its rate bound faults 0x49 at once, each with TVAL the chunk's index. A table entry whose address is not a multiple of 8
faults 0x45 with TVAL the address (R336). Once the input is used up with no part of an element left over, every element is built,
whether or not the queue has room for the last tile (R339). A stream that is stopped or whose queue is full does nothing. One attempt
a step is the model's choice (log 61). -/
def Obligations.StreamChunks : Prop :=
  (∀ (s : State) (q : Fin 8), (s.task.q[q].stream = none ∨ (∃ d, s.task.q[q].stream = some d ∧ d.stopped = true)
       ∨ 4 ≤ s.task.q[q].tiles.length) → exec (.chunkAttempt q) s = .next s)
    ∧ ∀ (s : State) (q : Fin 8) (d : Stream) (dir hd body bs : List Byte) (codec ulen clen crc : Nat), StreamReady s q d →
        let w := s.engine d.sup d.after
        let i := Instr.chunkAttempt q
        let base := d.desc.getD (if d.attempt < 2 then 0 else 1) 0
        let a := base + wd (leValue dir)
        let again := d.attempt = 0 ∨ (d.attempt = 1 ∧ d.desc.getD 1 0 ≠ 0)
        let failed : Prop :=
          (again → exec i s = .next { s with task := { s.task with
              q := s.task.q.set q { s.task.q[q] with stream := some { d with attempt := d.attempt + 1 } } } })
            ∧ (¬ again → Completes i s fun t => t = { s with task := { s.task with
                q := s.task.q.set q { s.task.q[q] with stream := some { d with attempt := 0, stopped := true } }
                pend := { s.task.pend with stream := s.task.pend.stream.set q (some ⟨.streamMalformed, wd d.chunk⟩) } } })
        ((base + wd (8 * d.chunk)).toNat % 8 ≠ 0 → exec i s = .next { s with task := { s.task with
            q := s.task.q.set q { s.task.q[q] with stream := some { d with attempt := 0, stopped := true } }
            pend := { s.task.pend with
              stream := s.task.pend.stream.set q (some ⟨.engineTranslation, base + wd (8 * d.chunk)⟩) } } })
        ∧ ((base + wd (8 * d.chunk)).toNat % 8 = 0 → s.streamRead w (base + wd (8 * d.chunk)) 8 = .ok ⟨s, dir, false⟩ →
          (a.toNat % 32 ≠ 0 → failed)
            ∧ (a.toNat % 32 = 0 → s.streamRead w a 32 = .ok ⟨s, hd, false⟩ →
                ((∀ k u n x, ¬ HeaderSpec hd k u n x) → failed)
                  ∧ (HeaderSpec hd codec ulen clen crc →
                      ((d.desc.getD 2 0).toNat / 2 ^ 32 % 2 ^ 16 * clen < ulen * 256 → Completes i s fun t => t = { s with task := { s.task with
                          q := s.task.q.set q { s.task.q[q] with stream := some { d with attempt := 0, stopped := true } }
                          pend := { s.task.pend with stream := s.task.pend.stream.set q (some ⟨.streamRate, wd d.chunk⟩) } } })
                        ∧ (ulen * 256 ≤ (d.desc.getD 2 0).toNat / 2 ^ 32 % 2 ^ 16 * clen →
                            s.streamRead w (a + 32) clen = .ok ⟨s, body, false⟩ → body.length = clen →
                            (codec = 3 → body.length ≠ ulen → failed)
                              ∧ (ChunkBytes codec ulen body bs → (crc32c bs).toNat ≠ crc → failed)
                              ∧ (ChunkBytes codec ulen body bs → (crc32c bs).toNat = crc →
                                  (d.chunk + 1 = (d.desc.getD 2 0).toNat % 2 ^ 32 → (d.carry.length + 2 * ulen) % d.inNibbles = 0) →
                                    Completes i s fun t => ∃ (m : Nat) (D : Stream) (Ts : List Tile), Ts.length = m
                                      ∧ OnlyStream s t q (s.task.q[q].tiles ++ Ts) D
                                      ∧ D = { d with
                                          chunk := d.chunk + 1, attempt := 0, ulens := d.ulens ++ [ulen]
                                          table := if codec = 2 then body.take 128 else d.table
                                          carry := D.carry, waiting := D.waiting, ordinal := D.ordinal, built := D.built }
                                      ∧ (let cols := d.sh.toNat / 2 ^ 8 % 2 ^ 8
                                         let all := d.waiting ++ elemLanes d.inNibbles (d.carry ++ inputNibbles bs)
                                         (∀ x, ∀ h : x < Ts.length, ∀ k, ∀ hk : k < 1024, Ts[x][k] =
                                             if k / 64 < d.sh.toNat % 2 ^ 8 ∧ k % 64 < cols
                                               then all.getD (x * d.tileLen + (k / 64 * cols + k % 64)) 0 else 0)
                                           ∧ D.waiting ++ elemLanes d.inNibbles D.carry = all.drop (m * d.tileLen)
                                           ∧ D.ordinal + (elemLanes d.inNibbles D.carry).length
                                               = d.ordinal + (elemLanes d.inNibbles (d.carry ++ inputNibbles bs)).length
                                           ∧ ((d.desc.getD 2 0).toNat % 2 ^ 32 ≤ D.chunk → D.carry = [] → D.built = true)
                                           ∧ (s.task.q[q].tiles.length + m = 4
                                               ∨ (D.waiting.length < d.tileLen ∧ D.carry.length < d.inNibbles ∧ (D.built = true → D.waiting = [])))))))))

/-! ### Launches (R17, R18, R299 to R309, R420) -/

/-- The Gleaner takes the next packet of a ring whose doorbell told of one: a slot that cannot be read is counted dropped, any other
packet is submitted in the ring's context, and HEAD passes it; with nothing new, or while a vector store has still to write what its
checks read, nothing happens (R233, R268, R299, R300, R306, R420), nor while the compute dies run no launches, in NAP, off or dark (R378;
that a packet then stays in its ring is log 28). That a queue takes no bytes at QBASE, so that admission and a pop leave memory as it was,
is the model's choice (log 53).

A pop on an idle enabled croft, when every launch with an entry fits some croft: the launch R307 chooses gives its next entry, in R308's
order; a saved task goes on from its frame, a record starts a fresh task (R18; shown without RESTART and GUARD); pointers and
counters move. A saved task whose frame cannot be read fails its launch instead (R403, R411; log 71). With no candidate nothing happens;
that a launch which cannot be served is none, for the counters too, is the model's choice (log 72).

A launch with nothing left completes: it is no longer live, its record is written with STATUS 0 if DONE can be written, and its
successors wait for it no more (R17, R301, R304). -/
def Obligations.Launching : Prop :=
  (∀ (s : State) (c : Fin 64), s.wf = true → s.world? 0 = none → (s.launches.map fun k => (k.part, k.id)).Nodup →
     s.launchesAllowed = true →
     let ring := s.ctxs[c].ring
     let slot := ring.base + wd (64 * (ring.head.toNat % 2 ^ (ring.cfg.toNat % 32)))
     let passed (u : State) : State := { u with ctxs := u.ctxs.set c { u.ctxs[c] with ring := { u.ctxs[c].ring with head := u.ctxs[c].ring.head + 1 } } }
     let dropped := { s with ctxs := s.ctxs.set c { s.ctxs[c] with ring := { ring with drops := ring.drops + 1 } } }
     ((s.awake = false ∨ ring.head = ring.tail ∨ s.packetHeld c = true) → exec (.launchPacket c) s = .next s)
       ∧ (s.awake = true → ring.head ≠ ring.tail → s.packetHeld c = false → CleanWalks s c →
           ((slot.toNat % 64 ≠ 0 ∨ s.gleanPlace c .load slot = none) → exec (.launchPacket c) s = .next (passed dropped))
             ∧ ∀ p, slot.toNat % 64 = 0 → s.gleanPlace c .load slot = some p →
                 Completes (.launchPacket c) s fun t => ∃ u, t = passed u
                   ∧ Submitted s c ((List.range 8).map fun k => wd (leValue (((s.readPlace 0 p 64).drop (8 * k)).take 8))) u))
    ∧ (∀ (s : State) (part : Fin 16), s.awake = true → s.running = false → s.cmax ≠ 0 → s.partOfDie s.die.val = some part →
         (s.launches.map fun k => (k.part, k.id)).Nodup → (∀ K ∈ s.launches, K.prio < 4 ∧ s.tooWide part K = none) →
         let E := (s.launches.filter (·.part == part)).filter fun K => s.ready K && s.serves K
         (E = [] → exec .pop s = .next s)
           ∧ (E ≠ [] → ∃ L e L', Chosen s.parts[part] E L ∧ NextEntry L e L' ∧
               ((∃ u, e = .task u ∧ s.frameLost u ≠ none) → Completes .pop s fun t => t.running = false ∧ t.launch? part L.id = none)
               ∧ ((∀ k n, e = .again k n → (k.record.getD 3 0).toNat / 2 ^ 16 % 4 = 0) → (∀ u, e = .task u → s.frameLost u = none) →
                 Completes .pop s fun t => t = { s with
                   task := t.task, running := true, nextTid := t.nextTid, launches := t.launches
                   parts := s.parts.set part (poppedSpec s.parts[part] E L)
                   dev := { s.dev with power := if s.dev.power = .idle then .run else s.dev.power } }
                 ∧ OnlyLaunch s t L L' ∧ (∀ u, e = .task u → t.task = s.resumed u ∧ t.nextTid = s.nextTid)
                 ∧ ∀ k n, e = .again k n → Started s L k n t.task ∧ t.nextTid = s.nextTid + 1)))
    ∧ ∀ (s : State) (L : Launch) (l1 l2 : List Launch), s.launches = l1 ++ L :: l2 → (s.launches.map fun k => (k.part, k.id)).Nodup →
        (∀ K ∈ l1 ++ l2, K.id ≠ L.id) → s.wf = true → s.world? 0 = none →
        let done := L.preds = [] ∧ L.start.toNat ≤ s.time ∧ L.queue = [] ∧ L.saved = [] ∧ L.parked = []
          ∧ ¬ (s.running = true ∧ s.task.id.launch = L.id ∧ s.myPart = L.part)
        (¬ done → exec (.launchComplete L.id) s = .next s)
          ∧ (done → Completes (.launchComplete L.id) s fun t => ∃ u, RecordWritten u t L.cid L.done (completionSpec L.id.toNat 0 0 s.time L.tasks 0)
              ∧ u = { s with
                  worlds := s.worlds.filter fun w => !(w.launch == L.id && s.partOfCtx w.cid == L.part)
                  coll := { s.coll with cmds := s.coll.cmds.filter fun c => !(c.launch == L.id && c.part == L.part) }
                  launches := (l1 ++ l2).map fun k => if k.part = L.part then { k with preds := k.preds.filter (· ≠ L.id) } else k })

/-! ### Hardware events (R318, R384, R400 to R424) -/

/-- WATCHDOG raises 0x62 once per attempt for a task over its launch's budget, and TRAP takes the cause that is first in order: both as
the next boundary would (R318, R384, R385). CURRENT_SAMPLE holds Thresher steps and VE issue once a sample is above the lower of
30,000 A and CAP, until one is below it (R424). UNCORRECTABLE_ERROR makes the 64-byte line of memory or the doubleword of the loft it names
uncorrectable (R400, R403). CROFT_DATAPATH_CHECK raises 0x72, of the croft or of the tile the next VE instruction pops (R400, R407).

In task mode a task at the root with RESTART, or one with GUARD in its own world, is re-executed instead: it is stopped, its view
discarded or its frame written back, its logged record queued again and an event of KIND 5 told; after the second re-execution its launch
fails (R407, R408). A corrected error is counted, and each multiple of 1,024 told as an event of KIND 0 (R402, R405).

DIE_ISOLATION marks the die and logs an event of KIND 4; the croft's task, if it runs there and is not re-executed, fails its launch
with 0x73, and a rival whose record has RESTART or GUARD is aborted (R405, R407, R411).

The model's choices: that a task in supervisor mode fails so too (log 32), that the tile checked is one that the next VE instruction
pops (log 33), at which boundary a budget is exceeded (log 34), and that a trap of another source takes a pending queue-precise cause along
(log 46). -/
def Obligations.HardwareEvents : Prop :=
  (∀ s : State, s.running = true →
     let budget := (s.myLaunch.map (·.budget)).getD 0
     let exceeded := budget ≠ 0 ∧ budget < s.task.id.wdog ∧ s.task.id.wdogDone = false
     let raised := { s with task := { s.task with pend := { s.task.pend with watchdog := true }, id := { s.task.id with wdogDone := true } } }
     (¬ exceeded → exec .watchdog s = .next s)
       ∧ (exceeded → (s.sup = true ∧ s.task.csr.status.toNat / 2 % 2 = 0 → exec .watchdog s = .next raised)
           ∧ (s.task.part ≠ none → exec .watchdog s = .next raised)
           ∧ (s.sup = true ∧ s.task.csr.status.toNat / 2 % 2 = 1 ∨ s.sup = false → s.task.pend.hw = false → s.task.part = none →
               let q : TrapReq := { ownTrap .watchdog 0 with source := 9 }
               let u := { raised with task := { raised.task with pend := { s.task.pend with watchdog := false } } }
               Delivered u q → exec .watchdog s = .next (entered u q (handlerOf u .watchdog)))))
    ∧ (∀ s t : State, s.running = true → s.canPreempt = false → s.overBudget = false → s.asyncTrap = some t →
         exec .trap s = .next t ∧ s.seqStep = .next t)
    ∧ (∀ s : State, s.asyncTrap = none → exec .trap s = .next s)
    ∧ (∀ (s : State) (amps : Nat), exec (.currentSample amps) s = .next { s with
         dev := { s.dev with
           limiting := decide (if s.dev.limiting = true then min 30000 s.dev.cap ≤ amps else min 30000 s.dev.cap < amps) } })
    ∧ (∀ (s : State) (pa o : Nat),
         (pa < 2 ^ 41 → Completes (.uncorrectableError (.device pa)) s fun t => t = { s with badLines := t.badLines }
             ∧ ∀ l, l ∈ t.badLines ↔ l ∈ s.badLines ∨ l = pa / 64 * 64)
           ∧ (s.running = true → o < 2 ^ 21 → Completes (.uncorrectableError (.loft o)) s fun t =>
               t = { s with task := { s.task with badLoft := t.task.badLoft } }
                 ∧ ∀ l, l ∈ t.task.badLoft ↔ l ∈ s.task.badLoft ∨ l = o / 8 * 8))
    ∧ (∀ (s : State), s.running = true → s.sup = true → s.task.csr.status.toNat / 2 % 2 = 0 →
         exec (.croftDatapathCheck none) s = .next { s with task := { s.task with pend := { s.task.pend with hw := true } } }
           ∧ ∀ (q : Fin 8) (e : VeEntry) (rest : List VeEntry), s.task.veQ = e :: rest → e.instr.pops q = true → s.task.q[q].tiles ≠ [] →
               s.task.pend.ve = none → exec (.croftDatapathCheck (some q)) s = .next { s with task := { s.task with
                 pend := { s.task.pend with ve := some ⟨.datapathCheck, 0⟩, veAt := e.addr } } })
    ∧ (∀ (s : State) (L : Launch), s.running = true → s.sup = false → s.task.part = none → s.myLaunch = some L → s.task.reruns = true →
         s.task.id.forked = false → s.task.id.choice = none → (s.task.guarded = true → s.task.id.world ≠ 0) → s.wf = true → s.world? 0 = none →
         let e := s.task.id.entry
         let n := s.task.id.attempts + 1
         (2 < n → Completes (.croftDatapathCheck none) s fun t => t.running = false ∧ t.launch? L.part L.id = none)
           ∧ (n ≤ 2 → Completes (.croftDatapathCheck none) s fun t => ∃ w : State,
               EventTold w t L.part (eventSpec 5 0x72 s.die.val 0 L.part.val L.id.toNat s.time e.src n)
                 ∧ w.running = false ∧ OnlyLaunch s w L { L with queue := L.queue ++ [.again e n] }
                 ∧ (s.task.guarded = true → w.world? s.task.id.world = none
                     ∧ w = { s.stopTask with launches := w.launches, worlds := w.worlds })
                 ∧ (s.task.guarded = false → ∀ bs, s.task.id.snapshot = some bs →
                     w = { s.stopTask.gleanWrite s.task.id.cid (e.record.getD 1 0) bs with launches := w.launches })))
    ∧ (∀ (s : State) (x : EccUnit), s.up = true → s.wf = true → s.world? 0 = none →
         let n := s.dev.corrected.of x + 1
         let u := { s with dev := { s.dev with corrected := s.dev.corrected.add x } }
         (∀ y, u.dev.corrected.of y = s.dev.corrected.of y + if y = x then 1 else 0)
           ∧ (n % 1024 ≠ 0 ∨ s.partOfUnit x = none → s.turn (.corrected x) = .next u)
           ∧ ∀ p, s.partOfUnit x = some p → n % 1024 = 0 → ∃ t, s.turn (.corrected x) = .next t
             ∧ EventTold u t p (eventSpec 0 0 x.dieOf 0 p.val 0 s.time (wd x.number) n))
    ∧ ∀ (s : State) (d : Fin 16), d ∉ s.dev.isolated → Completes (.dieIsolation d) s fun t =>
        let u := { s with dev := { s.dev with isolated := s.dev.isolated ++ [d] } }
        let v := match u.partOfDie d.val with
          | some p => u.logEvent p ⟨4, 0x73, d.val, 0, wd d.val, 0, 0⟩
          | none => u
        (¬ (s.running = true ∧ s.die = d) → t = v)
          ∧ (s.running = true → s.die = d → ∀ L, s.myLaunch = some L →
              ((s.task.reruns = false ∨ (s.sup = true ∧ s.task.id.forked = false)) →
                t.running = false ∧ t.launch? L.part L.id = none ∧ t.dev = v.dev)
              ∧ (s.task.reruns = true → s.task.id.forked = true →
                t.running = false ∧ (t.launch? L.part L.id).isSome = true ∧ t.dev = v.dev))

/-! ### The links (R279, R293 to R296) -/

/-- A frame with a good tag at a port that is up, in SEQ order, with none received early and none waiting to be sent: the tag failures count
from 0 again, the frames that its ACKSEQ covers leave the replay store, the next SEQ is expected, DATA is handed over, a NACK's wanted
frames go out again in order as they were, and a REKEY frame renews the keys (R293 to R296).

A frame from before the next expected SEQ is taken once only; one from beyond it is kept, and the missing ones asked for. A bad tag is
counted and asked for again, as is a frame of TYPE 5 to 15; three in a row reset the port, which sends again all that is not
acknowledged. A frame that the replay store has no room for waits. A port that is not up hears nothing. In long-haul mode a sent frame's
bytes go to the RSIZE MiB at RBASE, and no other byte changes (R295).

The model's choices: the bytes of a NACK, what a frame takes in the store, and how it lies there (log 21), that a tag's verdict comes with
the step, and that an entry which cannot be read leaves its port down (log 15), and the keys' lifetime of 81,000,000,000 die cycles, 30 s at 2.7 GHz (log 35). -/
def Obligations.LinkFrames : Prop :=
  (∀ (i : Instr) (s : State) (j : Fin 32) (kind : Nat) (f : Frame), frameSpec i = some (j, kind, f) →
     let p := s.ports[j]
     let asks (t : State) (replay : List Packet) : Prop :=
       (hasRoom p replay 64 → t.ports[j].sendSeq = (p.sendSeq + 1) % 2 ^ 48 ∧ ∃ k : Packet, k.kind = 2 ∧ k.seq = p.sendSeq
           ∧ k.payload.length = 64 ∧ t.out.sent = s.out.sent ++ [onWire p j k] ∧ t.ports[j].replay = replay ++ [k] ∧ nacked k.payload p.expect)
         ∧ (¬ hasRoom p replay 64 → t.out.sent = s.out.sent ∧ t.ports[j].replay = replay
           ∧ ∃ k : Packet, k.kind = 2 ∧ t.ports[j].stalled = [k] ∧ nacked k.payload p.expect)
     (s.up = false ∨ p.up = false → exec i s = .next s)
       ∧ (s.up = true → p.up = true → f.tagOk = true → p.stalled = [] →
           (f.seq = p.expect → p.expect < 2 ^ 48 → p.early = [] → Completes i s fun t =>
             t = { s with ports := t.ports, out := t.out } ∧ (∀ k : Fin 32, k ≠ j → t.ports[k] = s.ports[k])
               ∧ t.ports[j] = { p with
                   fails := 0, replay := unacked p f.ackSeq, expect := (p.expect + 1) % 2 ^ 48
                   frames := if kind = 3 then 0 else p.frames + 1, keyPhase := if kind = 3 then !p.keyPhase else p.keyPhase
                   keyAge := if kind = 3 then s.dev.cycle else p.keyAge }
               ∧ t.out.handed = s.out.handed ++ (if kind = 0 then [(j, f)] else [])
               ∧ t.out = { s.out with handed := t.out.handed, sent := t.out.sent }
               ∧ ∃ again : List Packet,
                   (∀ x, x ∈ again ↔ x ∈ unacked p f.ackSeq ∧ kind = 2 ∧ nacked f.payload x.seq)
                     ∧ again.Sublist p.replay
                     ∧ t.out.sent = s.out.sent ++ again.map (onWire p j))
             ∧ (kind ≠ 2 → ¬ notBefore f.seq p.expect → Completes i s fun t => t = { s with ports := t.ports }
                 ∧ t.ports = s.ports.set j { p with fails := 0, frames := p.frames + 1, replay := unacked p f.ackSeq })
             ∧ (kind ≠ 2 → kind ≠ 3 → f.seq % 2 ^ 48 ≠ p.expect % 2 ^ 48 → notBefore f.seq p.expect →
                 (∀ x ∈ p.early, x.2.seq ≠ f.seq ∧ x.2.seq % 2 ^ 48 ≠ p.expect % 2 ^ 48) →
                 Completes i s fun t => t.out.handed = s.out.handed ∧ t.ports[j].expect = p.expect
                   ∧ t.ports[j].early = p.early ++ [(kind, f)] ∧ asks t (unacked p f.ackSeq)))
       ∧ (s.up = true → p.up = true → f.tagOk = false →
           (p.fails < 2 → p.stalled = [] → (∀ x ∈ p.early, x.2.seq % 2 ^ 48 ≠ p.expect % 2 ^ 48) → Completes i s fun t =>
               t.ports[j].fails = p.fails + 1 ∧ t.ports[j].expect = p.expect ∧ t.out.handed = s.out.handed ∧ asks t p.replay)
             ∧ (2 ≤ p.fails → Completes i s fun t => t.ports[j] = { p with
                   fails := 0, resets := p.resets + 1, keyPhase := !p.keyPhase, frames := 0, keyAge := s.dev.cycle }
                 ∧ t.out.sent = s.out.sent ++ p.replay.map (onWire { p with keyPhase := !p.keyPhase } j))
             ∧ ∀ n, 5 ≤ n → n < 16 → exec i s = .next (s.badFrame j n { f with tagOk := true })))
    ∧ (∀ (s : State) (j : Fin 32), s.up = true → s.ports[j].up = true → s.wf = true →
         let p := s.ports[j]
         let due := 2 ^ 31 ≤ p.frames ∨ 81000000000 ≤ (s.dev.cycle : Int) - p.keyAge
         (¬ due → exec (.keyRenewal j) s = .next s)
           ∧ (due → p.stalled = [] → hasRoom p p.replay 64 → Completes (.keyRenewal j) s fun t => ∃ k : Packet,
               k.kind = 3 ∧ k.seq = p.sendSeq ∧ k.payload.length = 64 ∧ t = { s with
               ports := s.ports.set j { p with
                 sendSeq := (p.sendSeq + 1) % 2 ^ 48, replay := p.replay ++ [k], frames := 0
                 keyPhase := !p.keyPhase, keyAge := s.dev.cycle, cursor := t.ports[j].cursor }
               out := { s.out with sent := s.out.sent ++ [onWire p j k] }
               fresh := t.fresh, mem := t.mem, badLines := t.badLines, dirty := t.dirty, parts := t.parts, late := t.late }
             ∧ CellarsOnly s t
             ∧ (p.longHaul = false → t.ports[j].cursor = p.cursor ∧ t.mem = s.mem ∧ t.badLines = s.badLines ∧ t.dirty = s.dirty
                 ∧ t.parts = s.parts ∧ t.late = s.late)
             ∧ ∀ pa, ¬ (p.rbase ≤ pa ∧ pa < p.rbase + p.rsize * 2 ^ 20) → ¬ s.inReserve (.device pa) → t.mem.get pa = s.mem.get pa))
    ∧ ∀ (s : State) (j : Fin 32) (peer : Nat) (digest : Word) (part : Fin 16), s.up = true → s.partOfPort j = some part →
        let P := s.parts[part]
        let table := P.coltab.toNat / 2 ^ 16 % 2 ^ 36 * 2 ^ 16
        let at_ (a : Nat) : Nat := leValue (s.mem.getBytes a 8)
        let e0 := at_ (table + 0x6000 + 16 * j.val)
        let e1 := at_ (table + 0x6000 + 16 * j.val + 8)
        let m0 := at_ (table + 16 * peer)
        let readable (a : Nat) : Prop := s.tableRead part a 16 0 = .ok ()
        let on := P.coltab.toNat % 2 = 1 ∧ readable (table + 0x6000 + 16 * j.val) ∧ e0 % 2 = 1
        let far := e0 / 2 % 2 = 1
        let size := e0 / 2 ^ 16 % 2 ^ 10
        let base := e1 / 2 ^ 20 % 2 ^ 32 * 2 ^ 20
        let fit := (far → 4 ≤ size ∧ size ≤ 512 ∧ P.owns base (size * 2 ^ 20) = true) ∧ peer < 512
        let good := fit ∧ m0 / 2 ^ 63 = 1 ∧ m0.testBit j.val = true ∧ at_ (table + 16 * peer + 8) = digest.toNat
        let fresh : Port := { Port.reset with
          enabled := true, longHaul := decide far, rsize := size, rbase := base, peer := peer, keyAge := s.dev.cycle
          resets := s.ports[j].resets }
        let down (q : Port) : State := { s with ports := s.ports.set j { q with down := true } }.logEvent part ⟨3, 0x71, 0, j.val, wd j.val, 0, 0⟩
        let cleared : Port := { Port.reset with resets := s.ports[j].resets }
        (P.coltab.toNat % 2 = 0 ∨ (readable (table + 0x6000 + 16 * j.val) ∧ e0 % 2 = 0) →
            exec (.portBringUp j peer digest) s = .next { s with ports := s.ports.set j cleared })
          ∧ (P.coltab.toNat % 2 = 1 → P.owns (table + 0x6000 + 16 * j.val) 16 = false →
              exec (.portBringUp j peer digest) s = .next (down cleared))
          ∧ (on → good → readable (table + 16 * peer) →
              exec (.portBringUp j peer digest) s = .next { s with ports := s.ports.set j { fresh with up := true } })
          ∧ (on → (¬ fit ∨ (¬ good ∧ readable (table + 16 * peer)) ∨ P.owns (table + 16 * peer) 16 = false) →
              exec (.portBringUp j peer digest) s = .next (down fresh))

/-! ### The host (R273, R416 to R421, R425 to R427) -/

/-- BAR2 in range, sound, and free of reservations: a read answers the bytes of the partition's memory; a write stores them and nothing
else; an AtomicOp at its natural alignment stores the swapped, added or compared value and answers the old one (R273, R416, R417).

An access to memory that a vector store has still to write waits, and so does one behind an access of the same requester that waits (R268,
R273). Out of range, a read answers all ones and is reported as unsupported, and a write changes nothing; an access to an isolated die
is aborted (R411, R417); one that no function or no window serves does nothing. That the requester is the function (log 22), and that every
later access of it waits behind one that waits, reads included (log 16), are the model's choices. -/
def Obligations.HostAccess : Prop :=
  (∀ (s : State) (part : Fin 16) (offset n : Nat), s.wf = true → s.world? 0 = none → 1 ≤ n →
     let pa := s.parts[part].firstDie * Config.dieBytes + offset
     let bytes := s.mem.getBytes pa n
     (Bar2Open s part offset n false → Completes (.bar2Read part offset n) s fun t =>
         t = { s with fresh := t.fresh, out := { s.out with reads := s.out.reads ++ [bytes] } })
       ∧ (Bar2Open s part offset n true →
           ∀ bs : List Byte, bs.length = n → Completes (.bar2Write part offset bs) s fun t => WroteAt s t (.device pa) bs)
       ∧ (Bar2Open s part offset n true →
           ∀ (op : AtomicKind) (wide : Bool) (v c : BitVec 64), n = (if wide then 8 else 4) → offset % n = 0 →
           let old := leValue bytes
           let new : Option Nat := match op with
             | .swap => some (v.toNat % 2 ^ (8 * n))
             | .fetchAdd => some ((old + v.toNat) % 2 ^ (8 * n))
             | .cas => if old = c.toNat % 2 ^ (8 * n) then some (v.toNat % 2 ^ (8 * n)) else none
           Completes (.atomicop part offset op wide v c) s fun t => ∃ u, t = { u with
               fresh := t.fresh, out := { s.out with reads := s.out.reads ++ [bytes] } }
             ∧ match new with
               | some x => WroteAt s u (.device pa) (leBytes n x)
               | none => u = s))
    ∧ (∀ (s : State) (i : Instr) (part : Fin 16) (offset n : Nat) (write : Bool), bar2Shape i = some (part, offset, n, write) →
        (¬ Bar2Serves s part offset n → exec i s = .next s)
          ∧ (Bar2Serves s part offset n → ¬ Bar2Free s part offset n write → exec i s = .next { s with posted := s.posted ++ [i] }))
    ∧ ∀ (s : State) (part : Fin 16) (offset n : Nat), 1 ≤ n →
        let P := s.parts[part]
        (P.dies * Config.dieBytes ≤ offset →
            (Bar2Free s part offset n false → Completes (.bar2Read part offset n) s fun t => t = { s with
                fresh := t.fresh
                out := { s.out with reads := s.out.reads ++ [List.replicate n 0xFF], aer := s.out.aer ++ [.unsupported part offset] } })
              ∧ (Bar2Free s part offset n true →
                  ∀ bs : List Byte, bs.length = n → exec (.bar2Write part offset bs) s = .next { s with
                    out := { s.out with aer := s.out.aer ++ [.unsupported part offset] } }))
          ∧ (P.present = true → offset + n ≤ P.dies * Config.dieBytes →
              (∃ k, k < n ∧ s.isolatedAt (P.firstDie * Config.dieBytes + offset + k) = true) →
              let t := { s with out := { s.out with aer := s.out.aer ++ [.aborted part offset] } }
              (Bar2Free s part offset n false → exec (.bar2Read part offset n) s = .next t)
                ∧ (Bar2Free s part offset n true → ∀ bs : List Byte, bs.length = n → exec (.bar2Write part offset bs) s = .next t))

/-- The registers of BAR0: a doorbell is accepted while its ring is enabled, has slots and the packets fit them, else it sets ERR and
signals MSI-X vector 1; RCFG and EVCFG keep LOGN for a value out of range, and a written 1 clears ERR; REGISTER_WRITE reaches the
other registers of the partition's function, and what is not listed, or read-only as HEAD and DROPS are, ignores it; the rings of a
partition that no function serves take no write (R417; access is by doublewords, log 22). A host read answers each register's value,
and 0 for what is not listed; STAT names the part, the lock and the end of bring-up, of an absent partition too, and function 0 has the
management mailbox, whose contents are a free value, with SR-IOV or without (R417 to R421).

TIME steps at the first PTP lock before any launch, and holds over without a grandmaster (R305, R425). A Function Level Reset drops the
partition's launches, resets its rings and zeroes its memory; no record is written (R371, R427). RESET leaves the module dark when
its firmware fails its check, or when the management firmware fails to start twice, and else brings it up; configuration requests
before step 6 are answered with Request Retry Status, and slots 1 to 3 keep the sets that the image holds (R84, R426). The x registers of
the idle croft are those of task start, the model's choice (log 5). -/
def Obligations.HostRegisters : Prop :=
  (∀ (s : State) (c : Fin 64) (part : Fin 16) (v : BitVec 32) (w : Word), s.up = true → s.parts[part].present = true →
     s.dev.pcie.serves part = true → c ∈ s.parts[part].contexts → s.partOfCtx c = part →
     let ring := s.ctxs[c].ring
     let P := s.parts[part]
     let put (r : Ring) : State := { s with ctxs := s.ctxs.set c { s.ctxs[c] with ring := r } }
     let part_ (p : Partition) : State := { s with parts := s.parts.set part p }
     let logn (old : Word) (hi : Nat) : Nat := if 4 ≤ w.toNat % 32 ∧ w.toNat % 32 ≤ hi then w.toNat % 32 else old.toNat % 32
     let fits := ring.cfg.toNat / 2 ^ 8 % 2 = 1 ∧ ring.cfg.toNat % 32 ≠ 0
       ∧ (v.toNat + 2 ^ 32 - ring.head.toNat) % 2 ^ 32 ≤ 2 ^ (ring.cfg.toNat % 32)
     let rcfg := put { ring with cfg := wd ((if ring.cfg.toNat / 2 ^ 9 % 2 = 1 ∧ w.toNat / 2 ^ 9 % 2 = 0 then 0x200 else 0)
       + w.toNat / 2 ^ 8 % 2 * 2 ^ 8 + logn ring.cfg 20) }
     let evcfg := part_ { P with evCfg := wd (w.toNat / 2 ^ 8 % 2 * 2 ^ 8 + logn P.evCfg 16) }
     let err := put { ring with cfg := ring.cfg ||| 0x200 }
     let at_ (k : Nat) : Nat := 0x100000 + 0x1000 * c.val + k
     let reg (offset : Nat) : Instr := .registerWrite (.bar0 part offset) w
     (fits → exec (.tailWrite c v) s = .next (put { ring with tail := v }))
       ∧ (¬ fits → exec (.tailWrite c v) s = .next { err with out := { s.out with msix := s.out.msix ++ [(part, 1)] } })
       ∧ exec (.rcfgWrite c w) s = .next rcfg ∧ exec (.evcfgWrite part w) s = .next evcfg
       ∧ exec (reg (at_ 0)) s = .next (put { ring with base := w }) ∧ exec (reg (at_ 8)) s = .next rcfg
       ∧ exec (reg (at_ 0x10)) s = exec (.tailWrite c (BitVec.ofNat 32 w.toNat)) s
       ∧ exec (reg 0x200000) s = .next (part_ { P with evBase := w }) ∧ exec (reg 0x200008) s = .next evcfg
       ∧ exec (reg 0x200018) s = .next (part_ { P with evHead := w.toNat })
       ∧ (∀ k, k ∉ [0, 8, 0x10] → k < 0x1000 → exec (reg (at_ k)) s = .next s)
       ∧ ∀ x ∈ [(0, wd (0xB7000000 + (if s.dev.ptpLocked = true then 2 else 0) + if s.dev.ready = true then 1 else 0)),
             (at_ 0, ring.base), (at_ 8, ring.cfg), (at_ 0x10, wd ring.tail.toNat), (at_ 0x18, wd ring.head.toNat),
             (at_ 0x20, wd ring.drops.toNat), (at_ 0x28, 0), (0x200000, P.evBase), (0x200008, P.evCfg), (0x200010, wd P.evTail),
             (0x200018, wd P.evHead), (0x200020, wd P.evLost), (0x200028, 0), (8, 0), (0x300000 + 0x1000, 0)],
           s.bar0Read (if s.dev.pcie.vfs = 0 then none else some part) x.1
             = { s with fresh := s.fresh + 1, out := { s.out with reads := s.out.reads ++ [leBytes 8 x.2.toNat] } })
    ∧ (∀ (s : State) (c : Fin 64) (part : Fin 16) (v : BitVec 32) (w : Word),
         (s.dev.pcie.serves (s.partOfCtx c) = false → exec (.tailWrite c v) s = .next s ∧ exec (.rcfgWrite c w) s = .next s)
           ∧ (s.dev.pcie.serves part = false → exec (.evcfgWrite part w) s = .next s))
    ∧ (∀ s : State, s.up = true →
         let reads (v : Word) : State := { s with fresh := s.fresh + 1, out := { s.out with reads := s.out.reads ++ [leBytes 8 v.toNat] } }
         (∀ k, k < 0x1000 → s.bar0Read none (0x300000 + k) = reads (Config.freeBits s.fresh))
           ∧ ∀ n : Fin 16, n.val < s.dev.pcie.vfs → s.bar0Read (some n) 0
               = reads (wd (0xB7000000 + (if s.dev.ptpLocked = true then 2 else 0) + if s.dev.ready = true then 1 else 0)))
    ∧ (∀ (s : State) (time : Word), s.up = true → Completes (.ptpLock time) s fun t =>
         t = { s with dev := { s.dev with ptpLocked := true, everLocked := true, timeBase := t.dev.timeBase } }
           ∧ (s.dev.everLocked = false → s.dev.launched = false → wd t.time = time)
           ∧ (s.dev.everLocked = true ∨ s.dev.launched = true → t.time = s.time))
    ∧ (∀ s : State, exec .grandmasterLost s = .next { s with dev := { s.dev with ptpLocked := false } })
    ∧ (∀ (s : State) (part : Fin 16), s.up = true → s.parts[part].present = true → s.wf = true →
         let P := s.parts[part]
         Completes (.flr part) s fun t => (∀ L ∈ t.launches, L.part ≠ part)
           ∧ (∀ L ∈ s.launches, L.part ≠ part → L ∈ t.launches) ∧ (∀ w ∈ t.late, w ∈ s.late ∧ ∀ bs, w ≠ .event part bs)
           ∧ (∀ pa, t.mem.get pa = open Classical in if inRange P pa then 0 else s.mem.get pa)
           ∧ (∀ c ∈ P.contexts, t.ctxs[c].ring = Ring.reset)
           ∧ t.parts[part].evBase = 0 ∧ t.parts[part].evCfg = 0 ∧ t.parts[part].evTail = 0 ∧ t.parts[part].evHead = 0
           ∧ t.parts[part].evLost = 0 ∧ t.dev.zeroised = s.dev.zeroised + 1 ∧ t.host = s.host ∧ t.peer = s.peer)
    ∧ ∀ (s : State) (b : Boot),
        (b.firmwareOk = false ∨ (b.managementOk = false ∧ b.managementRetry = false) → Completes (.reset b) s fun t =>
          t.dev.dark = true ∧ t.out.retries = s.out.retries + b.requests ∧ t.dev.ready = false ∧ t.running = false ∧ t.launches = [] ∧ ∀ p : Fin 16, t.parts[p].present = false)
          ∧ (b.firmwareOk = true → (b.managementOk = true ∨ b.managementRetry = true) → b.badDies = [] → b.downPorts = [] → Completes (.reset b) s fun t =>
              t.dev.dark = false ∧ t.dev.ready = true ∧ t.dev.power = .run ∧ t.running = false ∧ t.launches = [] ∧ t.worlds = []
                ∧ t.tlb = [] ∧ t.ops = [] ∧ t.task.x = State.reset.task.x ∧ t.dev.slots[(0 : Fin 4)] = some b.set0
                ∧ t.dev.lifecycle = s.dev.lifecycle ∧ t.out.retries = s.out.retries + b.requests
                ∧ (∀ k : Fin 4, k ≠ 0 → t.dev.slots[k] = if k ∈ b.held then s.dev.slots[k] else none)
                ∧ ∀ cfg, b.parts = [cfg] → [1, 2, 4, 8, 16].contains cfg.dies = true → cfg.firstDie.val % cfg.dies = 0 →
                    cfg.firstDie.val + cfg.dies ≤ 16 → t.parts[cfg.num].present = true ∧ t.parts[cfg.num].dies = cfg.dies
                      ∧ t.parts[cfg.num].contexts = cfg.contexts
                      ∧ (s.wf = true → ∀ pa, inRange t.parts[cfg.num] pa → t.mem.get pa = 0))

/-! ### The management path (R83, R84, R370 to R379, R395, R413 to R415, R422, R424) -/

/-- Management commands and their answers: CAP holds a limit of at least 6,000 A; XUNLOAD empties a slot and drops its blocks; POWER moves to
RUN, to IDLE with nothing running, to NAP with no launch live, and to OFF with everything lost; PREEMPT with no task to name is done at
once, a task that can be saved is saved to the tail of its launch's queue, one without a frame slot stays, and one that must wait (R323, or
for the reserve of a Cellar, R414; log 77) is asked for; ATTEST keeps a request; PARTITION configures well-formed disjoint partitions over zeroed
memory, their pop pointers and counters set. A command that breaks its rule is refused and changes nothing (R84, R307, R370, R371, R373,
R378, R395, R422, R424).

The model's choices: which answer POWER gives when it is refused (log 28), the answers of PREEMPT (log 31), what a named partition keeps
(log 23), and the addresses and answers of ATTEST (log 25). -/
def Obligations.Management : Prop :=
  ∀ (s : State), s.up = true →
    (∀ amps : Nat, (6000 ≤ amps → exec (.cap amps) s = .next (answered { s with dev := { s.dev with cap := amps } } 0))
       ∧ (amps < 6000 → AnswersOnly s (.cap amps) 1))
    ∧ (∀ k : Fin 4, (s.dev.slots[k].isSome = true → exec (.xunload k) s = .next (answered { s with
            dev := { s.dev with slots := s.dev.slots.set k none }, ops := s.ops.filter fun b => b.slot != k, lines := s.keepPassing.lines } 0))
         ∧ (s.dev.slots[k] = none → AnswersOnly s (.xunload k) 1))
    ∧ (let dest (p : PowerState) : State := { s with dev := { s.dev with power := p } }
       exec (.power .run) s = .next (answered (dest .run) 0)
         ∧ (s.running = false → exec (.power .idle) s = .next (answered (dest .idle) 0))
         ∧ (s.running = true → AnswersOnly s (.power .idle) 1)
         ∧ (s.launches = [] → s.running = false → (∀ p : Fin 16, s.parts[p].debug ≠ .invasive) →
             exec (.power .nap) s = .next (answered { dest .nap with tlb := [], ops := [], lines := [] } 0))
         ∧ (s.launches ≠ [] ∨ s.running = true ∨ (∃ p : Fin 16, s.parts[p].debug = .invasive) → AnswersOnly s (.power .nap) 1)
         ∧ ∀ i ∈ [Instr.power .off, .lossOfPower], Completes i s fun t => t.dev.power = .off ∧ t.mem = [] ∧ t.launches = [] ∧ t.worlds = []
             ∧ t.running = false ∧ t.tlb = [] ∧ t.dev.zeroised = s.dev.zeroised + 1 ∧ t.dev.lifecycle = s.dev.lifecycle
             ∧ ∀ p : Fin 16, t.parts[p].present = false)
    ∧ (∀ (part : Fin 16) (id : Option (BitVec 12)),
         let P := s.parts[part]
         let named := s.running = true ∧ s.myPart = part ∧ (id = none ∨ id = some s.task.id.launch)
         (P.present = false → AnswersOnly s (.preempt part id) 1)
           ∧ (P.present = true → ¬ named → AnswersOnly s (.preempt part id) 0)
           ∧ (P.present = true → named → (s.sup = true ∨ s.deferred = true ∨ s.task.part ≠ none ∨ s.saveRoom = false) → Completes (.preempt part id) s fun t =>
               t = answered { s with parts := s.parts.set part { P with preempt := t.parts[part].preempt } } 0
                 ∧ ∀ n, n ∈ t.parts[part].preempt ↔ n ∈ P.preempt ∨ n = s.task.id.tid)
           ∧ (P.present = true → named → s.sup = false → s.deferred = false → s.task.part = none → s.pairFor s.task = none →
               Completes (.preempt part id) s fun t => s.task.id.tid ∉ t.parts[part].preempt
                 ∧ t = answered { s with parts := s.parts.set part { P with preempt := t.parts[part].preempt } } 1)
           ∧ (P.present = true → named → s.sup = false → s.deferred = false → s.task.part = none → (s.pairFor s.task).isSome = true →
               s.saveRoom = true → ∀ L, s.myLaunch = some L → Completes (.preempt part id) s fun t => t.running = false ∧ s.task.id.tid ∉ t.parts[part].preempt
                 ∧ t.out.answers = s.out.answers ++ [0] ∧ ∃ t1, OnlyLaunch s t L { L with queue := L.queue ++ [.task t1] }
                   ∧ t1.pc = s.task.pc ∧ t1.x = s.task.x ∧ t1.csr = s.task.csr ∧ t1.v = s.task.v ∧ t1.id.tid = s.task.id.tid))
    ∧ (∀ (part : Fin 16) (a : Word),
         let P := s.parts[part]
         let ok := P.present = true ∧ a.toNat % 64 = 0 ∧ P.owns a.toNat 64 = true ∧ s.isolatedAt a.toNat = false
           ∧ s.badLines.contains a.toNat = false
         let w (k : Nat) : Nat := leValue (s.mem.getBytes (a.toNat + 8 * k) 8)
         (¬ ok → s.awake = true → AnswersOnly s (.attest part a) 1)
           ∧ (ok → s.awake = true → s.launchesAllowed = true → P.attest = none → exec (.attest part a) s = .next (answered { s with
               parts := s.parts.set part { P with attest := some ⟨s.mem.getBytes a.toNat 32, wd (w 4), wd (w 5), none⟩ } } 0)))
    ∧ ∀ cfgs : List PartCfg, (s.mayConfigure cfgs = false → AnswersOnly s (.partition cfgs) 1)
        ∧ ∀ c : PartCfg, cfgs = [c] → [1, 2, 4, 8, 16].contains c.dies = true → c.firstDie.val % c.dies = 0 →
            c.firstDie.val + c.dies ≤ 16 → (∀ L ∈ s.launches, L.part ≠ c.num) → s.wf = true →
            (∀ p : Fin 16, p ≠ c.num → s.parts[p].present = true →
              (s.parts[p].firstDie % 16 + s.parts[p].dies ≤ c.firstDie.val ∨ c.firstDie.val + c.dies ≤ s.parts[p].firstDie % 16)
                ∧ (∀ x ∈ c.contexts, x ∉ s.parts[p].contexts) ∧ ∀ x ∈ c.ports, x ∉ s.parts[p].ports) →
              Completes (.partition cfgs) s fun t =>
                let Q := t.parts[c.num]
                Q.present = true ∧ Q.firstDie = c.firstDie.val ∧ Q.dies = c.dies ∧ Q.contexts = c.contexts ∧ Q.ports = c.ports
                  ∧ Q.digest = c.digest ∧ (∀ l : Fin 4, Q.ptr[l] = 4095 ∧ Q.ctr[l] = 0) ∧ (∀ p : Fin 16, p ≠ c.num → t.parts[p] = s.parts[p])
                  ∧ (∀ pa, t.mem.get pa = open Classical in if inRange Q pa then 0 else s.mem.get pa)
                  ∧ t.out.answers = s.out.answers ++ [0] ∧ t.dev.zeroised = s.dev.zeroised + 1

/-- The Cellar and what is granted outside programs. CELLAR with a valid block keeps the partition's memory as it stands at the event and
its uncorrectable lines, and changes no byte; another while one is in progress writes status 3 and answers busy. The drain sends a
granule at a time, a lost one as zeros; its end has sent every granule, and leaves status 1 and room for the next; an unreachable
target ends it with status 2 and what was sent (R413 to R415; the status as read back while no event record is written and nothing
waits). A granule waits for the vector stores that reserved a part of it before the event, and so does the drain's end (R268, R414).

The lifecycle only moves forward, and RETURN zeroises (R376, R379); a debug token counts once, for a nonce that Lantern issued, and
zeroises the partition before its level rises (R377); a level falls, or rises where no token is needed (R379); an expansion set loads
only when signed and into a slot no context is bound to (R83, R84).

The model's choices: what makes a block valid, the turns of the drain and the place of the manifest at the target (log 24), that only a
context of a present partition counts as bound (log 30), that a level which needs no token changes at once (log 29), and that RETURN
clears the snapshot of a running Cellar and the lofts of kept tasks (log 38). -/
def Obligations.CellarAndGrants : Prop :=
  ∀ (s : State), s.up = true →
    (∀ (part : Fin 16) (a : Word), s.awake = true → s.wf = true →
       let P := s.parts[part]
       let ok := P.present = true ∧ a.toNat % 64 = 0 ∧ P.owns a.toNat 64 = true ∧ s.isolatedAt a.toNat = false
         ∧ s.badLines.contains a.toNat = false
       let w (k : Nat) : Nat := leValue (s.mem.getBytes (a.toNat + 8 * k) 8)
       let valid := w 0 % 0x200000 = 0 ∧ w 4 % 64 = 0 ∧ w 5 % 8 = 0
         ∧ P.owns (w 0) (w 1 % 2 ^ 32 * 0x200000) = true ∧ P.owns (w 4) 0 = true ∧ P.owns (w 5) 8 = true
       (¬ ok ∨ ¬ valid → AnswersOnly s (.cellar part a) 1)
         ∧ (ok → valid → P.cellar = none → Completes (.cellar part a) s fun t => ∃ C : Cellar,
             t = answered { s with parts := s.parts.set part { P with cellar := some C } } 0
             ∧ C.blockAt = a.toNat ∧ (∀ k, k < 8 → C.block.getD k 0 = wd (w k)) ∧ C.sent = [] ∧ C.copied = [] ∧ C.gone = []
             ∧ (∀ o, C.snapshot.get o = if o < P.dies * Config.dieBytes then s.mem.get (P.firstDie * Config.dieBytes + o) else 0)
             ∧ ∀ l, l ∈ C.lost ↔ l ∈ s.badLines ∧ inRange P l)
         ∧ (ok → valid → P.cellar ≠ none → s.world? 0 = none → s.isolatedIn (w 5) 8 = false →
             if s.late = [] ∧ s.rootHeld (w 5) 8 = false then
               Completes (.cellar part a) s fun t => ∃ u, WroteAt s u (.device (w 5)) (leBytes 8 3) ∧ t = answered u 2
             else exec (.cellar part a) s = .next (answered { s with late := s.late ++ [.root (w 5) (leBytes 8 3)] } 2)))
    ∧ (∀ (part : Fin 16), s.wf = true → s.world? 0 = none → (s.parts[part].cellar = none →
         exec (.cellarDrainEnd part) s = .next s ∧ exec (.targetUnreachable part) s = .next s)
         ∧ ∀ (C : Cellar), s.parts[part].cellar = some C →
             let P := s.parts[part]
             let status := (C.block.getD 5 0).toNat
             let lo := P.firstDie * Config.dieBytes
             let size := P.dies * Config.dieBytes
             let man := (C.block.getD 4 0).toNat
             let dest (o : Nat) : Nat := peerKey ((C.block.getD 2 0).toNat % 2 ^ 16) ((C.block.getD 3 0).toNat + o)
             let kept (o : Nat) : Byte := open Classical in if lostSpec s C ((lo + o) / 4096) then 0 else C.snapshot.get o
             let ends (t : State) (n : Nat) : Prop := t.parts[part].cellar = none ∧ t.task = s.task ∧ t.launches = s.launches
               ∧ (P.owns status 8 = true → s.isolatedIn status 8 = false → bit P.evCfg 8 = false → s.late = [] →
                   (∀ pa n, s.reserved 0 pa n true = false) → t.mem.getBytes status 8 = leBytes 8 n)
             (Completes (.targetUnreachable part) s fun t => ends t 2 ∧ t.peer = s.peer)
               ∧ (s.awake = true → bit P.evCfg 8 = false → ∀ g, lo ≤ 4096 * g → 4096 * g + 4096 ≤ lo + size → g ∉ C.sent → s.stillOwed C g = false →
                   let t := s.drainGranule part g
                   t.mem = s.mem ∧ t.task = s.task ∧ (∃ C', t.parts[part].cellar = some C' ∧ C'.sent = C.sent ++ [g] ∧ C'.snapshot = C.snapshot)
                     ∧ ∀ o, o < size → t.peer.get (dest o) = if (lo + o) / 4096 = g then kept o else s.peer.get (dest o))
               ∧ (s.drainHeld part = true → exec (.cellarDrainEnd part) s = .next s)
               ∧ (s.awake = true → bit P.evCfg 8 = false → s.drainHeld part = false → Completes (.cellarDrainEnd part) s fun t => ends t 1
                 ∧ (lo ≤ man → ∀ o, o < size → (lo + o < man ∨ man + size / 0x100000 * 4 + size / 0x8000 ≤ lo + o) →
                     t.peer.get (dest o) = if (lo + o) / 4096 ∈ C.sent then s.peer.get (dest o) else kept o)))
    ∧ (∀ dest : Lifecycle,
         let ok := (s.dev.lifecycle = .blank ∧ dest = .develop) ∨ (s.dev.lifecycle = .develop ∧ dest = .production)
           ∨ ((s.dev.lifecycle = .develop ∨ s.dev.lifecycle = .production) ∧ dest = .returned)
         (¬ ok → exec (.lifecycleAdvance dest) s = .next s)
           ∧ (ok → Completes (.lifecycleAdvance dest) s fun t => t.dev.lifecycle = dest ∧ t.running = s.running
               ∧ (dest = .develop → t.dev.keys = true) ∧ (dest = .production → t.dev.debugKey.isSome = true)
               ∧ (dest = .returned → t.dev.keys = false ∧ t.mem = [] ∧ t.task.loft = [] ∧ (∀ u ∈ t.keptTasks, u.loft = [])
                 ∧ ∀ (p : Fin 16) (C : Cellar), t.parts[p].cellar = some C → C.snapshot = [])
               ∧ (dest ≠ .returned → t.mem = s.mem ∧ t.task = s.task)))
    ∧ (∀ tok : DebugToken, s.wf = true →
         let P := s.parts[tok.part]
         let good := s.dev.lifecycle = .production ∧ tok.identityOk = true ∧ tok.signatureOk = true ∧ tok.nonce ∈ s.dev.nonces ∧ tok.nonce ∉ s.dev.usedNonces
           ∧ P.present = true ∧ debugCode P.debug < debugCode tok.level
         (¬ good → exec (.debugToken tok) s = .next s)
           ∧ (good → Completes (.debugToken tok) s fun t => t.parts[tok.part].debug = tok.level ∧ tok.nonce ∈ t.dev.usedNonces
               ∧ t.task = s.task ∧ ∀ pa, t.mem.get pa = open Classical in if inRange P pa then 0 else s.mem.get pa))
    ∧ (∀ (part : Fin 16) (level : DebugLevel),
         let P := s.parts[part]
         let free := P.present = true ∧ ¬ (s.dev.lifecycle = .production ∧ level = .invasive ∧ P.debug ≠ .invasive)
         (¬ free → exec (.debugLevelChange part level) s = .next s)
           ∧ (free → Completes (.debugLevelChange part level) s fun t => t.parts[part].debug = level ∧ t.mem = s.mem ∧ t.task = s.task
               ∧ (level = .invasive → t.parts[part].invasiveOnce = true)))
    ∧ ∀ (slot : Fin 4) (set : XSet) (signed : Bool),
        let bound := ∃ (c : Fin 64) (p : Fin 16), s.parts[p].present = true ∧ c ∈ s.parts[p].contexts ∧ s.ctxs[c].xset = slot
        ((signed = false ∨ bound) → exec (.expansionSetLoad slot set signed) s = .next s)
          ∧ (signed = true → ¬ bound → Completes (.expansionSetLoad slot set signed) s fun t =>
              t = { s with ops := t.ops, lines := s.keepPassing.lines, dev := { s.dev with slots := s.dev.slots.set slot (some set), meas := t.dev.meas } }
                ∧ (∀ b, b ∈ t.ops ↔ b ∈ s.ops ∧ b.slot ≠ slot) ∧ ∀ k : Fin 4, k ≠ 1 → t.dev.meas[k] = s.dev.meas[k])

/-! ### The machine as a whole -/

/-- At device reset every context's TVEC, PTBASE, LPOOL, WPOOL and WTRAP and its launch ring are 0 (R227, R229, R344, R381, R419);
every partition's COLTAB, FWGRANT, LEND and event ring are 0 (R279, R320, R374, R421); TIME is 0 and no grandmaster has been heard
(R425); no port is up and its sequence numbers are 0 (R293, R296); STAT[0] is set (R426); and no launch, task, world, TLB entry or
collective command exists. All memory reads 0 (R371), in canonical form. From there, with nothing scheduled, a step lets one cycle
pass and changes nothing else. The registers of the idle croft read as at task start (R18, R28), the binding of the expansion set
as 0 and every partition but the first as absent, and host and peer memory, of which R371 says nothing, as 0: the model's choices (logs 1,
3, 5 and 6). -/
def Obligations.ResetState : Prop :=
  let s := State.reset
  (∀ c : Fin 64, s.ctxs[c].tvec = 0 ∧ s.ctxs[c].ptbase = 0 ∧ s.ctxs[c].lpool = 0 ∧ s.ctxs[c].wpool = 0 ∧ s.ctxs[c].wtrap = 0
      ∧ s.ctxs[c].ring = ⟨0, 0, 0, 0, 0⟩ ∧ s.ctxs[c].pairs = [] ∧ s.ctxs[c].xset = 0)
    ∧ (∀ p : Fin 16, s.parts[p].coltab = 0 ∧ s.parts[p].fwgrant = 0 ∧ s.parts[p].lendId = 0 ∧ s.parts[p].evBase = 0
        ∧ s.parts[p].evCfg = 0 ∧ s.parts[p].evTail = 0 ∧ s.parts[p].evHead = 0 ∧ s.parts[p].evLost = 0
        ∧ s.parts[p].cellar = none ∧ (s.parts[p].present = true ↔ p = 0))
    ∧ (∀ p : Fin 32, s.ports[p].up = false ∧ s.ports[p].sendSeq = 0 ∧ s.ports[p].expect = 0)
    ∧ s.time = 0 ∧ s.dev.ptpLocked = false ∧ s.dev.ready = true
    ∧ s.running = false ∧ s.launches = [] ∧ s.worlds = [] ∧ s.tlb = [] ∧ s.ops = [] ∧ s.lines = [] ∧ s.posted = [] ∧ s.late = []
    ∧ s.coll.cmds = [] ∧ fusedB7 s.dev.colmax = true
    ∧ (∀ w p n, s.readPlace w p n = List.replicate n 0) ∧ s.wf = true
    ∧ (∀ r : XReg, s.task.x[r] = 0) ∧ s.task.csr.slip = 32 ∧ s.task.csr.dslack = 64 ∧ s.task.csr.lcfg = 4
    ∧ s.task.csr.ssp = 0x00F00000001C0000#64 ∧ s.task.csr.sslim = 0x00F00000001B0000#64
    ∧ step s = .next { s with dev := { s.dev with cycle := 1 } }

/-- When the word at pc decodes to an instruction, a step of the sequencer is the meaning of that instruction, run from the state
in which its 64-byte block may have been kept and FRAME counts from (R61, R79, R85, R322), and then a cycle passes. A word that decodes
to a fault, and a fetch that fails, trap with that cause; a zero word has TVAL 0 and any other its own value (R79, R390); a fetch whose
walk must wait for a vector store tries again (R268). The word is the four bytes at pc, lowest address first, from a kept block or,
with none, from the place pc translates to. So a step when the sequencer is scheduled,
and, with nothing scheduled, after the engines moved (the order of agents is the model's, log 3), at a boundary with no pre-emption,
no watchdog and no pending trap to take. -/
def Obligations.StepRunsDecoded : Prop :=
  (∀ (s u : State), AtBoundary s u →
    (∀ w i, u.fetchWord u.sup u.task.pc = .ok w → decode u.sup w = .instr i →
        step s = onNext State.finish (exec i (u.fillBlock u.sup u.task.pc).beginFrame))
      ∧ (∀ w c, u.fetchWord u.sup u.task.pc = .ok w → decode u.sup w = .fault c →
          step s = .next ((u.fillBlock u.sup u.task.pc).beginFrame.fault ⟨c, if w = 0 then 0 else wd w, none⟩).finish)
      ∧ (∀ r, u.fetchWord u.sup u.task.pc = .bad r → step s = .next (u.fault r).finish)
      ∧ (u.fetchWord u.sup u.task.pc = .wait → step s = .next u.finish)
      ∧ (∀ f, u.fetchWord u.sup u.task.pc = .stop f → step s = .fault f))
    ∧ (∀ (u : State) (a : Word) (w : Nat), u.fetchWord u.sup a = .ok w →
        a.toNat % 4 = 0 ∧ w < 2 ^ 32
          ∧ ∃ wr p, u.accessCheck (u.who u.sup) .fetch a = .ok (wr, p)
            ∧ (u.heldBlock a.toNat = none → bytesOfWord w = u.readPlace u.task.id.world p 4))
    ∧ (∀ (u : State) (sup : Bool) (a : Word), u.fillBlock sup a = { u with ops := (u.fillBlock sup a).ops, lines := (u.fillBlock sup a).lines }
        ∧ u.beginFrame = { u with task := { u.task with id := { u.task.id with birth := some (u.task.id.birth.getD u.dev.cycle) } } })
    ∧ (∀ u : State, u.posted = [] → u.late = [] → u.finish.task.pc = u.task.pc ∧ u.finish.dev.cycle = u.dev.cycle + 1 ∧ u.finish.mem = u.mem
        ∧ u.finish = { u with task := u.finish.task, dev := { u.dev with cycle := u.dev.cycle + 1 }, coll := u.finish.coll })

/-- The words of a few instructions, written out from the encoding tables (R62 to R77), decode to the instructions they stand for,
and a word that breaks a check of R79 to its cause. -/
def Obligations.DecodeWords : Prop :=
  -- ADD x3, x4, x5: opcode 01, rd 3, rs1 4, rs2 5, fn 0
  decode false 0b000001_00011_00100_00101_00000000000 = .instr (.add 3 4 5)
    -- ADDI x1, x2, -1: opcode 02, rd 1, rs1 2
    ∧ decode false 0b000010_00001_00010_1111111111111111 = .instr (.addi 1 2 0xFFFF#16)
    -- SD x7, 8(x6): opcode 15, rs2 7, rs1 6
    ∧ decode false 0b010101_00111_00110_0000000000001000 = .instr (.sd 7 6 8#16)
    -- AMOADD x9, (x10), x11, device scope, acquire: opcode 16
    ∧ decode false 0b010110_01001_01010_01011_10_1_0_0_000001 = .instr (.amoadd 9 10 11 .device true false false)
    -- JAL x1, -2: opcode 1E
    ∧ decode false 0b011110_00001_111111111111111111110 = .instr (.jal 1 0x1FFFFE#21)
    -- CSRW x0, x5, FCTL: opcode 28, number 010, op 1
    ∧ decode false 0b101000_00000_00101_000000010000_0001 = .instr (.csrw 0 5 0x010#12)
    -- FADD.D x1, x2, x3, RTZ: opcode 29, fmt 1, op 0, rnd 2
    ∧ decode false 0b101001_00001_00010_00011_001_0000_010_0 = .instr (.fadd 1 2 3 .d .rtz)
    -- SKWAIT x4, sk7: opcode 27, object 7, fn 0
    ∧ decode false 0b100111_00000_00100_00000_0_0111_000000 = .instr (.skwait 4 7)
    -- VADD v1, q2, a3: opcode 30
    ∧ decode false 0b110000_00001_10010_11011_00000_000000 = .instr (.vadd (.v 1) (.q 2) (.a 3))
    -- VLD q5, (x6), x7, INT8: opcode 39, mf 8, fn 0
    ∧ decode false 0b111001_10101_00110_00111_1000_0000000 = .instr (.vld 5 6 7 .int8)
    -- TRET in supervisor and in task mode: opcode 17, group 4
    ∧ decode true 0b010111_00000_00000_00000_00100_000000 = .instr .tret
    ∧ decode false 0b010111_00000_00000_00000_00100_000000 = .fault .privileged
    -- a zero word, an unassigned opcode, a reserved field, a reserved vector operand, an accumulator written, a reserved format
    ∧ decode true 0 = .fault .zeroWord
    ∧ decode true 0b111111_00000_00000_0000000000000000 = .fault .illegal
    ∧ decode true 0b000001_00011_00100_00101_00000011000 = .fault .reservedField
    ∧ decode true 0b110000_00001_11100_00000_00000_000000 = .fault .reservedVector
    ∧ decode true 0b110000_11000_00001_00000_00000_000000 = .fault .accWritten
    ∧ decode true 0b110100_00001_00001_01101_00000_000000 = .fault .format

/-- Decoding and encoding agree on every instruction with a word: the word of a well-formed instruction is below 2^32, and decodes
to that instruction in supervisor mode, and in task mode too unless it is TRET, WAITI, HARVEST or TLBINV, which fault 0x04 there;
and a word that decodes to an instruction is, in its low 32 bits, the word of that instruction, which is well formed. So no two
instructions share a word, and no bit of a word is dropped (R62 to R79). -/
def Obligations.DecodeEncode : Prop :=
  (∀ (i : Instr) (w : Nat), i.wf = true → encode i = some w →
      w < 2 ^ 32 ∧ decode true w = .instr i ∧ decode false w = if privileged i then .fault .privileged else .instr i)
    ∧ (∀ (sup : Bool) (w : Nat) (i : Instr), decode sup w = .instr i →
        i.wf = true ∧ encode i = some (w % 2 ^ 32) ∧ (privileged i = true → sup = true))

/-- Every step keeps the canonical form of every memory the machine holds: device, host and peer memory, the lofts of the running
and of every kept task, the copies of every world and the snapshots of Cellars in progress. The form is the model's own
(addresses rise, no byte listed that an unlisted address reads as); it is what makes equal memories equal data. And no step changes the
column maxima that a part was fused with, so a PW-B7 stays one and a PW-B7-H stays one (R14). -/
def Obligations.StepKeepsWf : Prop :=
  ∀ s t : State, step s = .next t → (s.wf = true → t.wf = true) ∧ t.dev.colmax = s.dev.colmax
end

