-- ==== Sys2Proof/Laws/Decode.lean ====
section
/-! SUPPORT. The fields of an instruction word, read back: small lemmas for the proofs about the decoder and the encoder. -/

namespace Sys2Proof

@[simp] theorem xr_val (r : XReg) : xr r.val = r := by simp [xr]

@[simp] theorem finOfNat_val {n : Nat} [NeZero n] (k : Fin n) : Fin.ofNat n k.val = k := by simp

@[simp] theorem boolBit (b : Bool) : (b.toNat == 1) = b := by cases b <;> rfl

@[simp] theorem VSrc.ofCode_code (a : VSrc) : VSrc.ofCode a.code = a := by
  cases a with
  | v i => revert i; decide
  | q i => revert i; decide
  | a i => revert i; decide

@[simp] theorem VDst.ofCode_code (a : VDst) : VDst.ofCode a.code = a := by
  cases a with
  | v i => revert i; decide
  | q i => revert i; decide

@[simp] theorem Fmt.ofCode_code (f : Fmt) : Fmt.ofCode f.code = some f := by cases f <;> rfl
@[simp] theorem Scope.ofCode_code (c : Scope) : Scope.ofCode c.code = c := by cases c <;> rfl
@[simp] theorem FRnd.ofCode_code (r : FRnd) : FRnd.ofCode r.code = r := by cases r <;> rfl
@[simp] theorem Cond.ofCode_code (c : Cond) : Cond.ofCode c.code = c := by cases c <;> rfl
@[simp] theorem FFmt.ofCode_code (f : FFmt) : (if f.code = 0 then FFmt.s else FFmt.d) = f := by cases f <;> rfl

theorem VSrc.code_lt (a : VSrc) : a.code < 28 := by cases a <;> simp only [VSrc.code] <;> omega
theorem VDst.code_lt (a : VDst) : a.code < 24 := by cases a <;> simp only [VDst.code] <;> omega
theorem Fmt.code_lt (f : Fmt) : f.code < 13 := by cases f <;> decide
theorem Scope.code_lt (c : Scope) : c.code < 4 := by cases c <;> decide
theorem FRnd.code_lt (r : FRnd) : r.code < 5 := by cases r <;> decide
theorem Cond.code_lt (c : Cond) : c.code < 7 := by cases c <;> decide
theorem FFmt.code_lt (f : FFmt) : f.code < 2 := by cases f <;> decide

theorem Cond.code_ne_seven (c : Cond) : ¬ c.code = 7 := by cases c <;> decide
@[simp] theorem FFmt.code_lt_two (f : FFmt) : ¬ 2 ≤ f.code := by have := f.code_lt; omega
@[simp] theorem FRnd.code_lt_five (r : FRnd) : ¬ 5 ≤ r.code := by have := r.code_lt; omega
@[simp] theorem VSrc.code_ne_reserved (a : VSrc) : ¬ 28 ≤ a.code := by have := a.code_lt; omega
@[simp] theorem VDst.code_ne_reserved (a : VDst) : ¬ 28 ≤ a.code := by have := a.code_lt; omega
@[simp] theorem VDst.code_ne_acc (a : VDst) : ¬ 24 ≤ a.code := by have := a.code_lt; omega

/-! ### Words of each shape -/

theorem decode_01 {sup : Bool} {w : Nat} (h : fOp w = 0x01) (nz : w ≠ 0) : decode sup w = decodeOpr w := by
  rw [decode, if_neg nz, h]; rfl

theorem decode_02 {sup : Bool} {w : Nat} (h : fOp w = 0x02) (nz : w ≠ 0) : decode sup w = decI w .addi := by
  rw [decode, if_neg nz, h]; rfl

theorem decode_03 {sup : Bool} {w : Nat} (h : fOp w = 0x03) (nz : w ≠ 0) : decode sup w = decI w .andi := by
  rw [decode, if_neg nz, h]; rfl

theorem decode_04 {sup : Bool} {w : Nat} (h : fOp w = 0x04) (nz : w ≠ 0) : decode sup w = decI w .ori := by
  rw [decode, if_neg nz, h]; rfl

theorem decode_05 {sup : Bool} {w : Nat} (h : fOp w = 0x05) (nz : w ≠ 0) : decode sup w = decI w .xori := by
  rw [decode, if_neg nz, h]; rfl

theorem decode_06 {sup : Bool} {w : Nat} (h : fOp w = 0x06) (nz : w ≠ 0) : decode sup w = decI w .slti := by
  rw [decode, if_neg nz, h]; rfl

theorem decode_07 {sup : Bool} {w : Nat} (h : fOp w = 0x07) (nz : w ≠ 0) : decode sup w = decI w .sltiu := by
  rw [decode, if_neg nz, h]; rfl

theorem decode_08 {sup : Bool} {w : Nat} (h : fOp w = 0x08) (nz : w ≠ 0) : decode sup w = decodeShi w := by
  rw [decode, if_neg nz, h]; rfl

theorem decode_09 {sup : Bool} {w : Nat} (h : fOp w = 0x09) (nz : w ≠ 0) : decode sup w = decJ w .lui := by
  rw [decode, if_neg nz, h]; rfl

theorem decode_0A {sup : Bool} {w : Nat} (h : fOp w = 0x0A) (nz : w ≠ 0) : decode sup w = decJ w .luipc := by
  rw [decode, if_neg nz, h]; rfl

theorem decode_0B {sup : Bool} {w : Nat} (h : fOp w = 0x0B) (nz : w ≠ 0) : decode sup w = decI w .lb := by
  rw [decode, if_neg nz, h]; rfl

theorem decode_0C {sup : Bool} {w : Nat} (h : fOp w = 0x0C) (nz : w ≠ 0) : decode sup w = decI w .lbu := by
  rw [decode, if_neg nz, h]; rfl

theorem decode_0D {sup : Bool} {w : Nat} (h : fOp w = 0x0D) (nz : w ≠ 0) : decode sup w = decI w .lh := by
  rw [decode, if_neg nz, h]; rfl

theorem decode_0E {sup : Bool} {w : Nat} (h : fOp w = 0x0E) (nz : w ≠ 0) : decode sup w = decI w .lhu := by
  rw [decode, if_neg nz, h]; rfl

theorem decode_0F {sup : Bool} {w : Nat} (h : fOp w = 0x0F) (nz : w ≠ 0) : decode sup w = decI w .lw := by
  rw [decode, if_neg nz, h]; rfl

theorem decode_10 {sup : Bool} {w : Nat} (h : fOp w = 0x10) (nz : w ≠ 0) : decode sup w = decI w .lwu := by
  rw [decode, if_neg nz, h]; rfl

theorem decode_11 {sup : Bool} {w : Nat} (h : fOp w = 0x11) (nz : w ≠ 0) : decode sup w = decI w .ld := by
  rw [decode, if_neg nz, h]; rfl

theorem decode_12 {sup : Bool} {w : Nat} (h : fOp w = 0x12) (nz : w ≠ 0) : decode sup w = decB w .sb := by
  rw [decode, if_neg nz, h]; rfl

theorem decode_13 {sup : Bool} {w : Nat} (h : fOp w = 0x13) (nz : w ≠ 0) : decode sup w = decB w .sh := by
  rw [decode, if_neg nz, h]; rfl

theorem decode_14 {sup : Bool} {w : Nat} (h : fOp w = 0x14) (nz : w ≠ 0) : decode sup w = decB w .sw := by
  rw [decode, if_neg nz, h]; rfl

theorem decode_15 {sup : Bool} {w : Nat} (h : fOp w = 0x15) (nz : w ≠ 0) : decode sup w = decB w .sd := by
  rw [decode, if_neg nz, h]; rfl

theorem decode_16 {sup : Bool} {w : Nat} (h : fOp w = 0x16) (nz : w ≠ 0) : decode sup w = decodeAmo w := by
  rw [decode, if_neg nz, h]; rfl

theorem decode_17 {sup : Bool} {w : Nat} (h : fOp w = 0x17) (nz : w ≠ 0) : decode sup w = decodeSys sup w := by
  rw [decode, if_neg nz, h]; rfl

theorem decode_18 {sup : Bool} {w : Nat} (h : fOp w = 0x18) (nz : w ≠ 0) : decode sup w = decB w .beq := by
  rw [decode, if_neg nz, h]; rfl

theorem decode_19 {sup : Bool} {w : Nat} (h : fOp w = 0x19) (nz : w ≠ 0) : decode sup w = decB w .bne := by
  rw [decode, if_neg nz, h]; rfl

theorem decode_1A {sup : Bool} {w : Nat} (h : fOp w = 0x1A) (nz : w ≠ 0) : decode sup w = decB w .blt := by
  rw [decode, if_neg nz, h]; rfl

theorem decode_1B {sup : Bool} {w : Nat} (h : fOp w = 0x1B) (nz : w ≠ 0) : decode sup w = decB w .bge := by
  rw [decode, if_neg nz, h]; rfl

theorem decode_1C {sup : Bool} {w : Nat} (h : fOp w = 0x1C) (nz : w ≠ 0) : decode sup w = decB w .bltu := by
  rw [decode, if_neg nz, h]; rfl

theorem decode_1D {sup : Bool} {w : Nat} (h : fOp w = 0x1D) (nz : w ≠ 0) : decode sup w = decB w .bgeu := by
  rw [decode, if_neg nz, h]; rfl

theorem decode_1E {sup : Bool} {w : Nat} (h : fOp w = 0x1E) (nz : w ≠ 0) : decode sup w = decJ w .jal := by
  rw [decode, if_neg nz, h]; rfl

theorem decode_1F {sup : Bool} {w : Nat} (h : fOp w = 0x1F) (nz : w ≠ 0) : decode sup w = decI w .jalr := by
  rw [decode, if_neg nz, h]; rfl

theorem decode_20 {sup : Bool} {w : Nat} (h : fOp w = 0x20) (nz : w ≠ 0) : decode sup w = decodeLoop w := by
  rw [decode, if_neg nz, h]; rfl

theorem decode_21 {sup : Bool} {w : Nat} (h : fOp w = 0x21) (nz : w ≠ 0) : decode sup w = decodeLoopi w := by
  rw [decode, if_neg nz, h]; rfl

theorem decode_22 {sup : Bool} {w : Nat} (h : fOp w = 0x22) (nz : w ≠ 0) : decode sup w = decodeStk w := by
  rw [decode, if_neg nz, h]; rfl

theorem decode_23 {sup : Bool} {w : Nat} (h : fOp w = 0x23) (nz : w ≠ 0) : decode sup w = decodeTask w := by
  rw [decode, if_neg nz, h]; rfl

theorem decode_24 {sup : Bool} {w : Nat} (h : fOp w = 0x24) (nz : w ≠ 0) : decode sup w = decodeWorld w := by
  rw [decode, if_neg nz, h]; rfl

theorem decode_25 {sup : Bool} {w : Nat} (h : fOp w = 0x25) (nz : w ≠ 0) : decode sup w = decodeShape w := by
  rw [decode, if_neg nz, h]; rfl

theorem decode_26 {sup : Bool} {w : Nat} (h : fOp w = 0x26) (nz : w ≠ 0) : decode sup w = decodeEng w := by
  rw [decode, if_neg nz, h]; rfl

theorem decode_27 {sup : Bool} {w : Nat} (h : fOp w = 0x27) (nz : w ≠ 0) : decode sup w = decodeSync w := by
  rw [decode, if_neg nz, h]; rfl

theorem decode_28 {sup : Bool} {w : Nat} (h : fOp w = 0x28) (nz : w ≠ 0) : decode sup w = decodeCsr w := by
  rw [decode, if_neg nz, h]; rfl

theorem decode_29 {sup : Bool} {w : Nat} (h : fOp w = 0x29) (nz : w ≠ 0) : decode sup w = decodeFps w := by
  rw [decode, if_neg nz, h]; rfl

theorem decode_2A {sup : Bool} {w : Nat} (h : fOp w = 0x2A) (nz : w ≠ 0) : decode sup w = decodeOrb w := by
  rw [decode, if_neg nz, h]; rfl

theorem decode_30 {sup : Bool} {w : Nat} (h : fOp w = 0x30) (nz : w ≠ 0) : decode sup w = decodeVar w := by
  rw [decode, if_neg nz, h]; rfl

theorem decode_31 {sup : Bool} {w : Nat} (h : fOp w = 0x31) (nz : w ≠ 0) : decode sup w = decodeVfm w := by
  rw [decode, if_neg nz, h]; rfl

theorem decode_32 {sup : Bool} {w : Nat} (h : fOp w = 0x32) (nz : w ≠ 0) : decode sup w = decodeVbit w := by
  rw [decode, if_neg nz, h]; rfl

theorem decode_33 {sup : Bool} {w : Nat} (h : fOp w = 0x33) (nz : w ≠ 0) : decode sup w = decodeVcmpg w := by
  rw [decode, if_neg nz, h]; rfl

theorem decode_34 {sup : Bool} {w : Nat} (h : fOp w = 0x34) (nz : w ≠ 0) : decode sup w = decodeVcv w := by
  rw [decode, if_neg nz, h]; rfl

theorem decode_35 {sup : Bool} {w : Nat} (h : fOp w = 0x35) (nz : w ≠ 0) : decode sup w = decodeVsf w := by
  rw [decode, if_neg nz, h]; rfl

theorem decode_36 {sup : Bool} {w : Nat} (h : fOp w = 0x36) (nz : w ≠ 0) : decode sup w = decodeVax w := by
  rw [decode, if_neg nz, h]; rfl

theorem decode_37 {sup : Bool} {w : Nat} (h : fOp w = 0x37) (nz : w ≠ 0) : decode sup w = decodeVdt w := by
  rw [decode, if_neg nz, h]; rfl

theorem decode_38 {sup : Bool} {w : Nat} (h : fOp w = 0x38) (nz : w ≠ 0) : decode sup w = decodeVxs w := by
  rw [decode, if_neg nz, h]; rfl

theorem decode_39 {sup : Bool} {w : Nat} (h : fOp w = 0x39) (nz : w ≠ 0) : decode sup w = decodeVmem w := by
  rw [decode, if_neg nz, h]; rfl

theorem decode_3A {sup : Bool} {w : Nat} (h : fOp w = 0x3A) (nz : w ≠ 0) : decode sup w = decodeVrng w := by
  rw [decode, if_neg nz, h]; rfl

theorem fields0 {w base o x0 x1 x2 g0 v0 : Nat}
    (hw : w = base + x0 * 2097152 + x1 * 65536 + x2 * 2048)
    (hb : base = o * 67108864 + g0) (ho : o < 64) (ho0 : 0 < o)
    (a0 : x0 < 32) (a1 : x1 < 32) (a2 : x2 < 32) (b0 : g0 < 2048) (c0 : g0 = v0) :
    w < 2 ^ 32 ∧ w ≠ 0 ∧ fOp w = o ∧ fD w = x0 ∧ fA w = x1 ∧ fB w = x2 ∧ fFn w = v0 := by
  unfold fOp fD fA fB fFn; omega

theorem fields1 {w base o x0 x1 g0 g1 v0 v1 : Nat}
    (hw : w = base + x0 * 2097152 + x1 * 65536)
    (hb : base = o * 67108864 + g0 + g1 * 2048) (ho : o < 64) (ho0 : 0 < o)
    (a0 : x0 < 32) (a1 : x1 < 32) (b0 : g0 < 2048) (b1 : g1 < 32) (c0 : g1 = v0) (c1 : g0 = v1) :
    w < 2 ^ 32 ∧ w ≠ 0 ∧ fOp w = o ∧ fD w = x0 ∧ fA w = x1 ∧ fB w = v0 ∧ fFn w = v1 := by
  unfold fOp fD fA fB fFn; omega

theorem fields2 {w base o x0 x1 x2 : Nat}
    (hw : w = base + x0 * 2097152 + x1 * 65536 + x2)
    (hb : base = o * 67108864) (ho : o < 64) (ho0 : 0 < o)
    (a0 : x0 < 32) (a1 : x1 < 32) (a2 : x2 < 65536) :
    w < 2 ^ 32 ∧ w ≠ 0 ∧ fOp w = o ∧ fD w = x0 ∧ fA w = x1 ∧ w % 65536 = x2 := by
  unfold fOp fD fA; omega

theorem fields3 {w base o x0 x1 x2 g0 g1 v0 v1 : Nat}
    (hw : w = base + x0 * 2097152 + x1 * 65536 + x2)
    (hb : base = o * 67108864 + g0 * 64 + g1 * 16384) (ho : o < 64) (ho0 : 0 < o)
    (a0 : x0 < 32) (a1 : x1 < 32) (a2 : x2 < 64) (b0 : g0 < 256) (b1 : g1 < 4) (c0 : g1 = v0) (c1 : g0 = v1) :
    w < 2 ^ 32 ∧ w ≠ 0 ∧ fOp w = o ∧ fD w = x0 ∧ fA w = x1 ∧ w / 16384 % 4 = v0 ∧ w / 64 % 256 = v1 ∧ w % 64 = x2 := by
  unfold fOp fD fA; omega

theorem fields4 {w base o x0 x1 : Nat}
    (hw : w = base + x0 * 2097152 + x1)
    (hb : base = o * 67108864) (ho : o < 64) (ho0 : 0 < o)
    (a0 : x0 < 32) (a1 : x1 < 2097152) :
    w < 2 ^ 32 ∧ w ≠ 0 ∧ fOp w = o ∧ fD w = x0 ∧ w % 2097152 = x1 := by
  unfold fOp fD; omega

theorem fields5 {w base o x0 x1 x2 x3 x4 x5 x6 g0 v0 : Nat}
    (hw : w = base + x0 * 2097152 + x1 * 65536 + x2 * 2048 + x3 * 512 + x4 * 256 + x5 * 128 + x6 * 64)
    (hb : base = o * 67108864 + g0) (ho : o < 64) (ho0 : 0 < o)
    (a0 : x0 < 32) (a1 : x1 < 32) (a2 : x2 < 32) (a3 : x3 < 4) (a4 : x4 < 2) (a5 : x5 < 2) (a6 : x6 < 2) (b0 : g0 < 64) (c0 : g0 = v0) :
    w < 2 ^ 32 ∧ w ≠ 0 ∧ fOp w = o ∧ fD w = x0 ∧ fA w = x1 ∧ fB w = x2 ∧ fFn6 w = v0 ∧ w / 512 % 4 = x3 ∧ w / 256 % 2 = x4 ∧ w / 128 % 2 = x5 ∧ w / 64 % 2 = x6 := by
  unfold fOp fD fA fB fFn6; omega

theorem fields6 {w base o x0 x1 x2 g0 g1 g2 g3 g4 v0 v1 v2 v3 v4 : Nat}
    (hw : w = base + x0 * 16 + x1 * 8 + x2 * 4)
    (hb : base = o * 67108864 + g0 + g1 * 64 + g2 * 2048 + g3 * 65536 + g4 * 2097152) (ho : o < 64) (ho0 : 0 < o)
    (a0 : x0 < 4) (a1 : x1 < 2) (a2 : x2 < 2) (b0 : g0 = 0) (b1 : g1 < 32) (b2 : g2 < 32) (b3 : g3 < 32) (b4 : g4 < 32) (c0 : g4 = v0) (c1 : g3 = v1) (c2 : g2 = v2) (c3 : g1 = v3) (c4 : g0 = v4) :
    w < 2 ^ 32 ∧ w ≠ 0 ∧ fOp w = o ∧ fD w = v0 ∧ fA w = v1 ∧ fB w = v2 ∧ fC w = v3 ∧ w % 64 = x0 * 16 + x1 * 8 + x2 * 4 ∧ w % 4 = v4 ∧ w / 16 % 4 = x0 ∧ w / 8 % 2 = x1 ∧ w / 4 % 2 = x2 := by
  unfold fOp fD fA fB fC; omega

theorem fields7 {w base o x0 x1 g0 g1 g2 g3 g4 g5 v0 v1 v2 v3 v4 v5 v6 : Nat}
    (hw : w = base + x0 * 65536 + x1 * 2048)
    (hb : base = o * 67108864 + g0 + g1 * 4 + g2 * 8 + g3 * 16 + g4 * 64 + g5 * 2097152) (ho : o < 64) (ho0 : 0 < o)
    (a0 : x0 < 32) (a1 : x1 < 32) (b0 : g0 < 4) (b1 : g1 < 2) (b2 : g2 < 2) (b3 : g3 < 4) (b4 : g4 < 32) (b5 : g5 < 32) (c0 : g5 = v0) (c1 : g4 = v1) (c2 : g0 + g1 * 4 + g2 * 8 + g3 * 16 = v2) (c3 : g0 = v3) (c4 : g3 = v4) (c5 : g2 = v5) (c6 : g1 = v6) :
    w < 2 ^ 32 ∧ w ≠ 0 ∧ fOp w = o ∧ fD w = v0 ∧ fA w = x0 ∧ fB w = x1 ∧ fC w = v1 ∧ w % 64 = v2 ∧ w % 4 = v3 ∧ w / 16 % 4 = v4 ∧ w / 8 % 2 = v5 ∧ w / 4 % 2 = v6 := by
  unfold fOp fD fA fB fC; omega

theorem fields8 {w base o g0 g1 g2 g3 g4 g5 g6 g7 v0 v1 v2 v3 v4 v5 v6 v7 v8 : Nat}
    (hw : w = base)
    (hb : base = o * 67108864 + g0 + g1 * 4 + g2 * 8 + g3 * 16 + g4 * 64 + g5 * 2048 + g6 * 65536 + g7 * 2097152) (ho : o < 64) (ho0 : 0 < o)
    (b0 : g0 < 4) (b1 : g1 < 2) (b2 : g2 < 2) (b3 : g3 < 4) (b4 : g4 < 32) (b5 : g5 < 32) (b6 : g6 < 32) (b7 : g7 < 32) (c0 : g7 = v0) (c1 : g6 = v1) (c2 : g5 = v2) (c3 : g4 = v3) (c4 : g0 + g1 * 4 + g2 * 8 + g3 * 16 = v4) (c5 : g0 = v5) (c6 : g3 = v6) (c7 : g2 = v7) (c8 : g1 = v8) :
    w < 2 ^ 32 ∧ w ≠ 0 ∧ fOp w = o ∧ fD w = v0 ∧ fA w = v1 ∧ fB w = v2 ∧ fC w = v3 ∧ w % 64 = v4 ∧ w % 4 = v5 ∧ w / 16 % 4 = v6 ∧ w / 8 % 2 = v7 ∧ w / 4 % 2 = v8 := by
  unfold fOp fD fA fB fC; omega

theorem fields9 {w base o x0 x1 x2 g0 v0 : Nat}
    (hw : w = base + x0 * 33554432 + x1 * 65536 + x2)
    (hb : base = o * 67108864 + g0 * 2097152) (ho : o < 64) (ho0 : 0 < o)
    (a0 : x0 < 2) (a1 : x1 < 32) (a2 : x2 < 65536) (b0 : g0 < 16) (c0 : g0 = v0) :
    w < 2 ^ 32 ∧ w ≠ 0 ∧ fOp w = o ∧ fA w = x1 ∧ w / 2097152 % 16 = v0 ∧ w % 65536 = x2 ∧ w / 33554432 % 2 = x0 := by
  unfold fOp fA; omega

theorem fields10 {w base o x0 x1 x2 : Nat}
    (hw : w = base + x0 * 33554432 + x1 * 65536 + x2)
    (hb : base = o * 67108864) (ho : o < 64) (ho0 : 0 < o)
    (a0 : x0 < 2) (a1 : x1 < 512) (a2 : x2 < 65536) :
    w < 2 ^ 32 ∧ w ≠ 0 ∧ fOp w = o ∧ w % 65536 = x2 ∧ w / 65536 % 512 = x1 ∧ w / 33554432 % 2 = x0 := by
  unfold fOp; omega

theorem fields11 {w base o x0 x1 x2 x3 g0 g1 v0 v1 : Nat}
    (hw : w = base + x0 * 2097152 + x1 * 65536 + x2 * 2048 + x3 * 2)
    (hb : base = o * 67108864 + g0 + g1 * 4) (ho : o < 64) (ho0 : 0 < o)
    (a0 : x0 < 32) (a1 : x1 < 32) (a2 : x2 < 32) (a3 : x3 < 2) (b0 : g0 < 2) (b1 : g1 < 512) (c0 : g1 = v0) (c1 : g0 = v1) :
    w < 2 ^ 32 ∧ w ≠ 0 ∧ fOp w = o ∧ fD w = x0 ∧ fA w = x1 ∧ fB w = x2 ∧ w / 2 % 2 = x3 ∧ w / 4 % 512 = v0 ∧ w % 2 = v1 := by
  unfold fOp fD fA fB; omega

theorem fields12 {w base o g0 g1 g2 g3 v0 v1 v2 v3 : Nat}
    (hw : w = base)
    (hb : base = o * 67108864 + g0 + g1 * 2048 + g2 * 65536 + g3 * 2097152) (ho : o < 64) (ho0 : 0 < o)
    (b0 : g0 < 2048) (b1 : g1 < 32) (b2 : g2 < 32) (b3 : g3 < 32) (c0 : g3 = v0) (c1 : g2 = v1) (c2 : g1 = v2) (c3 : g0 = v3) :
    w < 2 ^ 32 ∧ w ≠ 0 ∧ fOp w = o ∧ fD w = v0 ∧ fA w = v1 ∧ fB w = v2 ∧ fFn w = v3 := by
  unfold fOp fD fA fB fFn; omega

theorem fields13 {w base o x0 g0 g1 g2 v0 v1 v2 : Nat}
    (hw : w = base + x0 * 65536)
    (hb : base = o * 67108864 + g0 + g1 * 2048 + g2 * 2097152) (ho : o < 64) (ho0 : 0 < o)
    (a0 : x0 < 32) (b0 : g0 < 2048) (b1 : g1 < 32) (b2 : g2 < 32) (c0 : g2 = v0) (c1 : g1 = v1) (c2 : g0 = v2) :
    w < 2 ^ 32 ∧ w ≠ 0 ∧ fOp w = o ∧ fD w = v0 ∧ fA w = x0 ∧ fB w = v1 ∧ fFn w = v2 := by
  unfold fOp fD fA fB fFn; omega

theorem fields14 {w base o x0 g0 g1 g2 v0 v1 v2 : Nat}
    (hw : w = base + x0 * 2097152)
    (hb : base = o * 67108864 + g0 + g1 * 2048 + g2 * 65536) (ho : o < 64) (ho0 : 0 < o)
    (a0 : x0 < 32) (b0 : g0 < 2048) (b1 : g1 < 32) (b2 : g2 < 32) (c0 : g2 = v0) (c1 : g1 = v1) (c2 : g0 = v2) :
    w < 2 ^ 32 ∧ w ≠ 0 ∧ fOp w = o ∧ fD w = x0 ∧ fA w = v0 ∧ fB w = v1 ∧ fFn w = v2 := by
  unfold fOp fD fA fB fFn; omega

theorem fields15 {w base o x0 x1 g0 g1 v0 v1 : Nat}
    (hw : w = base + x0 * 65536 + x1 * 2048)
    (hb : base = o * 67108864 + g0 + g1 * 2097152) (ho : o < 64) (ho0 : 0 < o)
    (a0 : x0 < 32) (a1 : x1 < 32) (b0 : g0 < 2048) (b1 : g1 < 32) (c0 : g1 = v0) (c1 : g0 = v1) :
    w < 2 ^ 32 ∧ w ≠ 0 ∧ fOp w = o ∧ fD w = v0 ∧ fA w = x0 ∧ fB w = x1 ∧ fFn w = v1 := by
  unfold fOp fD fA fB fFn; omega

theorem fields16 {w base o x0 x1 g0 g1 g2 g3 v0 v1 v2 v3 : Nat}
    (hw : w = base + x0 * 65536 + x1 * 64)
    (hb : base = o * 67108864 + g0 + g1 * 1024 + g2 * 2048 + g3 * 2097152) (ho : o < 64) (ho0 : 0 < o)
    (a0 : x0 < 32) (a1 : x1 < 16) (b0 : g0 < 64) (b1 : g1 < 2) (b2 : g2 < 32) (b3 : g3 < 32) (c0 : g3 = v0) (c1 : g2 = v1) (c2 : g0 = v2) (c3 : g1 = v3) :
    w < 2 ^ 32 ∧ w ≠ 0 ∧ fOp w = o ∧ fD w = v0 ∧ fA w = x0 ∧ fB w = v1 ∧ fFn6 w = v2 ∧ w / 64 % 16 = x1 ∧ w / 1024 % 2 = v3 := by
  unfold fOp fD fA fB fFn6; omega

theorem fields17 {w base o x0 x1 g0 g1 g2 g3 v0 v1 v2 v3 : Nat}
    (hw : w = base + x0 * 2097152 + x1 * 64)
    (hb : base = o * 67108864 + g0 + g1 * 1024 + g2 * 2048 + g3 * 65536) (ho : o < 64) (ho0 : 0 < o)
    (a0 : x0 < 32) (a1 : x1 < 16) (b0 : g0 < 64) (b1 : g1 < 2) (b2 : g2 < 32) (b3 : g3 < 32) (c0 : g3 = v0) (c1 : g2 = v1) (c2 : g0 = v2) (c3 : g1 = v3) :
    w < 2 ^ 32 ∧ w ≠ 0 ∧ fOp w = o ∧ fD w = x0 ∧ fA w = v0 ∧ fB w = v1 ∧ fFn6 w = v2 ∧ w / 64 % 16 = x1 ∧ w / 1024 % 2 = v3 := by
  unfold fOp fD fA fB fFn6; omega

theorem fields18 {w base o x0 x1 g0 g1 g2 g3 g4 v0 v1 v2 v3 : Nat}
    (hw : w = base + x0 * 65536 + x1 * 64)
    (hb : base = o * 67108864 + g0 + g1 * 256 + g2 * 1024 + g3 * 2048 + g4 * 2097152) (ho : o < 64) (ho0 : 0 < o)
    (a0 : x0 < 32) (a1 : x1 < 4) (b0 : g0 < 64) (b1 : g1 = 0) (b2 : g2 < 2) (b3 : g3 < 32) (b4 : g4 < 32) (c0 : g4 = v0) (c1 : g3 = v1) (c2 : g0 = v2) (c3 : g2 = v3) :
    w < 2 ^ 32 ∧ w ≠ 0 ∧ fOp w = o ∧ fD w = v0 ∧ fA w = x0 ∧ fB w = v1 ∧ fFn6 w = v2 ∧ w / 64 % 16 = x1 ∧ w / 1024 % 2 = v3 := by
  unfold fOp fD fA fB fFn6; omega

theorem fields19 {w base o x0 x1 g0 g1 v0 v1 : Nat}
    (hw : w = base + x0 * 2097152 + x1 * 16)
    (hb : base = o * 67108864 + g0 + g1 * 65536) (ho : o < 64) (ho0 : 0 < o)
    (a0 : x0 < 32) (a1 : x1 < 4096) (b0 : g0 < 16) (b1 : g1 < 32) (c0 : g1 = v0) (c1 : g0 = v1) :
    w < 2 ^ 32 ∧ w ≠ 0 ∧ fOp w = o ∧ fD w = x0 ∧ fA w = v0 ∧ w / 16 % 4096 = x1 ∧ w % 16 = v1 := by
  unfold fOp fD fA; omega

theorem fields20 {w base o x0 x1 x2 g0 v0 : Nat}
    (hw : w = base + x0 * 2097152 + x1 * 65536 + x2 * 16)
    (hb : base = o * 67108864 + g0) (ho : o < 64) (ho0 : 0 < o)
    (a0 : x0 < 32) (a1 : x1 < 32) (a2 : x2 < 4096) (b0 : g0 < 16) (c0 : g0 = v0) :
    w < 2 ^ 32 ∧ w ≠ 0 ∧ fOp w = o ∧ fD w = x0 ∧ fA w = x1 ∧ w / 16 % 4096 = x2 ∧ w % 16 = v0 := by
  unfold fOp fD fA; omega

theorem fields21 {w base o x0 x1 x2 x3 x4 g0 g1 g2 v0 v1 : Nat}
    (hw : w = base + x0 * 2097152 + x1 * 65536 + x2 * 2048 + x3 * 256 + x4 * 2)
    (hb : base = o * 67108864 + g0 + g1 * 16 + g2 * 512) (ho : o < 64) (ho0 : 0 < o)
    (a0 : x0 < 32) (a1 : x1 < 32) (a2 : x2 < 32) (a3 : x3 < 2) (a4 : x4 < 8) (b0 : g0 < 2) (b1 : g1 < 16) (b2 : g2 = 0) (c0 : g0 = v0) (c1 : g1 = v1) :
    w < 2 ^ 32 ∧ w ≠ 0 ∧ fOp w = o ∧ fD w = x0 ∧ fA w = x1 ∧ fB w = x2 ∧ w / 256 % 8 = x3 ∧ w / 2 % 8 = x4 ∧ w % 2 = v0 ∧ w / 16 % 16 = v1 := by
  unfold fOp fD fA fB; omega

theorem fields22 {w base o x0 x1 x2 x3 g0 g1 g2 g3 v0 v1 v2 : Nat}
    (hw : w = base + x0 * 2097152 + x1 * 65536 + x2 * 256 + x3 * 2)
    (hb : base = o * 67108864 + g0 + g1 * 16 + g2 * 512 + g3 * 2048) (ho : o < 64) (ho0 : 0 < o)
    (a0 : x0 < 32) (a1 : x1 < 32) (a2 : x2 < 2) (a3 : x3 < 8) (b0 : g0 < 2) (b1 : g1 < 16) (b2 : g2 = 0) (b3 : g3 < 32) (c0 : g3 = v0) (c1 : g0 = v1) (c2 : g1 = v2) :
    w < 2 ^ 32 ∧ w ≠ 0 ∧ fOp w = o ∧ fD w = x0 ∧ fA w = x1 ∧ fB w = v0 ∧ w / 256 % 8 = x2 ∧ w / 2 % 8 = x3 ∧ w % 2 = v1 ∧ w / 16 % 16 = v2 := by
  unfold fOp fD fA fB; omega

theorem fields23 {w base o x0 x1 x2 x3 g0 g1 g2 g3 v0 v1 v2 : Nat}
    (hw : w = base + x0 * 2097152 + x1 * 65536 + x2 * 2048 + x3 * 256)
    (hb : base = o * 67108864 + g0 + g1 * 2 + g2 * 16 + g3 * 512) (ho : o < 64) (ho0 : 0 < o)
    (a0 : x0 < 32) (a1 : x1 < 32) (a2 : x2 < 32) (a3 : x3 < 2) (b0 : g0 < 2) (b1 : g1 < 8) (b2 : g2 < 16) (b3 : g3 = 0) (c0 : g1 = v0) (c1 : g0 = v1) (c2 : g2 = v2) :
    w < 2 ^ 32 ∧ w ≠ 0 ∧ fOp w = o ∧ fD w = x0 ∧ fA w = x1 ∧ fB w = x2 ∧ w / 256 % 8 = x3 ∧ w / 2 % 8 = v0 ∧ w % 2 = v1 ∧ w / 16 % 16 = v2 := by
  unfold fOp fD fA fB; omega

theorem fields24 {w base o x0 x1 x2 g0 g1 v0 v1 : Nat}
    (hw : w = base + x0 * 2097152 + x1 * 65536 + x2 * 2048)
    (hb : base = o * 67108864 + g0 + g1 * 64) (ho : o < 64) (ho0 : 0 < o)
    (a0 : x0 < 32) (a1 : x1 < 32) (a2 : x2 < 32) (b0 : g0 < 64) (b1 : g1 < 32) (c0 : g1 = v0) (c1 : g0 = v1) :
    w < 2 ^ 32 ∧ w ≠ 0 ∧ fOp w = o ∧ fD w = x0 ∧ fA w = x1 ∧ fB w = x2 ∧ fC w = v0 ∧ fFn6 w = v1 := by
  unfold fOp fD fA fB fC fFn6; omega

theorem fields25 {w base o x0 x1 g0 g1 g2 v0 v1 v2 : Nat}
    (hw : w = base + x0 * 2097152 + x1 * 65536)
    (hb : base = o * 67108864 + g0 + g1 * 64 + g2 * 2048) (ho : o < 64) (ho0 : 0 < o)
    (a0 : x0 < 32) (a1 : x1 < 32) (b0 : g0 < 64) (b1 : g1 < 32) (b2 : g2 < 32) (c0 : g2 = v0) (c1 : g1 = v1) (c2 : g0 = v2) :
    w < 2 ^ 32 ∧ w ≠ 0 ∧ fOp w = o ∧ fD w = x0 ∧ fA w = x1 ∧ fB w = v0 ∧ fC w = v1 ∧ fFn6 w = v2 := by
  unfold fOp fD fA fB fC fFn6; omega

theorem fields26 {w base o x0 x1 x2 x3 g0 v0 : Nat}
    (hw : w = base + x0 * 2097152 + x1 * 65536 + x2 * 2048 + x3 * 64)
    (hb : base = o * 67108864 + g0) (ho : o < 64) (ho0 : 0 < o)
    (a0 : x0 < 32) (a1 : x1 < 32) (a2 : x2 < 32) (a3 : x3 < 32) (b0 : g0 < 64) (c0 : g0 = v0) :
    w < 2 ^ 32 ∧ w ≠ 0 ∧ fOp w = o ∧ fD w = x0 ∧ fA w = x1 ∧ fB w = x2 ∧ fC w = x3 ∧ fFn6 w = v0 := by
  unfold fOp fD fA fB fC fFn6; omega

theorem fields27 {w base o x0 x1 x2 x3 g0 g1 v0 v1 : Nat}
    (hw : w = base + x0 * 2097152 + x1 * 65536 + x2 * 2048 + x3 * 8)
    (hb : base = o * 67108864 + g0 + g1 * 64) (ho : o < 64) (ho0 : 0 < o)
    (a0 : x0 < 32) (a1 : x1 < 32) (a2 : x2 < 32) (a3 : x3 < 8) (b0 : g0 < 8) (b1 : g1 < 32) (c0 : g1 = v0) (c1 : g0 = v1) :
    w < 2 ^ 32 ∧ w ≠ 0 ∧ fOp w = o ∧ fD w = x0 ∧ fA w = x1 ∧ fB w = x2 ∧ fC w = v0 ∧ w / 8 % 8 = x3 ∧ w % 8 = v1 := by
  unfold fOp fD fA fB fC; omega

theorem fields28 {w base o x0 x1 x2 x3 g0 g1 v0 v1 : Nat}
    (hw : w = base + x0 * 2097152 + x1 * 65536 + x2 * 2048 + x3 * 64)
    (hb : base = o * 67108864 + g0 + g1 * 8) (ho : o < 64) (ho0 : 0 < o)
    (a0 : x0 < 32) (a1 : x1 < 32) (a2 : x2 < 32) (a3 : x3 < 32) (b0 : g0 < 8) (b1 : g1 < 8) (c0 : g1 = v0) (c1 : g0 = v1) :
    w < 2 ^ 32 ∧ w ≠ 0 ∧ fOp w = o ∧ fD w = x0 ∧ fA w = x1 ∧ fB w = x2 ∧ fC w = x3 ∧ w / 8 % 8 = v0 ∧ w % 8 = v1 := by
  unfold fOp fD fA fB fC; omega

theorem fields29 {w base o x0 x1 x2 g0 g1 g2 v0 v1 : Nat}
    (hw : w = base + x0 * 2097152 + x1 * 65536 + x2 * 2048)
    (hb : base = o * 67108864 + g0 + g1 * 64 + g2 * 32768) (ho : o < 64) (ho0 : 0 < o)
    (a0 : x0 < 32) (a1 : x1 < 32) (a2 : x2 < 16) (b0 : g0 < 64) (b1 : g1 < 32) (b2 : g2 = 0) (c0 : g1 = v0) (c1 : g0 = v1) :
    w < 2 ^ 32 ∧ w ≠ 0 ∧ fOp w = o ∧ fD w = x0 ∧ fA w = x1 ∧ fB w = x2 ∧ fC w = v0 ∧ fFn6 w = v1 := by
  unfold fOp fD fA fB fC fFn6; omega

theorem fields30 {w base o x0 x1 x2 x3 x4 x5 x6 g0 g1 v0 v1 : Nat}
    (hw : w = base + x0 * 2097152 + x1 * 65536 + x2 * 2048 + x3 * 64 + x4 * 16 + x5 * 8 + x6 * 4)
    (hb : base = o * 67108864 + g0 + g1 * 32) (ho : o < 64) (ho0 : 0 < o)
    (a0 : x0 < 32) (a1 : x1 < 32) (a2 : x2 < 32) (a3 : x3 < 32) (a4 : x4 < 2) (a5 : x5 < 2) (a6 : x6 < 2) (b0 : g0 < 4) (b1 : g1 < 2) (c0 : g1 = v0) (c1 : g0 = v1) :
    w < 2 ^ 32 ∧ w ≠ 0 ∧ fOp w = o ∧ fD w = x0 ∧ fA w = x1 ∧ fB w = x2 ∧ fC w = x3 ∧ w / 16 % 2 = x4 ∧ w / 8 % 2 = x5 ∧ w / 4 % 2 = x6 ∧ w / 32 % 2 = v0 ∧ w % 4 = v1 := by
  unfold fOp fD fA fB fC; omega

theorem fields31 {w base o x0 x1 x2 x3 x4 x5 g0 g1 g2 g3 v0 v1 v2 : Nat}
    (hw : w = base + x0 * 2097152 + x1 * 65536 + x2 * 2048 + x3 * 16 + x4 * 8 + x5 * 4)
    (hb : base = o * 67108864 + g0 + g1 * 32 + g2 * 64 + g3 * 32768) (ho : o < 64) (ho0 : 0 < o)
    (a0 : x0 < 32) (a1 : x1 < 32) (a2 : x2 < 16) (a3 : x3 < 2) (a4 : x4 < 2) (a5 : x5 < 2) (b0 : g0 < 4) (b1 : g1 < 2) (b2 : g2 < 32) (b3 : g3 = 0) (c0 : g2 = v0) (c1 : g1 = v1) (c2 : g0 = v2) :
    w < 2 ^ 32 ∧ w ≠ 0 ∧ fOp w = o ∧ fD w = x0 ∧ fA w = x1 ∧ fB w = x2 ∧ fC w = v0 ∧ w / 16 % 2 = x3 ∧ w / 8 % 2 = x4 ∧ w / 4 % 2 = x5 ∧ w / 32 % 2 = v1 ∧ w % 4 = v2 := by
  unfold fOp fD fA fB fC; omega

theorem fields32 {w base o x0 x1 x2 g0 g1 v0 v1 : Nat}
    (hw : w = base + x0 * 2097152 + x1 * 65536 + x2 * 64)
    (hb : base = o * 67108864 + g0 + g1 * 2048) (ho : o < 64) (ho0 : 0 < o)
    (a0 : x0 < 32) (a1 : x1 < 32) (a2 : x2 < 32) (b0 : g0 < 64) (b1 : g1 < 32) (c0 : g1 = v0) (c1 : g0 = v1) :
    w < 2 ^ 32 ∧ w ≠ 0 ∧ fOp w = o ∧ fD w = x0 ∧ fA w = x1 ∧ fB w = v0 ∧ fC w = x2 ∧ fFn6 w = v1 := by
  unfold fOp fD fA fB fC fFn6; omega

theorem fields33 {w base o x0 x1 x2 x3 g0 v0 : Nat}
    (hw : w = base + x0 * 2097152 + x1 * 65536 + x2 * 2048 + x3 * 128)
    (hb : base = o * 67108864 + g0) (ho : o < 64) (ho0 : 0 < o)
    (a0 : x0 < 32) (a1 : x1 < 32) (a2 : x2 < 32) (a3 : x3 < 16) (b0 : g0 < 128) (c0 : g0 = v0) :
    w < 2 ^ 32 ∧ w ≠ 0 ∧ fOp w = o ∧ fD w = x0 ∧ fA w = x1 ∧ fB w = x2 ∧ w / 128 % 16 = x3 ∧ w % 128 = v0 := by
  unfold fOp fD fA fB; omega

theorem fields34 {w base o x0 x1 x2 g0 g1 v0 v1 : Nat}
    (hw : w = base + x0 * 2097152 + x1 * 65536 + x2 * 128)
    (hb : base = o * 67108864 + g0 + g1 * 2048) (ho : o < 64) (ho0 : 0 < o)
    (a0 : x0 < 32) (a1 : x1 < 32) (a2 : x2 < 16) (b0 : g0 < 128) (b1 : g1 < 32) (c0 : g1 = v0) (c1 : g0 = v1) :
    w < 2 ^ 32 ∧ w ≠ 0 ∧ fOp w = o ∧ fD w = x0 ∧ fA w = x1 ∧ fB w = v0 ∧ w / 128 % 16 = x2 ∧ w % 128 = v1 := by
  unfold fOp fD fA fB; omega

end Sys2Proof
end

