-- ==== Sys2Proof/Laws/Mem.lean ====
section
/-! SUPPORT. Laws of memory as data: every operation keeps the canonical form, a read after a write gives the bytes written, and
a write leaves every other byte alone (R7, R222). -/

namespace Sys2Proof.Machine

/-! ### The canonical form -/

theorem Mem.wfFrom_cons {lo a : Nat} {b : Byte} {m : Mem} :
    Mem.wfFrom lo ((a, b) :: m) = true ↔ lo ≤ a ∧ b ≠ 0 ∧ Mem.wfFrom (a + 1) m = true := by
  simp [Mem.wfFrom, and_assoc]

theorem Mem.wfFrom_mono {lo lo' : Nat} {m : Mem} (h : Mem.wfFrom lo m = true) (hl : lo' ≤ lo) : Mem.wfFrom lo' m = true := by
  cases m with
  | nil => rfl
  | cons c m =>
    obtain ⟨a, b⟩ := c
    rw [Mem.wfFrom_cons] at h ⊢
    exact ⟨by omega, h.2.1, h.2.2⟩

theorem Mem.wf_of_wfFrom {lo : Nat} {m : Mem} (h : Mem.wfFrom lo m = true) : m.wf = true := Mem.wfFrom_mono h (Nat.zero_le _)

theorem Mem.wf_nil : Mem.wf [] = true := rfl

/-- In a canonical memory no cell lies below the bound. -/
theorem Mem.ge_of_wfFrom {m : Mem} : ∀ {lo : Nat}, Mem.wfFrom lo m = true → ∀ c ∈ m, lo ≤ c.1 := by
  induction m with
  | nil => intro lo _ c hc; cases hc
  | cons d m ih =>
    intro lo h c hc
    obtain ⟨a, b⟩ := d
    rw [Mem.wfFrom_cons] at h
    rcases List.mem_cons.1 hc with rfl | hc
    · exact h.1
    · exact Nat.le_trans (Nat.le_succ_of_le h.1) (ih h.2.2 c hc)

theorem Mem.wfFrom_append {m r : Mem} : ∀ {lo mid : Nat}, Mem.wfFrom lo m = true → (∀ c ∈ m, c.1 < mid) →
    Mem.wfFrom mid r = true → lo ≤ mid → Mem.wfFrom lo (m ++ r) = true := by
  induction m with
  | nil => intro lo mid _ _ hr hl; exact Mem.wfFrom_mono hr hl
  | cons d m ih =>
    intro lo mid h hm hr _
    obtain ⟨a, b⟩ := d
    rw [Mem.wfFrom_cons] at h
    rw [List.cons_append, Mem.wfFrom_cons]
    have ha := hm (a, b) (List.mem_cons_self ..)
    exact ⟨h.1, h.2.1, ih h.2.2 (fun c hc => hm c (List.mem_cons_of_mem _ hc)) hr ha⟩

theorem Mem.wfFrom_filter {f : Host.Cell → Bool} {m : Mem} : ∀ {lo : Nat}, Mem.wfFrom lo m = true →
    Mem.wfFrom lo (m.filter f) = true := by
  induction m with
  | nil => intro lo _; rfl
  | cons d m ih =>
    intro lo h
    obtain ⟨a, b⟩ := d
    rw [Mem.wfFrom_cons] at h
    rw [List.filter_cons]
    split
    · rw [Mem.wfFrom_cons]; exact ⟨h.1, h.2.1, ih h.2.2⟩
    · exact Mem.wfFrom_mono (ih h.2.2) (by omega)

theorem Mem.wf_filter {f : Host.Cell → Bool} {m : Mem} (h : m.wf = true) : Mem.wf (m.filter f) = true := Mem.wfFrom_filter h

theorem Mem.wfFrom_shiftUp {d : Nat} {m : Mem} : ∀ {lo : Nat}, Mem.wfFrom lo m = true →
    Mem.wfFrom (lo + d) (m.shiftUp d) = true := by
  induction m with
  | nil => intro lo _; rfl
  | cons c m ih =>
    intro lo h
    obtain ⟨a, b⟩ := c
    rw [Mem.wfFrom_cons] at h
    show Mem.wfFrom (lo + d) ((a + d, b) :: Mem.shiftUp m d) = true
    rw [Mem.wfFrom_cons]
    refine ⟨by omega, h.2.1, ?_⟩
    have := ih h.2.2
    rwa [show a + 1 + d = a + d + 1 by omega] at this

theorem Mem.wfFrom_shiftDown {d : Nat} {m : Mem} : ∀ {lo : Nat}, Mem.wfFrom lo m = true → d ≤ lo →
    Mem.wfFrom (lo - d) (m.shiftDown d) = true := by
  induction m with
  | nil => intro lo _ _; rfl
  | cons c m ih =>
    intro lo h hd
    obtain ⟨a, b⟩ := c
    rw [Mem.wfFrom_cons] at h
    show Mem.wfFrom (lo - d) ((a - d, b) :: Mem.shiftDown m d) = true
    rw [Mem.wfFrom_cons]
    refine ⟨by omega, h.2.1, ?_⟩
    have := ih h.2.2 (by omega)
    rwa [show a + 1 - d = a - d + 1 by omega] at this

theorem Mem.wfFrom_ofBytes {bs : List Byte} : ∀ {a : Nat}, Mem.wfFrom a (Mem.ofBytes a bs) = true := by
  induction bs with
  | nil => intro a; rfl
  | cons b bs ih =>
    intro a
    rw [Mem.ofBytes]
    split
    · exact Mem.wfFrom_mono ih (by omega)
    · rename_i hb
      rw [Mem.wfFrom_cons]
      exact ⟨Nat.le_refl _, hb, ih⟩

theorem Mem.ofBytes_lt {bs : List Byte} : ∀ {a : Nat}, ∀ c ∈ Mem.ofBytes a bs, c.1 < a + bs.length := by
  induction bs with
  | nil => intro a c hc; cases hc
  | cons b bs ih =>
    intro a c hc
    rw [Mem.ofBytes] at hc
    rw [List.length_cons]
    split at hc
    · have := ih c hc; omega
    · rcases List.mem_cons.1 hc with rfl | hc
      · simp
      · have := ih c hc; omega

/-! ### Cutting -/

theorem Mem.cut_cons_lt {a k : Nat} {v : Byte} {m : Mem} (h : k < a) :
    Mem.cut ((k, v) :: m) a = ((k, v) :: (Mem.cut m a).1, (Mem.cut m a).2) := by
  simp [Mem.cut, h]

theorem Mem.cut_cons_ge {a k : Nat} {v : Byte} {m : Mem} (h : ¬ k < a) : Mem.cut ((k, v) :: m) a = ([], (k, v) :: m) := by
  simp [Mem.cut, h]

theorem Mem.wfFrom_cut_low {a : Nat} {m : Mem} : ∀ {lo : Nat}, Mem.wfFrom lo m = true →
    Mem.wfFrom lo (Mem.cut m a).1 = true := by
  induction m with
  | nil => intro lo _; rfl
  | cons c m ih =>
    intro lo h
    obtain ⟨k, v⟩ := c
    rw [Mem.wfFrom_cons] at h
    by_cases hk : k < a
    · rw [Mem.cut_cons_lt hk, Mem.wfFrom_cons]; exact ⟨h.1, h.2.1, ih h.2.2⟩
    · rw [Mem.cut_cons_ge hk]; rfl

theorem Mem.cut_low_lt {a : Nat} {m : Mem} : ∀ c ∈ (Mem.cut m a).1, c.1 < a := by
  induction m with
  | nil => intro c hc; cases hc
  | cons d m ih =>
    intro c hc
    obtain ⟨k, v⟩ := d
    by_cases hk : k < a
    · rw [Mem.cut_cons_lt hk] at hc
      rcases List.mem_cons.1 hc with rfl | hc
      · exact hk
      · exact ih c hc
    · rw [Mem.cut_cons_ge hk] at hc; cases hc

theorem Mem.wfFrom_cut_high {a : Nat} {m : Mem} : ∀ {lo : Nat}, Mem.wfFrom lo m = true →
    Mem.wfFrom (max lo a) (Mem.cut m a).2 = true := by
  induction m with
  | nil => intro lo _; rfl
  | cons c m ih =>
    intro lo h
    obtain ⟨k, v⟩ := c
    have h' := Mem.wfFrom_cons.1 h
    by_cases hk : k < a
    · rw [Mem.cut_cons_lt hk]; exact Mem.wfFrom_mono (ih h'.2.2) (by omega)
    · rw [Mem.cut_cons_ge hk, Mem.wfFrom_cons]
      exact ⟨by omega, h'.2.1, h'.2.2⟩

/-- A slice is canonical and lies in its range. -/
theorem Mem.wfFrom_slice {m : Mem} (h : m.wf = true) (lo hi : Nat) : Mem.wfFrom lo (m.slice lo hi) = true :=
  Mem.wfFrom_mono (Mem.wfFrom_cut_low (Mem.wfFrom_cut_high h)) (by omega)

theorem Mem.slice_lt (m : Mem) (lo hi : Nat) : ∀ c ∈ m.slice lo hi, c.1 < hi := Mem.cut_low_lt

/-- Replacing a range by canonical cells of the range keeps the canonical form. -/
theorem Mem.wf_replace {m r : Mem} {lo hi : Nat} (h : m.wf = true) (hr : Mem.wfFrom lo r = true) (hh : ∀ c ∈ r, c.1 < hi)
    (hl : lo ≤ hi) : (m.replace lo hi r).wf = true := by
  unfold Mem.replace
  refine Mem.wfFrom_append (mid := hi) ?_ ?_ (Mem.wfFrom_mono (Mem.wfFrom_cut_high h) (by omega)) (Nat.zero_le _)
  · exact Mem.wfFrom_append (mid := lo) (Mem.wfFrom_cut_low h) Mem.cut_low_lt hr (Nat.zero_le _)
  · intro c hc
    rcases List.mem_append.1 hc with hc | hc
    · exact Nat.lt_of_lt_of_le (Mem.cut_low_lt c hc) hl
    · exact hh c hc

theorem Mem.wf_putBytes {m : Mem} (h : m.wf = true) (a : Nat) (bs : List Byte) : (m.putBytes a bs).wf = true :=
  Mem.wf_replace h Mem.wfFrom_ofBytes Mem.ofBytes_lt (by omega)

/-- A range of one memory copied, moved, into another. -/
theorem Mem.wf_copy {m src : Mem} (h : m.wf = true) (hs : src.wf = true) (lo n up : Nat) :
    (m.replace (lo + up) (lo + up + n) (Mem.shiftUp (src.slice lo (lo + n)) up)).wf = true := by
  refine Mem.wf_replace h (Mem.wfFrom_shiftUp (Mem.wfFrom_slice hs _ _)) ?_ (by omega)
  intro c hc
  obtain ⟨d, hd, rfl⟩ := List.mem_map.1 hc
  have := Mem.slice_lt _ _ _ d hd
  simp only
  omega

/-- A range of one memory copied down to 0 and up again into another. -/
theorem Mem.wf_move {m src : Mem} (h : m.wf = true) (hs : src.wf = true) (at_ n dst : Nat) :
    (m.replace dst (dst + n) (Mem.shiftUp (Mem.shiftDown (src.slice at_ (at_ + n)) at_) dst)).wf = true := by
  refine Mem.wf_replace h ?_ ?_ (by omega)
  · have := Mem.wfFrom_shiftUp (d := dst) (Mem.wfFrom_shiftDown (Mem.wfFrom_slice hs at_ (at_ + n)) (Nat.le_refl _))
    rwa [Nat.sub_self, Nat.zero_add] at this
  · intro c hc
    obtain ⟨d, hd, rfl⟩ := List.mem_map.1 hc
    obtain ⟨e, he, rfl⟩ := List.mem_map.1 hd
    have h1 := Mem.slice_lt _ _ _ e he
    have h2 := Mem.ge_of_wfFrom (Mem.wfFrom_slice hs at_ (at_ + n)) e he
    simp only
    omega

theorem Mem.wf_put {m : Mem} : ∀ {lo a : Nat} {b : Byte}, Mem.wfFrom lo m = true → lo ≤ a →
    Mem.wfFrom lo (m.put a b) = true := by
  induction m with
  | nil =>
    intro lo a b _ ha
    rw [Mem.put]
    split
    · rfl
    · rename_i hb; rw [Mem.wfFrom_cons]; exact ⟨ha, hb, rfl⟩
  | cons c m ih =>
    intro lo a b h ha
    obtain ⟨k, v⟩ := c
    have h' := Mem.wfFrom_cons.1 h
    rw [Mem.put]
    split
    · rw [Mem.wfFrom_cons]; exact ⟨h'.1, h'.2.1, ih h'.2.2 (by omega)⟩
    · split
      · split
        · exact Mem.wfFrom_mono h'.2.2 (by omega)
        · rename_i hk hb; subst hk; rw [Mem.wfFrom_cons]; exact ⟨ha, hb, h'.2.2⟩
      · split
        · exact h
        · rename_i hb; rw [Mem.wfFrom_cons, Mem.wfFrom_cons]; exact ⟨ha, hb, by omega, h'.2.1, h'.2.2⟩

/-! ### Reads -/

theorem Mem.get_of_lt {m : Mem} : ∀ {lo c : Nat}, Mem.wfFrom lo m = true → c < lo → m.get c = 0 := by
  induction m with
  | nil => intro lo c _ _; rfl
  | cons d m ih =>
    intro lo c h hc
    obtain ⟨k, v⟩ := d
    have h' := Mem.wfFrom_cons.1 h
    rw [Mem.get, if_neg (by omega)]
    exact ih h'.2.2 (by omega)

theorem Mem.get_of_ge {m : Mem} {hi c : Nat} (h : ∀ d ∈ m, d.1 < hi) (hc : hi ≤ c) : m.get c = 0 := by
  induction m with
  | nil => rfl
  | cons d m ih =>
    obtain ⟨k, v⟩ := d
    have := h (k, v) (List.mem_cons_self ..)
    rw [Mem.get, if_neg (by simp only at this; omega)]
    exact ih fun d hd => h d (List.mem_cons_of_mem _ hd)

theorem Mem.get_append {m r : Mem} {mid : Nat} (hm : ∀ d ∈ m, d.1 < mid) (hr : Mem.wfFrom mid r = true) (c : Nat) :
    Mem.get (m ++ r) c = if c < mid then m.get c else r.get c := by
  induction m with
  | nil =>
    split
    · rename_i hc; exact Mem.get_of_lt hr hc
    · rfl
  | cons d m ih =>
    obtain ⟨k, v⟩ := d
    have hk := hm (k, v) (List.mem_cons_self ..)
    have := ih fun d hd => hm d (List.mem_cons_of_mem _ hd)
    rw [List.cons_append, Mem.get]
    by_cases hc : c = k
    · subst hc; rw [if_pos rfl, if_pos hk, Mem.get, if_pos rfl]
    · rw [if_neg hc, this]
      congr 1
      rw [Mem.get, if_neg hc]

theorem Mem.get_cut_low {a : Nat} {m : Mem} : ∀ {lo : Nat}, Mem.wfFrom lo m = true → ∀ c,
    (Mem.cut m a).1.get c = if c < a then m.get c else 0 := by
  induction m with
  | nil => intro lo _ c; simp [Mem.cut, Mem.get]
  | cons d m ih =>
    intro lo h c
    obtain ⟨k, v⟩ := d
    have h' := Mem.wfFrom_cons.1 h
    by_cases hk : k < a
    · rw [Mem.cut_cons_lt hk, Mem.get, ih h'.2.2 c, Mem.get]
      by_cases hc : c = k
      · subst hc; simp [hk]
      · simp [hc]
    · rw [Mem.cut_cons_ge hk]
      split
      · rename_i hc; rw [Mem.get_of_lt (Mem.wfFrom_cons.2 ⟨Nat.le_refl k, h'.2⟩) (by omega)]; rfl
      · rfl

theorem Mem.get_cut_high {a : Nat} {m : Mem} : ∀ {lo : Nat}, Mem.wfFrom lo m = true → ∀ c,
    (Mem.cut m a).2.get c = if a ≤ c then m.get c else 0 := by
  induction m with
  | nil => intro lo _ c; simp [Mem.cut, Mem.get]
  | cons d m ih =>
    intro lo h c
    obtain ⟨k, v⟩ := d
    have h' := Mem.wfFrom_cons.1 h
    by_cases hk : k < a
    · rw [Mem.cut_cons_lt hk, ih h'.2.2 c, Mem.get]
      by_cases hc : c = k
      · subst hc; simp [Nat.not_le.2 hk]
      · simp [hc]
    · rw [Mem.cut_cons_ge hk]
      split
      · rfl
      · rw [Mem.get_of_lt (Mem.wfFrom_cons.2 ⟨Nat.le_refl k, h'.2⟩) (by omega)]

theorem Mem.get_slice {m : Mem} (h : m.wf = true) (lo hi c : Nat) :
    (m.slice lo hi).get c = if lo ≤ c ∧ c < hi then m.get c else 0 := by
  unfold Mem.slice
  rw [Mem.get_cut_low (Mem.wfFrom_cut_high h), Mem.get_cut_high h]
  by_cases h1 : c < hi <;> by_cases h2 : lo ≤ c <;> simp [h1, h2]

/-- A byte of a memory with a range replaced. -/
theorem Mem.get_replace {m r : Mem} {lo hi : Nat} (h : m.wf = true) (hr : Mem.wfFrom lo r = true) (hh : ∀ c ∈ r, c.1 < hi)
    (hl : lo ≤ hi) (c : Nat) : (m.replace lo hi r).get c = if lo ≤ c ∧ c < hi then r.get c else m.get c := by
  unfold Mem.replace
  have h1 : ∀ d ∈ (Mem.cut m lo).1 ++ r, d.1 < hi := by
    intro d hd
    rcases List.mem_append.1 hd with hd | hd
    · exact Nat.lt_of_lt_of_le (Mem.cut_low_lt d hd) hl
    · exact hh d hd
  rw [Mem.get_append h1 (Mem.wfFrom_mono (Mem.wfFrom_cut_high h) (by omega)), Mem.get_append Mem.cut_low_lt hr,
    Mem.get_cut_low h, Mem.get_cut_high h]
  by_cases h1 : c < hi <;> by_cases h2 : c < lo
  · rw [if_pos h1, if_pos h2, if_pos h2, if_neg (by omega)]
  · rw [if_pos h1, if_neg h2, if_pos (by omega)]
  · omega
  · rw [if_neg h1, if_pos (by omega), if_neg (by omega)]

theorem Mem.get_ofBytes {bs : List Byte} : ∀ {a : Nat} (c : Nat), a ≤ c → c < a + bs.length →
    (Mem.ofBytes a bs).get c = bs.getD (c - a) 0 := by
  induction bs with
  | nil => intro a c h1 h2; simp at h2; omega
  | cons b bs ih =>
    intro a c h1 h2
    rw [List.length_cons] at h2
    rw [Mem.ofBytes]
    by_cases hc : c = a
    · subst hc
      split
      · rename_i hb
        rw [Mem.get_of_lt Mem.wfFrom_ofBytes (by omega), Nat.sub_self, hb]; rfl
      · rw [Mem.get, if_pos rfl, Nat.sub_self]; rfl
    · have e : c - a = (c - (a + 1)) + 1 := by omega
      have := ih (a := a + 1) c (by omega) (by omega)
      split
      · rw [this, e]; rfl
      · rw [Mem.get, if_neg hc, this, e]; rfl

/-- A read after a write of bytes: the bytes written, and every other byte as before (R7). -/
theorem Mem.get_putBytes {m : Mem} (h : m.wf = true) (a : Nat) (bs : List Byte) (c : Nat) :
    (m.putBytes a bs).get c = if a ≤ c ∧ c < a + bs.length then bs.getD (c - a) 0 else m.get c := by
  unfold Mem.putBytes
  rw [Mem.get_replace h Mem.wfFrom_ofBytes Mem.ofBytes_lt (by omega)]
  split
  · rename_i hc; exact Mem.get_ofBytes c hc.1 hc.2
  · rfl

theorem Mem.getBytes_length (m : Mem) : ∀ (n a : Nat), (m.getBytes a n).length = n := by
  intro n
  induction n with
  | zero => intro a; rfl
  | succ n ih => intro a; rw [Mem.getBytes, List.length_cons, ih]

theorem Mem.getBytes_getD (m : Mem) : ∀ (n a k : Nat), k < n → (m.getBytes a n).getD k 0 = m.get (a + k) := by
  intro n
  induction n with
  | zero => intro a k hk; omega
  | succ n ih =>
    intro a k hk
    rw [Mem.getBytes]
    cases k with
    | zero => rfl
    | succ k =>
      show (m.getBytes (a + 1) n).getD k 0 = _
      rw [ih (a + 1) k (by omega)]
      congr 1
      omega

/-- Reads of equal bytes are equal. -/
theorem Mem.getBytes_congr {m r : Mem} : ∀ {n a : Nat}, (∀ c, a ≤ c → c < a + n → m.get c = r.get c) →
    m.getBytes a n = r.getBytes a n := by
  intro n
  induction n with
  | zero => intro a _; rfl
  | succ n ih =>
    intro a h
    rw [Mem.getBytes, Mem.getBytes, h a (Nat.le_refl _) (by omega), ih fun c h1 h2 => h c (by omega) (by omega)]

/-- Bytes read back where they were written. -/
theorem Mem.getBytes_putBytes {m : Mem} (h : m.wf = true) (a : Nat) (bs : List Byte) :
    (m.putBytes a bs).getBytes a bs.length = bs := by
  apply List.ext_getElem
  · rw [Mem.getBytes_length]
  · intro k h1 h2
    have e := Mem.getBytes_getD (m.putBytes a bs) bs.length a k h2
    rw [Mem.get_putBytes h, if_pos ⟨by omega, by omega⟩, Nat.add_sub_cancel_left] at e
    simpa [List.getD_eq_getElem?_getD, List.getElem?_eq_getElem h1, List.getElem?_eq_getElem h2] using e

/-- Bytes elsewhere are as before. -/
theorem Mem.getBytes_putBytes_of_disjoint {m : Mem} (h : m.wf = true) {a : Nat} {bs : List Byte} {c n : Nat}
    (hd : c + n ≤ a ∨ a + bs.length ≤ c) : (m.putBytes a bs).getBytes c n = m.getBytes c n := by
  apply Mem.getBytes_congr
  intro d h1 h2
  rw [Mem.get_putBytes h, if_neg (by omega)]

/-- Two canonical memories with equal bytes are equal data. -/
theorem Mem.ext_get {m : Mem} : ∀ {r : Mem} {lo : Nat}, Mem.wfFrom lo m = true → Mem.wfFrom lo r = true →
    (∀ c, m.get c = r.get c) → m = r := by
  induction m with
  | nil =>
    intro r lo _ hr h
    cases r with
    | nil => rfl
    | cons d r =>
      obtain ⟨k, v⟩ := d
      have := h k
      rw [Mem.get, Mem.get, if_pos rfl] at this
      exact absurd this.symm (Mem.wfFrom_cons.1 hr).2.1
  | cons d m ih =>
    intro r lo hm hr h
    obtain ⟨k, v⟩ := d
    have hm' := Mem.wfFrom_cons.1 hm
    cases r with
    | nil =>
      have := h k
      rw [Mem.get, Mem.get, if_pos rfl] at this
      exact absurd this hm'.2.1
    | cons e r =>
      obtain ⟨j, u⟩ := e
      have hr' := Mem.wfFrom_cons.1 hr
      have hkj : k = j := by
        rcases Nat.lt_trichotomy k j with hlt | heq | hgt
        · have := h k
          rw [Mem.get, if_pos rfl, Mem.get, if_neg (by omega), Mem.get_of_lt hr'.2.2 (by omega)] at this
          exact absurd this hm'.2.1
        · exact heq
        · have := h j
          rw [Mem.get, if_neg (by omega), Mem.get_of_lt hm'.2.2 (by omega), Mem.get, if_pos rfl] at this
          exact absurd this.symm hr'.2.1
      subst hkj
      have hv : v = u := by
        have := h k
        rwa [Mem.get, if_pos rfl, Mem.get, if_pos rfl] at this
      subst hv
      congr 1
      refine ih hm'.2.2 hr'.2.2 fun c => ?_
      by_cases hc : c < k + 1
      · rw [Mem.get_of_lt hm'.2.2 hc, Mem.get_of_lt hr'.2.2 hc]
      · have := h c
        rwa [Mem.get, if_neg (by omega), Mem.get, if_neg (by omega)] at this

end Sys2Proof.Machine
end

