-- ==== Sys2Proof/Laws/State.lean ====
section
/-! SUPPORT. What each named update of the state and of a task leaves in each field, so that no proof unfolds a record update. -/

namespace Sys2Proof.Machine

/-! ### State.setTask -/

@[simp] theorem State.setTask_task (s : State) (f : Task → Task) : (s.setTask f).task = f s.task := rfl
@[simp] theorem State.setTask_running (s : State) (f : Task → Task) : (s.setTask f).running = s.running := rfl
@[simp] theorem State.setTask_die (s : State) (f : Task → Task) : (s.setTask f).die = s.die := rfl
@[simp] theorem State.setTask_pos (s : State) (f : Task → Task) : (s.setTask f).pos = s.pos := rfl
@[simp] theorem State.setTask_mem (s : State) (f : Task → Task) : (s.setTask f).mem = s.mem := rfl
@[simp] theorem State.setTask_host (s : State) (f : Task → Task) : (s.setTask f).host = s.host := rfl
@[simp] theorem State.setTask_peer (s : State) (f : Task → Task) : (s.setTask f).peer = s.peer := rfl
@[simp] theorem State.setTask_badLines (s : State) (f : Task → Task) : (s.setTask f).badLines = s.badLines := rfl
@[simp] theorem State.setTask_hostErr (s : State) (f : Task → Task) : (s.setTask f).hostErr = s.hostErr := rfl
@[simp] theorem State.setTask_peerErr (s : State) (f : Task → Task) : (s.setTask f).peerErr = s.peerErr := rfl
@[simp] theorem State.setTask_dirty (s : State) (f : Task → Task) : (s.setTask f).dirty = s.dirty := rfl
@[simp] theorem State.setTask_tlb (s : State) (f : Task → Task) : (s.setTask f).tlb = s.tlb := rfl
@[simp] theorem State.setTask_ops (s : State) (f : Task → Task) : (s.setTask f).ops = s.ops := rfl
@[simp] theorem State.setTask_lines (s : State) (f : Task → Task) : (s.setTask f).lines = s.lines := rfl
@[simp] theorem State.setTask_ctxs (s : State) (f : Task → Task) : (s.setTask f).ctxs = s.ctxs := rfl
@[simp] theorem State.setTask_parts (s : State) (f : Task → Task) : (s.setTask f).parts = s.parts := rfl
@[simp] theorem State.setTask_dev (s : State) (f : Task → Task) : (s.setTask f).dev = s.dev := rfl
@[simp] theorem State.setTask_launches (s : State) (f : Task → Task) : (s.setTask f).launches = s.launches := rfl
@[simp] theorem State.setTask_nextTid (s : State) (f : Task → Task) : (s.setTask f).nextTid = s.nextTid := rfl
@[simp] theorem State.setTask_worlds (s : State) (f : Task → Task) : (s.setTask f).worlds = s.worlds := rfl
@[simp] theorem State.setTask_nextWorld (s : State) (f : Task → Task) : (s.setTask f).nextWorld = s.nextWorld := rfl
@[simp] theorem State.setTask_coll (s : State) (f : Task → Task) : (s.setTask f).coll = s.coll := rfl
@[simp] theorem State.setTask_ports (s : State) (f : Task → Task) : (s.setTask f).ports = s.ports := rfl
@[simp] theorem State.setTask_out (s : State) (f : Task → Task) : (s.setTask f).out = s.out := rfl
@[simp] theorem State.setTask_late (s : State) (f : Task → Task) : (s.setTask f).late = s.late := rfl
@[simp] theorem State.setTask_posted (s : State) (f : Task → Task) : (s.setTask f).posted = s.posted := rfl
@[simp] theorem State.setTask_schedule (s : State) (f : Task → Task) : (s.setTask f).schedule = s.schedule := rfl
@[simp] theorem State.setTask_fresh (s : State) (f : Task → Task) : (s.setTask f).fresh = s.fresh := rfl

/-! ### State.setX -/

@[simp] theorem State.setX_task (s : State) (r : XReg) (v : Word) : (s.setX r v).task = s.task.setX r v := rfl
@[simp] theorem State.setX_running (s : State) (r : XReg) (v : Word) : (s.setX r v).running = s.running := rfl
@[simp] theorem State.setX_die (s : State) (r : XReg) (v : Word) : (s.setX r v).die = s.die := rfl
@[simp] theorem State.setX_pos (s : State) (r : XReg) (v : Word) : (s.setX r v).pos = s.pos := rfl
@[simp] theorem State.setX_mem (s : State) (r : XReg) (v : Word) : (s.setX r v).mem = s.mem := rfl
@[simp] theorem State.setX_host (s : State) (r : XReg) (v : Word) : (s.setX r v).host = s.host := rfl
@[simp] theorem State.setX_peer (s : State) (r : XReg) (v : Word) : (s.setX r v).peer = s.peer := rfl
@[simp] theorem State.setX_badLines (s : State) (r : XReg) (v : Word) : (s.setX r v).badLines = s.badLines := rfl
@[simp] theorem State.setX_hostErr (s : State) (r : XReg) (v : Word) : (s.setX r v).hostErr = s.hostErr := rfl
@[simp] theorem State.setX_peerErr (s : State) (r : XReg) (v : Word) : (s.setX r v).peerErr = s.peerErr := rfl
@[simp] theorem State.setX_dirty (s : State) (r : XReg) (v : Word) : (s.setX r v).dirty = s.dirty := rfl
@[simp] theorem State.setX_tlb (s : State) (r : XReg) (v : Word) : (s.setX r v).tlb = s.tlb := rfl
@[simp] theorem State.setX_ops (s : State) (r : XReg) (v : Word) : (s.setX r v).ops = s.ops := rfl
@[simp] theorem State.setX_lines (s : State) (r : XReg) (v : Word) : (s.setX r v).lines = s.lines := rfl
@[simp] theorem State.setX_ctxs (s : State) (r : XReg) (v : Word) : (s.setX r v).ctxs = s.ctxs := rfl
@[simp] theorem State.setX_parts (s : State) (r : XReg) (v : Word) : (s.setX r v).parts = s.parts := rfl
@[simp] theorem State.setX_dev (s : State) (r : XReg) (v : Word) : (s.setX r v).dev = s.dev := rfl
@[simp] theorem State.setX_launches (s : State) (r : XReg) (v : Word) : (s.setX r v).launches = s.launches := rfl
@[simp] theorem State.setX_nextTid (s : State) (r : XReg) (v : Word) : (s.setX r v).nextTid = s.nextTid := rfl
@[simp] theorem State.setX_worlds (s : State) (r : XReg) (v : Word) : (s.setX r v).worlds = s.worlds := rfl
@[simp] theorem State.setX_nextWorld (s : State) (r : XReg) (v : Word) : (s.setX r v).nextWorld = s.nextWorld := rfl
@[simp] theorem State.setX_coll (s : State) (r : XReg) (v : Word) : (s.setX r v).coll = s.coll := rfl
@[simp] theorem State.setX_ports (s : State) (r : XReg) (v : Word) : (s.setX r v).ports = s.ports := rfl
@[simp] theorem State.setX_out (s : State) (r : XReg) (v : Word) : (s.setX r v).out = s.out := rfl
@[simp] theorem State.setX_late (s : State) (r : XReg) (v : Word) : (s.setX r v).late = s.late := rfl
@[simp] theorem State.setX_posted (s : State) (r : XReg) (v : Word) : (s.setX r v).posted = s.posted := rfl
@[simp] theorem State.setX_schedule (s : State) (r : XReg) (v : Word) : (s.setX r v).schedule = s.schedule := rfl
@[simp] theorem State.setX_fresh (s : State) (r : XReg) (v : Word) : (s.setX r v).fresh = s.fresh := rfl

/-! ### State.setCsr -/

@[simp] theorem State.setCsr_task (s : State) (c : Csrs) : (s.setCsr c).task = { s.task with csr := c } := rfl
@[simp] theorem State.setCsr_running (s : State) (c : Csrs) : (s.setCsr c).running = s.running := rfl
@[simp] theorem State.setCsr_die (s : State) (c : Csrs) : (s.setCsr c).die = s.die := rfl
@[simp] theorem State.setCsr_pos (s : State) (c : Csrs) : (s.setCsr c).pos = s.pos := rfl
@[simp] theorem State.setCsr_mem (s : State) (c : Csrs) : (s.setCsr c).mem = s.mem := rfl
@[simp] theorem State.setCsr_host (s : State) (c : Csrs) : (s.setCsr c).host = s.host := rfl
@[simp] theorem State.setCsr_peer (s : State) (c : Csrs) : (s.setCsr c).peer = s.peer := rfl
@[simp] theorem State.setCsr_badLines (s : State) (c : Csrs) : (s.setCsr c).badLines = s.badLines := rfl
@[simp] theorem State.setCsr_hostErr (s : State) (c : Csrs) : (s.setCsr c).hostErr = s.hostErr := rfl
@[simp] theorem State.setCsr_peerErr (s : State) (c : Csrs) : (s.setCsr c).peerErr = s.peerErr := rfl
@[simp] theorem State.setCsr_dirty (s : State) (c : Csrs) : (s.setCsr c).dirty = s.dirty := rfl
@[simp] theorem State.setCsr_tlb (s : State) (c : Csrs) : (s.setCsr c).tlb = s.tlb := rfl
@[simp] theorem State.setCsr_ops (s : State) (c : Csrs) : (s.setCsr c).ops = s.ops := rfl
@[simp] theorem State.setCsr_lines (s : State) (c : Csrs) : (s.setCsr c).lines = s.lines := rfl
@[simp] theorem State.setCsr_ctxs (s : State) (c : Csrs) : (s.setCsr c).ctxs = s.ctxs := rfl
@[simp] theorem State.setCsr_parts (s : State) (c : Csrs) : (s.setCsr c).parts = s.parts := rfl
@[simp] theorem State.setCsr_dev (s : State) (c : Csrs) : (s.setCsr c).dev = s.dev := rfl
@[simp] theorem State.setCsr_launches (s : State) (c : Csrs) : (s.setCsr c).launches = s.launches := rfl
@[simp] theorem State.setCsr_nextTid (s : State) (c : Csrs) : (s.setCsr c).nextTid = s.nextTid := rfl
@[simp] theorem State.setCsr_worlds (s : State) (c : Csrs) : (s.setCsr c).worlds = s.worlds := rfl
@[simp] theorem State.setCsr_nextWorld (s : State) (c : Csrs) : (s.setCsr c).nextWorld = s.nextWorld := rfl
@[simp] theorem State.setCsr_coll (s : State) (c : Csrs) : (s.setCsr c).coll = s.coll := rfl
@[simp] theorem State.setCsr_ports (s : State) (c : Csrs) : (s.setCsr c).ports = s.ports := rfl
@[simp] theorem State.setCsr_out (s : State) (c : Csrs) : (s.setCsr c).out = s.out := rfl
@[simp] theorem State.setCsr_late (s : State) (c : Csrs) : (s.setCsr c).late = s.late := rfl
@[simp] theorem State.setCsr_posted (s : State) (c : Csrs) : (s.setCsr c).posted = s.posted := rfl
@[simp] theorem State.setCsr_schedule (s : State) (c : Csrs) : (s.setCsr c).schedule = s.schedule := rfl
@[simp] theorem State.setCsr_fresh (s : State) (c : Csrs) : (s.setCsr c).fresh = s.fresh := rfl

/-! ### State.advance -/

@[simp] theorem State.advance_task (s : State) : (s.advance).task = s.task.advance := rfl
@[simp] theorem State.advance_running (s : State) : (s.advance).running = s.running := rfl
@[simp] theorem State.advance_die (s : State) : (s.advance).die = s.die := rfl
@[simp] theorem State.advance_pos (s : State) : (s.advance).pos = s.pos := rfl
@[simp] theorem State.advance_mem (s : State) : (s.advance).mem = s.mem := rfl
@[simp] theorem State.advance_host (s : State) : (s.advance).host = s.host := rfl
@[simp] theorem State.advance_peer (s : State) : (s.advance).peer = s.peer := rfl
@[simp] theorem State.advance_badLines (s : State) : (s.advance).badLines = s.badLines := rfl
@[simp] theorem State.advance_hostErr (s : State) : (s.advance).hostErr = s.hostErr := rfl
@[simp] theorem State.advance_peerErr (s : State) : (s.advance).peerErr = s.peerErr := rfl
@[simp] theorem State.advance_dirty (s : State) : (s.advance).dirty = s.dirty := rfl
@[simp] theorem State.advance_tlb (s : State) : (s.advance).tlb = s.tlb := rfl
@[simp] theorem State.advance_ops (s : State) : (s.advance).ops = s.ops := rfl
@[simp] theorem State.advance_lines (s : State) : (s.advance).lines = s.lines := rfl
@[simp] theorem State.advance_ctxs (s : State) : (s.advance).ctxs = s.ctxs := rfl
@[simp] theorem State.advance_parts (s : State) : (s.advance).parts = s.parts := rfl
@[simp] theorem State.advance_dev (s : State) : (s.advance).dev = s.dev := rfl
@[simp] theorem State.advance_launches (s : State) : (s.advance).launches = s.launches := rfl
@[simp] theorem State.advance_nextTid (s : State) : (s.advance).nextTid = s.nextTid := rfl
@[simp] theorem State.advance_worlds (s : State) : (s.advance).worlds = s.worlds := rfl
@[simp] theorem State.advance_nextWorld (s : State) : (s.advance).nextWorld = s.nextWorld := rfl
@[simp] theorem State.advance_coll (s : State) : (s.advance).coll = s.coll := rfl
@[simp] theorem State.advance_ports (s : State) : (s.advance).ports = s.ports := rfl
@[simp] theorem State.advance_out (s : State) : (s.advance).out = s.out := rfl
@[simp] theorem State.advance_late (s : State) : (s.advance).late = s.late := rfl
@[simp] theorem State.advance_posted (s : State) : (s.advance).posted = s.posted := rfl
@[simp] theorem State.advance_schedule (s : State) : (s.advance).schedule = s.schedule := rfl
@[simp] theorem State.advance_fresh (s : State) : (s.advance).fresh = s.fresh := rfl

/-! ### State.jump -/

@[simp] theorem State.jump_task (s : State) (pc : Word) : (s.jump pc).task = { s.task with pc := pc } := rfl
@[simp] theorem State.jump_running (s : State) (pc : Word) : (s.jump pc).running = s.running := rfl
@[simp] theorem State.jump_die (s : State) (pc : Word) : (s.jump pc).die = s.die := rfl
@[simp] theorem State.jump_pos (s : State) (pc : Word) : (s.jump pc).pos = s.pos := rfl
@[simp] theorem State.jump_mem (s : State) (pc : Word) : (s.jump pc).mem = s.mem := rfl
@[simp] theorem State.jump_host (s : State) (pc : Word) : (s.jump pc).host = s.host := rfl
@[simp] theorem State.jump_peer (s : State) (pc : Word) : (s.jump pc).peer = s.peer := rfl
@[simp] theorem State.jump_badLines (s : State) (pc : Word) : (s.jump pc).badLines = s.badLines := rfl
@[simp] theorem State.jump_hostErr (s : State) (pc : Word) : (s.jump pc).hostErr = s.hostErr := rfl
@[simp] theorem State.jump_peerErr (s : State) (pc : Word) : (s.jump pc).peerErr = s.peerErr := rfl
@[simp] theorem State.jump_dirty (s : State) (pc : Word) : (s.jump pc).dirty = s.dirty := rfl
@[simp] theorem State.jump_tlb (s : State) (pc : Word) : (s.jump pc).tlb = s.tlb := rfl
@[simp] theorem State.jump_ops (s : State) (pc : Word) : (s.jump pc).ops = s.ops := rfl
@[simp] theorem State.jump_lines (s : State) (pc : Word) : (s.jump pc).lines = s.lines := rfl
@[simp] theorem State.jump_ctxs (s : State) (pc : Word) : (s.jump pc).ctxs = s.ctxs := rfl
@[simp] theorem State.jump_parts (s : State) (pc : Word) : (s.jump pc).parts = s.parts := rfl
@[simp] theorem State.jump_dev (s : State) (pc : Word) : (s.jump pc).dev = s.dev := rfl
@[simp] theorem State.jump_launches (s : State) (pc : Word) : (s.jump pc).launches = s.launches := rfl
@[simp] theorem State.jump_nextTid (s : State) (pc : Word) : (s.jump pc).nextTid = s.nextTid := rfl
@[simp] theorem State.jump_worlds (s : State) (pc : Word) : (s.jump pc).worlds = s.worlds := rfl
@[simp] theorem State.jump_nextWorld (s : State) (pc : Word) : (s.jump pc).nextWorld = s.nextWorld := rfl
@[simp] theorem State.jump_coll (s : State) (pc : Word) : (s.jump pc).coll = s.coll := rfl
@[simp] theorem State.jump_ports (s : State) (pc : Word) : (s.jump pc).ports = s.ports := rfl
@[simp] theorem State.jump_out (s : State) (pc : Word) : (s.jump pc).out = s.out := rfl
@[simp] theorem State.jump_late (s : State) (pc : Word) : (s.jump pc).late = s.late := rfl
@[simp] theorem State.jump_posted (s : State) (pc : Word) : (s.jump pc).posted = s.posted := rfl
@[simp] theorem State.jump_schedule (s : State) (pc : Word) : (s.jump pc).schedule = s.schedule := rfl
@[simp] theorem State.jump_fresh (s : State) (pc : Word) : (s.jump pc).fresh = s.fresh := rfl

/-! ### State.setPart -/

@[simp] theorem State.setPart_task (s : State) (i : Fin 16) (p : Partition) : (s.setPart i p).task = s.task := rfl
@[simp] theorem State.setPart_running (s : State) (i : Fin 16) (p : Partition) : (s.setPart i p).running = s.running := rfl
@[simp] theorem State.setPart_die (s : State) (i : Fin 16) (p : Partition) : (s.setPart i p).die = s.die := rfl
@[simp] theorem State.setPart_pos (s : State) (i : Fin 16) (p : Partition) : (s.setPart i p).pos = s.pos := rfl
@[simp] theorem State.setPart_mem (s : State) (i : Fin 16) (p : Partition) : (s.setPart i p).mem = s.mem := rfl
@[simp] theorem State.setPart_host (s : State) (i : Fin 16) (p : Partition) : (s.setPart i p).host = s.host := rfl
@[simp] theorem State.setPart_peer (s : State) (i : Fin 16) (p : Partition) : (s.setPart i p).peer = s.peer := rfl
@[simp] theorem State.setPart_badLines (s : State) (i : Fin 16) (p : Partition) : (s.setPart i p).badLines = s.badLines := rfl
@[simp] theorem State.setPart_hostErr (s : State) (i : Fin 16) (p : Partition) : (s.setPart i p).hostErr = s.hostErr := rfl
@[simp] theorem State.setPart_peerErr (s : State) (i : Fin 16) (p : Partition) : (s.setPart i p).peerErr = s.peerErr := rfl
@[simp] theorem State.setPart_dirty (s : State) (i : Fin 16) (p : Partition) : (s.setPart i p).dirty = s.dirty := rfl
@[simp] theorem State.setPart_tlb (s : State) (i : Fin 16) (p : Partition) : (s.setPart i p).tlb = s.tlb := rfl
@[simp] theorem State.setPart_ops (s : State) (i : Fin 16) (p : Partition) : (s.setPart i p).ops = s.ops := rfl
@[simp] theorem State.setPart_lines (s : State) (i : Fin 16) (p : Partition) : (s.setPart i p).lines = s.lines := rfl
@[simp] theorem State.setPart_ctxs (s : State) (i : Fin 16) (p : Partition) : (s.setPart i p).ctxs = s.ctxs := rfl
@[simp] theorem State.setPart_parts (s : State) (i : Fin 16) (p : Partition) : (s.setPart i p).parts = s.parts.set i p := rfl
@[simp] theorem State.setPart_dev (s : State) (i : Fin 16) (p : Partition) : (s.setPart i p).dev = s.dev := rfl
@[simp] theorem State.setPart_launches (s : State) (i : Fin 16) (p : Partition) : (s.setPart i p).launches = s.launches := rfl
@[simp] theorem State.setPart_nextTid (s : State) (i : Fin 16) (p : Partition) : (s.setPart i p).nextTid = s.nextTid := rfl
@[simp] theorem State.setPart_worlds (s : State) (i : Fin 16) (p : Partition) : (s.setPart i p).worlds = s.worlds := rfl
@[simp] theorem State.setPart_nextWorld (s : State) (i : Fin 16) (p : Partition) : (s.setPart i p).nextWorld = s.nextWorld := rfl
@[simp] theorem State.setPart_coll (s : State) (i : Fin 16) (p : Partition) : (s.setPart i p).coll = s.coll := rfl
@[simp] theorem State.setPart_ports (s : State) (i : Fin 16) (p : Partition) : (s.setPart i p).ports = s.ports := rfl
@[simp] theorem State.setPart_out (s : State) (i : Fin 16) (p : Partition) : (s.setPart i p).out = s.out := rfl
@[simp] theorem State.setPart_late (s : State) (i : Fin 16) (p : Partition) : (s.setPart i p).late = s.late := rfl
@[simp] theorem State.setPart_posted (s : State) (i : Fin 16) (p : Partition) : (s.setPart i p).posted = s.posted := rfl
@[simp] theorem State.setPart_schedule (s : State) (i : Fin 16) (p : Partition) : (s.setPart i p).schedule = s.schedule := rfl
@[simp] theorem State.setPart_fresh (s : State) (i : Fin 16) (p : Partition) : (s.setPart i p).fresh = s.fresh := rfl

/-! ### State.msix -/

@[simp] theorem State.msix_task (s : State) (part : Fin 16) (v : Nat) : (s.msix part v).task = s.task := rfl
@[simp] theorem State.msix_running (s : State) (part : Fin 16) (v : Nat) : (s.msix part v).running = s.running := rfl
@[simp] theorem State.msix_die (s : State) (part : Fin 16) (v : Nat) : (s.msix part v).die = s.die := rfl
@[simp] theorem State.msix_pos (s : State) (part : Fin 16) (v : Nat) : (s.msix part v).pos = s.pos := rfl
@[simp] theorem State.msix_mem (s : State) (part : Fin 16) (v : Nat) : (s.msix part v).mem = s.mem := rfl
@[simp] theorem State.msix_host (s : State) (part : Fin 16) (v : Nat) : (s.msix part v).host = s.host := rfl
@[simp] theorem State.msix_peer (s : State) (part : Fin 16) (v : Nat) : (s.msix part v).peer = s.peer := rfl
@[simp] theorem State.msix_badLines (s : State) (part : Fin 16) (v : Nat) : (s.msix part v).badLines = s.badLines := rfl
@[simp] theorem State.msix_hostErr (s : State) (part : Fin 16) (v : Nat) : (s.msix part v).hostErr = s.hostErr := rfl
@[simp] theorem State.msix_peerErr (s : State) (part : Fin 16) (v : Nat) : (s.msix part v).peerErr = s.peerErr := rfl
@[simp] theorem State.msix_dirty (s : State) (part : Fin 16) (v : Nat) : (s.msix part v).dirty = s.dirty := rfl
@[simp] theorem State.msix_tlb (s : State) (part : Fin 16) (v : Nat) : (s.msix part v).tlb = s.tlb := rfl
@[simp] theorem State.msix_ops (s : State) (part : Fin 16) (v : Nat) : (s.msix part v).ops = s.ops := rfl
@[simp] theorem State.msix_lines (s : State) (part : Fin 16) (v : Nat) : (s.msix part v).lines = s.lines := rfl
@[simp] theorem State.msix_ctxs (s : State) (part : Fin 16) (v : Nat) : (s.msix part v).ctxs = s.ctxs := rfl
@[simp] theorem State.msix_parts (s : State) (part : Fin 16) (v : Nat) : (s.msix part v).parts = s.parts := rfl
@[simp] theorem State.msix_dev (s : State) (part : Fin 16) (v : Nat) : (s.msix part v).dev = s.dev := rfl
@[simp] theorem State.msix_launches (s : State) (part : Fin 16) (v : Nat) : (s.msix part v).launches = s.launches := rfl
@[simp] theorem State.msix_nextTid (s : State) (part : Fin 16) (v : Nat) : (s.msix part v).nextTid = s.nextTid := rfl
@[simp] theorem State.msix_worlds (s : State) (part : Fin 16) (v : Nat) : (s.msix part v).worlds = s.worlds := rfl
@[simp] theorem State.msix_nextWorld (s : State) (part : Fin 16) (v : Nat) : (s.msix part v).nextWorld = s.nextWorld := rfl
@[simp] theorem State.msix_coll (s : State) (part : Fin 16) (v : Nat) : (s.msix part v).coll = s.coll := rfl
@[simp] theorem State.msix_ports (s : State) (part : Fin 16) (v : Nat) : (s.msix part v).ports = s.ports := rfl
@[simp] theorem State.msix_out (s : State) (part : Fin 16) (v : Nat) : (s.msix part v).out = { s.out with msix := s.out.msix ++ [(part, v)] } := rfl
@[simp] theorem State.msix_late (s : State) (part : Fin 16) (v : Nat) : (s.msix part v).late = s.late := rfl
@[simp] theorem State.msix_posted (s : State) (part : Fin 16) (v : Nat) : (s.msix part v).posted = s.posted := rfl
@[simp] theorem State.msix_schedule (s : State) (part : Fin 16) (v : Nat) : (s.msix part v).schedule = s.schedule := rfl
@[simp] theorem State.msix_fresh (s : State) (part : Fin 16) (v : Nat) : (s.msix part v).fresh = s.fresh := rfl

/-! ### State.setLaunch -/

@[simp] theorem State.setLaunch_task (s : State) (L : Launch) : (s.setLaunch L).task = s.task := rfl
@[simp] theorem State.setLaunch_running (s : State) (L : Launch) : (s.setLaunch L).running = s.running := rfl
@[simp] theorem State.setLaunch_die (s : State) (L : Launch) : (s.setLaunch L).die = s.die := rfl
@[simp] theorem State.setLaunch_pos (s : State) (L : Launch) : (s.setLaunch L).pos = s.pos := rfl
@[simp] theorem State.setLaunch_mem (s : State) (L : Launch) : (s.setLaunch L).mem = s.mem := rfl
@[simp] theorem State.setLaunch_host (s : State) (L : Launch) : (s.setLaunch L).host = s.host := rfl
@[simp] theorem State.setLaunch_peer (s : State) (L : Launch) : (s.setLaunch L).peer = s.peer := rfl
@[simp] theorem State.setLaunch_badLines (s : State) (L : Launch) : (s.setLaunch L).badLines = s.badLines := rfl
@[simp] theorem State.setLaunch_hostErr (s : State) (L : Launch) : (s.setLaunch L).hostErr = s.hostErr := rfl
@[simp] theorem State.setLaunch_peerErr (s : State) (L : Launch) : (s.setLaunch L).peerErr = s.peerErr := rfl
@[simp] theorem State.setLaunch_dirty (s : State) (L : Launch) : (s.setLaunch L).dirty = s.dirty := rfl
@[simp] theorem State.setLaunch_tlb (s : State) (L : Launch) : (s.setLaunch L).tlb = s.tlb := rfl
@[simp] theorem State.setLaunch_ops (s : State) (L : Launch) : (s.setLaunch L).ops = s.ops := rfl
@[simp] theorem State.setLaunch_lines (s : State) (L : Launch) : (s.setLaunch L).lines = s.lines := rfl
@[simp] theorem State.setLaunch_ctxs (s : State) (L : Launch) : (s.setLaunch L).ctxs = s.ctxs := rfl
@[simp] theorem State.setLaunch_parts (s : State) (L : Launch) : (s.setLaunch L).parts = s.parts := rfl
@[simp] theorem State.setLaunch_dev (s : State) (L : Launch) : (s.setLaunch L).dev = s.dev := rfl
@[simp] theorem State.setLaunch_launches (s : State) (L : Launch) : (s.setLaunch L).launches = s.launches.map fun k => if k.part == L.part && k.id == L.id then L else k := rfl
@[simp] theorem State.setLaunch_nextTid (s : State) (L : Launch) : (s.setLaunch L).nextTid = s.nextTid := rfl
@[simp] theorem State.setLaunch_worlds (s : State) (L : Launch) : (s.setLaunch L).worlds = s.worlds := rfl
@[simp] theorem State.setLaunch_nextWorld (s : State) (L : Launch) : (s.setLaunch L).nextWorld = s.nextWorld := rfl
@[simp] theorem State.setLaunch_coll (s : State) (L : Launch) : (s.setLaunch L).coll = s.coll := rfl
@[simp] theorem State.setLaunch_ports (s : State) (L : Launch) : (s.setLaunch L).ports = s.ports := rfl
@[simp] theorem State.setLaunch_out (s : State) (L : Launch) : (s.setLaunch L).out = s.out := rfl
@[simp] theorem State.setLaunch_late (s : State) (L : Launch) : (s.setLaunch L).late = s.late := rfl
@[simp] theorem State.setLaunch_posted (s : State) (L : Launch) : (s.setLaunch L).posted = s.posted := rfl
@[simp] theorem State.setLaunch_schedule (s : State) (L : Launch) : (s.setLaunch L).schedule = s.schedule := rfl
@[simp] theorem State.setLaunch_fresh (s : State) (L : Launch) : (s.setLaunch L).fresh = s.fresh := rfl

/-! ### State.setWorld -/

@[simp] theorem State.setWorld_task (s : State) (w : World) : (s.setWorld w).task = s.task := rfl
@[simp] theorem State.setWorld_running (s : State) (w : World) : (s.setWorld w).running = s.running := rfl
@[simp] theorem State.setWorld_die (s : State) (w : World) : (s.setWorld w).die = s.die := rfl
@[simp] theorem State.setWorld_pos (s : State) (w : World) : (s.setWorld w).pos = s.pos := rfl
@[simp] theorem State.setWorld_mem (s : State) (w : World) : (s.setWorld w).mem = s.mem := rfl
@[simp] theorem State.setWorld_host (s : State) (w : World) : (s.setWorld w).host = s.host := rfl
@[simp] theorem State.setWorld_peer (s : State) (w : World) : (s.setWorld w).peer = s.peer := rfl
@[simp] theorem State.setWorld_badLines (s : State) (w : World) : (s.setWorld w).badLines = s.badLines := rfl
@[simp] theorem State.setWorld_hostErr (s : State) (w : World) : (s.setWorld w).hostErr = s.hostErr := rfl
@[simp] theorem State.setWorld_peerErr (s : State) (w : World) : (s.setWorld w).peerErr = s.peerErr := rfl
@[simp] theorem State.setWorld_dirty (s : State) (w : World) : (s.setWorld w).dirty = s.dirty := rfl
@[simp] theorem State.setWorld_tlb (s : State) (w : World) : (s.setWorld w).tlb = s.tlb := rfl
@[simp] theorem State.setWorld_ops (s : State) (w : World) : (s.setWorld w).ops = s.ops := rfl
@[simp] theorem State.setWorld_lines (s : State) (w : World) : (s.setWorld w).lines = s.lines := rfl
@[simp] theorem State.setWorld_ctxs (s : State) (w : World) : (s.setWorld w).ctxs = s.ctxs := rfl
@[simp] theorem State.setWorld_parts (s : State) (w : World) : (s.setWorld w).parts = s.parts := rfl
@[simp] theorem State.setWorld_dev (s : State) (w : World) : (s.setWorld w).dev = s.dev := rfl
@[simp] theorem State.setWorld_launches (s : State) (w : World) : (s.setWorld w).launches = s.launches := rfl
@[simp] theorem State.setWorld_nextTid (s : State) (w : World) : (s.setWorld w).nextTid = s.nextTid := rfl
@[simp] theorem State.setWorld_worlds (s : State) (w : World) : (s.setWorld w).worlds = s.worlds.map fun k => if k.num == w.num then w else k := rfl
@[simp] theorem State.setWorld_nextWorld (s : State) (w : World) : (s.setWorld w).nextWorld = s.nextWorld := rfl
@[simp] theorem State.setWorld_coll (s : State) (w : World) : (s.setWorld w).coll = s.coll := rfl
@[simp] theorem State.setWorld_ports (s : State) (w : World) : (s.setWorld w).ports = s.ports := rfl
@[simp] theorem State.setWorld_out (s : State) (w : World) : (s.setWorld w).out = s.out := rfl
@[simp] theorem State.setWorld_late (s : State) (w : World) : (s.setWorld w).late = s.late := rfl
@[simp] theorem State.setWorld_posted (s : State) (w : World) : (s.setWorld w).posted = s.posted := rfl
@[simp] theorem State.setWorld_schedule (s : State) (w : World) : (s.setWorld w).schedule = s.schedule := rfl
@[simp] theorem State.setWorld_fresh (s : State) (w : World) : (s.setWorld w).fresh = s.fresh := rfl

/-! ### State.putRoot -/

@[simp] theorem State.putRoot_task (s : State) (pa : Nat) (bs : List Byte) : (s.putRoot pa bs).task = s.task := rfl
@[simp] theorem State.putRoot_running (s : State) (pa : Nat) (bs : List Byte) : (s.putRoot pa bs).running = s.running := rfl
@[simp] theorem State.putRoot_die (s : State) (pa : Nat) (bs : List Byte) : (s.putRoot pa bs).die = s.die := rfl
@[simp] theorem State.putRoot_pos (s : State) (pa : Nat) (bs : List Byte) : (s.putRoot pa bs).pos = s.pos := rfl
@[simp] theorem State.putRoot_mem (s : State) (pa : Nat) (bs : List Byte) : (s.putRoot pa bs).mem = s.mem.putBytes pa bs := rfl
@[simp] theorem State.putRoot_host (s : State) (pa : Nat) (bs : List Byte) : (s.putRoot pa bs).host = s.host := rfl
@[simp] theorem State.putRoot_peer (s : State) (pa : Nat) (bs : List Byte) : (s.putRoot pa bs).peer = s.peer := rfl
@[simp] theorem State.putRoot_badLines (s : State) (pa : Nat) (bs : List Byte) : (s.putRoot pa bs).badLines = healed s.badLines pa bs.length := rfl
@[simp] theorem State.putRoot_hostErr (s : State) (pa : Nat) (bs : List Byte) : (s.putRoot pa bs).hostErr = s.hostErr := rfl
@[simp] theorem State.putRoot_peerErr (s : State) (pa : Nat) (bs : List Byte) : (s.putRoot pa bs).peerErr = s.peerErr := rfl
@[simp] theorem State.putRoot_dirty (s : State) (pa : Nat) (bs : List Byte) : (s.putRoot pa bs).dirty = dirtied s.dirty pa bs.length := rfl
@[simp] theorem State.putRoot_tlb (s : State) (pa : Nat) (bs : List Byte) : (s.putRoot pa bs).tlb = s.tlb := rfl
@[simp] theorem State.putRoot_ops (s : State) (pa : Nat) (bs : List Byte) : (s.putRoot pa bs).ops = s.ops := rfl
@[simp] theorem State.putRoot_lines (s : State) (pa : Nat) (bs : List Byte) : (s.putRoot pa bs).lines = s.lines := rfl
@[simp] theorem State.putRoot_ctxs (s : State) (pa : Nat) (bs : List Byte) : (s.putRoot pa bs).ctxs = s.ctxs := rfl
@[simp] theorem State.putRoot_parts (s : State) (pa : Nat) (bs : List Byte) : (s.putRoot pa bs).parts = s.parts := rfl
@[simp] theorem State.putRoot_dev (s : State) (pa : Nat) (bs : List Byte) : (s.putRoot pa bs).dev = s.dev := rfl
@[simp] theorem State.putRoot_launches (s : State) (pa : Nat) (bs : List Byte) : (s.putRoot pa bs).launches = s.launches := rfl
@[simp] theorem State.putRoot_nextTid (s : State) (pa : Nat) (bs : List Byte) : (s.putRoot pa bs).nextTid = s.nextTid := rfl
@[simp] theorem State.putRoot_worlds (s : State) (pa : Nat) (bs : List Byte) : (s.putRoot pa bs).worlds = s.worlds := rfl
@[simp] theorem State.putRoot_nextWorld (s : State) (pa : Nat) (bs : List Byte) : (s.putRoot pa bs).nextWorld = s.nextWorld := rfl
@[simp] theorem State.putRoot_coll (s : State) (pa : Nat) (bs : List Byte) : (s.putRoot pa bs).coll = s.coll := rfl
@[simp] theorem State.putRoot_ports (s : State) (pa : Nat) (bs : List Byte) : (s.putRoot pa bs).ports = s.ports := rfl
@[simp] theorem State.putRoot_out (s : State) (pa : Nat) (bs : List Byte) : (s.putRoot pa bs).out = s.out := rfl
@[simp] theorem State.putRoot_late (s : State) (pa : Nat) (bs : List Byte) : (s.putRoot pa bs).late = s.late := rfl
@[simp] theorem State.putRoot_posted (s : State) (pa : Nat) (bs : List Byte) : (s.putRoot pa bs).posted = s.posted := rfl
@[simp] theorem State.putRoot_schedule (s : State) (pa : Nat) (bs : List Byte) : (s.putRoot pa bs).schedule = s.schedule := rfl
@[simp] theorem State.putRoot_fresh (s : State) (pa : Nat) (bs : List Byte) : (s.putRoot pa bs).fresh = s.fresh := rfl

/-! ### State.takePair -/

@[simp] theorem State.takePair_task (s : State) (cid : Fin 64) (k : Nat) : (s.takePair cid k).task = s.task := rfl
@[simp] theorem State.takePair_running (s : State) (cid : Fin 64) (k : Nat) : (s.takePair cid k).running = s.running := rfl
@[simp] theorem State.takePair_die (s : State) (cid : Fin 64) (k : Nat) : (s.takePair cid k).die = s.die := rfl
@[simp] theorem State.takePair_pos (s : State) (cid : Fin 64) (k : Nat) : (s.takePair cid k).pos = s.pos := rfl
@[simp] theorem State.takePair_mem (s : State) (cid : Fin 64) (k : Nat) : (s.takePair cid k).mem = s.mem := rfl
@[simp] theorem State.takePair_host (s : State) (cid : Fin 64) (k : Nat) : (s.takePair cid k).host = s.host := rfl
@[simp] theorem State.takePair_peer (s : State) (cid : Fin 64) (k : Nat) : (s.takePair cid k).peer = s.peer := rfl
@[simp] theorem State.takePair_badLines (s : State) (cid : Fin 64) (k : Nat) : (s.takePair cid k).badLines = s.badLines := rfl
@[simp] theorem State.takePair_hostErr (s : State) (cid : Fin 64) (k : Nat) : (s.takePair cid k).hostErr = s.hostErr := rfl
@[simp] theorem State.takePair_peerErr (s : State) (cid : Fin 64) (k : Nat) : (s.takePair cid k).peerErr = s.peerErr := rfl
@[simp] theorem State.takePair_dirty (s : State) (cid : Fin 64) (k : Nat) : (s.takePair cid k).dirty = s.dirty := rfl
@[simp] theorem State.takePair_tlb (s : State) (cid : Fin 64) (k : Nat) : (s.takePair cid k).tlb = s.tlb := rfl
@[simp] theorem State.takePair_ops (s : State) (cid : Fin 64) (k : Nat) : (s.takePair cid k).ops = s.ops := rfl
@[simp] theorem State.takePair_lines (s : State) (cid : Fin 64) (k : Nat) : (s.takePair cid k).lines = s.lines := rfl
@[simp] theorem State.takePair_ctxs (s : State) (cid : Fin 64) (k : Nat) : (s.takePair cid k).ctxs = s.ctxs.set cid { s.ctxs[cid] with pairs := insertNat s.ctxs[cid].pairs k } := rfl
@[simp] theorem State.takePair_parts (s : State) (cid : Fin 64) (k : Nat) : (s.takePair cid k).parts = s.parts := rfl
@[simp] theorem State.takePair_dev (s : State) (cid : Fin 64) (k : Nat) : (s.takePair cid k).dev = s.dev := rfl
@[simp] theorem State.takePair_launches (s : State) (cid : Fin 64) (k : Nat) : (s.takePair cid k).launches = s.launches := rfl
@[simp] theorem State.takePair_nextTid (s : State) (cid : Fin 64) (k : Nat) : (s.takePair cid k).nextTid = s.nextTid := rfl
@[simp] theorem State.takePair_worlds (s : State) (cid : Fin 64) (k : Nat) : (s.takePair cid k).worlds = s.worlds := rfl
@[simp] theorem State.takePair_nextWorld (s : State) (cid : Fin 64) (k : Nat) : (s.takePair cid k).nextWorld = s.nextWorld := rfl
@[simp] theorem State.takePair_coll (s : State) (cid : Fin 64) (k : Nat) : (s.takePair cid k).coll = s.coll := rfl
@[simp] theorem State.takePair_ports (s : State) (cid : Fin 64) (k : Nat) : (s.takePair cid k).ports = s.ports := rfl
@[simp] theorem State.takePair_out (s : State) (cid : Fin 64) (k : Nat) : (s.takePair cid k).out = s.out := rfl
@[simp] theorem State.takePair_late (s : State) (cid : Fin 64) (k : Nat) : (s.takePair cid k).late = s.late := rfl
@[simp] theorem State.takePair_posted (s : State) (cid : Fin 64) (k : Nat) : (s.takePair cid k).posted = s.posted := rfl
@[simp] theorem State.takePair_schedule (s : State) (cid : Fin 64) (k : Nat) : (s.takePair cid k).schedule = s.schedule := rfl
@[simp] theorem State.takePair_fresh (s : State) (cid : Fin 64) (k : Nat) : (s.takePair cid k).fresh = s.fresh := rfl

/-! ### State.setRing -/

@[simp] theorem State.setRing_task (s : State) (c : Fin 64) (f : Ring → Ring) : (s.setRing c f).task = s.task := rfl
@[simp] theorem State.setRing_running (s : State) (c : Fin 64) (f : Ring → Ring) : (s.setRing c f).running = s.running := rfl
@[simp] theorem State.setRing_die (s : State) (c : Fin 64) (f : Ring → Ring) : (s.setRing c f).die = s.die := rfl
@[simp] theorem State.setRing_pos (s : State) (c : Fin 64) (f : Ring → Ring) : (s.setRing c f).pos = s.pos := rfl
@[simp] theorem State.setRing_mem (s : State) (c : Fin 64) (f : Ring → Ring) : (s.setRing c f).mem = s.mem := rfl
@[simp] theorem State.setRing_host (s : State) (c : Fin 64) (f : Ring → Ring) : (s.setRing c f).host = s.host := rfl
@[simp] theorem State.setRing_peer (s : State) (c : Fin 64) (f : Ring → Ring) : (s.setRing c f).peer = s.peer := rfl
@[simp] theorem State.setRing_badLines (s : State) (c : Fin 64) (f : Ring → Ring) : (s.setRing c f).badLines = s.badLines := rfl
@[simp] theorem State.setRing_hostErr (s : State) (c : Fin 64) (f : Ring → Ring) : (s.setRing c f).hostErr = s.hostErr := rfl
@[simp] theorem State.setRing_peerErr (s : State) (c : Fin 64) (f : Ring → Ring) : (s.setRing c f).peerErr = s.peerErr := rfl
@[simp] theorem State.setRing_dirty (s : State) (c : Fin 64) (f : Ring → Ring) : (s.setRing c f).dirty = s.dirty := rfl
@[simp] theorem State.setRing_tlb (s : State) (c : Fin 64) (f : Ring → Ring) : (s.setRing c f).tlb = s.tlb := rfl
@[simp] theorem State.setRing_ops (s : State) (c : Fin 64) (f : Ring → Ring) : (s.setRing c f).ops = s.ops := rfl
@[simp] theorem State.setRing_lines (s : State) (c : Fin 64) (f : Ring → Ring) : (s.setRing c f).lines = s.lines := rfl
@[simp] theorem State.setRing_ctxs (s : State) (c : Fin 64) (f : Ring → Ring) : (s.setRing c f).ctxs = s.ctxs.set c { s.ctxs[c] with ring := f s.ctxs[c].ring } := rfl
@[simp] theorem State.setRing_parts (s : State) (c : Fin 64) (f : Ring → Ring) : (s.setRing c f).parts = s.parts := rfl
@[simp] theorem State.setRing_dev (s : State) (c : Fin 64) (f : Ring → Ring) : (s.setRing c f).dev = s.dev := rfl
@[simp] theorem State.setRing_launches (s : State) (c : Fin 64) (f : Ring → Ring) : (s.setRing c f).launches = s.launches := rfl
@[simp] theorem State.setRing_nextTid (s : State) (c : Fin 64) (f : Ring → Ring) : (s.setRing c f).nextTid = s.nextTid := rfl
@[simp] theorem State.setRing_worlds (s : State) (c : Fin 64) (f : Ring → Ring) : (s.setRing c f).worlds = s.worlds := rfl
@[simp] theorem State.setRing_nextWorld (s : State) (c : Fin 64) (f : Ring → Ring) : (s.setRing c f).nextWorld = s.nextWorld := rfl
@[simp] theorem State.setRing_coll (s : State) (c : Fin 64) (f : Ring → Ring) : (s.setRing c f).coll = s.coll := rfl
@[simp] theorem State.setRing_ports (s : State) (c : Fin 64) (f : Ring → Ring) : (s.setRing c f).ports = s.ports := rfl
@[simp] theorem State.setRing_out (s : State) (c : Fin 64) (f : Ring → Ring) : (s.setRing c f).out = s.out := rfl
@[simp] theorem State.setRing_late (s : State) (c : Fin 64) (f : Ring → Ring) : (s.setRing c f).late = s.late := rfl
@[simp] theorem State.setRing_posted (s : State) (c : Fin 64) (f : Ring → Ring) : (s.setRing c f).posted = s.posted := rfl
@[simp] theorem State.setRing_schedule (s : State) (c : Fin 64) (f : Ring → Ring) : (s.setRing c f).schedule = s.schedule := rfl
@[simp] theorem State.setRing_fresh (s : State) (c : Fin 64) (f : Ring → Ring) : (s.setRing c f).fresh = s.fresh := rfl

/-! ### State.setPort -/

@[simp] theorem State.setPort_task (s : State) (j : Fin 32) (p : Port) : (s.setPort j p).task = s.task := rfl
@[simp] theorem State.setPort_running (s : State) (j : Fin 32) (p : Port) : (s.setPort j p).running = s.running := rfl
@[simp] theorem State.setPort_die (s : State) (j : Fin 32) (p : Port) : (s.setPort j p).die = s.die := rfl
@[simp] theorem State.setPort_pos (s : State) (j : Fin 32) (p : Port) : (s.setPort j p).pos = s.pos := rfl
@[simp] theorem State.setPort_mem (s : State) (j : Fin 32) (p : Port) : (s.setPort j p).mem = s.mem := rfl
@[simp] theorem State.setPort_host (s : State) (j : Fin 32) (p : Port) : (s.setPort j p).host = s.host := rfl
@[simp] theorem State.setPort_peer (s : State) (j : Fin 32) (p : Port) : (s.setPort j p).peer = s.peer := rfl
@[simp] theorem State.setPort_badLines (s : State) (j : Fin 32) (p : Port) : (s.setPort j p).badLines = s.badLines := rfl
@[simp] theorem State.setPort_hostErr (s : State) (j : Fin 32) (p : Port) : (s.setPort j p).hostErr = s.hostErr := rfl
@[simp] theorem State.setPort_peerErr (s : State) (j : Fin 32) (p : Port) : (s.setPort j p).peerErr = s.peerErr := rfl
@[simp] theorem State.setPort_dirty (s : State) (j : Fin 32) (p : Port) : (s.setPort j p).dirty = s.dirty := rfl
@[simp] theorem State.setPort_tlb (s : State) (j : Fin 32) (p : Port) : (s.setPort j p).tlb = s.tlb := rfl
@[simp] theorem State.setPort_ops (s : State) (j : Fin 32) (p : Port) : (s.setPort j p).ops = s.ops := rfl
@[simp] theorem State.setPort_lines (s : State) (j : Fin 32) (p : Port) : (s.setPort j p).lines = s.lines := rfl
@[simp] theorem State.setPort_ctxs (s : State) (j : Fin 32) (p : Port) : (s.setPort j p).ctxs = s.ctxs := rfl
@[simp] theorem State.setPort_parts (s : State) (j : Fin 32) (p : Port) : (s.setPort j p).parts = s.parts := rfl
@[simp] theorem State.setPort_dev (s : State) (j : Fin 32) (p : Port) : (s.setPort j p).dev = s.dev := rfl
@[simp] theorem State.setPort_launches (s : State) (j : Fin 32) (p : Port) : (s.setPort j p).launches = s.launches := rfl
@[simp] theorem State.setPort_nextTid (s : State) (j : Fin 32) (p : Port) : (s.setPort j p).nextTid = s.nextTid := rfl
@[simp] theorem State.setPort_worlds (s : State) (j : Fin 32) (p : Port) : (s.setPort j p).worlds = s.worlds := rfl
@[simp] theorem State.setPort_nextWorld (s : State) (j : Fin 32) (p : Port) : (s.setPort j p).nextWorld = s.nextWorld := rfl
@[simp] theorem State.setPort_coll (s : State) (j : Fin 32) (p : Port) : (s.setPort j p).coll = s.coll := rfl
@[simp] theorem State.setPort_ports (s : State) (j : Fin 32) (p : Port) : (s.setPort j p).ports = s.ports.set j p := rfl
@[simp] theorem State.setPort_out (s : State) (j : Fin 32) (p : Port) : (s.setPort j p).out = s.out := rfl
@[simp] theorem State.setPort_late (s : State) (j : Fin 32) (p : Port) : (s.setPort j p).late = s.late := rfl
@[simp] theorem State.setPort_posted (s : State) (j : Fin 32) (p : Port) : (s.setPort j p).posted = s.posted := rfl
@[simp] theorem State.setPort_schedule (s : State) (j : Fin 32) (p : Port) : (s.setPort j p).schedule = s.schedule := rfl
@[simp] theorem State.setPort_fresh (s : State) (j : Fin 32) (p : Port) : (s.setPort j p).fresh = s.fresh := rfl

/-! ### State.report -/

@[simp] theorem State.report_task (s : State) (e : Aer) : (s.report e).task = s.task := rfl
@[simp] theorem State.report_running (s : State) (e : Aer) : (s.report e).running = s.running := rfl
@[simp] theorem State.report_die (s : State) (e : Aer) : (s.report e).die = s.die := rfl
@[simp] theorem State.report_pos (s : State) (e : Aer) : (s.report e).pos = s.pos := rfl
@[simp] theorem State.report_mem (s : State) (e : Aer) : (s.report e).mem = s.mem := rfl
@[simp] theorem State.report_host (s : State) (e : Aer) : (s.report e).host = s.host := rfl
@[simp] theorem State.report_peer (s : State) (e : Aer) : (s.report e).peer = s.peer := rfl
@[simp] theorem State.report_badLines (s : State) (e : Aer) : (s.report e).badLines = s.badLines := rfl
@[simp] theorem State.report_hostErr (s : State) (e : Aer) : (s.report e).hostErr = s.hostErr := rfl
@[simp] theorem State.report_peerErr (s : State) (e : Aer) : (s.report e).peerErr = s.peerErr := rfl
@[simp] theorem State.report_dirty (s : State) (e : Aer) : (s.report e).dirty = s.dirty := rfl
@[simp] theorem State.report_tlb (s : State) (e : Aer) : (s.report e).tlb = s.tlb := rfl
@[simp] theorem State.report_ops (s : State) (e : Aer) : (s.report e).ops = s.ops := rfl
@[simp] theorem State.report_lines (s : State) (e : Aer) : (s.report e).lines = s.lines := rfl
@[simp] theorem State.report_ctxs (s : State) (e : Aer) : (s.report e).ctxs = s.ctxs := rfl
@[simp] theorem State.report_parts (s : State) (e : Aer) : (s.report e).parts = s.parts := rfl
@[simp] theorem State.report_dev (s : State) (e : Aer) : (s.report e).dev = s.dev := rfl
@[simp] theorem State.report_launches (s : State) (e : Aer) : (s.report e).launches = s.launches := rfl
@[simp] theorem State.report_nextTid (s : State) (e : Aer) : (s.report e).nextTid = s.nextTid := rfl
@[simp] theorem State.report_worlds (s : State) (e : Aer) : (s.report e).worlds = s.worlds := rfl
@[simp] theorem State.report_nextWorld (s : State) (e : Aer) : (s.report e).nextWorld = s.nextWorld := rfl
@[simp] theorem State.report_coll (s : State) (e : Aer) : (s.report e).coll = s.coll := rfl
@[simp] theorem State.report_ports (s : State) (e : Aer) : (s.report e).ports = s.ports := rfl
@[simp] theorem State.report_out (s : State) (e : Aer) : (s.report e).out = { s.out with aer := s.out.aer ++ [e] } := rfl
@[simp] theorem State.report_late (s : State) (e : Aer) : (s.report e).late = s.late := rfl
@[simp] theorem State.report_posted (s : State) (e : Aer) : (s.report e).posted = s.posted := rfl
@[simp] theorem State.report_schedule (s : State) (e : Aer) : (s.report e).schedule = s.schedule := rfl
@[simp] theorem State.report_fresh (s : State) (e : Aer) : (s.report e).fresh = s.fresh := rfl

/-! ### State.answerRead -/

@[simp] theorem State.answerRead_task (s : State) (bs : List Byte) : (s.answerRead bs).task = s.task := rfl
@[simp] theorem State.answerRead_running (s : State) (bs : List Byte) : (s.answerRead bs).running = s.running := rfl
@[simp] theorem State.answerRead_die (s : State) (bs : List Byte) : (s.answerRead bs).die = s.die := rfl
@[simp] theorem State.answerRead_pos (s : State) (bs : List Byte) : (s.answerRead bs).pos = s.pos := rfl
@[simp] theorem State.answerRead_mem (s : State) (bs : List Byte) : (s.answerRead bs).mem = s.mem := rfl
@[simp] theorem State.answerRead_host (s : State) (bs : List Byte) : (s.answerRead bs).host = s.host := rfl
@[simp] theorem State.answerRead_peer (s : State) (bs : List Byte) : (s.answerRead bs).peer = s.peer := rfl
@[simp] theorem State.answerRead_badLines (s : State) (bs : List Byte) : (s.answerRead bs).badLines = s.badLines := rfl
@[simp] theorem State.answerRead_hostErr (s : State) (bs : List Byte) : (s.answerRead bs).hostErr = s.hostErr := rfl
@[simp] theorem State.answerRead_peerErr (s : State) (bs : List Byte) : (s.answerRead bs).peerErr = s.peerErr := rfl
@[simp] theorem State.answerRead_dirty (s : State) (bs : List Byte) : (s.answerRead bs).dirty = s.dirty := rfl
@[simp] theorem State.answerRead_tlb (s : State) (bs : List Byte) : (s.answerRead bs).tlb = s.tlb := rfl
@[simp] theorem State.answerRead_ops (s : State) (bs : List Byte) : (s.answerRead bs).ops = s.ops := rfl
@[simp] theorem State.answerRead_lines (s : State) (bs : List Byte) : (s.answerRead bs).lines = s.lines := rfl
@[simp] theorem State.answerRead_ctxs (s : State) (bs : List Byte) : (s.answerRead bs).ctxs = s.ctxs := rfl
@[simp] theorem State.answerRead_parts (s : State) (bs : List Byte) : (s.answerRead bs).parts = s.parts := rfl
@[simp] theorem State.answerRead_dev (s : State) (bs : List Byte) : (s.answerRead bs).dev = s.dev := rfl
@[simp] theorem State.answerRead_launches (s : State) (bs : List Byte) : (s.answerRead bs).launches = s.launches := rfl
@[simp] theorem State.answerRead_nextTid (s : State) (bs : List Byte) : (s.answerRead bs).nextTid = s.nextTid := rfl
@[simp] theorem State.answerRead_worlds (s : State) (bs : List Byte) : (s.answerRead bs).worlds = s.worlds := rfl
@[simp] theorem State.answerRead_nextWorld (s : State) (bs : List Byte) : (s.answerRead bs).nextWorld = s.nextWorld := rfl
@[simp] theorem State.answerRead_coll (s : State) (bs : List Byte) : (s.answerRead bs).coll = s.coll := rfl
@[simp] theorem State.answerRead_ports (s : State) (bs : List Byte) : (s.answerRead bs).ports = s.ports := rfl
@[simp] theorem State.answerRead_out (s : State) (bs : List Byte) : (s.answerRead bs).out = { s.out with reads := s.out.reads ++ [bs] } := rfl
@[simp] theorem State.answerRead_late (s : State) (bs : List Byte) : (s.answerRead bs).late = s.late := rfl
@[simp] theorem State.answerRead_posted (s : State) (bs : List Byte) : (s.answerRead bs).posted = s.posted := rfl
@[simp] theorem State.answerRead_schedule (s : State) (bs : List Byte) : (s.answerRead bs).schedule = s.schedule := rfl
@[simp] theorem State.answerRead_fresh (s : State) (bs : List Byte) : (s.answerRead bs).fresh = s.fresh := rfl

/-! ### State.answer -/

@[simp] theorem State.answer_task (s : State) (n : Nat) : (s.answer n).task = s.task := rfl
@[simp] theorem State.answer_running (s : State) (n : Nat) : (s.answer n).running = s.running := rfl
@[simp] theorem State.answer_die (s : State) (n : Nat) : (s.answer n).die = s.die := rfl
@[simp] theorem State.answer_pos (s : State) (n : Nat) : (s.answer n).pos = s.pos := rfl
@[simp] theorem State.answer_mem (s : State) (n : Nat) : (s.answer n).mem = s.mem := rfl
@[simp] theorem State.answer_host (s : State) (n : Nat) : (s.answer n).host = s.host := rfl
@[simp] theorem State.answer_peer (s : State) (n : Nat) : (s.answer n).peer = s.peer := rfl
@[simp] theorem State.answer_badLines (s : State) (n : Nat) : (s.answer n).badLines = s.badLines := rfl
@[simp] theorem State.answer_hostErr (s : State) (n : Nat) : (s.answer n).hostErr = s.hostErr := rfl
@[simp] theorem State.answer_peerErr (s : State) (n : Nat) : (s.answer n).peerErr = s.peerErr := rfl
@[simp] theorem State.answer_dirty (s : State) (n : Nat) : (s.answer n).dirty = s.dirty := rfl
@[simp] theorem State.answer_tlb (s : State) (n : Nat) : (s.answer n).tlb = s.tlb := rfl
@[simp] theorem State.answer_ops (s : State) (n : Nat) : (s.answer n).ops = s.ops := rfl
@[simp] theorem State.answer_lines (s : State) (n : Nat) : (s.answer n).lines = s.lines := rfl
@[simp] theorem State.answer_ctxs (s : State) (n : Nat) : (s.answer n).ctxs = s.ctxs := rfl
@[simp] theorem State.answer_parts (s : State) (n : Nat) : (s.answer n).parts = s.parts := rfl
@[simp] theorem State.answer_dev (s : State) (n : Nat) : (s.answer n).dev = s.dev := rfl
@[simp] theorem State.answer_launches (s : State) (n : Nat) : (s.answer n).launches = s.launches := rfl
@[simp] theorem State.answer_nextTid (s : State) (n : Nat) : (s.answer n).nextTid = s.nextTid := rfl
@[simp] theorem State.answer_worlds (s : State) (n : Nat) : (s.answer n).worlds = s.worlds := rfl
@[simp] theorem State.answer_nextWorld (s : State) (n : Nat) : (s.answer n).nextWorld = s.nextWorld := rfl
@[simp] theorem State.answer_coll (s : State) (n : Nat) : (s.answer n).coll = s.coll := rfl
@[simp] theorem State.answer_ports (s : State) (n : Nat) : (s.answer n).ports = s.ports := rfl
@[simp] theorem State.answer_out (s : State) (n : Nat) : (s.answer n).out = { s.out with answers := s.out.answers ++ [n] } := rfl
@[simp] theorem State.answer_late (s : State) (n : Nat) : (s.answer n).late = s.late := rfl
@[simp] theorem State.answer_posted (s : State) (n : Nat) : (s.answer n).posted = s.posted := rfl
@[simp] theorem State.answer_schedule (s : State) (n : Nat) : (s.answer n).schedule = s.schedule := rfl
@[simp] theorem State.answer_fresh (s : State) (n : Nat) : (s.answer n).fresh = s.fresh := rfl

/-! ### State.setSlot -/

@[simp] theorem State.setSlot_task (s : State) (k : Fin 4) (x : Option XSet) : (s.setSlot k x).task = s.task := rfl
@[simp] theorem State.setSlot_running (s : State) (k : Fin 4) (x : Option XSet) : (s.setSlot k x).running = s.running := rfl
@[simp] theorem State.setSlot_die (s : State) (k : Fin 4) (x : Option XSet) : (s.setSlot k x).die = s.die := rfl
@[simp] theorem State.setSlot_pos (s : State) (k : Fin 4) (x : Option XSet) : (s.setSlot k x).pos = s.pos := rfl
@[simp] theorem State.setSlot_mem (s : State) (k : Fin 4) (x : Option XSet) : (s.setSlot k x).mem = s.mem := rfl
@[simp] theorem State.setSlot_host (s : State) (k : Fin 4) (x : Option XSet) : (s.setSlot k x).host = s.host := rfl
@[simp] theorem State.setSlot_peer (s : State) (k : Fin 4) (x : Option XSet) : (s.setSlot k x).peer = s.peer := rfl
@[simp] theorem State.setSlot_badLines (s : State) (k : Fin 4) (x : Option XSet) : (s.setSlot k x).badLines = s.badLines := rfl
@[simp] theorem State.setSlot_hostErr (s : State) (k : Fin 4) (x : Option XSet) : (s.setSlot k x).hostErr = s.hostErr := rfl
@[simp] theorem State.setSlot_peerErr (s : State) (k : Fin 4) (x : Option XSet) : (s.setSlot k x).peerErr = s.peerErr := rfl
@[simp] theorem State.setSlot_dirty (s : State) (k : Fin 4) (x : Option XSet) : (s.setSlot k x).dirty = s.dirty := rfl
@[simp] theorem State.setSlot_tlb (s : State) (k : Fin 4) (x : Option XSet) : (s.setSlot k x).tlb = s.tlb := rfl
@[simp] theorem State.setSlot_ops (s : State) (k : Fin 4) (x : Option XSet) : (s.setSlot k x).ops = s.ops := rfl
@[simp] theorem State.setSlot_lines (s : State) (k : Fin 4) (x : Option XSet) : (s.setSlot k x).lines = s.lines := rfl
@[simp] theorem State.setSlot_ctxs (s : State) (k : Fin 4) (x : Option XSet) : (s.setSlot k x).ctxs = s.ctxs := rfl
@[simp] theorem State.setSlot_parts (s : State) (k : Fin 4) (x : Option XSet) : (s.setSlot k x).parts = s.parts := rfl
@[simp] theorem State.setSlot_dev (s : State) (k : Fin 4) (x : Option XSet) : (s.setSlot k x).dev = { s.dev with slots := s.dev.slots.set k x } := rfl
@[simp] theorem State.setSlot_launches (s : State) (k : Fin 4) (x : Option XSet) : (s.setSlot k x).launches = s.launches := rfl
@[simp] theorem State.setSlot_nextTid (s : State) (k : Fin 4) (x : Option XSet) : (s.setSlot k x).nextTid = s.nextTid := rfl
@[simp] theorem State.setSlot_worlds (s : State) (k : Fin 4) (x : Option XSet) : (s.setSlot k x).worlds = s.worlds := rfl
@[simp] theorem State.setSlot_nextWorld (s : State) (k : Fin 4) (x : Option XSet) : (s.setSlot k x).nextWorld = s.nextWorld := rfl
@[simp] theorem State.setSlot_coll (s : State) (k : Fin 4) (x : Option XSet) : (s.setSlot k x).coll = s.coll := rfl
@[simp] theorem State.setSlot_ports (s : State) (k : Fin 4) (x : Option XSet) : (s.setSlot k x).ports = s.ports := rfl
@[simp] theorem State.setSlot_out (s : State) (k : Fin 4) (x : Option XSet) : (s.setSlot k x).out = s.out := rfl
@[simp] theorem State.setSlot_late (s : State) (k : Fin 4) (x : Option XSet) : (s.setSlot k x).late = s.late := rfl
@[simp] theorem State.setSlot_posted (s : State) (k : Fin 4) (x : Option XSet) : (s.setSlot k x).posted = s.posted := rfl
@[simp] theorem State.setSlot_schedule (s : State) (k : Fin 4) (x : Option XSet) : (s.setSlot k x).schedule = s.schedule := rfl
@[simp] theorem State.setSlot_fresh (s : State) (k : Fin 4) (x : Option XSet) : (s.setSlot k x).fresh = s.fresh := rfl

/-! ### State.tick -/

@[simp] theorem State.tick_task (s : State) (n : Nat) : (s.tick n).task = if s.running then { s.task with id := { s.task.id with wdog := s.task.id.wdog + n } } else s.task := rfl
@[simp] theorem State.tick_running (s : State) (n : Nat) : (s.tick n).running = s.running := rfl
@[simp] theorem State.tick_die (s : State) (n : Nat) : (s.tick n).die = s.die := rfl
@[simp] theorem State.tick_pos (s : State) (n : Nat) : (s.tick n).pos = s.pos := rfl
@[simp] theorem State.tick_mem (s : State) (n : Nat) : (s.tick n).mem = s.mem := rfl
@[simp] theorem State.tick_host (s : State) (n : Nat) : (s.tick n).host = s.host := rfl
@[simp] theorem State.tick_peer (s : State) (n : Nat) : (s.tick n).peer = s.peer := rfl
@[simp] theorem State.tick_badLines (s : State) (n : Nat) : (s.tick n).badLines = s.badLines := rfl
@[simp] theorem State.tick_hostErr (s : State) (n : Nat) : (s.tick n).hostErr = s.hostErr := rfl
@[simp] theorem State.tick_peerErr (s : State) (n : Nat) : (s.tick n).peerErr = s.peerErr := rfl
@[simp] theorem State.tick_dirty (s : State) (n : Nat) : (s.tick n).dirty = s.dirty := rfl
@[simp] theorem State.tick_tlb (s : State) (n : Nat) : (s.tick n).tlb = s.tlb := rfl
@[simp] theorem State.tick_ops (s : State) (n : Nat) : (s.tick n).ops = s.ops := rfl
@[simp] theorem State.tick_lines (s : State) (n : Nat) : (s.tick n).lines = s.lines := rfl
@[simp] theorem State.tick_ctxs (s : State) (n : Nat) : (s.tick n).ctxs = s.ctxs := rfl
@[simp] theorem State.tick_parts (s : State) (n : Nat) : (s.tick n).parts = s.parts := rfl
@[simp] theorem State.tick_dev (s : State) (n : Nat) : (s.tick n).dev = { s.dev with cycle := s.dev.cycle + n } := rfl
@[simp] theorem State.tick_launches (s : State) (n : Nat) : (s.tick n).launches = s.launches := rfl
@[simp] theorem State.tick_nextTid (s : State) (n : Nat) : (s.tick n).nextTid = s.nextTid := rfl
@[simp] theorem State.tick_worlds (s : State) (n : Nat) : (s.tick n).worlds = s.worlds := rfl
@[simp] theorem State.tick_nextWorld (s : State) (n : Nat) : (s.tick n).nextWorld = s.nextWorld := rfl
@[simp] theorem State.tick_coll (s : State) (n : Nat) : (s.tick n).coll = s.coll := rfl
@[simp] theorem State.tick_ports (s : State) (n : Nat) : (s.tick n).ports = s.ports := rfl
@[simp] theorem State.tick_out (s : State) (n : Nat) : (s.tick n).out = s.out := rfl
@[simp] theorem State.tick_late (s : State) (n : Nat) : (s.tick n).late = s.late := rfl
@[simp] theorem State.tick_posted (s : State) (n : Nat) : (s.tick n).posted = s.posted := rfl
@[simp] theorem State.tick_schedule (s : State) (n : Nat) : (s.tick n).schedule = s.schedule := rfl
@[simp] theorem State.tick_fresh (s : State) (n : Nat) : (s.tick n).fresh = s.fresh := rfl

/-! ### State.mendGroups -/

@[simp] theorem State.mendGroups_task (s : State) : (s.mendGroups).task = s.task := rfl
@[simp] theorem State.mendGroups_running (s : State) : (s.mendGroups).running = s.running := rfl
@[simp] theorem State.mendGroups_die (s : State) : (s.mendGroups).die = s.die := rfl
@[simp] theorem State.mendGroups_pos (s : State) : (s.mendGroups).pos = s.pos := rfl
@[simp] theorem State.mendGroups_mem (s : State) : (s.mendGroups).mem = s.mem := rfl
@[simp] theorem State.mendGroups_host (s : State) : (s.mendGroups).host = s.host := rfl
@[simp] theorem State.mendGroups_peer (s : State) : (s.mendGroups).peer = s.peer := rfl
@[simp] theorem State.mendGroups_badLines (s : State) : (s.mendGroups).badLines = s.badLines := rfl
@[simp] theorem State.mendGroups_hostErr (s : State) : (s.mendGroups).hostErr = s.hostErr := rfl
@[simp] theorem State.mendGroups_peerErr (s : State) : (s.mendGroups).peerErr = s.peerErr := rfl
@[simp] theorem State.mendGroups_dirty (s : State) : (s.mendGroups).dirty = s.dirty := rfl
@[simp] theorem State.mendGroups_tlb (s : State) : (s.mendGroups).tlb = s.tlb := rfl
@[simp] theorem State.mendGroups_ops (s : State) : (s.mendGroups).ops = s.ops := rfl
@[simp] theorem State.mendGroups_lines (s : State) : (s.mendGroups).lines = s.lines := rfl
@[simp] theorem State.mendGroups_ctxs (s : State) : (s.mendGroups).ctxs = s.ctxs := rfl
@[simp] theorem State.mendGroups_parts (s : State) : (s.mendGroups).parts = s.parts := rfl
@[simp] theorem State.mendGroups_dev (s : State) : (s.mendGroups).dev = s.dev := rfl
@[simp] theorem State.mendGroups_launches (s : State) : (s.mendGroups).launches = s.launches := rfl
@[simp] theorem State.mendGroups_nextTid (s : State) : (s.mendGroups).nextTid = s.nextTid := rfl
@[simp] theorem State.mendGroups_worlds (s : State) : (s.mendGroups).worlds = s.worlds := rfl
@[simp] theorem State.mendGroups_nextWorld (s : State) : (s.mendGroups).nextWorld = s.nextWorld := rfl
@[simp] theorem State.mendGroups_coll (s : State) : (s.mendGroups).coll = { s.coll with broken := s.coll.broken.filter s.staysBroken } := rfl
@[simp] theorem State.mendGroups_ports (s : State) : (s.mendGroups).ports = s.ports := rfl
@[simp] theorem State.mendGroups_out (s : State) : (s.mendGroups).out = s.out := rfl
@[simp] theorem State.mendGroups_late (s : State) : (s.mendGroups).late = s.late := rfl
@[simp] theorem State.mendGroups_posted (s : State) : (s.mendGroups).posted = s.posted := rfl
@[simp] theorem State.mendGroups_schedule (s : State) : (s.mendGroups).schedule = s.schedule := rfl
@[simp] theorem State.mendGroups_fresh (s : State) : (s.mendGroups).fresh = s.fresh := rfl

/-! ### Task.advanceTo -/

@[simp] theorem Task.advanceTo_pc (t : Task) (n : Word) : (t.advanceTo n).pc = (t.csr.loopEnd t.pc n).2 := rfl
@[simp] theorem Task.advanceTo_x (t : Task) (n : Word) : (t.advanceTo n).x = t.x := rfl
@[simp] theorem Task.advanceTo_csr (t : Task) (n : Word) : (t.advanceTo n).csr = (t.csr.loopEnd t.pc n).1 := rfl
@[simp] theorem Task.advanceTo_v (t : Task) (n : Word) : (t.advanceTo n).v = t.v := rfl
@[simp] theorem Task.advanceTo_q (t : Task) (n : Word) : (t.advanceTo n).q = t.q := rfl
@[simp] theorem Task.advanceTo_stooks (t : Task) (n : Word) : (t.advanceTo n).stooks = t.stooks := rfl
@[simp] theorem Task.advanceTo_veQ (t : Task) (n : Word) : (t.advanceTo n).veQ = t.veQ := rfl
@[simp] theorem Task.advanceTo_held (t : Task) (n : Word) : (t.advanceTo n).held = t.held := rfl
@[simp] theorem Task.advanceTo_storeQ (t : Task) (n : Word) : (t.advanceTo n).storeQ = t.storeQ := rfl
@[simp] theorem Task.advanceTo_stores (t : Task) (n : Word) : (t.advanceTo n).stores = t.stores := rfl
@[simp] theorem Task.advanceTo_part (t : Task) (n : Word) : (t.advanceTo n).part = t.part := rfl
@[simp] theorem Task.advanceTo_thr (t : Task) (n : Word) : (t.advanceTo n).thr = t.thr := rfl
@[simp] theorem Task.advanceTo_ch (t : Task) (n : Word) : (t.advanceTo n).ch = t.ch := rfl
@[simp] theorem Task.advanceTo_pend (t : Task) (n : Word) : (t.advanceTo n).pend = t.pend := rfl
@[simp] theorem Task.advanceTo_loft (t : Task) (n : Word) : (t.advanceTo n).loft = t.loft := rfl
@[simp] theorem Task.advanceTo_loftPages (t : Task) (n : Word) : (t.advanceTo n).loftPages = t.loftPages := rfl
@[simp] theorem Task.advanceTo_badLoft (t : Task) (n : Word) : (t.advanceTo n).badLoft = t.badLoft := rfl
@[simp] theorem Task.advanceTo_id (t : Task) (n : Word) : (t.advanceTo n).id = t.id := rfl

/-! ### Task.advance -/

@[simp] theorem Task.advance_pc (t : Task) : (t.advance).pc = (t.csr.loopEnd t.pc (t.pc + 4)).2 := rfl
@[simp] theorem Task.advance_x (t : Task) : (t.advance).x = t.x := rfl
@[simp] theorem Task.advance_csr (t : Task) : (t.advance).csr = (t.csr.loopEnd t.pc (t.pc + 4)).1 := rfl
@[simp] theorem Task.advance_v (t : Task) : (t.advance).v = t.v := rfl
@[simp] theorem Task.advance_q (t : Task) : (t.advance).q = t.q := rfl
@[simp] theorem Task.advance_stooks (t : Task) : (t.advance).stooks = t.stooks := rfl
@[simp] theorem Task.advance_veQ (t : Task) : (t.advance).veQ = t.veQ := rfl
@[simp] theorem Task.advance_held (t : Task) : (t.advance).held = t.held := rfl
@[simp] theorem Task.advance_storeQ (t : Task) : (t.advance).storeQ = t.storeQ := rfl
@[simp] theorem Task.advance_stores (t : Task) : (t.advance).stores = t.stores := rfl
@[simp] theorem Task.advance_part (t : Task) : (t.advance).part = t.part := rfl
@[simp] theorem Task.advance_thr (t : Task) : (t.advance).thr = t.thr := rfl
@[simp] theorem Task.advance_ch (t : Task) : (t.advance).ch = t.ch := rfl
@[simp] theorem Task.advance_pend (t : Task) : (t.advance).pend = t.pend := rfl
@[simp] theorem Task.advance_loft (t : Task) : (t.advance).loft = t.loft := rfl
@[simp] theorem Task.advance_loftPages (t : Task) : (t.advance).loftPages = t.loftPages := rfl
@[simp] theorem Task.advance_badLoft (t : Task) : (t.advance).badLoft = t.badLoft := rfl
@[simp] theorem Task.advance_id (t : Task) : (t.advance).id = t.id := rfl

/-! ### Task.putLoft -/

@[simp] theorem Task.putLoft_pc (t : Task) (o : Nat) (bs : List Byte) : (t.putLoft o bs).pc = t.pc := rfl
@[simp] theorem Task.putLoft_x (t : Task) (o : Nat) (bs : List Byte) : (t.putLoft o bs).x = t.x := rfl
@[simp] theorem Task.putLoft_csr (t : Task) (o : Nat) (bs : List Byte) : (t.putLoft o bs).csr = t.csr := rfl
@[simp] theorem Task.putLoft_v (t : Task) (o : Nat) (bs : List Byte) : (t.putLoft o bs).v = t.v := rfl
@[simp] theorem Task.putLoft_q (t : Task) (o : Nat) (bs : List Byte) : (t.putLoft o bs).q = t.q := rfl
@[simp] theorem Task.putLoft_stooks (t : Task) (o : Nat) (bs : List Byte) : (t.putLoft o bs).stooks = t.stooks := rfl
@[simp] theorem Task.putLoft_veQ (t : Task) (o : Nat) (bs : List Byte) : (t.putLoft o bs).veQ = t.veQ := rfl
@[simp] theorem Task.putLoft_held (t : Task) (o : Nat) (bs : List Byte) : (t.putLoft o bs).held = t.held := rfl
@[simp] theorem Task.putLoft_storeQ (t : Task) (o : Nat) (bs : List Byte) : (t.putLoft o bs).storeQ = t.storeQ := rfl
@[simp] theorem Task.putLoft_stores (t : Task) (o : Nat) (bs : List Byte) : (t.putLoft o bs).stores = t.stores := rfl
@[simp] theorem Task.putLoft_part (t : Task) (o : Nat) (bs : List Byte) : (t.putLoft o bs).part = t.part := rfl
@[simp] theorem Task.putLoft_thr (t : Task) (o : Nat) (bs : List Byte) : (t.putLoft o bs).thr = t.thr.written o bs.length := rfl
@[simp] theorem Task.putLoft_ch (t : Task) (o : Nat) (bs : List Byte) : (t.putLoft o bs).ch = t.ch := rfl
@[simp] theorem Task.putLoft_pend (t : Task) (o : Nat) (bs : List Byte) : (t.putLoft o bs).pend = t.pend := rfl
@[simp] theorem Task.putLoft_loft (t : Task) (o : Nat) (bs : List Byte) : (t.putLoft o bs).loft = t.loft.putBytes o bs := rfl
@[simp] theorem Task.putLoft_loftPages (t : Task) (o : Nat) (bs : List Byte) : (t.putLoft o bs).loftPages = (loftPagesOf o bs.length).foldl (fun m p => m ||| BitVec.ofNat 32 (2 ^ p)) t.loftPages := rfl
@[simp] theorem Task.putLoft_badLoft (t : Task) (o : Nat) (bs : List Byte) : (t.putLoft o bs).badLoft = loftHealed t.badLoft o bs.length := rfl
@[simp] theorem Task.putLoft_id (t : Task) (o : Nat) (bs : List Byte) : (t.putLoft o bs).id = t.id := rfl

/-! ### Task.enter -/

@[simp] theorem Task.enter_pc (t : Task) (q : TrapReq) (a : Word) : (t.enter q a).pc = a := rfl
@[simp] theorem Task.enter_x (t : Task) (q : TrapReq) (a : Word) : (t.enter q a).x = t.x := rfl
@[simp] theorem Task.enter_csr (t : Task) (q : TrapReq) (a : Word) : (t.enter q a).csr = t.csr.enter q t.pc := rfl
@[simp] theorem Task.enter_v (t : Task) (q : TrapReq) (a : Word) : (t.enter q a).v = t.v := rfl
@[simp] theorem Task.enter_q (t : Task) (q : TrapReq) (a : Word) : (t.enter q a).q = t.q := rfl
@[simp] theorem Task.enter_stooks (t : Task) (q : TrapReq) (a : Word) : (t.enter q a).stooks = t.stooks := rfl
@[simp] theorem Task.enter_veQ (t : Task) (q : TrapReq) (a : Word) : (t.enter q a).veQ = [] := rfl
@[simp] theorem Task.enter_held (t : Task) (q : TrapReq) (a : Word) : (t.enter q a).held = t.setAside q :: t.held := rfl
@[simp] theorem Task.enter_storeQ (t : Task) (q : TrapReq) (a : Word) : (t.enter q a).storeQ = t.storeQ := rfl
@[simp] theorem Task.enter_stores (t : Task) (q : TrapReq) (a : Word) : (t.enter q a).stores = t.stores := rfl
@[simp] theorem Task.enter_part (t : Task) (q : TrapReq) (a : Word) : (t.enter q a).part = none := rfl
@[simp] theorem Task.enter_thr (t : Task) (q : TrapReq) (a : Word) : (t.enter q a).thr = t.thr := rfl
@[simp] theorem Task.enter_ch (t : Task) (q : TrapReq) (a : Word) : (t.enter q a).ch = t.ch := rfl
@[simp] theorem Task.enter_pend (t : Task) (q : TrapReq) (a : Word) : (t.enter q a).pend = { t.pend with ve := none } := rfl
@[simp] theorem Task.enter_loft (t : Task) (q : TrapReq) (a : Word) : (t.enter q a).loft = t.loft := rfl
@[simp] theorem Task.enter_loftPages (t : Task) (q : TrapReq) (a : Word) : (t.enter q a).loftPages = t.loftPages := rfl
@[simp] theorem Task.enter_badLoft (t : Task) (q : TrapReq) (a : Word) : (t.enter q a).badLoft = t.badLoft := rfl
@[simp] theorem Task.enter_id (t : Task) (q : TrapReq) (a : Word) : (t.enter q a).id = t.id := rfl

/-! ### Task.takeStoch -/

@[simp] theorem Task.takeStoch_pc (t : Task) : (t.takeStoch).pc = t.pc := rfl
@[simp] theorem Task.takeStoch_x (t : Task) : (t.takeStoch).x = t.x := rfl
@[simp] theorem Task.takeStoch_csr (t : Task) : (t.takeStoch).csr = t.csr := rfl
@[simp] theorem Task.takeStoch_v (t : Task) : (t.takeStoch).v = t.v := rfl
@[simp] theorem Task.takeStoch_q (t : Task) : (t.takeStoch).q = t.q := rfl
@[simp] theorem Task.takeStoch_stooks (t : Task) : (t.takeStoch).stooks = t.stooks := rfl
@[simp] theorem Task.takeStoch_veQ (t : Task) : (t.takeStoch).veQ = t.veQ := rfl
@[simp] theorem Task.takeStoch_held (t : Task) : (t.takeStoch).held = t.held := rfl
@[simp] theorem Task.takeStoch_storeQ (t : Task) : (t.takeStoch).storeQ = t.storeQ := rfl
@[simp] theorem Task.takeStoch_stores (t : Task) : (t.takeStoch).stores = t.stores := rfl
@[simp] theorem Task.takeStoch_part (t : Task) : (t.takeStoch).part = t.part := rfl
@[simp] theorem Task.takeStoch_thr (t : Task) : (t.takeStoch).thr = t.thr := rfl
@[simp] theorem Task.takeStoch_ch (t : Task) : (t.takeStoch).ch = t.ch := rfl
@[simp] theorem Task.takeStoch_pend (t : Task) : (t.takeStoch).pend = t.pend := rfl
@[simp] theorem Task.takeStoch_loft (t : Task) : (t.takeStoch).loft = t.loft := rfl
@[simp] theorem Task.takeStoch_loftPages (t : Task) : (t.takeStoch).loftPages = t.loftPages := rfl
@[simp] theorem Task.takeStoch_badLoft (t : Task) : (t.takeStoch).badLoft = t.badLoft := rfl
@[simp] theorem Task.takeStoch_id (t : Task) : (t.takeStoch).id = { t.id with stoch := t.id.stoch + 1 } := rfl

/-! ### Task.dropTile -/

@[simp] theorem Task.dropTile_pc (t : Task) (k : Fin 8) : (t.dropTile k).pc = t.pc := rfl
@[simp] theorem Task.dropTile_x (t : Task) (k : Fin 8) : (t.dropTile k).x = t.x := rfl
@[simp] theorem Task.dropTile_csr (t : Task) (k : Fin 8) : (t.dropTile k).csr = t.csr := rfl
@[simp] theorem Task.dropTile_v (t : Task) (k : Fin 8) : (t.dropTile k).v = t.v := rfl
@[simp] theorem Task.dropTile_q (t : Task) (k : Fin 8) : (t.dropTile k).q = t.q.set k { t.q[k] with tiles := t.q[k].tiles.drop 1 } := rfl
@[simp] theorem Task.dropTile_stooks (t : Task) (k : Fin 8) : (t.dropTile k).stooks = t.stooks := rfl
@[simp] theorem Task.dropTile_veQ (t : Task) (k : Fin 8) : (t.dropTile k).veQ = t.veQ := rfl
@[simp] theorem Task.dropTile_held (t : Task) (k : Fin 8) : (t.dropTile k).held = t.held := rfl
@[simp] theorem Task.dropTile_storeQ (t : Task) (k : Fin 8) : (t.dropTile k).storeQ = t.storeQ := rfl
@[simp] theorem Task.dropTile_stores (t : Task) (k : Fin 8) : (t.dropTile k).stores = t.stores := rfl
@[simp] theorem Task.dropTile_part (t : Task) (k : Fin 8) : (t.dropTile k).part = t.part := rfl
@[simp] theorem Task.dropTile_thr (t : Task) (k : Fin 8) : (t.dropTile k).thr = t.thr := rfl
@[simp] theorem Task.dropTile_ch (t : Task) (k : Fin 8) : (t.dropTile k).ch = t.ch := rfl
@[simp] theorem Task.dropTile_pend (t : Task) (k : Fin 8) : (t.dropTile k).pend = t.pend := rfl
@[simp] theorem Task.dropTile_loft (t : Task) (k : Fin 8) : (t.dropTile k).loft = t.loft := rfl
@[simp] theorem Task.dropTile_loftPages (t : Task) (k : Fin 8) : (t.dropTile k).loftPages = t.loftPages := rfl
@[simp] theorem Task.dropTile_badLoft (t : Task) (k : Fin 8) : (t.dropTile k).badLoft = t.badLoft := rfl
@[simp] theorem Task.dropTile_id (t : Task) (k : Fin 8) : (t.dropTile k).id = t.id := rfl

end Sys2Proof.Machine
end

