-- ==== Sys2Proof/Laws/Ops.lean ====
section
/-! SUPPORT. What each shared operation answers, said once: continuing after a check, registers (R24), the loop-end check (R123), the
place of an access (R117, R226), and the outcome of an instruction. -/

namespace Sys2Proof.Machine

/-! ### Continuing -/

theorem Chk.bind_eq_ok {α β : Type} {x : Chk α} {f : α → Chk β} {b : β} : x.bind f = .ok b ↔ ∃ a, x = .ok a ∧ f a = .ok b := by
  cases x <;> simp [Chk.bind]

theorem Chk.need_eq_ok {b : Bool} {c : Cause} {v : Word} : Chk.need b c v = .ok () ↔ b = true := by
  cases b <;> simp [Chk.need, Chk.fail]

theorem Res.bind_eq_ok {α β : Type} {x : Res α} {f : α → Res β} {b : β} : x.bind f = .ok b ↔ ∃ a, x = .ok a ∧ f a = .ok b := by
  cases x <;> simp [Res.bind]

theorem Res.bind_eq_trap {α β : Type} {x : Res α} {f : α → Res β} {s : State} {r : Raise} :
    x.bind f = .trap s r ↔ x = .trap s r ∨ ∃ a, x = .ok a ∧ f a = .trap s r := by
  cases x <;> simp [Res.bind]

theorem Res.ofChk_eq_ok {α : Type} {s : State} {x : Chk α} {a : α} : Res.ofChk s x = .ok a ↔ x = .ok a := by
  cases x <;> simp [Res.ofChk]

theorem Res.ofChk_eq_trap {α : Type} {s s' : State} {x : Chk α} {r : Raise} :
    (Res.ofChk s x : Res α) = .trap s' r ↔ s' = s ∧ x = .bad r := by
  cases x <;> simp [Res.ofChk, eq_comm]

theorem Res.need_eq_ok {s : State} {b : Bool} {c : Cause} {v : Word} : Res.need s b c v = .ok () ↔ b = true := by
  cases b <;> simp [Res.need, Res.fail]

theorem Res.until_eq_ok {b : Bool} : Res.until b = .ok () ↔ b = true := by cases b <;> simp [Res.until]

theorem Res.untilVe_eq_ok {b : Bool} : Res.untilVe b = .ok () ↔ b = true := by cases b <;> simp [Res.untilVe]

/-- Everything an instruction's work can become: its own next state, a trap from the state it leaves, or a wait. -/
theorem State.settle_eq_next {s t : State} {r : Res State} (h : s.settle r = .next t) :
    r = .ok t ∨ (∃ s' q, r = .trap s' q ∧ t = s'.fault q) ∨ (r = .wait ∧ t = s) ∨ (r = .held ∧ t = s.setTask Task.strain) := by
  cases r with
  | ok a => exact .inl (by simpa [State.settle] using h)
  | trap s' q => exact .inr (.inl ⟨s', q, rfl, by simpa [State.settle, eq_comm] using h⟩)
  | wait => exact .inr (.inr (.inl ⟨rfl, by simpa [State.settle, eq_comm] using h⟩))
  | held => exact .inr (.inr (.inr ⟨rfl, by simpa [State.settle, eq_comm] using h⟩))
  | stop f => simp [State.settle] at h

@[simp] theorem State.settle_ok (s t : State) : s.settle (.ok t) = .next t := rfl
@[simp] theorem State.settle_trap (s t : State) (q : Raise) : s.settle (.trap t q) = .next (t.fault q) := rfl
@[simp] theorem State.settle_wait (s : State) : s.settle .wait = .next s := rfl

/-! ### Registers and the loop-end check -/

@[simp] theorem State.x_zero (s : State) : s.x 0 = 0 := rfl

/-- A register after a write: the written one, unless it is x0, holds the value (R24). -/
theorem Task.setX_x (t : Task) (d r : XReg) (v : Word) : (t.setX d v).x[r] = if r = d ∧ d ≠ 0 then v else t.x[r] := by
  unfold Task.setX
  by_cases hd : d = 0
  · simp [hd]
  · by_cases hr : r = d
    · subst hr; simp [hd]
    · have : d.val ≠ r.val := fun h => hr (Fin.ext h.symm)
      simp [hd, hr, Vector.getElem_set_ne _ _ this]

theorem Task.setX_eq (t : Task) (d : XReg) (v : Word) : t.setX d v = { t with x := (t.setX d v).x } := by
  unfold Task.setX; split <;> rfl

/-- Reading x[r] after a write of x[d] (R24). -/
theorem State.x_setX (s : State) (d r : XReg) (v : Word) : (s.setX d v).x r = if r = d ∧ d ≠ 0 then v else s.x r := by
  unfold State.x
  by_cases h : r = 0
  · subst h
    by_cases hd : d = 0 <;> simp_all [eq_comm]
  · simp only [h, if_false]
    exact Task.setX_x s.task d r v

theorem State.setX_eq (s : State) (d : XReg) (v : Word) : s.setX d v = { s with task := { s.task with x := (s.setX d v).task.x } } := by
  show { s with task := s.task.setX d v } = _
  rw [Task.setX_eq]; rfl

/-- The loop-end check writes nothing but the two counts (R123). -/
theorem Csrs.loopEnd_fst (c : Csrs) (e next : Word) :
    (c.loopEnd e next).1 = { c with lc0 := (c.loopEnd e next).1.lc0, lc1 := (c.loopEnd e next).1.lc1 } := by
  unfold Csrs.loopEnd
  split
  · rfl
  · split <;> rfl

/-- With no active level the loop-end check does nothing (R123). -/
theorem Csrs.loopEnd_inactive (c : Csrs) (e next : Word) (h0 : c.lc0 = 0) (h1 : c.lc1 = 0) : c.loopEnd e next = (c, next) := by
  cases c; simp_all [Csrs.loopEnd, loopLevel]

/-! ### The place of an access -/

/-- A refill changes nothing but the loft and the list of pages to refill (R226). -/
theorem State.refill_eq {s s1 : State} {cid : Fin 64} {off : Nat} {a : Word} (h : s.refill cid off a = .ok s1) :
    s1 = { s with task := { s.task with loft := s1.task.loft, id := { s.task.id with unfilled := s1.task.id.unfilled } } } := by
  unfold State.refill at h
  dsimp only at h
  split at h
  · cases h; rfl
  · split at h
    · simp [Chk.fail] at h
    · split at h
      · simp [Chk.fail] at h
      · split at h
        · simp [Chk.fail] at h
        · split at h
          · cases h
          · cases h; rfl

/-- The place found, and the state after a refill, if one was due: nothing else changes (R117, R226). -/
theorem State.placeFind_eq {s s1 : State} {w : Who} {acc : Acc} {a : Word} {p : Place} (h : s.placeFind w acc a = .ok (s1, p)) :
    s1 = { s with task := { s.task with loft := s1.task.loft, id := { s.task.id with unfilled := s1.task.id.unfilled } } } := by
  unfold State.placeFind at h
  split at h
  · simp [Chk.fail] at h
  · obtain ⟨s', hs, he⟩ := Chk.bind_eq_ok.1 h
    cases he
    exact State.refill_eq hs
  · obtain ⟨q, _, he⟩ := Chk.bind_eq_ok.1 h
    obtain ⟨_, _, he⟩ := Chk.bind_eq_ok.1 he
    cases he; rfl

theorem State.placeCheck_ok {s s1 : State} {w : Who} {acc : Acc} {a : Word} {p : Place} (h : s.placeCheck w acc a = .ok (s1, p)) :
    s.placeFind w acc a = .ok (s1, p) ∧ s1.windowCheck w a p = .ok () := by
  obtain ⟨r, hr, he⟩ := Chk.bind_eq_ok.1 h
  obtain ⟨u, hu, he⟩ := Chk.bind_eq_ok.1 he
  cases he
  exact ⟨hr, hu⟩

theorem State.accessCheck_ok {s s1 : State} {w : Who} {acc : Acc} {a : Word} {p : Place} (h : s.accessCheck w acc a = .ok (s1, p)) :
    s.placeCheck w acc a = .ok (s1, p) ∧ s1.lineCheck w acc a 1 p = .ok () := by
  obtain ⟨r, hr, he⟩ := Chk.bind_eq_ok.1 h
  obtain ⟨u, hu, he⟩ := Chk.bind_eq_ok.1 he
  cases he
  exact ⟨hr, hu⟩

theorem State.targetCheck_ok {s : State} {w : Who} {acc : Acc} {a : Word} {p : Place} (h : s.targetCheck w acc a p = .ok ()) :
    s.windowCheck w a p = .ok () := Res.ofChk_eq_ok.1 h

theorem State.moveCheck_ok {s : State} {acc : Acc} {a : Word} {n : Nat} {p : Place} (h : s.moveCheck acc a n p = .ok ()) :
    s.windowCheck (s.who s.sup) a p = .ok () ∧ s.lineCheck (s.who s.sup) acc a n p = .ok () := by
  obtain ⟨_, ht, hl⟩ := Res.bind_eq_ok.1 h
  exact ⟨State.targetCheck_ok ht, Res.ofChk_eq_ok.1 hl⟩

/-- The checks of an access inside one granule: the place, that nothing holds it back, and checks 6 and 7 (R117, R215, R268). -/
theorem State.openAt_ok {s s1 : State} {acc : Acc} {a : Word} {n : Nat} {p : Place} (h : s.openAt acc a n = .ok (s1, p)) :
    s.placeFind (s.who s.sup) acc a = .ok (s1, p) ∧ s1.clear p n (acc != .load) a = .ok () ∧ s1.moveCheck acc a n p = .ok () := by
  obtain ⟨⟨s', q⟩, hp, h⟩ := Res.bind_eq_ok.1 h
  obtain ⟨_, hc, h⟩ := Res.bind_eq_ok.1 h
  obtain ⟨_, hm, h⟩ := Res.bind_eq_ok.1 h
  cases h
  exact ⟨Res.ofChk_eq_ok.1 hp, hc, hm⟩

/-- A read inside one granule: the place, and the bytes there in the state after a refill (R117, R118). -/
theorem State.readGran_ok {s s1 : State} {a : Word} {n : Nat} {bs : List Byte} (h : s.readGran a n = .ok (s1, bs)) :
    ∃ p, s.openAt .load a n = .ok (s1, p) ∧ bs = s1.readPlace s1.task.id.world p n := by
  obtain ⟨⟨s', p⟩, hp, h⟩ := Res.bind_eq_ok.1 h
  cases h
  exact ⟨p, hp, rfl⟩

/-- A store inside one granule writes its bytes at its place, in the state its checks and its claim leave (R117, R349). -/
theorem State.writeGran_ok {s t : State} {a : Word} {bs : List Byte} (h : s.writeGran a bs = .ok t) :
    ∃ s1 p s2, s.openAt .store a bs.length = .ok (s1, p) ∧ s1.claimFor a p = .ok s2
      ∧ t = s2.writePlace s2.task.id.world p bs := by
  obtain ⟨⟨s1, p⟩, hp, h⟩ := Res.bind_eq_ok.1 h
  obtain ⟨s2, hc, h⟩ := Res.bind_eq_ok.1 h
  cases h
  exact ⟨s1, p, s2, hp, hc, rfl⟩

/-- A plain aligned read: in range, aligned, and one access inside its granule (R116 to R118). -/
theorem State.read_ok {s s1 : State} {a : Word} {w : Nat} {bs : List Byte} (h : s.read a w = .ok (s1, bs)) :
    s.task.addrKind a ≠ .out ∧ a.toNat % w = 0 ∧ s.readGran a w = .ok (s1, bs) := by
  obtain ⟨_, ha, h⟩ := Res.bind_eq_ok.1 h
  obtain ⟨_, hr, hn⟩ := Res.bind_eq_ok.1 ha
  have hr := Chk.need_eq_ok.1 (Res.ofChk_eq_ok.1 hr)
  have hn := Res.need_eq_ok.1 hn
  exact ⟨by simpa using hr, by simpa using hn, h⟩

/-- A plain aligned store (R116 to R118). -/
theorem State.write_ok {s t : State} {a : Word} {bs : List Byte} (h : s.write a bs = .ok t) :
    s.task.addrKind a ≠ .out ∧ a.toNat % bs.length = 0 ∧ s.writeGran a bs = .ok t := by
  obtain ⟨_, ha, h⟩ := Res.bind_eq_ok.1 h
  obtain ⟨_, hr, hn⟩ := Res.bind_eq_ok.1 ha
  have hr := Chk.need_eq_ok.1 (Res.ofChk_eq_ok.1 hr)
  have hn := Res.need_eq_ok.1 hn
  exact ⟨by simpa using hr, by simpa using hn, h⟩

/-! ### Accesses made piece by piece (R195, R221) -/

@[simp] theorem Res.each_nil {α σ : Type} (f : σ → α → Res σ) (s : σ) : Res.each f [] s = .ok s := rfl
@[simp] theorem Res.each_cons {α σ : Type} (f : σ → α → Res σ) (a : α) (l : List α) (s : σ) :
    Res.each f (a :: l) s = (f s a).bind fun t => Res.each f l t := rfl

/-- A property that one step of a list keeps holds after the whole list. -/
theorem Res.each_ind {α σ : Type} {f : σ → α → Res σ} {P : σ → Prop} (hf : ∀ s a t, P s → f s a = .ok t → P t) :
    ∀ {l : List α} {s t : σ}, P s → Res.each f l s = .ok t → P t := by
  intro l
  induction l with
  | nil => intro s t h e; cases e; exact h
  | cons a l ih =>
    intro s t h e
    obtain ⟨u, hu, e⟩ := Res.bind_eq_ok.1 e
    exact ih (hf _ _ _ h hu) e

/-- The parts of a granule that a read takes pass check 6 of R117 once and check 7 each. -/
theorem State.spanCheck_ok {s : State} {a : Word} {p : Place} {spans : List (Nat × Nat)} (h : s.spanCheck a p spans = .ok ()) :
    s.windowCheck (s.who s.sup) a p = .ok () ∧ ∀ k ∈ spans, s.lineCheck (s.who s.sup) .load a k.2 (p.add k.1) = .ok () := by
  obtain ⟨_, ht, hl⟩ := Res.bind_eq_ok.1 h
  refine ⟨State.targetCheck_ok ht, ?_⟩
  clear h ht
  induction spans with
  | nil => simp
  | cons k ks ih =>
    obtain ⟨_, hk, hs⟩ := Res.bind_eq_ok.1 hl
    intro j hj
    rcases List.mem_cons.1 hj with rfl | hj
    · exact Res.ofChk_eq_ok.1 hk
    · exact ih hs j hj

/-- A step of a read: its next piece is read where it was found, and the last one completes the instruction. -/
theorem State.readPiece_ok {s t : State} {p : Partial} {n : Nat} {spans : Nat → List (Nat × Nat)}
    {done : State → List (Nat × List Byte) → State} (h : s.readPiece p n spans done = .ok t) :
    (p.left = [] ∧ t = done (s.setPiece none) p.got)
      ∨ ∃ a pl rest, p.left = (a, pl) :: rest ∧ (s.setPiece none).spanCheck (wd a) pl (spans a) = .ok ()
        ∧ t = (let got := p.got ++ [(a, s.readPlace s.task.id.world pl n)]
          if rest.isEmpty then done (s.setPiece none) got else s.setPiece (some { p with left := rest, got := got })) := by
  unfold State.readPiece at h
  split at h
  · rename_i hl; cases h; exact .inl ⟨hl, rfl⟩
  · rename_i a pl rest hl
    obtain ⟨_, hm, h⟩ := Res.bind_eq_ok.1 h
    cases h
    exact .inr ⟨a, pl, rest, hl, hm, rfl⟩

/-- A step of a write: its next piece is written where it was found, and the last one completes the instruction. -/
theorem State.writePiece_ok {s t : State} {p : Partial} {piece : Nat → List Byte} {done : State → State}
    (h : s.writePiece p piece done = .ok t) :
    (p.left = [] ∧ t = done (s.setPiece none))
      ∨ ∃ a pl rest, p.left = (a, pl) :: rest ∧ s.rootFull s.task.id.world pl = false
        ∧ t = (let s1 := s.writePlace s.task.id.world pl (piece p.left.length)
          if rest.isEmpty then done (s1.setPiece none) else s1.setPiece (some { p with left := rest })) := by
  unfold State.writePiece at h
  split at h
  · rename_i hl; cases h; exact .inl ⟨hl, rfl⟩
  · rename_i a pl rest hl
    obtain ⟨_, hm, h⟩ := Res.bind_eq_ok.1 h
    cases h
    exact .inr ⟨a, pl, rest, hl, by simpa using Res.until_eq_ok.1 hm, rfl⟩

/-! ### The caches beneath a fetch (R85) -/

/-- Keeping the block being passed changes the byte cache alone. -/
theorem State.keepPassing_eq (s : State) : s.keepPassing = { s with lines := s.keepPassing.lines } := by
  unfold State.keepPassing
  dsimp only
  split <;> rfl

/-- Dropping a slot's blocks changes the decoded-op cache and, for the block being passed, the byte cache. -/
theorem State.dropSlot_eq (s : State) (k : Fin 4) :
    s.dropSlot k = { s with lines := s.keepPassing.lines, ops := s.ops.filter fun b => b.slot != k } := by
  unfold State.dropSlot
  rw [State.keepPassing_eq]

/-! ### What running Cellars keep (R414) -/

/-- Keeping the old bytes of a granule changes memory, its lines and their dirty records, and the Cellar's own record. -/
theorem State.reserveCopy_eq (s : State) (pa : Nat) :
    s.reserveCopy pa = { s with
      mem := (s.reserveCopy pa).mem, badLines := (s.reserveCopy pa).badLines, dirty := (s.reserveCopy pa).dirty
      parts := (s.reserveCopy pa).parts } := by
  unfold State.reserveCopy
  split
  · dsimp only
    split <;> rfl
  · rfl

/-- What running Cellars keep of some bytes changes memory, its lines and their dirty records, and the Cellars' own records. -/
theorem State.keepOld_eq (s : State) (pa n : Nat) :
    s.keepOld pa n = { s with
      mem := (s.keepOld pa n).mem, badLines := (s.keepOld pa n).badLines, dirty := (s.keepOld pa n).dirty
      parts := (s.keepOld pa n).parts } := by
  unfold State.keepOld
  by_cases hc : s.cellars = true
  · simp only [hc, if_true]
    clear hc
    generalize List.range _ = l
    induction l generalizing s with
    | nil => rfl
    | cons k l ih =>
      simp only [List.foldl_cons]
      rw [ih (s.reserveCopy _), State.reserveCopy_eq s]
  · simp only [hc]; rfl

@[simp] theorem State.keepOld_worlds (s : State) (pa n : Nat) : (s.keepOld pa n).worlds = s.worlds := by rw [State.keepOld_eq]
@[simp] theorem State.keepOld_task (s : State) (pa n : Nat) : (s.keepOld pa n).task = s.task := by rw [State.keepOld_eq]

/-- With no Cellar running nothing is kept. -/
theorem State.keepOld_idle {s : State} (h : s.cellars = false) (pa n : Nat) : s.keepOld pa n = s := by
  unfold State.keepOld; rw [h]; rfl

theorem State.wf_copyRoot_mem {s : State} (h : s.mem.wf = true) (src dst : Nat) : (s.copyRoot src dst).mem.wf = true :=
  Mem.wf_move h h _ _ _

theorem State.wf_reserveCopy_mem {s : State} (h : s.mem.wf = true) (pa : Nat) : (s.reserveCopy pa).mem.wf = true := by
  unfold State.reserveCopy
  split
  · dsimp only
    split
    · exact State.wf_copyRoot_mem h _ _
    · exact h
  · exact h

theorem State.wf_keepOld_mem {s : State} (h : s.mem.wf = true) (pa n : Nat) : (s.keepOld pa n).mem.wf = true := by
  unfold State.keepOld
  split
  · rename_i hc
    clear hc
    generalize List.range _ = l
    induction l generalizing s with
    | nil => exact h
    | cons k l ih => exact ih (State.wf_reserveCopy_mem h _)
  · exact h

/-! ### Reading what was written -/

/-- The bytes of a place depend on the memories and the worlds alone, and for the loft on the loft. -/
theorem State.readPlace_congr {s t : State} (hm : t.mem = s.mem) (hh : t.host = s.host) (hp : t.peer = s.peer) (hw : t.worlds = s.worlds)
    (hl : t.task.loft = s.task.loft) (w : Nat) (p : Place) (n : Nat) : t.readPlace w p n = s.readPlace w p n := by
  have hk : ∀ f w g, t.holder f w g = s.holder f w g := by
    intro f
    induction f with
    | zero => intro w g; rfl
    | succ f ih => intro w g; simp [State.holder, State.world?, hw, ih]
  cases p <;> simp [State.readPlace, State.readDevice, State.viewOf, hm, hh, hp, hl, hk]

/-- Changing registers alone changes no byte that is read. -/
theorem sameBytes_of_onlyRegs {s t : State} (h : OnlyRegs s t) : SameBytes s t := by
  intro w p
  apply State.readPlace_congr <;> rw [h]

/-- Bytes read back from where they were written, outside every world (R349). -/
theorem State.readPlace_writePlace {s : State} (h : s.mem.wf = true) (hh : s.host.wf = true) (hp : s.peer.wf = true)
    (hl : s.task.loft.wf = true) (hw : s.world? 0 = none) (p : Place) (bs : List Byte) :
    (s.writePlace 0 p bs).readPlace 0 p bs.length = bs := by
  cases p with
  | loft o => exact Mem.getBytes_putBytes hl o bs
  | host a => exact Mem.getBytes_putBytes hh a bs
  | peer e o => exact Mem.getBytes_putBytes hp _ bs
  | device pa =>
    have hk : (s.keepOld pa bs.length).world? 0 = none := by
      unfold State.world? at hw ⊢; rw [State.keepOld_worlds]; exact hw
    have hw' : (s.writeRoot pa bs).world? 0 = none := hk
    simp [State.writePlace, State.writeDevice, State.readPlace, State.readDevice, State.viewOf, State.holder, hw, hw']
    exact Mem.getBytes_putBytes (State.wf_keepOld_mem h pa bs.length) pa bs

end Sys2Proof.Machine
end

