-- ==== Sys2Proof/Laws/PerInstr.lean ====
section
/-! SUPPORT. For every instruction: the word the encoder gives a well-formed one is below 2^32 and decodes to it. -/

namespace Sys2Proof.Laws

open Sys2Proof

/-- The word of a well-formed instruction fits 32 bits and decodes to it in supervisor mode. -/
def Encoding.Statement (i : Instr) : Prop :=
  ∀ word : Nat, i.wf = true → encode i = some word → word < 2 ^ 32 ∧ decode true word = .instr i

set_option linter.unusedSimpArgs false

theorem Encoding.add (d a b : XReg) : Encoding.Statement (.add d a b) := by
  intro word _ hw
  obtain ⟨lt, nz, h0, h1, h2, h3, h4⟩ := fields0 (o := 1) (g0 := 0) (Option.some.inj hw).symm rfl (by decide) (by decide) d.isLt a.isLt b.isLt (by decide) rfl
  refine ⟨lt, ?_⟩
  rw [decode_01 h0 nz]
  simp [decodeOpr, h1, h2, h3, h4, decR3, decR2, zeroField, needField]

theorem Encoding.sub (d a b : XReg) : Encoding.Statement (.sub d a b) := by
  intro word _ hw
  obtain ⟨lt, nz, h0, h1, h2, h3, h4⟩ := fields0 (o := 1) (g0 := 1) (Option.some.inj hw).symm rfl (by decide) (by decide) d.isLt a.isLt b.isLt (by decide) rfl
  refine ⟨lt, ?_⟩
  rw [decode_01 h0 nz]
  simp [decodeOpr, h1, h2, h3, h4, decR3, decR2, zeroField, needField]

theorem Encoding.andR (d a b : XReg) : Encoding.Statement (.andR d a b) := by
  intro word _ hw
  obtain ⟨lt, nz, h0, h1, h2, h3, h4⟩ := fields0 (o := 1) (g0 := 2) (Option.some.inj hw).symm rfl (by decide) (by decide) d.isLt a.isLt b.isLt (by decide) rfl
  refine ⟨lt, ?_⟩
  rw [decode_01 h0 nz]
  simp [decodeOpr, h1, h2, h3, h4, decR3, decR2, zeroField, needField]

theorem Encoding.orR (d a b : XReg) : Encoding.Statement (.orR d a b) := by
  intro word _ hw
  obtain ⟨lt, nz, h0, h1, h2, h3, h4⟩ := fields0 (o := 1) (g0 := 3) (Option.some.inj hw).symm rfl (by decide) (by decide) d.isLt a.isLt b.isLt (by decide) rfl
  refine ⟨lt, ?_⟩
  rw [decode_01 h0 nz]
  simp [decodeOpr, h1, h2, h3, h4, decR3, decR2, zeroField, needField]

theorem Encoding.xorR (d a b : XReg) : Encoding.Statement (.xorR d a b) := by
  intro word _ hw
  obtain ⟨lt, nz, h0, h1, h2, h3, h4⟩ := fields0 (o := 1) (g0 := 4) (Option.some.inj hw).symm rfl (by decide) (by decide) d.isLt a.isLt b.isLt (by decide) rfl
  refine ⟨lt, ?_⟩
  rw [decode_01 h0 nz]
  simp [decodeOpr, h1, h2, h3, h4, decR3, decR2, zeroField, needField]

theorem Encoding.sll (d a b : XReg) : Encoding.Statement (.sll d a b) := by
  intro word _ hw
  obtain ⟨lt, nz, h0, h1, h2, h3, h4⟩ := fields0 (o := 1) (g0 := 5) (Option.some.inj hw).symm rfl (by decide) (by decide) d.isLt a.isLt b.isLt (by decide) rfl
  refine ⟨lt, ?_⟩
  rw [decode_01 h0 nz]
  simp [decodeOpr, h1, h2, h3, h4, decR3, decR2, zeroField, needField]

theorem Encoding.srl (d a b : XReg) : Encoding.Statement (.srl d a b) := by
  intro word _ hw
  obtain ⟨lt, nz, h0, h1, h2, h3, h4⟩ := fields0 (o := 1) (g0 := 6) (Option.some.inj hw).symm rfl (by decide) (by decide) d.isLt a.isLt b.isLt (by decide) rfl
  refine ⟨lt, ?_⟩
  rw [decode_01 h0 nz]
  simp [decodeOpr, h1, h2, h3, h4, decR3, decR2, zeroField, needField]

theorem Encoding.sra (d a b : XReg) : Encoding.Statement (.sra d a b) := by
  intro word _ hw
  obtain ⟨lt, nz, h0, h1, h2, h3, h4⟩ := fields0 (o := 1) (g0 := 7) (Option.some.inj hw).symm rfl (by decide) (by decide) d.isLt a.isLt b.isLt (by decide) rfl
  refine ⟨lt, ?_⟩
  rw [decode_01 h0 nz]
  simp [decodeOpr, h1, h2, h3, h4, decR3, decR2, zeroField, needField]

theorem Encoding.slt (d a b : XReg) : Encoding.Statement (.slt d a b) := by
  intro word _ hw
  obtain ⟨lt, nz, h0, h1, h2, h3, h4⟩ := fields0 (o := 1) (g0 := 8) (Option.some.inj hw).symm rfl (by decide) (by decide) d.isLt a.isLt b.isLt (by decide) rfl
  refine ⟨lt, ?_⟩
  rw [decode_01 h0 nz]
  simp [decodeOpr, h1, h2, h3, h4, decR3, decR2, zeroField, needField]

theorem Encoding.sltu (d a b : XReg) : Encoding.Statement (.sltu d a b) := by
  intro word _ hw
  obtain ⟨lt, nz, h0, h1, h2, h3, h4⟩ := fields0 (o := 1) (g0 := 9) (Option.some.inj hw).symm rfl (by decide) (by decide) d.isLt a.isLt b.isLt (by decide) rfl
  refine ⟨lt, ?_⟩
  rw [decode_01 h0 nz]
  simp [decodeOpr, h1, h2, h3, h4, decR3, decR2, zeroField, needField]

theorem Encoding.min (d a b : XReg) : Encoding.Statement (.min d a b) := by
  intro word _ hw
  obtain ⟨lt, nz, h0, h1, h2, h3, h4⟩ := fields0 (o := 1) (g0 := 10) (Option.some.inj hw).symm rfl (by decide) (by decide) d.isLt a.isLt b.isLt (by decide) rfl
  refine ⟨lt, ?_⟩
  rw [decode_01 h0 nz]
  simp [decodeOpr, h1, h2, h3, h4, decR3, decR2, zeroField, needField]

theorem Encoding.max (d a b : XReg) : Encoding.Statement (.max d a b) := by
  intro word _ hw
  obtain ⟨lt, nz, h0, h1, h2, h3, h4⟩ := fields0 (o := 1) (g0 := 11) (Option.some.inj hw).symm rfl (by decide) (by decide) d.isLt a.isLt b.isLt (by decide) rfl
  refine ⟨lt, ?_⟩
  rw [decode_01 h0 nz]
  simp [decodeOpr, h1, h2, h3, h4, decR3, decR2, zeroField, needField]

theorem Encoding.minu (d a b : XReg) : Encoding.Statement (.minu d a b) := by
  intro word _ hw
  obtain ⟨lt, nz, h0, h1, h2, h3, h4⟩ := fields0 (o := 1) (g0 := 12) (Option.some.inj hw).symm rfl (by decide) (by decide) d.isLt a.isLt b.isLt (by decide) rfl
  refine ⟨lt, ?_⟩
  rw [decode_01 h0 nz]
  simp [decodeOpr, h1, h2, h3, h4, decR3, decR2, zeroField, needField]

theorem Encoding.maxu (d a b : XReg) : Encoding.Statement (.maxu d a b) := by
  intro word _ hw
  obtain ⟨lt, nz, h0, h1, h2, h3, h4⟩ := fields0 (o := 1) (g0 := 13) (Option.some.inj hw).symm rfl (by decide) (by decide) d.isLt a.isLt b.isLt (by decide) rfl
  refine ⟨lt, ?_⟩
  rw [decode_01 h0 nz]
  simp [decodeOpr, h1, h2, h3, h4, decR3, decR2, zeroField, needField]

theorem Encoding.mul (d a b : XReg) : Encoding.Statement (.mul d a b) := by
  intro word _ hw
  obtain ⟨lt, nz, h0, h1, h2, h3, h4⟩ := fields0 (o := 1) (g0 := 16) (Option.some.inj hw).symm rfl (by decide) (by decide) d.isLt a.isLt b.isLt (by decide) rfl
  refine ⟨lt, ?_⟩
  rw [decode_01 h0 nz]
  simp [decodeOpr, h1, h2, h3, h4, decR3, decR2, zeroField, needField]

theorem Encoding.mhis (d a b : XReg) : Encoding.Statement (.mhis d a b) := by
  intro word _ hw
  obtain ⟨lt, nz, h0, h1, h2, h3, h4⟩ := fields0 (o := 1) (g0 := 17) (Option.some.inj hw).symm rfl (by decide) (by decide) d.isLt a.isLt b.isLt (by decide) rfl
  refine ⟨lt, ?_⟩
  rw [decode_01 h0 nz]
  simp [decodeOpr, h1, h2, h3, h4, decR3, decR2, zeroField, needField]

theorem Encoding.mhiu (d a b : XReg) : Encoding.Statement (.mhiu d a b) := by
  intro word _ hw
  obtain ⟨lt, nz, h0, h1, h2, h3, h4⟩ := fields0 (o := 1) (g0 := 18) (Option.some.inj hw).symm rfl (by decide) (by decide) d.isLt a.isLt b.isLt (by decide) rfl
  refine ⟨lt, ?_⟩
  rw [decode_01 h0 nz]
  simp [decodeOpr, h1, h2, h3, h4, decR3, decR2, zeroField, needField]

theorem Encoding.div (d a b : XReg) : Encoding.Statement (.div d a b) := by
  intro word _ hw
  obtain ⟨lt, nz, h0, h1, h2, h3, h4⟩ := fields0 (o := 1) (g0 := 19) (Option.some.inj hw).symm rfl (by decide) (by decide) d.isLt a.isLt b.isLt (by decide) rfl
  refine ⟨lt, ?_⟩
  rw [decode_01 h0 nz]
  simp [decodeOpr, h1, h2, h3, h4, decR3, decR2, zeroField, needField]

theorem Encoding.divu (d a b : XReg) : Encoding.Statement (.divu d a b) := by
  intro word _ hw
  obtain ⟨lt, nz, h0, h1, h2, h3, h4⟩ := fields0 (o := 1) (g0 := 20) (Option.some.inj hw).symm rfl (by decide) (by decide) d.isLt a.isLt b.isLt (by decide) rfl
  refine ⟨lt, ?_⟩
  rw [decode_01 h0 nz]
  simp [decodeOpr, h1, h2, h3, h4, decR3, decR2, zeroField, needField]

theorem Encoding.rem (d a b : XReg) : Encoding.Statement (.rem d a b) := by
  intro word _ hw
  obtain ⟨lt, nz, h0, h1, h2, h3, h4⟩ := fields0 (o := 1) (g0 := 21) (Option.some.inj hw).symm rfl (by decide) (by decide) d.isLt a.isLt b.isLt (by decide) rfl
  refine ⟨lt, ?_⟩
  rw [decode_01 h0 nz]
  simp [decodeOpr, h1, h2, h3, h4, decR3, decR2, zeroField, needField]

theorem Encoding.remu (d a b : XReg) : Encoding.Statement (.remu d a b) := by
  intro word _ hw
  obtain ⟨lt, nz, h0, h1, h2, h3, h4⟩ := fields0 (o := 1) (g0 := 22) (Option.some.inj hw).symm rfl (by decide) (by decide) d.isLt a.isLt b.isLt (by decide) rfl
  refine ⟨lt, ?_⟩
  rw [decode_01 h0 nz]
  simp [decodeOpr, h1, h2, h3, h4, decR3, decR2, zeroField, needField]

theorem Encoding.clz (d a : XReg) : Encoding.Statement (.clz d a) := by
  intro word _ hw
  obtain ⟨lt, nz, h0, h1, h2, h3, h4⟩ := fields1 (o := 1) (g0 := 24) (g1 := 0) (Option.some.inj hw).symm rfl (by decide) (by decide) d.isLt a.isLt (by decide) (by decide) rfl rfl
  refine ⟨lt, ?_⟩
  rw [decode_01 h0 nz]
  simp [decodeOpr, h1, h2, h3, h4, decR3, decR2, zeroField, needField]

theorem Encoding.ctz (d a : XReg) : Encoding.Statement (.ctz d a) := by
  intro word _ hw
  obtain ⟨lt, nz, h0, h1, h2, h3, h4⟩ := fields1 (o := 1) (g0 := 25) (g1 := 0) (Option.some.inj hw).symm rfl (by decide) (by decide) d.isLt a.isLt (by decide) (by decide) rfl rfl
  refine ⟨lt, ?_⟩
  rw [decode_01 h0 nz]
  simp [decodeOpr, h1, h2, h3, h4, decR3, decR2, zeroField, needField]

theorem Encoding.popc (d a : XReg) : Encoding.Statement (.popc d a) := by
  intro word _ hw
  obtain ⟨lt, nz, h0, h1, h2, h3, h4⟩ := fields1 (o := 1) (g0 := 26) (g1 := 0) (Option.some.inj hw).symm rfl (by decide) (by decide) d.isLt a.isLt (by decide) (by decide) rfl rfl
  refine ⟨lt, ?_⟩
  rw [decode_01 h0 nz]
  simp [decodeOpr, h1, h2, h3, h4, decR3, decR2, zeroField, needField]

theorem Encoding.sel (d a b : XReg) : Encoding.Statement (.sel d a b) := by
  intro word _ hw
  obtain ⟨lt, nz, h0, h1, h2, h3, h4⟩ := fields0 (o := 1) (g0 := 28) (Option.some.inj hw).symm rfl (by decide) (by decide) d.isLt a.isLt b.isLt (by decide) rfl
  refine ⟨lt, ?_⟩
  rw [decode_01 h0 nz]
  simp [decodeOpr, h1, h2, h3, h4, decR3, decR2, zeroField, needField]

theorem Encoding.addi (d a : XReg) (i : BitVec 16) : Encoding.Statement (.addi d a i) := by
  intro word _ hw
  obtain ⟨lt, nz, h0, h1, h2, h3⟩ := fields2 (o := 2)  (Option.some.inj hw).symm rfl (by decide) (by decide) d.isLt a.isLt i.isLt
  refine ⟨lt, ?_⟩
  rw [decode_02 h0 nz]
  simp [decI, imm16, h1, h2, h3]

theorem Encoding.andi (d a : XReg) (i : BitVec 16) : Encoding.Statement (.andi d a i) := by
  intro word _ hw
  obtain ⟨lt, nz, h0, h1, h2, h3⟩ := fields2 (o := 3)  (Option.some.inj hw).symm rfl (by decide) (by decide) d.isLt a.isLt i.isLt
  refine ⟨lt, ?_⟩
  rw [decode_03 h0 nz]
  simp [decI, imm16, h1, h2, h3]

theorem Encoding.ori (d a : XReg) (i : BitVec 16) : Encoding.Statement (.ori d a i) := by
  intro word _ hw
  obtain ⟨lt, nz, h0, h1, h2, h3⟩ := fields2 (o := 4)  (Option.some.inj hw).symm rfl (by decide) (by decide) d.isLt a.isLt i.isLt
  refine ⟨lt, ?_⟩
  rw [decode_04 h0 nz]
  simp [decI, imm16, h1, h2, h3]

theorem Encoding.xori (d a : XReg) (i : BitVec 16) : Encoding.Statement (.xori d a i) := by
  intro word _ hw
  obtain ⟨lt, nz, h0, h1, h2, h3⟩ := fields2 (o := 5)  (Option.some.inj hw).symm rfl (by decide) (by decide) d.isLt a.isLt i.isLt
  refine ⟨lt, ?_⟩
  rw [decode_05 h0 nz]
  simp [decI, imm16, h1, h2, h3]

theorem Encoding.slti (d a : XReg) (i : BitVec 16) : Encoding.Statement (.slti d a i) := by
  intro word _ hw
  obtain ⟨lt, nz, h0, h1, h2, h3⟩ := fields2 (o := 6)  (Option.some.inj hw).symm rfl (by decide) (by decide) d.isLt a.isLt i.isLt
  refine ⟨lt, ?_⟩
  rw [decode_06 h0 nz]
  simp [decI, imm16, h1, h2, h3]

theorem Encoding.sltiu (d a : XReg) (i : BitVec 16) : Encoding.Statement (.sltiu d a i) := by
  intro word _ hw
  obtain ⟨lt, nz, h0, h1, h2, h3⟩ := fields2 (o := 7)  (Option.some.inj hw).symm rfl (by decide) (by decide) d.isLt a.isLt i.isLt
  refine ⟨lt, ?_⟩
  rw [decode_07 h0 nz]
  simp [decI, imm16, h1, h2, h3]

theorem Encoding.slli (d a : XReg) (n : BitVec 6) : Encoding.Statement (.slli d a n) := by
  intro word _ hw
  obtain ⟨lt, nz, h0, h1, h2, h3, h4, h5⟩ := fields3 (o := 8) (g0 := 0) (g1 := 0) (Option.some.inj hw).symm rfl (by decide) (by decide) d.isLt a.isLt n.isLt (by decide) (by decide) rfl rfl
  refine ⟨lt, ?_⟩
  rw [decode_08 h0 nz]
  simp [decodeShi, h1, h2, h3, h4, h5, zeroField, needField]

theorem Encoding.srli (d a : XReg) (n : BitVec 6) : Encoding.Statement (.srli d a n) := by
  intro word _ hw
  obtain ⟨lt, nz, h0, h1, h2, h3, h4, h5⟩ := fields3 (o := 8) (g0 := 0) (g1 := 1) (Option.some.inj hw).symm rfl (by decide) (by decide) d.isLt a.isLt n.isLt (by decide) (by decide) rfl rfl
  refine ⟨lt, ?_⟩
  rw [decode_08 h0 nz]
  simp [decodeShi, h1, h2, h3, h4, h5, zeroField, needField]

theorem Encoding.srai (d a : XReg) (n : BitVec 6) : Encoding.Statement (.srai d a n) := by
  intro word _ hw
  obtain ⟨lt, nz, h0, h1, h2, h3, h4, h5⟩ := fields3 (o := 8) (g0 := 0) (g1 := 2) (Option.some.inj hw).symm rfl (by decide) (by decide) d.isLt a.isLt n.isLt (by decide) (by decide) rfl rfl
  refine ⟨lt, ?_⟩
  rw [decode_08 h0 nz]
  simp [decodeShi, h1, h2, h3, h4, h5, zeroField, needField]

theorem Encoding.lui (d : XReg) (i : BitVec 21) : Encoding.Statement (.lui d i) := by
  intro word _ hw
  obtain ⟨lt, nz, h0, h1, h2⟩ := fields4 (o := 9)  (Option.some.inj hw).symm rfl (by decide) (by decide) d.isLt i.isLt
  refine ⟨lt, ?_⟩
  rw [decode_09 h0 nz]
  simp [decJ, imm21, h1, h2]

theorem Encoding.luipc (d : XReg) (i : BitVec 21) : Encoding.Statement (.luipc d i) := by
  intro word _ hw
  obtain ⟨lt, nz, h0, h1, h2⟩ := fields4 (o := 10)  (Option.some.inj hw).symm rfl (by decide) (by decide) d.isLt i.isLt
  refine ⟨lt, ?_⟩
  rw [decode_0A h0 nz]
  simp [decJ, imm21, h1, h2]

theorem Encoding.lb (d a : XReg) (i : BitVec 16) : Encoding.Statement (.lb d a i) := by
  intro word _ hw
  obtain ⟨lt, nz, h0, h1, h2, h3⟩ := fields2 (o := 11)  (Option.some.inj hw).symm rfl (by decide) (by decide) d.isLt a.isLt i.isLt
  refine ⟨lt, ?_⟩
  rw [decode_0B h0 nz]
  simp [decI, imm16, h1, h2, h3]

theorem Encoding.lbu (d a : XReg) (i : BitVec 16) : Encoding.Statement (.lbu d a i) := by
  intro word _ hw
  obtain ⟨lt, nz, h0, h1, h2, h3⟩ := fields2 (o := 12)  (Option.some.inj hw).symm rfl (by decide) (by decide) d.isLt a.isLt i.isLt
  refine ⟨lt, ?_⟩
  rw [decode_0C h0 nz]
  simp [decI, imm16, h1, h2, h3]

theorem Encoding.lh (d a : XReg) (i : BitVec 16) : Encoding.Statement (.lh d a i) := by
  intro word _ hw
  obtain ⟨lt, nz, h0, h1, h2, h3⟩ := fields2 (o := 13)  (Option.some.inj hw).symm rfl (by decide) (by decide) d.isLt a.isLt i.isLt
  refine ⟨lt, ?_⟩
  rw [decode_0D h0 nz]
  simp [decI, imm16, h1, h2, h3]

theorem Encoding.lhu (d a : XReg) (i : BitVec 16) : Encoding.Statement (.lhu d a i) := by
  intro word _ hw
  obtain ⟨lt, nz, h0, h1, h2, h3⟩ := fields2 (o := 14)  (Option.some.inj hw).symm rfl (by decide) (by decide) d.isLt a.isLt i.isLt
  refine ⟨lt, ?_⟩
  rw [decode_0E h0 nz]
  simp [decI, imm16, h1, h2, h3]

theorem Encoding.lw (d a : XReg) (i : BitVec 16) : Encoding.Statement (.lw d a i) := by
  intro word _ hw
  obtain ⟨lt, nz, h0, h1, h2, h3⟩ := fields2 (o := 15)  (Option.some.inj hw).symm rfl (by decide) (by decide) d.isLt a.isLt i.isLt
  refine ⟨lt, ?_⟩
  rw [decode_0F h0 nz]
  simp [decI, imm16, h1, h2, h3]

theorem Encoding.lwu (d a : XReg) (i : BitVec 16) : Encoding.Statement (.lwu d a i) := by
  intro word _ hw
  obtain ⟨lt, nz, h0, h1, h2, h3⟩ := fields2 (o := 16)  (Option.some.inj hw).symm rfl (by decide) (by decide) d.isLt a.isLt i.isLt
  refine ⟨lt, ?_⟩
  rw [decode_10 h0 nz]
  simp [decI, imm16, h1, h2, h3]

theorem Encoding.ld (d a : XReg) (i : BitVec 16) : Encoding.Statement (.ld d a i) := by
  intro word _ hw
  obtain ⟨lt, nz, h0, h1, h2, h3⟩ := fields2 (o := 17)  (Option.some.inj hw).symm rfl (by decide) (by decide) d.isLt a.isLt i.isLt
  refine ⟨lt, ?_⟩
  rw [decode_11 h0 nz]
  simp [decI, imm16, h1, h2, h3]

theorem Encoding.sb (b a : XReg) (i : BitVec 16) : Encoding.Statement (.sb b a i) := by
  intro word _ hw
  obtain ⟨lt, nz, h0, h1, h2, h3⟩ := fields2 (o := 18)  (Option.some.inj hw).symm rfl (by decide) (by decide) b.isLt a.isLt i.isLt
  refine ⟨lt, ?_⟩
  rw [decode_12 h0 nz]
  simp [decB, imm16, h1, h2, h3]

theorem Encoding.sh (b a : XReg) (i : BitVec 16) : Encoding.Statement (.sh b a i) := by
  intro word _ hw
  obtain ⟨lt, nz, h0, h1, h2, h3⟩ := fields2 (o := 19)  (Option.some.inj hw).symm rfl (by decide) (by decide) b.isLt a.isLt i.isLt
  refine ⟨lt, ?_⟩
  rw [decode_13 h0 nz]
  simp [decB, imm16, h1, h2, h3]

theorem Encoding.sw (b a : XReg) (i : BitVec 16) : Encoding.Statement (.sw b a i) := by
  intro word _ hw
  obtain ⟨lt, nz, h0, h1, h2, h3⟩ := fields2 (o := 20)  (Option.some.inj hw).symm rfl (by decide) (by decide) b.isLt a.isLt i.isLt
  refine ⟨lt, ?_⟩
  rw [decode_14 h0 nz]
  simp [decB, imm16, h1, h2, h3]

theorem Encoding.sd (b a : XReg) (i : BitVec 16) : Encoding.Statement (.sd b a i) := by
  intro word _ hw
  obtain ⟨lt, nz, h0, h1, h2, h3⟩ := fields2 (o := 21)  (Option.some.inj hw).symm rfl (by decide) (by decide) b.isLt a.isLt i.isLt
  refine ⟨lt, ?_⟩
  rw [decode_15 h0 nz]
  simp [decB, imm16, h1, h2, h3]

theorem Encoding.amoswap (d a b : XReg) (c : Scope) (q l w : Bool) : Encoding.Statement (.amoswap d a b c q l w) := by
  intro word _ hw
  obtain ⟨lt, nz, h0, h1, h2, h3, h4, h5, h6, h7, h8⟩ := fields5 (o := 22) (g0 := 0) (Option.some.inj hw).symm rfl (by decide) (by decide) d.isLt a.isLt b.isLt c.code_lt q.toNat_lt l.toNat_lt w.toNat_lt (by decide) rfl
  refine ⟨lt, ?_⟩
  rw [decode_16 h0 nz]
  simp [decodeAmo, h1, h2, h3, h4, h5, h6, h7, h8, zeroField, needField]

theorem Encoding.amoadd (d a b : XReg) (c : Scope) (q l w : Bool) : Encoding.Statement (.amoadd d a b c q l w) := by
  intro word _ hw
  obtain ⟨lt, nz, h0, h1, h2, h3, h4, h5, h6, h7, h8⟩ := fields5 (o := 22) (g0 := 1) (Option.some.inj hw).symm rfl (by decide) (by decide) d.isLt a.isLt b.isLt c.code_lt q.toNat_lt l.toNat_lt w.toNat_lt (by decide) rfl
  refine ⟨lt, ?_⟩
  rw [decode_16 h0 nz]
  simp [decodeAmo, h1, h2, h3, h4, h5, h6, h7, h8, zeroField, needField]

theorem Encoding.amoand (d a b : XReg) (c : Scope) (q l w : Bool) : Encoding.Statement (.amoand d a b c q l w) := by
  intro word _ hw
  obtain ⟨lt, nz, h0, h1, h2, h3, h4, h5, h6, h7, h8⟩ := fields5 (o := 22) (g0 := 2) (Option.some.inj hw).symm rfl (by decide) (by decide) d.isLt a.isLt b.isLt c.code_lt q.toNat_lt l.toNat_lt w.toNat_lt (by decide) rfl
  refine ⟨lt, ?_⟩
  rw [decode_16 h0 nz]
  simp [decodeAmo, h1, h2, h3, h4, h5, h6, h7, h8, zeroField, needField]

theorem Encoding.amoor (d a b : XReg) (c : Scope) (q l w : Bool) : Encoding.Statement (.amoor d a b c q l w) := by
  intro word _ hw
  obtain ⟨lt, nz, h0, h1, h2, h3, h4, h5, h6, h7, h8⟩ := fields5 (o := 22) (g0 := 3) (Option.some.inj hw).symm rfl (by decide) (by decide) d.isLt a.isLt b.isLt c.code_lt q.toNat_lt l.toNat_lt w.toNat_lt (by decide) rfl
  refine ⟨lt, ?_⟩
  rw [decode_16 h0 nz]
  simp [decodeAmo, h1, h2, h3, h4, h5, h6, h7, h8, zeroField, needField]

theorem Encoding.amoxor (d a b : XReg) (c : Scope) (q l w : Bool) : Encoding.Statement (.amoxor d a b c q l w) := by
  intro word _ hw
  obtain ⟨lt, nz, h0, h1, h2, h3, h4, h5, h6, h7, h8⟩ := fields5 (o := 22) (g0 := 4) (Option.some.inj hw).symm rfl (by decide) (by decide) d.isLt a.isLt b.isLt c.code_lt q.toNat_lt l.toNat_lt w.toNat_lt (by decide) rfl
  refine ⟨lt, ?_⟩
  rw [decode_16 h0 nz]
  simp [decodeAmo, h1, h2, h3, h4, h5, h6, h7, h8, zeroField, needField]

theorem Encoding.amomin (d a b : XReg) (c : Scope) (q l w : Bool) : Encoding.Statement (.amomin d a b c q l w) := by
  intro word _ hw
  obtain ⟨lt, nz, h0, h1, h2, h3, h4, h5, h6, h7, h8⟩ := fields5 (o := 22) (g0 := 5) (Option.some.inj hw).symm rfl (by decide) (by decide) d.isLt a.isLt b.isLt c.code_lt q.toNat_lt l.toNat_lt w.toNat_lt (by decide) rfl
  refine ⟨lt, ?_⟩
  rw [decode_16 h0 nz]
  simp [decodeAmo, h1, h2, h3, h4, h5, h6, h7, h8, zeroField, needField]

theorem Encoding.amomax (d a b : XReg) (c : Scope) (q l w : Bool) : Encoding.Statement (.amomax d a b c q l w) := by
  intro word _ hw
  obtain ⟨lt, nz, h0, h1, h2, h3, h4, h5, h6, h7, h8⟩ := fields5 (o := 22) (g0 := 6) (Option.some.inj hw).symm rfl (by decide) (by decide) d.isLt a.isLt b.isLt c.code_lt q.toNat_lt l.toNat_lt w.toNat_lt (by decide) rfl
  refine ⟨lt, ?_⟩
  rw [decode_16 h0 nz]
  simp [decodeAmo, h1, h2, h3, h4, h5, h6, h7, h8, zeroField, needField]

theorem Encoding.amominu (d a b : XReg) (c : Scope) (q l w : Bool) : Encoding.Statement (.amominu d a b c q l w) := by
  intro word _ hw
  obtain ⟨lt, nz, h0, h1, h2, h3, h4, h5, h6, h7, h8⟩ := fields5 (o := 22) (g0 := 7) (Option.some.inj hw).symm rfl (by decide) (by decide) d.isLt a.isLt b.isLt c.code_lt q.toNat_lt l.toNat_lt w.toNat_lt (by decide) rfl
  refine ⟨lt, ?_⟩
  rw [decode_16 h0 nz]
  simp [decodeAmo, h1, h2, h3, h4, h5, h6, h7, h8, zeroField, needField]

theorem Encoding.amomaxu (d a b : XReg) (c : Scope) (q l w : Bool) : Encoding.Statement (.amomaxu d a b c q l w) := by
  intro word _ hw
  obtain ⟨lt, nz, h0, h1, h2, h3, h4, h5, h6, h7, h8⟩ := fields5 (o := 22) (g0 := 8) (Option.some.inj hw).symm rfl (by decide) (by decide) d.isLt a.isLt b.isLt c.code_lt q.toNat_lt l.toNat_lt w.toNat_lt (by decide) rfl
  refine ⟨lt, ?_⟩
  rw [decode_16 h0 nz]
  simp [decodeAmo, h1, h2, h3, h4, h5, h6, h7, h8, zeroField, needField]

theorem Encoding.amocas (d a b : XReg) (c : Scope) (q l w : Bool) : Encoding.Statement (.amocas d a b c q l w) := by
  intro word _ hw
  obtain ⟨lt, nz, h0, h1, h2, h3, h4, h5, h6, h7, h8⟩ := fields5 (o := 22) (g0 := 9) (Option.some.inj hw).symm rfl (by decide) (by decide) d.isLt a.isLt b.isLt c.code_lt q.toNat_lt l.toNat_lt w.toNat_lt (by decide) rfl
  refine ⟨lt, ?_⟩
  rw [decode_16 h0 nz]
  simp [decodeAmo, h1, h2, h3, h4, h5, h6, h7, h8, zeroField, needField]

theorem Encoding.amofadd (d a b : XReg) (c : Scope) (q l w : Bool) : Encoding.Statement (.amofadd d a b c q l w) := by
  intro word _ hw
  obtain ⟨lt, nz, h0, h1, h2, h3, h4, h5, h6, h7, h8⟩ := fields5 (o := 22) (g0 := 10) (Option.some.inj hw).symm rfl (by decide) (by decide) d.isLt a.isLt b.isLt c.code_lt q.toNat_lt l.toNat_lt w.toNat_lt (by decide) rfl
  refine ⟨lt, ?_⟩
  rw [decode_16 h0 nz]
  simp [decodeAmo, h1, h2, h3, h4, h5, h6, h7, h8, zeroField, needField]

theorem Encoding.fence (s : Scope) (e h : Bool) : Encoding.Statement (.fence s e h) := by
  intro word _ hw
  obtain ⟨lt, nz, h0, h1, h2, h3, h4, h5, h6, h7, h8, h9⟩ := fields6 (o := 23) (g0 := 0) (g1 := 0) (g2 := 0) (g3 := 0) (g4 := 0) (Option.some.inj hw).symm rfl (by decide) (by decide) s.code_lt e.toNat_lt h.toNat_lt (by decide) (by decide) (by decide) (by decide) (by decide) rfl rfl rfl rfl rfl
  refine ⟨lt, ?_⟩
  rw [decode_17 h0 nz]
  simp [decodeSys, h1, h2, h3, h4, h5, h6, h7, h8, h9, superOnly, decRab, decR0, zeroField, needField]

theorem Encoding.iflush (a b : XReg) : Encoding.Statement (.iflush a b) := by
  intro word _ hw
  obtain ⟨lt, nz, h0, h1, h2, h3, h4, h5, h6, h7, h8, h9⟩ := fields7 (o := 23) (g0 := 0) (g1 := 0) (g2 := 0) (g3 := 0) (g4 := 1) (g5 := 0) (Option.some.inj hw).symm rfl (by decide) (by decide) a.isLt b.isLt (by decide) (by decide) (by decide) (by decide) (by decide) (by decide) rfl rfl rfl rfl rfl rfl rfl
  refine ⟨lt, ?_⟩
  rw [decode_17 h0 nz]
  simp [decodeSys, h1, h2, h3, h4, h5, h6, h7, h8, h9, superOnly, decRab, decR0, zeroField, needField]

theorem Encoding.svreq : Encoding.Statement (.svreq) := by
  intro word _ hw
  obtain ⟨lt, nz, h0, h1, h2, h3, h4, h5, h6, h7, h8, h9⟩ := fields8 (o := 23) (g0 := 0) (g1 := 0) (g2 := 0) (g3 := 0) (g4 := 2) (g5 := 0) (g6 := 0) (g7 := 0) (Option.some.inj hw).symm rfl (by decide) (by decide) (by decide) (by decide) (by decide) (by decide) (by decide) (by decide) (by decide) (by decide) rfl rfl rfl rfl rfl rfl rfl rfl rfl
  refine ⟨lt, ?_⟩
  rw [decode_17 h0 nz]
  simp [decodeSys, h1, h2, h3, h4, h5, h6, h7, h8, h9, superOnly, decRab, decR0, zeroField, needField]

theorem Encoding.dbgbrk : Encoding.Statement (.dbgbrk) := by
  intro word _ hw
  obtain ⟨lt, nz, h0, h1, h2, h3, h4, h5, h6, h7, h8, h9⟩ := fields8 (o := 23) (g0 := 0) (g1 := 0) (g2 := 0) (g3 := 0) (g4 := 3) (g5 := 0) (g6 := 0) (g7 := 0) (Option.some.inj hw).symm rfl (by decide) (by decide) (by decide) (by decide) (by decide) (by decide) (by decide) (by decide) (by decide) (by decide) rfl rfl rfl rfl rfl rfl rfl rfl rfl
  refine ⟨lt, ?_⟩
  rw [decode_17 h0 nz]
  simp [decodeSys, h1, h2, h3, h4, h5, h6, h7, h8, h9, superOnly, decRab, decR0, zeroField, needField]

theorem Encoding.tret : Encoding.Statement (.tret) := by
  intro word _ hw
  obtain ⟨lt, nz, h0, h1, h2, h3, h4, h5, h6, h7, h8, h9⟩ := fields8 (o := 23) (g0 := 0) (g1 := 0) (g2 := 0) (g3 := 0) (g4 := 4) (g5 := 0) (g6 := 0) (g7 := 0) (Option.some.inj hw).symm rfl (by decide) (by decide) (by decide) (by decide) (by decide) (by decide) (by decide) (by decide) (by decide) (by decide) rfl rfl rfl rfl rfl rfl rfl rfl rfl
  refine ⟨lt, ?_⟩
  rw [decode_17 h0 nz]
  simp [decodeSys, h1, h2, h3, h4, h5, h6, h7, h8, h9, superOnly, decRab, decR0, zeroField, needField]

theorem Encoding.waiti : Encoding.Statement (.waiti) := by
  intro word _ hw
  obtain ⟨lt, nz, h0, h1, h2, h3, h4, h5, h6, h7, h8, h9⟩ := fields8 (o := 23) (g0 := 0) (g1 := 0) (g2 := 0) (g3 := 0) (g4 := 5) (g5 := 0) (g6 := 0) (g7 := 0) (Option.some.inj hw).symm rfl (by decide) (by decide) (by decide) (by decide) (by decide) (by decide) (by decide) (by decide) (by decide) (by decide) rfl rfl rfl rfl rfl rfl rfl rfl rfl
  refine ⟨lt, ?_⟩
  rw [decode_17 h0 nz]
  simp [decodeSys, h1, h2, h3, h4, h5, h6, h7, h8, h9, superOnly, decRab, decR0, zeroField, needField]

theorem Encoding.harvest (a b : XReg) : Encoding.Statement (.harvest a b) := by
  intro word _ hw
  obtain ⟨lt, nz, h0, h1, h2, h3, h4, h5, h6, h7, h8, h9⟩ := fields7 (o := 23) (g0 := 0) (g1 := 0) (g2 := 0) (g3 := 0) (g4 := 6) (g5 := 0) (Option.some.inj hw).symm rfl (by decide) (by decide) a.isLt b.isLt (by decide) (by decide) (by decide) (by decide) (by decide) (by decide) rfl rfl rfl rfl rfl rfl rfl
  refine ⟨lt, ?_⟩
  rw [decode_17 h0 nz]
  simp [decodeSys, h1, h2, h3, h4, h5, h6, h7, h8, h9, superOnly, decRab, decR0, zeroField, needField]

theorem Encoding.tlbinv (a b : XReg) : Encoding.Statement (.tlbinv a b) := by
  intro word _ hw
  obtain ⟨lt, nz, h0, h1, h2, h3, h4, h5, h6, h7, h8, h9⟩ := fields7 (o := 23) (g0 := 0) (g1 := 0) (g2 := 0) (g3 := 0) (g4 := 7) (g5 := 0) (Option.some.inj hw).symm rfl (by decide) (by decide) a.isLt b.isLt (by decide) (by decide) (by decide) (by decide) (by decide) (by decide) rfl rfl rfl rfl rfl rfl rfl
  refine ⟨lt, ?_⟩
  rw [decode_17 h0 nz]
  simp [decodeSys, h1, h2, h3, h4, h5, h6, h7, h8, h9, superOnly, decRab, decR0, zeroField, needField]

theorem Encoding.beq (b a : XReg) (i : BitVec 16) : Encoding.Statement (.beq b a i) := by
  intro word _ hw
  obtain ⟨lt, nz, h0, h1, h2, h3⟩ := fields2 (o := 24)  (Option.some.inj hw).symm rfl (by decide) (by decide) b.isLt a.isLt i.isLt
  refine ⟨lt, ?_⟩
  rw [decode_18 h0 nz]
  simp [decB, imm16, h1, h2, h3]

theorem Encoding.bne (b a : XReg) (i : BitVec 16) : Encoding.Statement (.bne b a i) := by
  intro word _ hw
  obtain ⟨lt, nz, h0, h1, h2, h3⟩ := fields2 (o := 25)  (Option.some.inj hw).symm rfl (by decide) (by decide) b.isLt a.isLt i.isLt
  refine ⟨lt, ?_⟩
  rw [decode_19 h0 nz]
  simp [decB, imm16, h1, h2, h3]

theorem Encoding.blt (b a : XReg) (i : BitVec 16) : Encoding.Statement (.blt b a i) := by
  intro word _ hw
  obtain ⟨lt, nz, h0, h1, h2, h3⟩ := fields2 (o := 26)  (Option.some.inj hw).symm rfl (by decide) (by decide) b.isLt a.isLt i.isLt
  refine ⟨lt, ?_⟩
  rw [decode_1A h0 nz]
  simp [decB, imm16, h1, h2, h3]

theorem Encoding.bge (b a : XReg) (i : BitVec 16) : Encoding.Statement (.bge b a i) := by
  intro word _ hw
  obtain ⟨lt, nz, h0, h1, h2, h3⟩ := fields2 (o := 27)  (Option.some.inj hw).symm rfl (by decide) (by decide) b.isLt a.isLt i.isLt
  refine ⟨lt, ?_⟩
  rw [decode_1B h0 nz]
  simp [decB, imm16, h1, h2, h3]

theorem Encoding.bltu (b a : XReg) (i : BitVec 16) : Encoding.Statement (.bltu b a i) := by
  intro word _ hw
  obtain ⟨lt, nz, h0, h1, h2, h3⟩ := fields2 (o := 28)  (Option.some.inj hw).symm rfl (by decide) (by decide) b.isLt a.isLt i.isLt
  refine ⟨lt, ?_⟩
  rw [decode_1C h0 nz]
  simp [decB, imm16, h1, h2, h3]

theorem Encoding.bgeu (b a : XReg) (i : BitVec 16) : Encoding.Statement (.bgeu b a i) := by
  intro word _ hw
  obtain ⟨lt, nz, h0, h1, h2, h3⟩ := fields2 (o := 29)  (Option.some.inj hw).symm rfl (by decide) (by decide) b.isLt a.isLt i.isLt
  refine ⟨lt, ?_⟩
  rw [decode_1D h0 nz]
  simp [decB, imm16, h1, h2, h3]

theorem Encoding.jal (d : XReg) (i : BitVec 21) : Encoding.Statement (.jal d i) := by
  intro word _ hw
  obtain ⟨lt, nz, h0, h1, h2⟩ := fields4 (o := 30)  (Option.some.inj hw).symm rfl (by decide) (by decide) d.isLt i.isLt
  refine ⟨lt, ?_⟩
  rw [decode_1E h0 nz]
  simp [decJ, imm21, h1, h2]

theorem Encoding.jalr (d a : XReg) (i : BitVec 16) : Encoding.Statement (.jalr d a i) := by
  intro word _ hw
  obtain ⟨lt, nz, h0, h1, h2, h3⟩ := fields2 (o := 31)  (Option.some.inj hw).symm rfl (by decide) (by decide) d.isLt a.isLt i.isLt
  refine ⟨lt, ?_⟩
  rw [decode_1F h0 nz]
  simp [decI, imm16, h1, h2, h3]

theorem Encoding.loop (l : Fin 2) (a : XReg) (o : BitVec 16) : Encoding.Statement (.loop l a o) := by
  intro word wf hw
  obtain ⟨lt, nz, h0, h1, h2, h3, h4⟩ := fields9 (o := 32) (g0 := 0) (Option.some.inj hw).symm rfl (by decide) (by decide) l.isLt a.isLt o.isLt (by decide) rfl
  refine ⟨lt, ?_⟩
  have ne : ¬ o.toNat = 0 := by simpa [Instr.wf, ← BitVec.toNat_inj] using wf
  rw [decode_20 h0 nz]
  simp [ne, decodeLoop, h1, h2, h3, h4, imm16, zeroField, needField]

theorem Encoding.loopi (l : Fin 2) (c : BitVec 9) (o : BitVec 16) : Encoding.Statement (.loopi l c o) := by
  intro word wf hw
  obtain ⟨lt, nz, h0, h1, h2, h3⟩ := fields10 (o := 33)  (Option.some.inj hw).symm rfl (by decide) (by decide) l.isLt c.isLt o.isLt
  refine ⟨lt, ?_⟩
  have ne : ¬ o.toNat = 0 := by simpa [Instr.wf, ← BitVec.toNat_inj] using wf
  rw [decode_21 h0 nz]
  simp [ne, decodeLoopi, h1, h2, h3, imm16, zeroField, needField]

theorem Encoding.pushm (f l b : XReg) (k : Bool) : Encoding.Statement (.pushm f l b k) := by
  intro word wf hw
  obtain ⟨lt, nz, h0, h1, h2, h3, h4, h5, h6⟩ := fields11 (o := 34) (g0 := 0) (g1 := 0) (Option.some.inj hw).symm rfl (by decide) (by decide) f.isLt l.isLt b.isLt k.toNat_lt (by decide) (by decide) rfl rfl
  refine ⟨lt, ?_⟩
  rw [decode_22 h0 nz]
  simp [Instr.wf] at wf
  simp [wf, decodeStk, h1, h2, h3, h4, h5, h6, zeroField, needField]

theorem Encoding.popm (f l b : XReg) (k : Bool) : Encoding.Statement (.popm f l b k) := by
  intro word wf hw
  obtain ⟨lt, nz, h0, h1, h2, h3, h4, h5, h6⟩ := fields11 (o := 34) (g0 := 1) (g1 := 0) (Option.some.inj hw).symm rfl (by decide) (by decide) f.isLt l.isLt b.isLt k.toNat_lt (by decide) (by decide) rfl rfl
  refine ⟨lt, ?_⟩
  rw [decode_22 h0 nz]
  simp [Instr.wf] at wf
  simp [wf, decodeStk, h1, h2, h3, h4, h5, h6, zeroField, needField]

theorem Encoding.spawn (d a : XReg) : Encoding.Statement (.spawn d a) := by
  intro word _ hw
  obtain ⟨lt, nz, h0, h1, h2, h3, h4⟩ := fields1 (o := 35) (g0 := 0) (g1 := 0) (Option.some.inj hw).symm rfl (by decide) (by decide) d.isLt a.isLt (by decide) (by decide) rfl rfl
  refine ⟨lt, ?_⟩
  rw [decode_23 h0 nz]
  simp [decodeTask, h1, h2, h3, h4, decR3, decR2, decR0, decRa, zeroField, needField]

theorem Encoding.join (d a : XReg) : Encoding.Statement (.join d a) := by
  intro word _ hw
  obtain ⟨lt, nz, h0, h1, h2, h3, h4⟩ := fields1 (o := 35) (g0 := 1) (g1 := 0) (Option.some.inj hw).symm rfl (by decide) (by decide) d.isLt a.isLt (by decide) (by decide) rfl rfl
  refine ⟨lt, ?_⟩
  rw [decode_23 h0 nz]
  simp [decodeTask, h1, h2, h3, h4, decR3, decR2, decR0, decRa, zeroField, needField]

theorem Encoding.jinit (d a b : XReg) : Encoding.Statement (.jinit d a b) := by
  intro word _ hw
  obtain ⟨lt, nz, h0, h1, h2, h3, h4⟩ := fields0 (o := 35) (g0 := 2) (Option.some.inj hw).symm rfl (by decide) (by decide) d.isLt a.isLt b.isLt (by decide) rfl
  refine ⟨lt, ?_⟩
  rw [decode_23 h0 nz]
  simp [decodeTask, h1, h2, h3, h4, decR3, decR2, decR0, decRa, zeroField, needField]

theorem Encoding.exit : Encoding.Statement (.exit) := by
  intro word _ hw
  obtain ⟨lt, nz, h0, h1, h2, h3, h4⟩ := fields12 (o := 35) (g0 := 3) (g1 := 0) (g2 := 0) (g3 := 0) (Option.some.inj hw).symm rfl (by decide) (by decide) (by decide) (by decide) (by decide) (by decide) rfl rfl rfl rfl
  refine ⟨lt, ?_⟩
  rw [decode_23 h0 nz]
  simp [decodeTask, h1, h2, h3, h4, decR3, decR2, decR0, decRa, zeroField, needField]

theorem Encoding.yield : Encoding.Statement (.yield) := by
  intro word _ hw
  obtain ⟨lt, nz, h0, h1, h2, h3, h4⟩ := fields12 (o := 35) (g0 := 4) (g1 := 0) (g2 := 0) (g3 := 0) (Option.some.inj hw).symm rfl (by decide) (by decide) (by decide) (by decide) (by decide) (by decide) rfl rfl rfl rfl
  refine ⟨lt, ?_⟩
  rw [decode_23 h0 nz]
  simp [decodeTask, h1, h2, h3, h4, decR3, decR2, decR0, decRa, zeroField, needField]

theorem Encoding.waitt (a : XReg) : Encoding.Statement (.waitt a) := by
  intro word _ hw
  obtain ⟨lt, nz, h0, h1, h2, h3, h4⟩ := fields13 (o := 35) (g0 := 5) (g1 := 0) (g2 := 0) (Option.some.inj hw).symm rfl (by decide) (by decide) a.isLt (by decide) (by decide) (by decide) rfl rfl rfl
  refine ⟨lt, ?_⟩
  rw [decode_23 h0 nz]
  simp [decodeTask, h1, h2, h3, h4, decR3, decR2, decR0, decRa, zeroField, needField]

theorem Encoding.forkw (d a : XReg) : Encoding.Statement (.forkw d a) := by
  intro word _ hw
  obtain ⟨lt, nz, h0, h1, h2, h3, h4⟩ := fields1 (o := 36) (g0 := 0) (g1 := 0) (Option.some.inj hw).symm rfl (by decide) (by decide) d.isLt a.isLt (by decide) (by decide) rfl rfl
  refine ⟨lt, ?_⟩
  rw [decode_24 h0 nz]
  simp [decodeWorld, h1, h2, h3, h4, decR2, decRa, decR0, decRd, zeroField, needField]

theorem Encoding.yieldw (a : XReg) : Encoding.Statement (.yieldw a) := by
  intro word _ hw
  obtain ⟨lt, nz, h0, h1, h2, h3, h4⟩ := fields13 (o := 36) (g0 := 1) (g1 := 0) (g2 := 0) (Option.some.inj hw).symm rfl (by decide) (by decide) a.isLt (by decide) (by decide) (by decide) rfl rfl rfl
  refine ⟨lt, ?_⟩
  rw [decode_24 h0 nz]
  simp [decodeWorld, h1, h2, h3, h4, decR2, decRa, decR0, decRd, zeroField, needField]

theorem Encoding.choose (d a : XReg) : Encoding.Statement (.choose d a) := by
  intro word _ hw
  obtain ⟨lt, nz, h0, h1, h2, h3, h4⟩ := fields1 (o := 36) (g0 := 2) (g1 := 0) (Option.some.inj hw).symm rfl (by decide) (by decide) d.isLt a.isLt (by decide) (by decide) rfl rfl
  refine ⟨lt, ?_⟩
  rw [decode_24 h0 nz]
  simp [decodeWorld, h1, h2, h3, h4, decR2, decRa, decR0, decRd, zeroField, needField]

theorem Encoding.abortw : Encoding.Statement (.abortw) := by
  intro word _ hw
  obtain ⟨lt, nz, h0, h1, h2, h3, h4⟩ := fields12 (o := 36) (g0 := 3) (g1 := 0) (g2 := 0) (g3 := 0) (Option.some.inj hw).symm rfl (by decide) (by decide) (by decide) (by decide) (by decide) (by decide) rfl rfl rfl rfl
  refine ⟨lt, ?_⟩
  rw [decode_24 h0 nz]
  simp [decodeWorld, h1, h2, h3, h4, decR2, decRa, decR0, decRd, zeroField, needField]

theorem Encoding.wid (d : XReg) : Encoding.Statement (.wid d) := by
  intro word _ hw
  obtain ⟨lt, nz, h0, h1, h2, h3, h4⟩ := fields14 (o := 36) (g0 := 4) (g1 := 0) (g2 := 0) (Option.some.inj hw).symm rfl (by decide) (by decide) d.isLt (by decide) (by decide) (by decide) rfl rfl rfl
  refine ⟨lt, ?_⟩
  rw [decode_24 h0 nz]
  simp [decodeWorld, h1, h2, h3, h4, decR2, decRa, decR0, decRd, zeroField, needField]

theorem Encoding.setshp (d a : XReg) : Encoding.Statement (.setshp d a) := by
  intro word _ hw
  obtain ⟨lt, nz, h0, h1, h2, h3, h4⟩ := fields1 (o := 37) (g0 := 0) (g1 := 0) (Option.some.inj hw).symm rfl (by decide) (by decide) d.isLt a.isLt (by decide) (by decide) rfl rfl
  refine ⟨lt, ?_⟩
  rw [decode_25 h0 nz]
  simp [decodeShape, h1, h2, h3, h4, decR2, decRd, zeroField, needField]

theorem Encoding.getshp (d : XReg) : Encoding.Statement (.getshp d) := by
  intro word _ hw
  obtain ⟨lt, nz, h0, h1, h2, h3, h4⟩ := fields14 (o := 37) (g0 := 1) (g1 := 0) (g2 := 0) (Option.some.inj hw).symm rfl (by decide) (by decide) d.isLt (by decide) (by decide) (by decide) rfl rfl rfl
  refine ⟨lt, ?_⟩
  rw [decode_25 h0 nz]
  simp [decodeShape, h1, h2, h3, h4, decR2, decRd, zeroField, needField]

theorem Encoding.mxq (a : XReg) : Encoding.Statement (.mxq a) := by
  intro word _ hw
  obtain ⟨lt, nz, h0, h1, h2, h3, h4⟩ := fields13 (o := 38) (g0 := 0) (g1 := 0) (g2 := 0) (Option.some.inj hw).symm rfl (by decide) (by decide) a.isLt (by decide) (by decide) (by decide) rfl rfl rfl
  refine ⟨lt, ?_⟩
  rw [decode_26 h0 nz]
  simp [decodeEng, h1, h2, h3, h4, decRa, decRab, decR2, zeroField, needField]

theorem Encoding.cpq (a b : XReg) : Encoding.Statement (.cpq a b) := by
  intro word _ hw
  obtain ⟨lt, nz, h0, h1, h2, h3, h4⟩ := fields15 (o := 38) (g0 := 1) (g1 := 0) (Option.some.inj hw).symm rfl (by decide) (by decide) a.isLt b.isLt (by decide) (by decide) rfl rfl
  refine ⟨lt, ?_⟩
  rw [decode_26 h0 nz]
  simp [decodeEng, h1, h2, h3, h4, decRa, decRab, decR2, zeroField, needField]

theorem Encoding.clq (a : XReg) : Encoding.Statement (.clq a) := by
  intro word _ hw
  obtain ⟨lt, nz, h0, h1, h2, h3, h4⟩ := fields13 (o := 38) (g0 := 2) (g1 := 0) (g2 := 0) (Option.some.inj hw).symm rfl (by decide) (by decide) a.isLt (by decide) (by decide) (by decide) rfl rfl rfl
  refine ⟨lt, ?_⟩
  rw [decode_26 h0 nz]
  simp [decodeEng, h1, h2, h3, h4, decRa, decRab, decR2, zeroField, needField]

theorem Encoding.strm (a b : XReg) : Encoding.Statement (.strm a b) := by
  intro word _ hw
  obtain ⟨lt, nz, h0, h1, h2, h3, h4⟩ := fields15 (o := 38) (g0 := 3) (g1 := 0) (Option.some.inj hw).symm rfl (by decide) (by decide) a.isLt b.isLt (by decide) (by decide) rfl rfl
  refine ⟨lt, ?_⟩
  rw [decode_26 h0 nz]
  simp [decodeEng, h1, h2, h3, h4, decRa, decRab, decR2, zeroField, needField]

theorem Encoding.unstrm (a : XReg) : Encoding.Statement (.unstrm a) := by
  intro word _ hw
  obtain ⟨lt, nz, h0, h1, h2, h3, h4⟩ := fields13 (o := 38) (g0 := 4) (g1 := 0) (g2 := 0) (Option.some.inj hw).symm rfl (by decide) (by decide) a.isLt (by decide) (by decide) (by decide) rfl rfl rfl
  refine ⟨lt, ?_⟩
  rw [decode_26 h0 nz]
  simp [decodeEng, h1, h2, h3, h4, decRa, decRab, decR2, zeroField, needField]

theorem Encoding.qbind (a b : XReg) : Encoding.Statement (.qbind a b) := by
  intro word _ hw
  obtain ⟨lt, nz, h0, h1, h2, h3, h4⟩ := fields15 (o := 38) (g0 := 5) (g1 := 0) (Option.some.inj hw).symm rfl (by decide) (by decide) a.isLt b.isLt (by decide) (by decide) rfl rfl
  refine ⟨lt, ?_⟩
  rw [decode_26 h0 nz]
  simp [decodeEng, h1, h2, h3, h4, decRa, decRab, decR2, zeroField, needField]

theorem Encoding.engseq (d a : XReg) : Encoding.Statement (.engseq d a) := by
  intro word _ hw
  obtain ⟨lt, nz, h0, h1, h2, h3, h4⟩ := fields1 (o := 38) (g0 := 6) (g1 := 0) (Option.some.inj hw).symm rfl (by decide) (by decide) d.isLt a.isLt (by decide) (by decide) rfl rfl
  refine ⟨lt, ?_⟩
  rw [decode_26 h0 nz]
  simp [decodeEng, h1, h2, h3, h4, decRa, decRab, decR2, zeroField, needField]

theorem Encoding.skwait (a : XReg) (k : Fin 16) : Encoding.Statement (.skwait a k) := by
  intro word _ hw
  obtain ⟨lt, nz, h0, h1, h2, h3, h4, h5, h6⟩ := fields16 (o := 39) (g0 := 0) (g1 := 0) (g2 := 0) (g3 := 0) (Option.some.inj hw).symm rfl (by decide) (by decide) a.isLt k.isLt (by decide) (by decide) (by decide) (by decide) rfl rfl rfl rfl
  refine ⟨lt, ?_⟩
  rw [decode_27 h0 nz]
  simp [decodeSync, h1, h2, h3, h4, h5, h6, zeroField, needField]

theorem Encoding.skadd (a : XReg) (k : Fin 16) : Encoding.Statement (.skadd a k) := by
  intro word _ hw
  obtain ⟨lt, nz, h0, h1, h2, h3, h4, h5, h6⟩ := fields16 (o := 39) (g0 := 1) (g1 := 0) (g2 := 0) (g3 := 0) (Option.some.inj hw).symm rfl (by decide) (by decide) a.isLt k.isLt (by decide) (by decide) (by decide) (by decide) rfl rfl rfl rfl
  refine ⟨lt, ?_⟩
  rw [decode_27 h0 nz]
  simp [decodeSync, h1, h2, h3, h4, h5, h6, zeroField, needField]

theorem Encoding.skset (a : XReg) (k : Fin 16) : Encoding.Statement (.skset a k) := by
  intro word _ hw
  obtain ⟨lt, nz, h0, h1, h2, h3, h4, h5, h6⟩ := fields16 (o := 39) (g0 := 2) (g1 := 0) (g2 := 0) (g3 := 0) (Option.some.inj hw).symm rfl (by decide) (by decide) a.isLt k.isLt (by decide) (by decide) (by decide) (by decide) rfl rfl rfl rfl
  refine ⟨lt, ?_⟩
  rw [decode_27 h0 nz]
  simp [decodeSync, h1, h2, h3, h4, h5, h6, zeroField, needField]

theorem Encoding.skrd (d : XReg) (k : Fin 16) : Encoding.Statement (.skrd d k) := by
  intro word _ hw
  obtain ⟨lt, nz, h0, h1, h2, h3, h4, h5, h6⟩ := fields17 (o := 39) (g0 := 3) (g1 := 0) (g2 := 0) (g3 := 0) (Option.some.inj hw).symm rfl (by decide) (by decide) d.isLt k.isLt (by decide) (by decide) (by decide) (by decide) rfl rfl rfl rfl
  refine ⟨lt, ?_⟩
  rw [decode_27 h0 nz]
  simp [decodeSync, h1, h2, h3, h4, h5, h6, zeroField, needField]

theorem Encoding.wpwait (a : XReg) (k : Fin 4) : Encoding.Statement (.wpwait a k) := by
  intro word _ hw
  obtain ⟨lt, nz, h0, h1, h2, h3, h4, h5, h6⟩ := fields18 (o := 39) (g0 := 4) (g1 := 0) (g2 := 0) (g3 := 0) (g4 := 0) (Option.some.inj hw).symm rfl (by decide) (by decide) a.isLt k.isLt (by decide) (by decide) (by decide) (by decide) (by decide) rfl rfl rfl rfl
  refine ⟨lt, ?_⟩
  rw [decode_27 h0 nz]
  simp [decodeSync, h1, h2, h3, h4, h5, h6, zeroField, needField]

theorem Encoding.csrr (d : XReg) (c : BitVec 12) : Encoding.Statement (.csrr d c) := by
  intro word _ hw
  obtain ⟨lt, nz, h0, h1, h2, h3, h4⟩ := fields19 (o := 40) (g0 := 0) (g1 := 0) (Option.some.inj hw).symm rfl (by decide) (by decide) d.isLt c.isLt (by decide) (by decide) rfl rfl
  refine ⟨lt, ?_⟩
  rw [decode_28 h0 nz]
  simp [decodeCsr, h1, h2, h3, h4, zeroField, needField]

theorem Encoding.csrw (d a : XReg) (c : BitVec 12) : Encoding.Statement (.csrw d a c) := by
  intro word _ hw
  obtain ⟨lt, nz, h0, h1, h2, h3, h4⟩ := fields20 (o := 40) (g0 := 1) (Option.some.inj hw).symm rfl (by decide) (by decide) d.isLt a.isLt c.isLt (by decide) rfl
  refine ⟨lt, ?_⟩
  rw [decode_28 h0 nz]
  simp [decodeCsr, h1, h2, h3, h4, zeroField, needField]

theorem Encoding.csrs (d a : XReg) (c : BitVec 12) : Encoding.Statement (.csrs d a c) := by
  intro word _ hw
  obtain ⟨lt, nz, h0, h1, h2, h3, h4⟩ := fields20 (o := 40) (g0 := 2) (Option.some.inj hw).symm rfl (by decide) (by decide) d.isLt a.isLt c.isLt (by decide) rfl
  refine ⟨lt, ?_⟩
  rw [decode_28 h0 nz]
  simp [decodeCsr, h1, h2, h3, h4, zeroField, needField]

theorem Encoding.csrc (d a : XReg) (c : BitVec 12) : Encoding.Statement (.csrc d a c) := by
  intro word _ hw
  obtain ⟨lt, nz, h0, h1, h2, h3, h4⟩ := fields20 (o := 40) (g0 := 3) (Option.some.inj hw).symm rfl (by decide) (by decide) d.isLt a.isLt c.isLt (by decide) rfl
  refine ⟨lt, ?_⟩
  rw [decode_28 h0 nz]
  simp [decodeCsr, h1, h2, h3, h4, zeroField, needField]

theorem Encoding.fadd (d a b : XReg) (f : FFmt) (r : FRnd) : Encoding.Statement (.fadd d a b f r) := by
  intro word _ hw
  obtain ⟨lt, nz, h0, h1, h2, h3, h4, h5, h6, h7⟩ := fields21 (o := 41) (g0 := 0) (g1 := 0) (g2 := 0) (Option.some.inj hw).symm rfl (by decide) (by decide) d.isLt a.isLt b.isLt f.code_lt (Nat.lt_of_lt_of_le r.code_lt (by decide)) (by decide) (by decide) (by decide) rfl rfl
  refine ⟨lt, ?_⟩
  rw [decode_29 h0 nz]
  simp [decodeFps, h1, h2, h3, h4, h5, h6, h7, zeroField, needField]

theorem Encoding.fsub (d a b : XReg) (f : FFmt) (r : FRnd) : Encoding.Statement (.fsub d a b f r) := by
  intro word _ hw
  obtain ⟨lt, nz, h0, h1, h2, h3, h4, h5, h6, h7⟩ := fields21 (o := 41) (g0 := 0) (g1 := 1) (g2 := 0) (Option.some.inj hw).symm rfl (by decide) (by decide) d.isLt a.isLt b.isLt f.code_lt (Nat.lt_of_lt_of_le r.code_lt (by decide)) (by decide) (by decide) (by decide) rfl rfl
  refine ⟨lt, ?_⟩
  rw [decode_29 h0 nz]
  simp [decodeFps, h1, h2, h3, h4, h5, h6, h7, zeroField, needField]

theorem Encoding.fmul (d a b : XReg) (f : FFmt) (r : FRnd) : Encoding.Statement (.fmul d a b f r) := by
  intro word _ hw
  obtain ⟨lt, nz, h0, h1, h2, h3, h4, h5, h6, h7⟩ := fields21 (o := 41) (g0 := 0) (g1 := 2) (g2 := 0) (Option.some.inj hw).symm rfl (by decide) (by decide) d.isLt a.isLt b.isLt f.code_lt (Nat.lt_of_lt_of_le r.code_lt (by decide)) (by decide) (by decide) (by decide) rfl rfl
  refine ⟨lt, ?_⟩
  rw [decode_29 h0 nz]
  simp [decodeFps, h1, h2, h3, h4, h5, h6, h7, zeroField, needField]

theorem Encoding.fdiv (d a b : XReg) (f : FFmt) (r : FRnd) : Encoding.Statement (.fdiv d a b f r) := by
  intro word _ hw
  obtain ⟨lt, nz, h0, h1, h2, h3, h4, h5, h6, h7⟩ := fields21 (o := 41) (g0 := 0) (g1 := 3) (g2 := 0) (Option.some.inj hw).symm rfl (by decide) (by decide) d.isLt a.isLt b.isLt f.code_lt (Nat.lt_of_lt_of_le r.code_lt (by decide)) (by decide) (by decide) (by decide) rfl rfl
  refine ⟨lt, ?_⟩
  rw [decode_29 h0 nz]
  simp [decodeFps, h1, h2, h3, h4, h5, h6, h7, zeroField, needField]

theorem Encoding.fsqrt (d a : XReg) (f : FFmt) (r : FRnd) : Encoding.Statement (.fsqrt d a f r) := by
  intro word _ hw
  obtain ⟨lt, nz, h0, h1, h2, h3, h4, h5, h6, h7⟩ := fields22 (o := 41) (g0 := 0) (g1 := 4) (g2 := 0) (g3 := 0) (Option.some.inj hw).symm rfl (by decide) (by decide) d.isLt a.isLt f.code_lt (Nat.lt_of_lt_of_le r.code_lt (by decide)) (by decide) (by decide) (by decide) (by decide) rfl rfl rfl
  refine ⟨lt, ?_⟩
  rw [decode_29 h0 nz]
  simp [decodeFps, h1, h2, h3, h4, h5, h6, h7, zeroField, needField]

theorem Encoding.fmin (d a b : XReg) (f : FFmt) : Encoding.Statement (.fmin d a b f) := by
  intro word _ hw
  obtain ⟨lt, nz, h0, h1, h2, h3, h4, h5, h6, h7⟩ := fields23 (o := 41) (g0 := 0) (g1 := 0) (g2 := 5) (g3 := 0) (Option.some.inj hw).symm rfl (by decide) (by decide) d.isLt a.isLt b.isLt f.code_lt (by decide) (by decide) (by decide) (by decide) rfl rfl rfl
  refine ⟨lt, ?_⟩
  rw [decode_29 h0 nz]
  simp [decodeFps, h1, h2, h3, h4, h5, h6, h7, zeroField, needField]

theorem Encoding.fmax (d a b : XReg) (f : FFmt) : Encoding.Statement (.fmax d a b f) := by
  intro word _ hw
  obtain ⟨lt, nz, h0, h1, h2, h3, h4, h5, h6, h7⟩ := fields23 (o := 41) (g0 := 0) (g1 := 0) (g2 := 6) (g3 := 0) (Option.some.inj hw).symm rfl (by decide) (by decide) d.isLt a.isLt b.isLt f.code_lt (by decide) (by decide) (by decide) (by decide) rfl rfl rfl
  refine ⟨lt, ?_⟩
  rw [decode_29 h0 nz]
  simp [decodeFps, h1, h2, h3, h4, h5, h6, h7, zeroField, needField]

theorem Encoding.flt (d a b : XReg) (f : FFmt) : Encoding.Statement (.flt d a b f) := by
  intro word _ hw
  obtain ⟨lt, nz, h0, h1, h2, h3, h4, h5, h6, h7⟩ := fields23 (o := 41) (g0 := 0) (g1 := 0) (g2 := 7) (g3 := 0) (Option.some.inj hw).symm rfl (by decide) (by decide) d.isLt a.isLt b.isLt f.code_lt (by decide) (by decide) (by decide) (by decide) rfl rfl rfl
  refine ⟨lt, ?_⟩
  rw [decode_29 h0 nz]
  simp [decodeFps, h1, h2, h3, h4, h5, h6, h7, zeroField, needField]

theorem Encoding.feq (d a b : XReg) (f : FFmt) : Encoding.Statement (.feq d a b f) := by
  intro word _ hw
  obtain ⟨lt, nz, h0, h1, h2, h3, h4, h5, h6, h7⟩ := fields23 (o := 41) (g0 := 0) (g1 := 0) (g2 := 8) (g3 := 0) (Option.some.inj hw).symm rfl (by decide) (by decide) d.isLt a.isLt b.isLt f.code_lt (by decide) (by decide) (by decide) (by decide) rfl rfl rfl
  refine ⟨lt, ?_⟩
  rw [decode_29 h0 nz]
  simp [decodeFps, h1, h2, h3, h4, h5, h6, h7, zeroField, needField]

theorem Encoding.fle (d a b : XReg) (f : FFmt) : Encoding.Statement (.fle d a b f) := by
  intro word _ hw
  obtain ⟨lt, nz, h0, h1, h2, h3, h4, h5, h6, h7⟩ := fields23 (o := 41) (g0 := 0) (g1 := 0) (g2 := 9) (g3 := 0) (Option.some.inj hw).symm rfl (by decide) (by decide) d.isLt a.isLt b.isLt f.code_lt (by decide) (by decide) (by decide) (by decide) rfl rfl rfl
  refine ⟨lt, ?_⟩
  rw [decode_29 h0 nz]
  simp [decodeFps, h1, h2, h3, h4, h5, h6, h7, zeroField, needField]

theorem Encoding.fcvtfi (d a : XReg) (f : FFmt) (r : FRnd) : Encoding.Statement (.fcvtfi d a f r) := by
  intro word _ hw
  obtain ⟨lt, nz, h0, h1, h2, h3, h4, h5, h6, h7⟩ := fields22 (o := 41) (g0 := 0) (g1 := 10) (g2 := 0) (g3 := 0) (Option.some.inj hw).symm rfl (by decide) (by decide) d.isLt a.isLt f.code_lt (Nat.lt_of_lt_of_le r.code_lt (by decide)) (by decide) (by decide) (by decide) (by decide) rfl rfl rfl
  refine ⟨lt, ?_⟩
  rw [decode_29 h0 nz]
  simp [decodeFps, h1, h2, h3, h4, h5, h6, h7, zeroField, needField]

theorem Encoding.fcvtif (d a : XReg) (f : FFmt) (r : FRnd) : Encoding.Statement (.fcvtif d a f r) := by
  intro word _ hw
  obtain ⟨lt, nz, h0, h1, h2, h3, h4, h5, h6, h7⟩ := fields22 (o := 41) (g0 := 0) (g1 := 11) (g2 := 0) (g3 := 0) (Option.some.inj hw).symm rfl (by decide) (by decide) d.isLt a.isLt f.code_lt (Nat.lt_of_lt_of_le r.code_lt (by decide)) (by decide) (by decide) (by decide) (by decide) rfl rfl rfl
  refine ⟨lt, ?_⟩
  rw [decode_29 h0 nz]
  simp [decodeFps, h1, h2, h3, h4, h5, h6, h7, zeroField, needField]

theorem Encoding.fcvtff (d a : XReg) (f : FFmt) (r : FRnd) : Encoding.Statement (.fcvtff d a f r) := by
  intro word wf hw
  obtain ⟨lt, nz, h0, h1, h2, h3, h4, h5, h6, h7⟩ := fields22 (o := 41) (g0 := 0) (g1 := 12) (g2 := 0) (g3 := 0) (Option.some.inj hw).symm rfl (by decide) (by decide) d.isLt a.isLt f.code_lt (Nat.lt_of_lt_of_le r.code_lt (by decide)) (by decide) (by decide) (by decide) (by decide) rfl rfl rfl
  refine ⟨lt, ?_⟩
  rw [decode_29 h0 nz]
  simp [Instr.wf] at wf
  simp [wf, decodeFps, h1, h2, h3, h4, h5, h6, h7, zeroField, needField]
  rcases wf with rfl | rfl
  · simp
  · simp [FRnd.code]

theorem Encoding.fmadd (d a b : XReg) (f : FFmt) (r : FRnd) : Encoding.Statement (.fmadd d a b f r) := by
  intro word _ hw
  obtain ⟨lt, nz, h0, h1, h2, h3, h4, h5, h6, h7⟩ := fields21 (o := 41) (g0 := 0) (g1 := 13) (g2 := 0) (Option.some.inj hw).symm rfl (by decide) (by decide) d.isLt a.isLt b.isLt f.code_lt (Nat.lt_of_lt_of_le r.code_lt (by decide)) (by decide) (by decide) (by decide) rfl rfl
  refine ⟨lt, ?_⟩
  rw [decode_29 h0 nz]
  simp [decodeFps, h1, h2, h3, h4, h5, h6, h7, zeroField, needField]

theorem Encoding.orboff (d a b : XReg) : Encoding.Statement (.orboff d a b) := by
  intro word _ hw
  obtain ⟨lt, nz, h0, h1, h2, h3, h4⟩ := fields0 (o := 42) (g0 := 0) (Option.some.inj hw).symm rfl (by decide) (by decide) d.isLt a.isLt b.isLt (by decide) rfl
  refine ⟨lt, ?_⟩
  rw [decode_2A h0 nz]
  simp [decodeOrb, h1, h2, h3, h4, decR3, zeroField, needField]

theorem Encoding.orbsgn (d a b : XReg) : Encoding.Statement (.orbsgn d a b) := by
  intro word _ hw
  obtain ⟨lt, nz, h0, h1, h2, h3, h4⟩ := fields0 (o := 42) (g0 := 1) (Option.some.inj hw).symm rfl (by decide) (by decide) d.isLt a.isLt b.isLt (by decide) rfl
  refine ⟨lt, ?_⟩
  rw [decode_2A h0 nz]
  simp [decodeOrb, h1, h2, h3, h4, decR3, zeroField, needField]

theorem Encoding.orbmul (d a b : XReg) : Encoding.Statement (.orbmul d a b) := by
  intro word _ hw
  obtain ⟨lt, nz, h0, h1, h2, h3, h4⟩ := fields0 (o := 42) (g0 := 2) (Option.some.inj hw).symm rfl (by decide) (by decide) d.isLt a.isLt b.isLt (by decide) rfl
  refine ⟨lt, ?_⟩
  rw [decode_2A h0 nz]
  simp [decodeOrb, h1, h2, h3, h4, decR3, zeroField, needField]

theorem Encoding.vadd (d : VDst) (a b : VSrc) : Encoding.Statement (.vadd d a b) := by
  intro word _ hw
  obtain ⟨lt, nz, h0, h1, h2, h3, h4, h5⟩ := fields24 (o := 48) (g0 := 0) (g1 := 0) (Option.some.inj hw).symm rfl (by decide) (by decide) (Nat.lt_of_lt_of_le d.code_lt (by decide)) (Nat.lt_of_lt_of_le a.code_lt (by decide)) (Nat.lt_of_lt_of_le b.code_lt (by decide)) (by decide) (by decide) rfl rfl
  refine ⟨lt, ?_⟩
  rw [decode_30 h0 nz]
  simp [decodeVar, h1, h2, h3, h4, h5, decV1, decV2, zeroField, needField, vcheck]

theorem Encoding.vsub (d : VDst) (a b : VSrc) : Encoding.Statement (.vsub d a b) := by
  intro word _ hw
  obtain ⟨lt, nz, h0, h1, h2, h3, h4, h5⟩ := fields24 (o := 48) (g0 := 1) (g1 := 0) (Option.some.inj hw).symm rfl (by decide) (by decide) (Nat.lt_of_lt_of_le d.code_lt (by decide)) (Nat.lt_of_lt_of_le a.code_lt (by decide)) (Nat.lt_of_lt_of_le b.code_lt (by decide)) (by decide) (by decide) rfl rfl
  refine ⟨lt, ?_⟩
  rw [decode_30 h0 nz]
  simp [decodeVar, h1, h2, h3, h4, h5, decV1, decV2, zeroField, needField, vcheck]

theorem Encoding.vmul (d : VDst) (a b : VSrc) : Encoding.Statement (.vmul d a b) := by
  intro word _ hw
  obtain ⟨lt, nz, h0, h1, h2, h3, h4, h5⟩ := fields24 (o := 48) (g0 := 2) (g1 := 0) (Option.some.inj hw).symm rfl (by decide) (by decide) (Nat.lt_of_lt_of_le d.code_lt (by decide)) (Nat.lt_of_lt_of_le a.code_lt (by decide)) (Nat.lt_of_lt_of_le b.code_lt (by decide)) (by decide) (by decide) rfl rfl
  refine ⟨lt, ?_⟩
  rw [decode_30 h0 nz]
  simp [decodeVar, h1, h2, h3, h4, h5, decV1, decV2, zeroField, needField, vcheck]

theorem Encoding.vdiv (d : VDst) (a b : VSrc) : Encoding.Statement (.vdiv d a b) := by
  intro word _ hw
  obtain ⟨lt, nz, h0, h1, h2, h3, h4, h5⟩ := fields24 (o := 48) (g0 := 3) (g1 := 0) (Option.some.inj hw).symm rfl (by decide) (by decide) (Nat.lt_of_lt_of_le d.code_lt (by decide)) (Nat.lt_of_lt_of_le a.code_lt (by decide)) (Nat.lt_of_lt_of_le b.code_lt (by decide)) (by decide) (by decide) rfl rfl
  refine ⟨lt, ?_⟩
  rw [decode_30 h0 nz]
  simp [decodeVar, h1, h2, h3, h4, h5, decV1, decV2, zeroField, needField, vcheck]

theorem Encoding.vmin (d : VDst) (a b : VSrc) : Encoding.Statement (.vmin d a b) := by
  intro word _ hw
  obtain ⟨lt, nz, h0, h1, h2, h3, h4, h5⟩ := fields24 (o := 48) (g0 := 4) (g1 := 0) (Option.some.inj hw).symm rfl (by decide) (by decide) (Nat.lt_of_lt_of_le d.code_lt (by decide)) (Nat.lt_of_lt_of_le a.code_lt (by decide)) (Nat.lt_of_lt_of_le b.code_lt (by decide)) (by decide) (by decide) rfl rfl
  refine ⟨lt, ?_⟩
  rw [decode_30 h0 nz]
  simp [decodeVar, h1, h2, h3, h4, h5, decV1, decV2, zeroField, needField, vcheck]

theorem Encoding.vmax (d : VDst) (a b : VSrc) : Encoding.Statement (.vmax d a b) := by
  intro word _ hw
  obtain ⟨lt, nz, h0, h1, h2, h3, h4, h5⟩ := fields24 (o := 48) (g0 := 5) (g1 := 0) (Option.some.inj hw).symm rfl (by decide) (by decide) (Nat.lt_of_lt_of_le d.code_lt (by decide)) (Nat.lt_of_lt_of_le a.code_lt (by decide)) (Nat.lt_of_lt_of_le b.code_lt (by decide)) (by decide) (by decide) rfl rfl
  refine ⟨lt, ?_⟩
  rw [decode_30 h0 nz]
  simp [decodeVar, h1, h2, h3, h4, h5, decV1, decV2, zeroField, needField, vcheck]

theorem Encoding.vabs (d : VDst) (a : VSrc) : Encoding.Statement (.vabs d a) := by
  intro word _ hw
  obtain ⟨lt, nz, h0, h1, h2, h3, h4, h5⟩ := fields25 (o := 48) (g0 := 6) (g1 := 0) (g2 := 0) (Option.some.inj hw).symm rfl (by decide) (by decide) (Nat.lt_of_lt_of_le d.code_lt (by decide)) (Nat.lt_of_lt_of_le a.code_lt (by decide)) (by decide) (by decide) (by decide) rfl rfl rfl
  refine ⟨lt, ?_⟩
  rw [decode_30 h0 nz]
  simp [decodeVar, h1, h2, h3, h4, h5, decV1, decV2, zeroField, needField, vcheck]

theorem Encoding.vneg (d : VDst) (a : VSrc) : Encoding.Statement (.vneg d a) := by
  intro word _ hw
  obtain ⟨lt, nz, h0, h1, h2, h3, h4, h5⟩ := fields25 (o := 48) (g0 := 7) (g1 := 0) (g2 := 0) (Option.some.inj hw).symm rfl (by decide) (by decide) (Nat.lt_of_lt_of_le d.code_lt (by decide)) (Nat.lt_of_lt_of_le a.code_lt (by decide)) (by decide) (by decide) (by decide) rfl rfl rfl
  refine ⟨lt, ?_⟩
  rw [decode_30 h0 nz]
  simp [decodeVar, h1, h2, h3, h4, h5, decV1, decV2, zeroField, needField, vcheck]

theorem Encoding.vaddsat (d : VDst) (a b : VSrc) : Encoding.Statement (.vaddsat d a b) := by
  intro word _ hw
  obtain ⟨lt, nz, h0, h1, h2, h3, h4, h5⟩ := fields24 (o := 48) (g0 := 8) (g1 := 0) (Option.some.inj hw).symm rfl (by decide) (by decide) (Nat.lt_of_lt_of_le d.code_lt (by decide)) (Nat.lt_of_lt_of_le a.code_lt (by decide)) (Nat.lt_of_lt_of_le b.code_lt (by decide)) (by decide) (by decide) rfl rfl
  refine ⟨lt, ?_⟩
  rw [decode_30 h0 nz]
  simp [decodeVar, h1, h2, h3, h4, h5, decV1, decV2, zeroField, needField, vcheck]

theorem Encoding.vsubsat (d : VDst) (a b : VSrc) : Encoding.Statement (.vsubsat d a b) := by
  intro word _ hw
  obtain ⟨lt, nz, h0, h1, h2, h3, h4, h5⟩ := fields24 (o := 48) (g0 := 9) (g1 := 0) (Option.some.inj hw).symm rfl (by decide) (by decide) (Nat.lt_of_lt_of_le d.code_lt (by decide)) (Nat.lt_of_lt_of_le a.code_lt (by decide)) (Nat.lt_of_lt_of_le b.code_lt (by decide)) (by decide) (by decide) rfl rfl
  refine ⟨lt, ?_⟩
  rw [decode_30 h0 nz]
  simp [decodeVar, h1, h2, h3, h4, h5, decV1, decV2, zeroField, needField, vcheck]

theorem Encoding.vfma (d : VDst) (a b c : VSrc) : Encoding.Statement (.vfma d a b c) := by
  intro word _ hw
  obtain ⟨lt, nz, h0, h1, h2, h3, h4, h5⟩ := fields26 (o := 49) (g0 := 0) (Option.some.inj hw).symm rfl (by decide) (by decide) (Nat.lt_of_lt_of_le d.code_lt (by decide)) (Nat.lt_of_lt_of_le a.code_lt (by decide)) (Nat.lt_of_lt_of_le b.code_lt (by decide)) (Nat.lt_of_lt_of_le c.code_lt (by decide)) (by decide) rfl
  refine ⟨lt, ?_⟩
  rw [decode_31 h0 nz]
  simp [decodeVfm, h1, h2, h3, h4, h5, decV3, zeroField, needField, vcheck]

theorem Encoding.vfms (d : VDst) (a b c : VSrc) : Encoding.Statement (.vfms d a b c) := by
  intro word _ hw
  obtain ⟨lt, nz, h0, h1, h2, h3, h4, h5⟩ := fields26 (o := 49) (g0 := 1) (Option.some.inj hw).symm rfl (by decide) (by decide) (Nat.lt_of_lt_of_le d.code_lt (by decide)) (Nat.lt_of_lt_of_le a.code_lt (by decide)) (Nat.lt_of_lt_of_le b.code_lt (by decide)) (Nat.lt_of_lt_of_le c.code_lt (by decide)) (by decide) rfl
  refine ⟨lt, ?_⟩
  rw [decode_31 h0 nz]
  simp [decodeVfm, h1, h2, h3, h4, h5, decV3, zeroField, needField, vcheck]

theorem Encoding.vfnma (d : VDst) (a b c : VSrc) : Encoding.Statement (.vfnma d a b c) := by
  intro word _ hw
  obtain ⟨lt, nz, h0, h1, h2, h3, h4, h5⟩ := fields26 (o := 49) (g0 := 2) (Option.some.inj hw).symm rfl (by decide) (by decide) (Nat.lt_of_lt_of_le d.code_lt (by decide)) (Nat.lt_of_lt_of_le a.code_lt (by decide)) (Nat.lt_of_lt_of_le b.code_lt (by decide)) (Nat.lt_of_lt_of_le c.code_lt (by decide)) (by decide) rfl
  refine ⟨lt, ?_⟩
  rw [decode_31 h0 nz]
  simp [decodeVfm, h1, h2, h3, h4, h5, decV3, zeroField, needField, vcheck]

theorem Encoding.vand (d : VDst) (a b : VSrc) : Encoding.Statement (.vand d a b) := by
  intro word _ hw
  obtain ⟨lt, nz, h0, h1, h2, h3, h4, h5⟩ := fields24 (o := 50) (g0 := 0) (g1 := 0) (Option.some.inj hw).symm rfl (by decide) (by decide) (Nat.lt_of_lt_of_le d.code_lt (by decide)) (Nat.lt_of_lt_of_le a.code_lt (by decide)) (Nat.lt_of_lt_of_le b.code_lt (by decide)) (by decide) (by decide) rfl rfl
  refine ⟨lt, ?_⟩
  rw [decode_32 h0 nz]
  simp [decodeVbit, h1, h2, h3, h4, h5, decV1, decV2, zeroField, needField, vcheck]

theorem Encoding.vor (d : VDst) (a b : VSrc) : Encoding.Statement (.vor d a b) := by
  intro word _ hw
  obtain ⟨lt, nz, h0, h1, h2, h3, h4, h5⟩ := fields24 (o := 50) (g0 := 1) (g1 := 0) (Option.some.inj hw).symm rfl (by decide) (by decide) (Nat.lt_of_lt_of_le d.code_lt (by decide)) (Nat.lt_of_lt_of_le a.code_lt (by decide)) (Nat.lt_of_lt_of_le b.code_lt (by decide)) (by decide) (by decide) rfl rfl
  refine ⟨lt, ?_⟩
  rw [decode_32 h0 nz]
  simp [decodeVbit, h1, h2, h3, h4, h5, decV1, decV2, zeroField, needField, vcheck]

theorem Encoding.vxor (d : VDst) (a b : VSrc) : Encoding.Statement (.vxor d a b) := by
  intro word _ hw
  obtain ⟨lt, nz, h0, h1, h2, h3, h4, h5⟩ := fields24 (o := 50) (g0 := 2) (g1 := 0) (Option.some.inj hw).symm rfl (by decide) (by decide) (Nat.lt_of_lt_of_le d.code_lt (by decide)) (Nat.lt_of_lt_of_le a.code_lt (by decide)) (Nat.lt_of_lt_of_le b.code_lt (by decide)) (by decide) (by decide) rfl rfl
  refine ⟨lt, ?_⟩
  rw [decode_32 h0 nz]
  simp [decodeVbit, h1, h2, h3, h4, h5, decV1, decV2, zeroField, needField, vcheck]

theorem Encoding.vnot (d : VDst) (a : VSrc) : Encoding.Statement (.vnot d a) := by
  intro word _ hw
  obtain ⟨lt, nz, h0, h1, h2, h3, h4, h5⟩ := fields25 (o := 50) (g0 := 3) (g1 := 0) (g2 := 0) (Option.some.inj hw).symm rfl (by decide) (by decide) (Nat.lt_of_lt_of_le d.code_lt (by decide)) (Nat.lt_of_lt_of_le a.code_lt (by decide)) (by decide) (by decide) (by decide) rfl rfl rfl
  refine ⟨lt, ?_⟩
  rw [decode_32 h0 nz]
  simp [decodeVbit, h1, h2, h3, h4, h5, decV1, decV2, zeroField, needField, vcheck]

theorem Encoding.vshl (d : VDst) (a b : VSrc) : Encoding.Statement (.vshl d a b) := by
  intro word _ hw
  obtain ⟨lt, nz, h0, h1, h2, h3, h4, h5⟩ := fields24 (o := 50) (g0 := 4) (g1 := 0) (Option.some.inj hw).symm rfl (by decide) (by decide) (Nat.lt_of_lt_of_le d.code_lt (by decide)) (Nat.lt_of_lt_of_le a.code_lt (by decide)) (Nat.lt_of_lt_of_le b.code_lt (by decide)) (by decide) (by decide) rfl rfl
  refine ⟨lt, ?_⟩
  rw [decode_32 h0 nz]
  simp [decodeVbit, h1, h2, h3, h4, h5, decV1, decV2, zeroField, needField, vcheck]

theorem Encoding.vshr (d : VDst) (a b : VSrc) : Encoding.Statement (.vshr d a b) := by
  intro word _ hw
  obtain ⟨lt, nz, h0, h1, h2, h3, h4, h5⟩ := fields24 (o := 50) (g0 := 5) (g1 := 0) (Option.some.inj hw).symm rfl (by decide) (by decide) (Nat.lt_of_lt_of_le d.code_lt (by decide)) (Nat.lt_of_lt_of_le a.code_lt (by decide)) (Nat.lt_of_lt_of_le b.code_lt (by decide)) (by decide) (by decide) rfl rfl
  refine ⟨lt, ?_⟩
  rw [decode_32 h0 nz]
  simp [decodeVbit, h1, h2, h3, h4, h5, decV1, decV2, zeroField, needField, vcheck]

theorem Encoding.vsra (d : VDst) (a b : VSrc) : Encoding.Statement (.vsra d a b) := by
  intro word _ hw
  obtain ⟨lt, nz, h0, h1, h2, h3, h4, h5⟩ := fields24 (o := 50) (g0 := 6) (g1 := 0) (Option.some.inj hw).symm rfl (by decide) (by decide) (Nat.lt_of_lt_of_le d.code_lt (by decide)) (Nat.lt_of_lt_of_le a.code_lt (by decide)) (Nat.lt_of_lt_of_le b.code_lt (by decide)) (by decide) (by decide) rfl rfl
  refine ⟨lt, ?_⟩
  rw [decode_32 h0 nz]
  simp [decodeVbit, h1, h2, h3, h4, h5, decV1, decV2, zeroField, needField, vcheck]

theorem Encoding.vcmp (d : VDst) (a b : VSrc) (c : Cond) : Encoding.Statement (.vcmp d a b c) := by
  intro word _ hw
  obtain ⟨lt, nz, h0, h1, h2, h3, h4, h5, h6⟩ := fields27 (o := 51) (g0 := 0) (g1 := 0) (Option.some.inj hw).symm rfl (by decide) (by decide) (Nat.lt_of_lt_of_le d.code_lt (by decide)) (Nat.lt_of_lt_of_le a.code_lt (by decide)) (Nat.lt_of_lt_of_le b.code_lt (by decide)) (Nat.lt_of_lt_of_le c.code_lt (by decide)) (by decide) (by decide) rfl rfl
  refine ⟨lt, ?_⟩
  rw [decode_33 h0 nz]
  simp [Cond.code_ne_seven, decodeVcmpg, h1, h2, h3, h4, h5, h6, decV2, decV3, zeroField, needField, vcheck]

theorem Encoding.vsel (d : VDst) (a b c : VSrc) : Encoding.Statement (.vsel d a b c) := by
  intro word _ hw
  obtain ⟨lt, nz, h0, h1, h2, h3, h4, h5, h6⟩ := fields28 (o := 51) (g0 := 1) (g1 := 0) (Option.some.inj hw).symm rfl (by decide) (by decide) (Nat.lt_of_lt_of_le d.code_lt (by decide)) (Nat.lt_of_lt_of_le a.code_lt (by decide)) (Nat.lt_of_lt_of_le b.code_lt (by decide)) (Nat.lt_of_lt_of_le c.code_lt (by decide)) (by decide) (by decide) rfl rfl
  refine ⟨lt, ?_⟩
  rw [decode_33 h0 nz]
  simp [decodeVcmpg, h1, h2, h3, h4, h5, h6, decV2, decV3, zeroField, needField, vcheck]

theorem Encoding.vcvt (d : VDst) (a : VSrc) (f : Fmt) : Encoding.Statement (.vcvt d a f) := by
  intro word _ hw
  obtain ⟨lt, nz, h0, h1, h2, h3, h4, h5⟩ := fields29 (o := 52) (g0 := 0) (g1 := 0) (g2 := 0) (Option.some.inj hw).symm rfl (by decide) (by decide) (Nat.lt_of_lt_of_le d.code_lt (by decide)) (Nat.lt_of_lt_of_le a.code_lt (by decide)) (Nat.lt_of_lt_of_le f.code_lt (by decide)) (by decide) (by decide) (by decide) rfl rfl
  refine ⟨lt, ?_⟩
  rw [decode_34 h0 nz]
  simp [decodeVcv, h1, h2, h3, h4, h5, zeroField, needField, vcheck]

theorem Encoding.vexp2 (d : VDst) (a : VSrc) : Encoding.Statement (.vexp2 d a) := by
  intro word _ hw
  obtain ⟨lt, nz, h0, h1, h2, h3, h4, h5⟩ := fields25 (o := 53) (g0 := 0) (g1 := 0) (g2 := 0) (Option.some.inj hw).symm rfl (by decide) (by decide) (Nat.lt_of_lt_of_le d.code_lt (by decide)) (Nat.lt_of_lt_of_le a.code_lt (by decide)) (by decide) (by decide) (by decide) rfl rfl rfl
  refine ⟨lt, ?_⟩
  rw [decode_35 h0 nz]
  simp [decodeVsf, h1, h2, h3, h4, h5, decV1, zeroField, needField, vcheck]

theorem Encoding.vlog2 (d : VDst) (a : VSrc) : Encoding.Statement (.vlog2 d a) := by
  intro word _ hw
  obtain ⟨lt, nz, h0, h1, h2, h3, h4, h5⟩ := fields25 (o := 53) (g0 := 1) (g1 := 0) (g2 := 0) (Option.some.inj hw).symm rfl (by decide) (by decide) (Nat.lt_of_lt_of_le d.code_lt (by decide)) (Nat.lt_of_lt_of_le a.code_lt (by decide)) (by decide) (by decide) (by decide) rfl rfl rfl
  refine ⟨lt, ?_⟩
  rw [decode_35 h0 nz]
  simp [decodeVsf, h1, h2, h3, h4, h5, decV1, zeroField, needField, vcheck]

theorem Encoding.vrcp (d : VDst) (a : VSrc) : Encoding.Statement (.vrcp d a) := by
  intro word _ hw
  obtain ⟨lt, nz, h0, h1, h2, h3, h4, h5⟩ := fields25 (o := 53) (g0 := 2) (g1 := 0) (g2 := 0) (Option.some.inj hw).symm rfl (by decide) (by decide) (Nat.lt_of_lt_of_le d.code_lt (by decide)) (Nat.lt_of_lt_of_le a.code_lt (by decide)) (by decide) (by decide) (by decide) rfl rfl rfl
  refine ⟨lt, ?_⟩
  rw [decode_35 h0 nz]
  simp [decodeVsf, h1, h2, h3, h4, h5, decV1, zeroField, needField, vcheck]

theorem Encoding.vrsq (d : VDst) (a : VSrc) : Encoding.Statement (.vrsq d a) := by
  intro word _ hw
  obtain ⟨lt, nz, h0, h1, h2, h3, h4, h5⟩ := fields25 (o := 53) (g0 := 3) (g1 := 0) (g2 := 0) (Option.some.inj hw).symm rfl (by decide) (by decide) (Nat.lt_of_lt_of_le d.code_lt (by decide)) (Nat.lt_of_lt_of_le a.code_lt (by decide)) (by decide) (by decide) (by decide) rfl rfl rfl
  refine ⟨lt, ?_⟩
  rw [decode_35 h0 nz]
  simp [decodeVsf, h1, h2, h3, h4, h5, decV1, zeroField, needField, vcheck]

theorem Encoding.vsqrt (d : VDst) (a : VSrc) : Encoding.Statement (.vsqrt d a) := by
  intro word _ hw
  obtain ⟨lt, nz, h0, h1, h2, h3, h4, h5⟩ := fields25 (o := 53) (g0 := 4) (g1 := 0) (g2 := 0) (Option.some.inj hw).symm rfl (by decide) (by decide) (Nat.lt_of_lt_of_le d.code_lt (by decide)) (Nat.lt_of_lt_of_le a.code_lt (by decide)) (by decide) (by decide) (by decide) rfl rfl rfl
  refine ⟨lt, ?_⟩
  rw [decode_35 h0 nz]
  simp [decodeVsf, h1, h2, h3, h4, h5, decV1, zeroField, needField, vcheck]

theorem Encoding.vtanh (d : VDst) (a : VSrc) : Encoding.Statement (.vtanh d a) := by
  intro word _ hw
  obtain ⟨lt, nz, h0, h1, h2, h3, h4, h5⟩ := fields25 (o := 53) (g0 := 5) (g1 := 0) (g2 := 0) (Option.some.inj hw).symm rfl (by decide) (by decide) (Nat.lt_of_lt_of_le d.code_lt (by decide)) (Nat.lt_of_lt_of_le a.code_lt (by decide)) (by decide) (by decide) (by decide) rfl rfl rfl
  refine ⟨lt, ?_⟩
  rw [decode_35 h0 nz]
  simp [decodeVsf, h1, h2, h3, h4, h5, decV1, zeroField, needField, vcheck]

theorem Encoding.vsigm (d : VDst) (a : VSrc) : Encoding.Statement (.vsigm d a) := by
  intro word _ hw
  obtain ⟨lt, nz, h0, h1, h2, h3, h4, h5⟩ := fields25 (o := 53) (g0 := 6) (g1 := 0) (g2 := 0) (Option.some.inj hw).symm rfl (by decide) (by decide) (Nat.lt_of_lt_of_le d.code_lt (by decide)) (Nat.lt_of_lt_of_le a.code_lt (by decide)) (by decide) (by decide) (by decide) rfl rfl rfl
  refine ⟨lt, ?_⟩
  rw [decode_35 h0 nz]
  simp [decodeVsf, h1, h2, h3, h4, h5, decV1, zeroField, needField, vcheck]

theorem Encoding.vrotc (d : VDst) (a : VSrc) (s : XReg) : Encoding.Statement (.vrotc d a s) := by
  intro word _ hw
  obtain ⟨lt, nz, h0, h1, h2, h3, h4, h5⟩ := fields24 (o := 54) (g0 := 0) (g1 := 0) (Option.some.inj hw).symm rfl (by decide) (by decide) (Nat.lt_of_lt_of_le d.code_lt (by decide)) (Nat.lt_of_lt_of_le a.code_lt (by decide)) s.isLt (by decide) (by decide) rfl rfl
  refine ⟨lt, ?_⟩
  rw [decode_36 h0 nz]
  simp [decodeVax, h1, h2, h3, h4, h5, decXs, decV1, decUs, zeroField, needField, vcheck]

theorem Encoding.vrotr (d : VDst) (a : VSrc) (s : XReg) : Encoding.Statement (.vrotr d a s) := by
  intro word _ hw
  obtain ⟨lt, nz, h0, h1, h2, h3, h4, h5⟩ := fields24 (o := 54) (g0 := 1) (g1 := 0) (Option.some.inj hw).symm rfl (by decide) (by decide) (Nat.lt_of_lt_of_le d.code_lt (by decide)) (Nat.lt_of_lt_of_le a.code_lt (by decide)) s.isLt (by decide) (by decide) rfl rfl
  refine ⟨lt, ?_⟩
  rw [decode_36 h0 nz]
  simp [decodeVax, h1, h2, h3, h4, h5, decXs, decV1, decUs, zeroField, needField, vcheck]

theorem Encoding.vbcc (d : VDst) (a : VSrc) (s : XReg) : Encoding.Statement (.vbcc d a s) := by
  intro word _ hw
  obtain ⟨lt, nz, h0, h1, h2, h3, h4, h5⟩ := fields24 (o := 54) (g0 := 2) (g1 := 0) (Option.some.inj hw).symm rfl (by decide) (by decide) (Nat.lt_of_lt_of_le d.code_lt (by decide)) (Nat.lt_of_lt_of_le a.code_lt (by decide)) s.isLt (by decide) (by decide) rfl rfl
  refine ⟨lt, ?_⟩
  rw [decode_36 h0 nz]
  simp [decodeVax, h1, h2, h3, h4, h5, decXs, decV1, decUs, zeroField, needField, vcheck]

theorem Encoding.vbcr (d : VDst) (a : VSrc) (s : XReg) : Encoding.Statement (.vbcr d a s) := by
  intro word _ hw
  obtain ⟨lt, nz, h0, h1, h2, h3, h4, h5⟩ := fields24 (o := 54) (g0 := 3) (g1 := 0) (Option.some.inj hw).symm rfl (by decide) (by decide) (Nat.lt_of_lt_of_le d.code_lt (by decide)) (Nat.lt_of_lt_of_le a.code_lt (by decide)) s.isLt (by decide) (by decide) rfl rfl
  refine ⟨lt, ?_⟩
  rw [decode_36 h0 nz]
  simp [decodeVax, h1, h2, h3, h4, h5, decXs, decV1, decUs, zeroField, needField, vcheck]

theorem Encoding.vredcAdd (d : VDst) (a : VSrc) : Encoding.Statement (.vredcAdd d a) := by
  intro word _ hw
  obtain ⟨lt, nz, h0, h1, h2, h3, h4, h5⟩ := fields25 (o := 54) (g0 := 4) (g1 := 0) (g2 := 0) (Option.some.inj hw).symm rfl (by decide) (by decide) (Nat.lt_of_lt_of_le d.code_lt (by decide)) (Nat.lt_of_lt_of_le a.code_lt (by decide)) (by decide) (by decide) (by decide) rfl rfl rfl
  refine ⟨lt, ?_⟩
  rw [decode_36 h0 nz]
  simp [decodeVax, h1, h2, h3, h4, h5, decXs, decV1, decUs, zeroField, needField, vcheck]

theorem Encoding.vredcMax (d : VDst) (a : VSrc) : Encoding.Statement (.vredcMax d a) := by
  intro word _ hw
  obtain ⟨lt, nz, h0, h1, h2, h3, h4, h5⟩ := fields25 (o := 54) (g0 := 5) (g1 := 0) (g2 := 0) (Option.some.inj hw).symm rfl (by decide) (by decide) (Nat.lt_of_lt_of_le d.code_lt (by decide)) (Nat.lt_of_lt_of_le a.code_lt (by decide)) (by decide) (by decide) (by decide) rfl rfl rfl
  refine ⟨lt, ?_⟩
  rw [decode_36 h0 nz]
  simp [decodeVax, h1, h2, h3, h4, h5, decXs, decV1, decUs, zeroField, needField, vcheck]

theorem Encoding.vredcMin (d : VDst) (a : VSrc) : Encoding.Statement (.vredcMin d a) := by
  intro word _ hw
  obtain ⟨lt, nz, h0, h1, h2, h3, h4, h5⟩ := fields25 (o := 54) (g0 := 6) (g1 := 0) (g2 := 0) (Option.some.inj hw).symm rfl (by decide) (by decide) (Nat.lt_of_lt_of_le d.code_lt (by decide)) (Nat.lt_of_lt_of_le a.code_lt (by decide)) (by decide) (by decide) (by decide) rfl rfl rfl
  refine ⟨lt, ?_⟩
  rw [decode_36 h0 nz]
  simp [decodeVax, h1, h2, h3, h4, h5, decXs, decV1, decUs, zeroField, needField, vcheck]

theorem Encoding.vredrAdd (d : VDst) (a : VSrc) : Encoding.Statement (.vredrAdd d a) := by
  intro word _ hw
  obtain ⟨lt, nz, h0, h1, h2, h3, h4, h5⟩ := fields25 (o := 54) (g0 := 7) (g1 := 0) (g2 := 0) (Option.some.inj hw).symm rfl (by decide) (by decide) (Nat.lt_of_lt_of_le d.code_lt (by decide)) (Nat.lt_of_lt_of_le a.code_lt (by decide)) (by decide) (by decide) (by decide) rfl rfl rfl
  refine ⟨lt, ?_⟩
  rw [decode_36 h0 nz]
  simp [decodeVax, h1, h2, h3, h4, h5, decXs, decV1, decUs, zeroField, needField, vcheck]

theorem Encoding.vredrMax (d : VDst) (a : VSrc) : Encoding.Statement (.vredrMax d a) := by
  intro word _ hw
  obtain ⟨lt, nz, h0, h1, h2, h3, h4, h5⟩ := fields25 (o := 54) (g0 := 8) (g1 := 0) (g2 := 0) (Option.some.inj hw).symm rfl (by decide) (by decide) (Nat.lt_of_lt_of_le d.code_lt (by decide)) (Nat.lt_of_lt_of_le a.code_lt (by decide)) (by decide) (by decide) (by decide) rfl rfl rfl
  refine ⟨lt, ?_⟩
  rw [decode_36 h0 nz]
  simp [decodeVax, h1, h2, h3, h4, h5, decXs, decV1, decUs, zeroField, needField, vcheck]

theorem Encoding.vredrMin (d : VDst) (a : VSrc) : Encoding.Statement (.vredrMin d a) := by
  intro word _ hw
  obtain ⟨lt, nz, h0, h1, h2, h3, h4, h5⟩ := fields25 (o := 54) (g0 := 9) (g1 := 0) (g2 := 0) (Option.some.inj hw).symm rfl (by decide) (by decide) (Nat.lt_of_lt_of_le d.code_lt (by decide)) (Nat.lt_of_lt_of_le a.code_lt (by decide)) (by decide) (by decide) (by decide) rfl rfl rfl
  refine ⟨lt, ?_⟩
  rw [decode_36 h0 nz]
  simp [decodeVax, h1, h2, h3, h4, h5, decXs, decV1, decUs, zeroField, needField, vcheck]

theorem Encoding.vtrn (d : VDst) (a : VSrc) : Encoding.Statement (.vtrn d a) := by
  intro word _ hw
  obtain ⟨lt, nz, h0, h1, h2, h3, h4, h5⟩ := fields25 (o := 54) (g0 := 10) (g1 := 0) (g2 := 0) (Option.some.inj hw).symm rfl (by decide) (by decide) (Nat.lt_of_lt_of_le d.code_lt (by decide)) (Nat.lt_of_lt_of_le a.code_lt (by decide)) (by decide) (by decide) (by decide) rfl rfl rfl
  refine ⟨lt, ?_⟩
  rw [decode_36 h0 nz]
  simp [decodeVax, h1, h2, h3, h4, h5, decXs, decV1, decUs, zeroField, needField, vcheck]

theorem Encoding.viota (d : VDst) (u : Fin 32) (s : XReg) : Encoding.Statement (.viota d u s) := by
  intro word _ hw
  obtain ⟨lt, nz, h0, h1, h2, h3, h4, h5⟩ := fields24 (o := 54) (g0 := 11) (g1 := 0) (Option.some.inj hw).symm rfl (by decide) (by decide) (Nat.lt_of_lt_of_le d.code_lt (by decide)) u.isLt s.isLt (by decide) (by decide) rfl rfl
  refine ⟨lt, ?_⟩
  rw [decode_36 h0 nz]
  simp [decodeVax, h1, h2, h3, h4, h5, decXs, decV1, decUs, zeroField, needField, vcheck]

theorem Encoding.vdot4 (d : VDst) (a b c : VSrc) (g h t : Bool) : Encoding.Statement (.vdot4 d a b c g h t) := by
  intro word _ hw
  obtain ⟨lt, nz, h0, h1, h2, h3, h4, h5, h6, h7, h8, h9⟩ := fields30 (o := 55) (g0 := 0) (g1 := 0) (Option.some.inj hw).symm rfl (by decide) (by decide) (Nat.lt_of_lt_of_le d.code_lt (by decide)) (Nat.lt_of_lt_of_le a.code_lt (by decide)) (Nat.lt_of_lt_of_le b.code_lt (by decide)) (Nat.lt_of_lt_of_le c.code_lt (by decide)) g.toNat_lt h.toNat_lt t.toNat_lt (by decide) (by decide) rfl rfl
  refine ⟨lt, ?_⟩
  rw [decode_37 h0 nz]
  simp [decodeVdt, h1, h2, h3, h4, h5, h6, h7, h8, h9, decV3, zeroField, needField, vcheck]

theorem Encoding.vcmp48 (d : VDst) (a : VSrc) (b : Fin 16) (g h t : Bool) : Encoding.Statement (.vcmp48 d a b g h t) := by
  intro word _ hw
  obtain ⟨lt, nz, h0, h1, h2, h3, h4, h5, h6, h7, h8, h9⟩ := fields31 (o := 55) (g0 := 1) (g1 := 0) (g2 := 0) (g3 := 0) (Option.some.inj hw).symm rfl (by decide) (by decide) (Nat.lt_of_lt_of_le d.code_lt (by decide)) (Nat.lt_of_lt_of_le a.code_lt (by decide)) b.isLt g.toNat_lt h.toNat_lt t.toNat_lt (by decide) (by decide) (by decide) (by decide) rfl rfl rfl
  refine ⟨lt, ?_⟩
  rw [decode_37 h0 nz]
  have p : ¬ 28 ≤ b.val ∧ ¬ 24 ≤ b.val ∧ ¬ 16 ≤ b.val := by omega
  simp [p, decodeVdt, h1, h2, h3, h4, h5, h6, h7, h8, h9, decV3, zeroField, needField, vcheck]

theorem Encoding.vsmv (d : VDst) (a b c : VSrc) (g h t : Bool) : Encoding.Statement (.vsmv d a b c g h t) := by
  intro word _ hw
  obtain ⟨lt, nz, h0, h1, h2, h3, h4, h5, h6, h7, h8, h9⟩ := fields30 (o := 55) (g0 := 2) (g1 := 0) (Option.some.inj hw).symm rfl (by decide) (by decide) (Nat.lt_of_lt_of_le d.code_lt (by decide)) (Nat.lt_of_lt_of_le a.code_lt (by decide)) (Nat.lt_of_lt_of_le b.code_lt (by decide)) (Nat.lt_of_lt_of_le c.code_lt (by decide)) g.toNat_lt h.toNat_lt t.toNat_lt (by decide) (by decide) rfl rfl
  refine ⟨lt, ?_⟩
  rw [decode_37 h0 nz]
  simp [decodeVdt, h1, h2, h3, h4, h5, h6, h7, h8, h9, decV3, zeroField, needField, vcheck]

theorem Encoding.vsplat (d : VDst) (u : Fin 32) (s : XReg) : Encoding.Statement (.vsplat d u s) := by
  intro word _ hw
  obtain ⟨lt, nz, h0, h1, h2, h3, h4, h5⟩ := fields24 (o := 56) (g0 := 0) (g1 := 0) (Option.some.inj hw).symm rfl (by decide) (by decide) (Nat.lt_of_lt_of_le d.code_lt (by decide)) u.isLt s.isLt (by decide) (by decide) rfl rfl
  refine ⟨lt, ?_⟩
  rw [decode_38 h0 nz]
  simp [decodeVxs, h1, h2, h3, h4, h5, decUs, decUst, decXs, decXst, zeroField, needField, vcheck]

theorem Encoding.vins (d : VDst) (u : Fin 32) (s t : XReg) : Encoding.Statement (.vins d u s t) := by
  intro word _ hw
  obtain ⟨lt, nz, h0, h1, h2, h3, h4, h5⟩ := fields26 (o := 56) (g0 := 1) (Option.some.inj hw).symm rfl (by decide) (by decide) (Nat.lt_of_lt_of_le d.code_lt (by decide)) u.isLt s.isLt t.isLt (by decide) rfl
  refine ⟨lt, ?_⟩
  rw [decode_38 h0 nz]
  simp [decodeVxs, h1, h2, h3, h4, h5, decUs, decUst, decXs, decXst, zeroField, needField, vcheck]

theorem Encoding.vext (d : XReg) (a : VSrc) (t : XReg) : Encoding.Statement (.vext d a t) := by
  intro word _ hw
  obtain ⟨lt, nz, h0, h1, h2, h3, h4, h5⟩ := fields32 (o := 56) (g0 := 2) (g1 := 0) (Option.some.inj hw).symm rfl (by decide) (by decide) d.isLt (Nat.lt_of_lt_of_le a.code_lt (by decide)) t.isLt (by decide) (by decide) rfl rfl
  refine ⟨lt, ?_⟩
  rw [decode_38 h0 nz]
  simp [decodeVxs, h1, h2, h3, h4, h5, decUs, decUst, decXs, decXst, zeroField, needField, vcheck]

theorem Encoding.vqnt (d : VDst) (a : VSrc) (s t : XReg) : Encoding.Statement (.vqnt d a s t) := by
  intro word _ hw
  obtain ⟨lt, nz, h0, h1, h2, h3, h4, h5⟩ := fields26 (o := 56) (g0 := 3) (Option.some.inj hw).symm rfl (by decide) (by decide) (Nat.lt_of_lt_of_le d.code_lt (by decide)) (Nat.lt_of_lt_of_le a.code_lt (by decide)) s.isLt t.isLt (by decide) rfl
  refine ⟨lt, ?_⟩
  rw [decode_38 h0 nz]
  simp [decodeVxs, h1, h2, h3, h4, h5, decUs, decUst, decXs, decXst, zeroField, needField, vcheck]

theorem Encoding.vdq (d : VDst) (a : VSrc) (s t : XReg) : Encoding.Statement (.vdq d a s t) := by
  intro word _ hw
  obtain ⟨lt, nz, h0, h1, h2, h3, h4, h5⟩ := fields26 (o := 56) (g0 := 4) (Option.some.inj hw).symm rfl (by decide) (by decide) (Nat.lt_of_lt_of_le d.code_lt (by decide)) (Nat.lt_of_lt_of_le a.code_lt (by decide)) s.isLt t.isLt (by decide) rfl
  refine ⟨lt, ?_⟩
  rw [decode_38 h0 nz]
  simp [decodeVxs, h1, h2, h3, h4, h5, decUs, decUst, decXs, decXst, zeroField, needField, vcheck]

theorem Encoding.vaddx (d : VDst) (a : VSrc) (s : XReg) : Encoding.Statement (.vaddx d a s) := by
  intro word _ hw
  obtain ⟨lt, nz, h0, h1, h2, h3, h4, h5⟩ := fields24 (o := 56) (g0 := 5) (g1 := 0) (Option.some.inj hw).symm rfl (by decide) (by decide) (Nat.lt_of_lt_of_le d.code_lt (by decide)) (Nat.lt_of_lt_of_le a.code_lt (by decide)) s.isLt (by decide) (by decide) rfl rfl
  refine ⟨lt, ?_⟩
  rw [decode_38 h0 nz]
  simp [decodeVxs, h1, h2, h3, h4, h5, decUs, decUst, decXs, decXst, zeroField, needField, vcheck]

theorem Encoding.vsubx (d : VDst) (a : VSrc) (s : XReg) : Encoding.Statement (.vsubx d a s) := by
  intro word _ hw
  obtain ⟨lt, nz, h0, h1, h2, h3, h4, h5⟩ := fields24 (o := 56) (g0 := 6) (g1 := 0) (Option.some.inj hw).symm rfl (by decide) (by decide) (Nat.lt_of_lt_of_le d.code_lt (by decide)) (Nat.lt_of_lt_of_le a.code_lt (by decide)) s.isLt (by decide) (by decide) rfl rfl
  refine ⟨lt, ?_⟩
  rw [decode_38 h0 nz]
  simp [decodeVxs, h1, h2, h3, h4, h5, decUs, decUst, decXs, decXst, zeroField, needField, vcheck]

theorem Encoding.vmulx (d : VDst) (a : VSrc) (s : XReg) : Encoding.Statement (.vmulx d a s) := by
  intro word _ hw
  obtain ⟨lt, nz, h0, h1, h2, h3, h4, h5⟩ := fields24 (o := 56) (g0 := 7) (g1 := 0) (Option.some.inj hw).symm rfl (by decide) (by decide) (Nat.lt_of_lt_of_le d.code_lt (by decide)) (Nat.lt_of_lt_of_le a.code_lt (by decide)) s.isLt (by decide) (by decide) rfl rfl
  refine ⟨lt, ?_⟩
  rw [decode_38 h0 nz]
  simp [decodeVxs, h1, h2, h3, h4, h5, decUs, decUst, decXs, decXst, zeroField, needField, vcheck]

theorem Encoding.vmaxx (d : VDst) (a : VSrc) (s : XReg) : Encoding.Statement (.vmaxx d a s) := by
  intro word _ hw
  obtain ⟨lt, nz, h0, h1, h2, h3, h4, h5⟩ := fields24 (o := 56) (g0 := 8) (g1 := 0) (Option.some.inj hw).symm rfl (by decide) (by decide) (Nat.lt_of_lt_of_le d.code_lt (by decide)) (Nat.lt_of_lt_of_le a.code_lt (by decide)) s.isLt (by decide) (by decide) rfl rfl
  refine ⟨lt, ?_⟩
  rw [decode_38 h0 nz]
  simp [decodeVxs, h1, h2, h3, h4, h5, decUs, decUst, decXs, decXst, zeroField, needField, vcheck]

theorem Encoding.vminx (d : VDst) (a : VSrc) (s : XReg) : Encoding.Statement (.vminx d a s) := by
  intro word _ hw
  obtain ⟨lt, nz, h0, h1, h2, h3, h4, h5⟩ := fields24 (o := 56) (g0 := 9) (g1 := 0) (Option.some.inj hw).symm rfl (by decide) (by decide) (Nat.lt_of_lt_of_le d.code_lt (by decide)) (Nat.lt_of_lt_of_le a.code_lt (by decide)) s.isLt (by decide) (by decide) rfl rfl
  refine ⟨lt, ?_⟩
  rw [decode_38 h0 nz]
  simp [decodeVxs, h1, h2, h3, h4, h5, decUs, decUst, decXs, decXst, zeroField, needField, vcheck]

theorem Encoding.vshlx (d : VDst) (a : VSrc) (s : XReg) : Encoding.Statement (.vshlx d a s) := by
  intro word _ hw
  obtain ⟨lt, nz, h0, h1, h2, h3, h4, h5⟩ := fields24 (o := 56) (g0 := 10) (g1 := 0) (Option.some.inj hw).symm rfl (by decide) (by decide) (Nat.lt_of_lt_of_le d.code_lt (by decide)) (Nat.lt_of_lt_of_le a.code_lt (by decide)) s.isLt (by decide) (by decide) rfl rfl
  refine ⟨lt, ?_⟩
  rw [decode_38 h0 nz]
  simp [decodeVxs, h1, h2, h3, h4, h5, decUs, decUst, decXs, decXst, zeroField, needField, vcheck]

theorem Encoding.vshrx (d : VDst) (a : VSrc) (s : XReg) : Encoding.Statement (.vshrx d a s) := by
  intro word _ hw
  obtain ⟨lt, nz, h0, h1, h2, h3, h4, h5⟩ := fields24 (o := 56) (g0 := 11) (g1 := 0) (Option.some.inj hw).symm rfl (by decide) (by decide) (Nat.lt_of_lt_of_le d.code_lt (by decide)) (Nat.lt_of_lt_of_le a.code_lt (by decide)) s.isLt (by decide) (by decide) rfl rfl
  refine ⟨lt, ?_⟩
  rw [decode_38 h0 nz]
  simp [decodeVxs, h1, h2, h3, h4, h5, decUs, decUst, decXs, decXst, zeroField, needField, vcheck]

theorem Encoding.vsrax (d : VDst) (a : VSrc) (s : XReg) : Encoding.Statement (.vsrax d a s) := by
  intro word _ hw
  obtain ⟨lt, nz, h0, h1, h2, h3, h4, h5⟩ := fields24 (o := 56) (g0 := 12) (g1 := 0) (Option.some.inj hw).symm rfl (by decide) (by decide) (Nat.lt_of_lt_of_le d.code_lt (by decide)) (Nat.lt_of_lt_of_le a.code_lt (by decide)) s.isLt (by decide) (by decide) rfl rfl
  refine ⟨lt, ?_⟩
  rw [decode_38 h0 nz]
  simp [decodeVxs, h1, h2, h3, h4, h5, decUs, decUst, decXs, decXst, zeroField, needField, vcheck]

theorem Encoding.vpeek (d : VDst) (a : Fin 8) : Encoding.Statement (.vpeek d a) := by
  intro word _ hw
  obtain ⟨lt, nz, h0, h1, h2, h3, h4, h5⟩ := fields25 (o := 56) (g0 := 13) (g1 := 0) (g2 := 0) (Option.some.inj hw).symm rfl (by decide) (by decide) (Nat.lt_of_lt_of_le d.code_lt (by decide)) (Nat.lt_of_lt_of_le (Nat.add_lt_add_right a.isLt 16) (by decide)) (by decide) (by decide) (by decide) rfl rfl rfl
  refine ⟨lt, ?_⟩
  rw [decode_38 h0 nz]
  have p : ¬ 12 ≤ a.val ∧ a.val + 16 < 24 := by omega
  simp [p, decodeVxs, h1, h2, h3, h4, h5, decUs, decUst, decXs, decXst, zeroField, needField, vcheck]

theorem Encoding.vld (q : Fin 8) (b s : XReg) (m : Fmt) : Encoding.Statement (.vld q b s m) := by
  intro word _ hw
  obtain ⟨lt, nz, h0, h1, h2, h3, h4, h5⟩ := fields33 (o := 57) (g0 := 0) (Option.some.inj hw).symm rfl (by decide) (by decide) (Nat.lt_of_lt_of_le (Nat.add_lt_add_right q.isLt 16) (by decide)) b.isLt s.isLt (Nat.lt_of_lt_of_le m.code_lt (by decide)) (by decide) rfl
  refine ⟨lt, ?_⟩
  rw [decode_39 h0 nz]
  have p : ¬ 12 ≤ q.val ∧ ¬ q.val + 16 < 16 ∧ ¬ 8 ≤ q.val := by omega
  simp [p, decodeVmem, h1, h2, h3, h4, h5, zeroField, needField]

theorem Encoding.vst (q : Fin 8) (b s : XReg) (m : Fmt) : Encoding.Statement (.vst q b s m) := by
  intro word _ hw
  obtain ⟨lt, nz, h0, h1, h2, h3, h4, h5⟩ := fields33 (o := 57) (g0 := 1) (Option.some.inj hw).symm rfl (by decide) (by decide) (Nat.lt_of_lt_of_le (Nat.add_lt_add_right q.isLt 16) (by decide)) b.isLt s.isLt (Nat.lt_of_lt_of_le m.code_lt (by decide)) (by decide) rfl
  refine ⟨lt, ?_⟩
  rw [decode_39 h0 nz]
  have p : ¬ 12 ≤ q.val ∧ ¬ q.val + 16 < 16 ∧ ¬ 8 ≤ q.val := by omega
  simp [p, decodeVmem, h1, h2, h3, h4, h5, zeroField, needField]

theorem Encoding.vldo (q : Fin 8) (b s : XReg) (m : Fmt) : Encoding.Statement (.vldo q b s m) := by
  intro word _ hw
  obtain ⟨lt, nz, h0, h1, h2, h3, h4, h5⟩ := fields33 (o := 57) (g0 := 2) (Option.some.inj hw).symm rfl (by decide) (by decide) (Nat.lt_of_lt_of_le (Nat.add_lt_add_right q.isLt 16) (by decide)) b.isLt s.isLt (Nat.lt_of_lt_of_le m.code_lt (by decide)) (by decide) rfl
  refine ⟨lt, ?_⟩
  rw [decode_39 h0 nz]
  have p : ¬ 12 ≤ q.val ∧ ¬ q.val + 16 < 16 ∧ ¬ 8 ≤ q.val := by omega
  simp [p, decodeVmem, h1, h2, h3, h4, h5, zeroField, needField]

theorem Encoding.vsto (q : Fin 8) (b s : XReg) (m : Fmt) : Encoding.Statement (.vsto q b s m) := by
  intro word _ hw
  obtain ⟨lt, nz, h0, h1, h2, h3, h4, h5⟩ := fields33 (o := 57) (g0 := 3) (Option.some.inj hw).symm rfl (by decide) (by decide) (Nat.lt_of_lt_of_le (Nat.add_lt_add_right q.isLt 16) (by decide)) b.isLt s.isLt (Nat.lt_of_lt_of_le m.code_lt (by decide)) (by decide) rfl
  refine ⟨lt, ?_⟩
  rw [decode_39 h0 nz]
  have p : ¬ 12 ≤ q.val ∧ ¬ q.val + 16 < 16 ∧ ¬ 8 ≤ q.val := by omega
  simp [p, decodeVmem, h1, h2, h3, h4, h5, zeroField, needField]

theorem Encoding.vldb (q : Fin 8) (b : XReg) (m : Fmt) : Encoding.Statement (.vldb q b m) := by
  intro word _ hw
  obtain ⟨lt, nz, h0, h1, h2, h3, h4, h5⟩ := fields34 (o := 57) (g0 := 4) (g1 := 0) (Option.some.inj hw).symm rfl (by decide) (by decide) (Nat.lt_of_lt_of_le (Nat.add_lt_add_right q.isLt 16) (by decide)) b.isLt (Nat.lt_of_lt_of_le m.code_lt (by decide)) (by decide) (by decide) rfl rfl
  refine ⟨lt, ?_⟩
  rw [decode_39 h0 nz]
  have p : ¬ 12 ≤ q.val ∧ ¬ q.val + 16 < 16 ∧ ¬ 8 ≤ q.val := by omega
  simp [p, decodeVmem, h1, h2, h3, h4, h5, zeroField, needField]

theorem Encoding.vrngb (d : VDst) (u : Fin 32) (s t : XReg) : Encoding.Statement (.vrngb d u s t) := by
  intro word _ hw
  obtain ⟨lt, nz, h0, h1, h2, h3, h4, h5⟩ := fields26 (o := 58) (g0 := 0) (Option.some.inj hw).symm rfl (by decide) (by decide) (Nat.lt_of_lt_of_le d.code_lt (by decide)) u.isLt s.isLt t.isLt (by decide) rfl
  refine ⟨lt, ?_⟩
  rw [decode_3A h0 nz]
  simp [decodeVrng, h1, h2, h3, h4, h5, decUst, zeroField, needField, vcheck]

theorem Encoding.vrngu (d : VDst) (u : Fin 32) (s t : XReg) : Encoding.Statement (.vrngu d u s t) := by
  intro word _ hw
  obtain ⟨lt, nz, h0, h1, h2, h3, h4, h5⟩ := fields26 (o := 58) (g0 := 1) (Option.some.inj hw).symm rfl (by decide) (by decide) (Nat.lt_of_lt_of_le d.code_lt (by decide)) u.isLt s.isLt t.isLt (by decide) rfl
  refine ⟨lt, ?_⟩
  rw [decode_3A h0 nz]
  simp [decodeVrng, h1, h2, h3, h4, h5, decUst, zeroField, needField, vcheck]

theorem Encoding.mma : Encoding.Statement (.mma) := fun _ _ h => nomatch h

theorem Encoding.dist : Encoding.Statement (.dist) := fun _ _ h => nomatch h

theorem Encoding.topk : Encoding.Statement (.topk) := fun _ _ h => nomatch h

theorem Encoding.drain : Encoding.Statement (.drain) := fun _ _ h => nomatch h

theorem Encoding.loadacc : Encoding.Statement (.loadacc) := fun _ _ h => nomatch h

theorem Encoding.stampOverrun (engine : Fin 5) : Encoding.Statement (.stampOverrun engine) := fun _ _ h => nomatch h

theorem Encoding.copyCmd (ch : Fin 4) : Encoding.Statement (.copyCmd ch) := fun _ _ h => nomatch h

theorem Encoding.fillCmd (ch : Fin 4) : Encoding.Statement (.fillCmd ch) := fun _ _ h => nomatch h

theorem Encoding.gatherCmd (ch : Fin 4) : Encoding.Statement (.gatherCmd ch) := fun _ _ h => nomatch h

theorem Encoding.scatterCmd (ch : Fin 4) : Encoding.Statement (.scatterCmd ch) := fun _ _ h => nomatch h

theorem Encoding.packoCmd (ch : Fin 4) : Encoding.Statement (.packoCmd ch) := fun _ _ h => nomatch h

theorem Encoding.unpackoCmd (ch : Fin 4) : Encoding.Statement (.unpackoCmd ch) := fun _ _ h => nomatch h

theorem Encoding.allreduce (group : BitVec 32) (peers : List PeerCmd) : Encoding.Statement (.allreduce group peers) := fun _ _ h => nomatch h

theorem Encoding.reducescatter (group : BitVec 32) (peers : List PeerCmd) : Encoding.Statement (.reducescatter group peers) := fun _ _ h => nomatch h

theorem Encoding.allgather (group : BitVec 32) (peers : List PeerCmd) : Encoding.Statement (.allgather group peers) := fun _ _ h => nomatch h

theorem Encoding.broadcast (group : BitVec 32) (peers : List PeerCmd) : Encoding.Statement (.broadcast group peers) := fun _ _ h => nomatch h

theorem Encoding.sendCmd (group : BitVec 32) (peers : List PeerCmd) : Encoding.Statement (.sendCmd group peers) := fun _ _ h => nomatch h

theorem Encoding.recvCmd (group : BitVec 32) (peers : List PeerCmd) : Encoding.Statement (.recvCmd group peers) := fun _ _ h => nomatch h

theorem Encoding.collectiveTimeout (group : BitVec 32) : Encoding.Statement (.collectiveTimeout group) := fun _ _ h => nomatch h

theorem Encoding.chunkAttempt (q : Fin 8) : Encoding.Statement (.chunkAttempt q) := fun _ _ h => nomatch h

theorem Encoding.launchPacket (ctx : Fin 64) : Encoding.Statement (.launchPacket ctx) := fun _ _ h => nomatch h

theorem Encoding.pop : Encoding.Statement (.pop) := fun _ _ h => nomatch h

theorem Encoding.launchComplete (id : BitVec 12) : Encoding.Statement (.launchComplete id) := fun _ _ h => nomatch h

theorem Encoding.watchdog : Encoding.Statement (.watchdog) := fun _ _ h => nomatch h

theorem Encoding.trap : Encoding.Statement (.trap) := fun _ _ h => nomatch h

theorem Encoding.dieIsolation (die : Fin 16) : Encoding.Statement (.dieIsolation die) := fun _ _ h => nomatch h

theorem Encoding.dataFrame (port : Fin 32) (frame : Frame) : Encoding.Statement (.dataFrame port frame) := fun _ _ h => nomatch h

theorem Encoding.ackFrame (port : Fin 32) (frame : Frame) : Encoding.Statement (.ackFrame port frame) := fun _ _ h => nomatch h

theorem Encoding.nackFrame (port : Fin 32) (frame : Frame) : Encoding.Statement (.nackFrame port frame) := fun _ _ h => nomatch h

theorem Encoding.rekeyFrame (port : Fin 32) (frame : Frame) : Encoding.Statement (.rekeyFrame port frame) := fun _ _ h => nomatch h

theorem Encoding.idleFrame (port : Fin 32) (frame : Frame) : Encoding.Statement (.idleFrame port frame) := fun _ _ h => nomatch h

theorem Encoding.keyRenewal (port : Fin 32) : Encoding.Statement (.keyRenewal port) := fun _ _ h => nomatch h

theorem Encoding.portBringUp (port : Fin 32) (peer : Nat) (digest : BitVec 64) : Encoding.Statement (.portBringUp port peer digest) := fun _ _ h => nomatch h

theorem Encoding.bar2Read (part : Fin 16) (offset len : Nat) : Encoding.Statement (.bar2Read part offset len) := fun _ _ h => nomatch h

theorem Encoding.bar2Write (part : Fin 16) (offset : Nat) (bytes : List (BitVec 8)) : Encoding.Statement (.bar2Write part offset bytes) := fun _ _ h => nomatch h

theorem Encoding.atomicop (part : Fin 16) (offset : Nat) (op : AtomicKind) (wide : Bool) (value compare : BitVec 64) : Encoding.Statement (.atomicop part offset op wide value compare) := fun _ _ h => nomatch h

theorem Encoding.flr (part : Fin 16) : Encoding.Statement (.flr part) := fun _ _ h => nomatch h

theorem Encoding.reset (boot : Boot) : Encoding.Statement (.reset boot) := fun _ _ h => nomatch h

theorem Encoding.ptpLock (time : BitVec 64) : Encoding.Statement (.ptpLock time) := fun _ _ h => nomatch h

theorem Encoding.tailWrite (ctx : Fin 64) (value : BitVec 32) : Encoding.Statement (.tailWrite ctx value) := fun _ _ h => nomatch h

theorem Encoding.rcfgWrite (ctx : Fin 64) (value : BitVec 64) : Encoding.Statement (.rcfgWrite ctx value) := fun _ _ h => nomatch h

theorem Encoding.evcfgWrite (part : Fin 16) (value : BitVec 64) : Encoding.Statement (.evcfgWrite part value) := fun _ _ h => nomatch h

theorem Encoding.registerWrite (target : RegTarget) (value : BitVec 64) : Encoding.Statement (.registerWrite target value) := fun _ _ h => nomatch h

theorem Encoding.fctlWrite (value : BitVec 64) : Encoding.Statement (.fctlWrite value) := fun _ _ h => nomatch h

theorem Encoding.slipWrite (value : BitVec 64) : Encoding.Statement (.slipWrite value) := fun _ _ h => nomatch h

theorem Encoding.lcfgWrite (value : BitVec 64) : Encoding.Statement (.lcfgWrite value) := fun _ _ h => nomatch h

theorem Encoding.statusWrite (value : BitVec 64) : Encoding.Statement (.statusWrite value) := fun _ _ h => nomatch h

theorem Encoding.loopRegisterWrite (which : Fin 6) (value : BitVec 64) : Encoding.Statement (.loopRegisterWrite which value) := fun _ _ h => nomatch h

theorem Encoding.xsetWrite (value : BitVec 64) : Encoding.Statement (.xsetWrite value) := fun _ _ h => nomatch h

theorem Encoding.dseedWrite (value : BitVec 64) : Encoding.Statement (.dseedWrite value) := fun _ _ h => nomatch h

theorem Encoding.lsubWrite (value : BitVec 64) : Encoding.Statement (.lsubWrite value) := fun _ _ h => nomatch h

theorem Encoding.lendWrite (value : BitVec 64) : Encoding.Statement (.lendWrite value) := fun _ _ h => nomatch h

theorem Encoding.attreqWrite (value : BitVec 64) : Encoding.Statement (.attreqWrite value) := fun _ _ h => nomatch h

theorem Encoding.fwgrantWrite (value : BitVec 64) : Encoding.Statement (.fwgrantWrite value) := fun _ _ h => nomatch h

theorem Encoding.preempt (part : Fin 16) (launch : Option (BitVec 12)) : Encoding.Statement (.preempt part launch) := fun _ _ h => nomatch h

theorem Encoding.cellar (part : Fin 16) (block : BitVec 64) : Encoding.Statement (.cellar part block) := fun _ _ h => nomatch h

theorem Encoding.cellarDrainEnd (part : Fin 16) : Encoding.Statement (.cellarDrainEnd part) := fun _ _ h => nomatch h

theorem Encoding.targetUnreachable (part : Fin 16) : Encoding.Statement (.targetUnreachable part) := fun _ _ h => nomatch h

theorem Encoding.power (target : PowerState) : Encoding.Statement (.power target) := fun _ _ h => nomatch h

theorem Encoding.partition (cfgs : List PartCfg) : Encoding.Statement (.partition cfgs) := fun _ _ h => nomatch h

theorem Encoding.cap (amps : Nat) : Encoding.Statement (.cap amps) := fun _ _ h => nomatch h

theorem Encoding.attest (part : Fin 16) (block : BitVec 64) : Encoding.Statement (.attest part block) := fun _ _ h => nomatch h

theorem Encoding.xunload (slot : Fin 4) : Encoding.Statement (.xunload slot) := fun _ _ h => nomatch h

theorem Encoding.currentSample (amps : Nat) : Encoding.Statement (.currentSample amps) := fun _ _ h => nomatch h

theorem Encoding.lifecycleAdvance (target : Lifecycle) : Encoding.Statement (.lifecycleAdvance target) := fun _ _ h => nomatch h

theorem Encoding.debugToken (token : DebugToken) : Encoding.Statement (.debugToken token) := fun _ _ h => nomatch h

theorem Encoding.grandmasterLost : Encoding.Statement (.grandmasterLost) := fun _ _ h => nomatch h

theorem Encoding.lossOfPower : Encoding.Statement (.lossOfPower) := fun _ _ h => nomatch h

theorem Encoding.expansionSetLoad (slot : Fin 4) (set : XSet) (signed : Bool) : Encoding.Statement (.expansionSetLoad slot set signed) := fun _ _ h => nomatch h

theorem Encoding.uncorrectableError (site : ErrorSite) : Encoding.Statement (.uncorrectableError site) := fun _ _ h => nomatch h

theorem Encoding.croftDatapathCheck (queue : Option (Fin 8)) : Encoding.Statement (.croftDatapathCheck queue) := fun _ _ h => nomatch h

theorem Encoding.debugLevelChange (part : Fin 16) (level : DebugLevel) : Encoding.Statement (.debugLevelChange part level) := fun _ _ h => nomatch h

end Sys2Proof.Laws
end

