-- ==== Sys2Proof/Laws/Ve.lean ====
section
/-! SUPPORT. What the lane-wise operations of the VE give, lane by lane: the lemmas to cite instead of unfolding them. -/

namespace Sys2Proof.Machine

/-- ORing flags over a list in which every entry sets none. -/
theorem foldl_flags_zero (l : List (Nat × Flags)) (h : ∀ p ∈ l, p.2 = 0) (a : Flags) : l.foldl (fun a p => a ||| p.2) a = a := by
  induction l generalizing a with
  | nil => rfl
  | cons p l ih =>
    rw [List.foldl_cons, h p (by simp), show a ||| (0 : Flags) = a from BitVec.or_zero]
    exact ih (fun q hq => h q (by simp [hq])) a

/-- `each` always succeeds; an active lane holds the low 32 bits of its result, any other 0 (R141, R142). -/
theorem VeCtx.each_lanes (c : VeCtx) (f : Nat → Nat × Flags) :
    ∃ o, c.each f = .ok o ∧ o.second = none ∧ o.x = none
      ∧ (∀ k, ∀ h : k < 1024, o.tile[k] = if activeIn c.e.sh k then BitVec.ofNat 32 (f k).1 else 0)
      ∧ ((∀ k, k < 1024 → activeIn c.e.sh k = true → (f k).2 = 0) → o.flags = 0) := by
  unfold VeCtx.each
  generalize hw : (Vector.ofFn fun k : Fin 1024 => if activeIn c.e.sh k.val then f k.val else (0, 0)) = w
  have at_ : ∀ k, ∀ h : k < 1024, w[k] = if activeIn c.e.sh k then f k else (0, 0) := by
    intro k h
    rw [← hw, Vector.getElem_ofFn]
  refine ⟨VeOut.of (w.map fun p => BitVec.ofNat 32 p.1) (w.toList.foldl (fun a p => a ||| p.2) 0), rfl, rfl, rfl,
    fun k h => ?_, fun hf => ?_⟩
  · rw [VeOut.of, Vector.getElem_map, at_ k h]
    split <;> rfl
  · rw [VeOut.of]
    refine foldl_flags_zero _ (fun p hp => ?_) _
    obtain ⟨n, hn, rfl⟩ := List.getElem_of_mem hp
    have hn' : n < 1024 := by simpa using hn
    rw [Vector.getElem_toList, at_ n hn']
    split
    · exact hf n hn' ‹_›
    · rfl

/-- The lanes of an element-wise instruction of one source. -/
theorem VeCtx.map1_lanes (c : VeCtx) (f : Nat → Nat → Nat × Flags) (a : VSrc) :
    ∃ o, c.map1 f a = .ok o ∧ o.second = none ∧ o.x = none
      ∧ (∀ k, ∀ h : k < 1024, o.tile[k] = if activeIn c.e.sh k then BitVec.ofNat 32 (f k (c.elem c.fmt a k)).1 else 0)
      ∧ ((∀ k, k < 1024 → activeIn c.e.sh k = true → (f k (c.elem c.fmt a k)).2 = 0) → o.flags = 0) := by
  unfold VeCtx.map1
  exact c.each_lanes _

/-- The lanes of an element-wise instruction of two sources. -/
theorem VeCtx.map2_lanes (c : VeCtx) (f : Nat → Nat → Nat → Nat × Flags) (a b : VSrc) :
    ∃ o, c.map2 f a b = .ok o ∧ o.second = none ∧ o.x = none
      ∧ (∀ k, ∀ h : k < 1024, o.tile[k] =
          if activeIn c.e.sh k then BitVec.ofNat 32 (f k (c.elem c.fmt a k) (c.elem c.fmt b k)).1 else 0)
      ∧ ((∀ k, k < 1024 → activeIn c.e.sh k = true → (f k (c.elem c.fmt a k) (c.elem c.fmt b k)).2 = 0) → o.flags = 0) := by
  unfold VeCtx.map2
  exact c.each_lanes _

/-- The lanes of an element-wise instruction of three sources. -/
theorem VeCtx.map3_lanes (c : VeCtx) (f : Nat → Nat → Nat → Nat → Nat × Flags) (a b d : VSrc) :
    ∃ o, c.map3 f a b d = .ok o ∧ o.second = none ∧ o.x = none
      ∧ (∀ k, ∀ h : k < 1024, o.tile[k] = if activeIn c.e.sh k then
          BitVec.ofNat 32 (f k (c.elem c.fmt a k) (c.elem c.fmt b k) (c.elem c.fmt d k)).1 else 0)
      ∧ ((∀ k, k < 1024 → activeIn c.e.sh k = true →
          (f k (c.elem c.fmt a k) (c.elem c.fmt b k) (c.elem c.fmt d k)).2 = 0) → o.flags = 0) := by
  unfold VeCtx.map3
  exact c.each_lanes _

/-- An active element of a source: the low bits of its lane. -/
theorem VeCtx.elem_active (c : VeCtx) (f : Fmt) (a : VSrc) {k : Nat} (h : activeIn c.e.sh k = true) :
    c.elem f a k = laneAt (c.src a) k % 2 ^ f.width := by
  simp only [VeCtx.elem, h, if_true]

end Sys2Proof.Machine
end

