-- ==== Sys2Proof/Laws/Wf.lean ====
section
/-! SUPPORT. The shared operations keep the canonical form of every memory of a state. -/

namespace Sys2Proof.Machine

/-- The canonical form, part by part. -/
theorem State.wf_iff {s : State} : s.wf = true ↔
    s.mem.wf = true ∧ s.host.wf = true ∧ s.peer.wf = true ∧ s.task.loft.wf = true
      ∧ (∀ t ∈ s.keptTasks, t.loft.wf = true) ∧ (∀ w ∈ s.worlds, w.bytes.wf = true)
      ∧ ∀ p ∈ s.parts.toList, ∀ c, p.cellar = some c → c.snapshot.wf = true := by
  unfold State.wf
  simp only [Bool.and_eq_true, List.all_eq_true, and_assoc]
  refine and_congr_right fun _ => and_congr_right fun _ => and_congr_right fun _ => and_congr_right fun _ => and_congr_right fun _ =>
    and_congr_right fun _ => forall_congr' fun p => imp_congr_right fun _ => ?_
  cases p.cellar <;> simp

theorem State.wf_reset : State.reset.wf = true := by decide +kernel

/-- The canonical form depends on the memories, the kept tasks and the partitions alone. -/
theorem State.wf_congr {s t : State} (h : s.wf = true) (hm : t.mem = s.mem) (hh : t.host = s.host) (hp : t.peer = s.peer)
    (hl : t.task.loft = s.task.loft) (hk : t.launches = s.launches) (hw : t.worlds = s.worlds) (hr : t.parts = s.parts) : t.wf = true := by
  have e : t.wf = s.wf := by simp only [State.wf, State.keptTasks, hm, hh, hp, hl, hk, hw, hr]
  rw [e, h]

theorem State.wf_setTask {s : State} (h : s.wf = true) {f : Task → Task} (hf : (f s.task).loft.wf = true) : (s.setTask f).wf = true := by
  rw [State.wf_iff] at h ⊢
  exact ⟨h.1, h.2.1, h.2.2.1, hf, h.2.2.2.2⟩

/-- A change of the running task that leaves its loft alone keeps the form. -/
theorem State.wf_setTask_loft {s : State} (h : s.wf = true) {f : Task → Task} (hf : (f s.task).loft = s.task.loft) :
    (s.setTask f).wf = true := State.wf_setTask h (by rw [hf]; exact (State.wf_iff.1 h).2.2.2.1)

theorem Task.setX_loft (t : Task) (d : XReg) (v : Word) : (t.setX d v).loft = t.loft := by
  unfold Task.setX; split <;> rfl

theorem State.wf_setX {s : State} (h : s.wf = true) (d : XReg) (v : Word) : (s.setX d v).wf = true :=
  State.wf_setTask_loft h (Task.setX_loft _ _ _)

theorem State.wf_advance {s : State} (h : s.wf = true) : s.advance.wf = true := State.wf_setTask_loft h rfl

theorem Task.strain_loft (t : Task) : t.strain.loft = t.loft := by
  unfold Task.strain
  split
  · split
    · rfl
    · split
      · rfl
      · split
        · split <;> rfl
        · rfl
  · rfl

/-! ### Writes -/

theorem State.wf_setPart {s : State} (h : s.wf = true) (i : Fin 16) {p : Partition}
    (hp : ∀ c, p.cellar = some c → c.snapshot.wf = true) : (s.setPart i p).wf = true := by
  rw [State.wf_iff] at h ⊢
  refine ⟨h.1, h.2.1, h.2.2.1, h.2.2.2.1, h.2.2.2.2.1, h.2.2.2.2.2.1, ?_⟩
  intro q hq c hc
  obtain ⟨n, hn, rfl⟩ := List.getElem_of_mem hq
  simp only [State.setPart_parts, Vector.getElem_toList, Vector.getElem_set] at hc
  split at hc
  · exact hp c hc
  · have hn' : n < s.parts.toList.length := by simpa using hn
    exact h.2.2.2.2.2.2 _ (by rw [← Vector.getElem_toList (h := hn')]; exact List.getElem_mem _) c hc

theorem State.wf_cellar {s : State} (h : s.wf = true) (i : Fin 16) {c : Cellar} (hc : s.parts[i].cellar = some c) :
    c.snapshot.wf = true :=
  (State.wf_iff.1 h).2.2.2.2.2.2 _ (by
    have : s.parts[i] = s.parts.toList[i.val]'(by simp) := by simp
    rw [this]; exact List.getElem_mem _) c hc

theorem State.cellarOf_mem {s : State} {pa : Nat} {i : Fin 16} {c : Cellar} (h : s.cellarOf pa = some (i, c)) :
    s.parts[i].cellar = some c := by
  obtain ⟨k, _, hk⟩ := List.exists_of_findSome?_eq_some h
  split at hk
  · obtain ⟨d, hd, he⟩ := Option.map_eq_some_iff.1 hk
    cases he; exact hd
  · cases hk

theorem State.wf_copyRoot {s : State} (h : s.wf = true) (src dst : Nat) : (s.copyRoot src dst).wf = true := by
  rw [State.wf_iff] at h ⊢
  exact ⟨State.wf_copyRoot_mem h.1 _ _, h.2⟩

theorem State.wf_reserveCopy {s : State} (h : s.wf = true) (pa : Nat) : (s.reserveCopy pa).wf = true := by
  unfold State.reserveCopy
  split
  · rename_i i c hc
    dsimp only
    split
    · refine State.wf_setPart (State.wf_copyRoot h _ _) i fun d hd => ?_
      cases hd
      exact State.wf_cellar (c := c) h i (State.cellarOf_mem hc)
    · exact h
  · exact h

theorem State.wf_keepOld {s : State} (h : s.wf = true) (pa n : Nat) : (s.keepOld pa n).wf = true := by
  unfold State.keepOld
  split
  · rename_i hc
    clear hc
    generalize List.range _ = l
    induction l generalizing s with
    | nil => exact h
    | cons k l ih => exact ih (State.wf_reserveCopy h _)
  · exact h

theorem State.wf_putRoot {s : State} (h : s.wf = true) (pa : Nat) (bs : List Byte) : (s.putRoot pa bs).wf = true := by
  rw [State.wf_iff] at h ⊢
  exact ⟨Mem.wf_putBytes h.1 pa bs, h.2⟩

theorem State.wf_writeRoot {s : State} (h : s.wf = true) (pa : Nat) (bs : List Byte) : (s.writeRoot pa bs).wf = true :=
  State.wf_putRoot (State.wf_keepOld h _ _) pa bs

theorem State.wf_setWorld {s : State} (h : s.wf = true) {w : World} (hw : w.bytes.wf = true) : (s.setWorld w).wf = true := by
  rw [State.wf_iff] at h ⊢
  refine ⟨h.1, h.2.1, h.2.2.1, h.2.2.2.1, h.2.2.2.2.1, ?_, h.2.2.2.2.2.2⟩
  intro k hk
  obtain ⟨x, hx, rfl⟩ := List.mem_map.1 hk
  split
  · exact hw
  · exact h.2.2.2.2.2.1 x hx

theorem State.wf_world {s : State} (h : s.wf = true) {n : Nat} {w : World} (hw : s.world? n = some w) : w.bytes.wf = true :=
  (State.wf_iff.1 h).2.2.2.2.2.1 w (List.mem_of_find?_eq_some hw)

theorem State.wf_holder {s : State} (h : s.wf = true) : ∀ {f n g : Nat} {w : World}, s.holder f n g = some w → w.bytes.wf = true := by
  intro f
  induction f with
  | zero => intro n g w hw; simp [State.holder] at hw
  | succ f ih =>
    intro n g w hw
    simp only [State.holder] at hw
    split at hw
    · cases hw
    · split at hw
      · cases hw; exact State.wf_world h ‹_›
      · exact ih hw

theorem State.wf_claim {s s1 : State} (h : s.wf = true) {w g : Nat} (hc : s.claim w g = some s1) : s1.wf = true := by
  unfold State.claim at hc
  split at hc
  · cases hc; exact h
  · rename_i k hk
    split at hc
    · cases hc; exact h
    · split at hc
      · cases hc
      · cases hc
        apply State.wf_setWorld h
        have src : ∀ m : Mem, m.wf = true → Mem.wf (Mem.replace k.bytes (g * 4096) (g * 4096 + 4096) (m.slice (g * 4096) (g * 4096 + 4096))) = true :=
          fun m hm => Mem.wf_replace (State.wf_world h hk) (Mem.wfFrom_slice hm _ _) (Mem.slice_lt _ _ _) (by omega)
        dsimp only
        split
        · exact src _ (State.wf_holder h ‹_›)
        · exact src _ (State.wf_iff.1 h).1

theorem State.wf_writeDevice {s : State} (h : s.wf = true) (w pa : Nat) (bs : List Byte) : (s.writeDevice w pa bs).wf = true := by
  unfold State.writeDevice
  split
  · exact State.wf_writeRoot h pa bs
  · exact State.wf_setWorld h (Mem.wf_putBytes (State.wf_world h ‹_›) pa bs)

theorem State.wf_writePlace {s : State} (h : s.wf = true) (w : Nat) (p : Place) (bs : List Byte) : (s.writePlace w p bs).wf = true := by
  cases p with
  | device pa => exact State.wf_writeDevice h w pa bs
  | loft o => exact State.wf_setTask (f := fun t => t.putLoft o bs) h (Mem.wf_putBytes (State.wf_iff.1 h).2.2.2.1 o bs)
  | host a =>
    rw [State.wf_iff] at h ⊢
    exact ⟨h.1, Mem.wf_putBytes h.2.1 a bs, h.2.2⟩
  | peer e o =>
    rw [State.wf_iff] at h ⊢
    exact ⟨h.1, h.2.1, Mem.wf_putBytes h.2.2.1 _ bs, h.2.2.2⟩

theorem State.wf_scramble {s : State} (h : s.wf = true) (p : Place) : (s.scramble p).wf = true := by
  unfold State.scramble
  cases p with
  | host a =>
    rw [State.wf_iff] at h ⊢
    exact ⟨h.1, Mem.wf_putBytes h.2.1 _ _, h.2.2⟩
  | peer e o =>
    rw [State.wf_iff] at h ⊢
    exact ⟨h.1, h.2.1, Mem.wf_putBytes h.2.2.1 _ _, h.2.2.2⟩
  | device pa => exact h
  | loft o => exact h

/-! ### The checks of an access -/

theorem State.wf_refill {s s1 : State} (h : s.wf = true) {cid : Fin 64} {off : Nat} {a : Word} (hr : s.refill cid off a = .ok s1) :
    s1.wf = true := by
  unfold State.refill at hr
  dsimp only at hr
  split at hr
  · cases hr; exact h
  · split at hr
    · simp [Chk.fail] at hr
    · split at hr
      · simp [Chk.fail] at hr
      · split at hr
        · simp [Chk.fail] at hr
        split at hr
        · cases hr
        · cases hr
          have hs := State.wf_iff.1 h
          exact State.wf_setTask (f := fun t => { t with
            loft := t.loft.replace (off / 0x10000 * 0x10000) (off / 0x10000 * 0x10000 + 0x10000) _
            id := { t.id with unfilled := t.id.unfilled.filter (· != off / 0x10000) } }) h (Mem.wf_move hs.2.2.2.1 hs.1 _ _ _)

theorem State.wf_placeFind {s s1 : State} (h : s.wf = true) {w : Who} {acc : Acc} {a : Word} {p : Place}
    (hf : s.placeFind w acc a = .ok (s1, p)) : s1.wf = true := by
  unfold State.placeFind at hf
  split at hf
  · simp [Chk.fail] at hf
  · obtain ⟨s', hs, he⟩ := Chk.bind_eq_ok.1 hf
    cases he
    exact State.wf_refill h hs
  · obtain ⟨q, _, he⟩ := Chk.bind_eq_ok.1 hf
    obtain ⟨_, _, he⟩ := Chk.bind_eq_ok.1 he
    cases he; exact h

theorem State.wf_placeCheck {s s1 : State} (h : s.wf = true) {w : Who} {acc : Acc} {a : Word} {p : Place}
    (hp : s.placeCheck w acc a = .ok (s1, p)) : s1.wf = true := State.wf_placeFind h (State.placeCheck_ok hp).1

theorem State.wf_claimCheck {s s1 : State} (h : s.wf = true) {w : Who} {a : Word} {p : Place} (hc : s.claimCheck w a p = .ok s1) :
    s1.wf = true := by
  unfold State.claimCheck at hc
  split at hc
  · split at hc
    · split at hc
      · simp [Chk.fail] at hc
      · cases hc; exact State.wf_claim h ‹_›
    · simp [Chk.fail] at hc
  · cases hc; exact h

theorem State.wf_openAt {s s1 : State} (h : s.wf = true) {acc : Acc} {a : Word} {n : Nat} {p : Place}
    (ho : s.openAt acc a n = .ok (s1, p)) : s1.wf = true := State.wf_placeFind h (State.openAt_ok ho).1

theorem State.wf_claimFor {s t : State} (h : s.wf = true) {a : Word} {p : Place} (hc : s.claimFor a p = .ok t) : t.wf = true :=
  State.wf_claimCheck h (Res.ofChk_eq_ok.1 hc)

theorem State.wf_readGran {s s1 : State} (h : s.wf = true) {a : Word} {n : Nat} {bs : List Byte} (hr : s.readGran a n = .ok (s1, bs)) :
    s1.wf = true := by
  obtain ⟨p, hp, _⟩ := State.readGran_ok hr
  exact State.wf_openAt h hp

theorem State.wf_writeGran {s t : State} (h : s.wf = true) {a : Word} {bs : List Byte} (hw : s.writeGran a bs = .ok t) : t.wf = true := by
  obtain ⟨s1, p, s2, ho, hc, rfl⟩ := State.writeGran_ok hw
  exact State.wf_writePlace (State.wf_claimFor (State.wf_openAt h ho) hc) _ _ _

theorem State.wf_findAll {s : State} (h : s.wf = true) {acc : Acc} {as : List Nat} {r : State × List (Nat × Place)}
    (hr : s.findAll acc as = .ok r) : r.1.wf = true :=
  Res.each_ind (P := fun p : State × List (Nat × Place) => p.1.wf = true) (fun p a q hp hq => by
    obtain ⟨⟨s1, pl⟩, hf, he⟩ := Res.bind_eq_ok.1 hq
    cases he
    exact State.wf_placeFind hp (Res.ofChk_eq_ok.1 hf)) h hr

theorem State.wf_claimAll {s t : State} (h : s.wf = true) {ps : List (Nat × Place)} (hc : s.claimAll ps = .ok t) : t.wf = true :=
  Res.each_ind (P := fun s : State => s.wf = true) (fun _ _ _ hs hq => State.wf_claimFor hs hq) h hc

/-- A step of a read keeps the form, if what it does at the end does. -/
theorem State.wf_readPiece {s t : State} (h : s.wf = true) {p : Partial} {n : Nat} {spans : Nat → List (Nat × Nat)}
    {done : State → List (Nat × List Byte) → State} (hd : ∀ got, (done (s.setPiece none) got).wf = true)
    (hr : s.readPiece p n spans done = .ok t) : t.wf = true := by
  rcases State.readPiece_ok hr with ⟨_, rfl⟩ | ⟨a, pl, rest, _, _, rfl⟩
  · exact hd _
  · dsimp only
    split
    · exact hd _
    · exact State.wf_setTask_loft h rfl

/-- A step of a write keeps the form, if what it does at the end does. -/
theorem State.wf_writePiece {s t : State} (h : s.wf = true) {p : Partial} {piece : Nat → List Byte} {done : State → State}
    (hd : ∀ u : State, u.wf = true → (done (u.setPiece none)).wf = true) (hr : s.writePiece p piece done = .ok t) : t.wf = true := by
  rcases State.writePiece_ok hr with ⟨_, rfl⟩ | ⟨a, pl, rest, _, _, rfl⟩
  · exact hd _ h
  · have h1 := State.wf_writePlace h s.task.id.world pl (piece p.left.length)
    dsimp only
    split
    · exact hd _ h1
    · exact State.wf_setTask_loft h1 rfl

theorem State.wf_read {s s1 : State} (h : s.wf = true) {a : Word} {w : Nat} {bs : List Byte} (hr : s.read a w = .ok (s1, bs)) :
    s1.wf = true := State.wf_readGran h (State.read_ok hr).2.2

theorem State.wf_write {s t : State} (h : s.wf = true) {a : Word} {bs : List Byte} (hw : s.write a bs = .ok t) : t.wf = true :=
  State.wf_writeGran h (State.write_ok hw).2.2

/-! ### Events, launches and worlds -/

theorem State.wf_msix {s : State} (h : s.wf = true) (part : Fin 16) (v : Nat) : (s.msix part v).wf = true :=
  State.wf_congr h rfl rfl rfl rfl rfl rfl rfl

theorem State.wf_putEvent {s : State} (h : s.wf = true) (part : Fin 16) (bs : List Byte) : (s.putEvent part bs).wf = true := by
  unfold State.putEvent
  dsimp only
  split
  · refine State.wf_msix (State.wf_setPart (State.wf_writeRoot h _ _) part ?_) _ _
    exact fun c hc => State.wf_cellar (State.wf_writeRoot h _ _) part hc
  · refine State.wf_setPart h part ?_
    exact fun c hc => State.wf_cellar h part hc

/-- A write that waits is no part of any memory yet. -/
theorem State.wf_withLate {s : State} (h : s.wf = true) (l : List LateWrite) : ({ s with late := l } : State).wf = true :=
  State.wf_congr h rfl rfl rfl rfl rfl rfl rfl

theorem State.wf_postEvent {s : State} (h : s.wf = true) (part : Fin 16) (bs : List Byte) : (s.postEvent part bs).wf = true := by
  unfold State.postEvent
  split
  · exact State.wf_putEvent h _ _
  · exact State.wf_withLate h _

theorem State.wf_gleanPut {s : State} (h : s.wf = true) (cid : Fin 64) (a : Word) (bs : List Byte) : (s.gleanPut cid a bs).wf = true := by
  unfold State.gleanPut
  generalize partsAt _ _ = l
  induction l generalizing s with
  | nil => exact h
  | cons g l ih =>
    simp only [List.foldl_cons]
    apply ih
    split
    · exact State.wf_writePlace h _ _ _
    · exact h

theorem State.wf_makeLate {s : State} (h : s.wf = true) (w : LateWrite) : (s.makeLate w).wf = true := by
  unfold State.makeLate
  split
  · rename_i c a bs
    have h1 := State.wf_gleanPut h c a bs
    dsimp only
    cases s.gleanPoison c a.toNat bs.length
    · exact h1
    · exact State.wf_postEvent h1 _ _
  · exact State.wf_writeRoot h _ _
  · exact State.wf_putEvent h _ _

/-- A write of the module keeps the form, made or kept waiting. -/
theorem State.wf_post {s : State} (h : s.wf = true) (w : LateWrite) : (s.post w).wf = true := by
  unfold State.post
  split
  · exact State.wf_makeLate h w
  · exact State.wf_withLate h _

theorem State.wf_behind {s : State} (h : s.wf = true) (l : List LateWrite) : (s.behind l).wf = true := State.wf_withLate h _

theorem State.wf_deliverLate : ∀ (n : Nat) {s : State}, s.wf = true → (s.deliverLate n).wf = true := by
  intro n
  induction n with
  | zero => intro s h; exact h
  | succ n ih =>
    intro s h
    unfold State.deliverLate
    split
    · exact h
    · split
      · exact h
      · exact ih (State.wf_behind (State.wf_makeLate (State.wf_withLate h _) _) _)

theorem State.wf_logEvent {s : State} (h : s.wf = true) (part : Fin 16) (e : Event) : (s.logEvent part e).wf = true :=
  State.wf_postEvent h _ _

theorem State.wf_logLine {s : State} (h : s.wf = true) (part : Fin 16) (l : Option Line) : (s.logLine part l).wf = true := by
  unfold State.logLine
  split
  · exact h
  · exact State.wf_logEvent h _ _
  · exact State.wf_logEvent (State.wf_congr (t := { s with fresh := s.fresh + 1 }) h rfl rfl rfl rfl rfl rfl rfl) _ _

theorem State.wf_releasePair {s : State} (h : s.wf = true) (t : Task) : (s.releasePair t).wf = true := by
  unfold State.releasePair
  split
  · exact h
  · exact State.wf_congr h rfl rfl rfl rfl rfl rfl rfl

theorem State.wf_stopTask {s : State} (h : s.wf = true) : s.stopTask.wf = true := by
  have hr := State.wf_iff.1 (State.wf_releasePair h s.task)
  rw [State.wf_iff]
  exact ⟨hr.1, hr.2.1, hr.2.2.1, rfl, hr.2.2.2.2⟩

theorem State.wf_gleanLog {s : State} (h : s.wf = true) (cid : Fin 64) (a n : Nat) : (s.gleanLog cid a n).wf = true := by
  unfold State.gleanLog
  cases s.gleanPoison cid a n
  · exact h
  · exact State.wf_logLine h _ _

theorem State.wf_gleanWrite {s : State} (h : s.wf = true) (cid : Fin 64) (a : Word) (bs : List Byte) : (s.gleanWrite cid a bs).wf = true :=
  State.wf_post h _

theorem State.wf_writeCompletion {s : State} (h : s.wf = true) (cid : Fin 64) (done : Word) (id : BitVec 12) (st code tasks : Nat)
    (f : Word) : (s.writeCompletion cid done id st code tasks f).wf = true := State.wf_gleanWrite h _ _ _

/-- Every task a launch keeps has its loft in canonical form. -/
def Launch.keptWf (L : Launch) : Prop :=
  (∀ t, Saved.task t ∈ L.saved ++ L.queue → t.loft.wf = true) ∧ ∀ p ∈ L.parked, p.task.loft.wf = true

/-- The kept tasks of a state, launch by launch. -/
theorem State.keptTasks_wf_iff {s : State} : (∀ t ∈ s.keptTasks, t.loft.wf = true) ↔ ∀ L ∈ s.launches, L.keptWf := by
  unfold State.keptTasks Launch.keptWf
  constructor
  · intro h L hL
    refine ⟨fun t ht => h t (List.mem_flatMap.2 ⟨L, hL, List.mem_append.2 (.inl (List.mem_filterMap.2 ⟨_, ht, rfl⟩))⟩), fun p hp => ?_⟩
    exact h _ (List.mem_flatMap.2 ⟨L, hL, List.mem_append.2 (.inr (List.mem_map.2 ⟨p, hp, rfl⟩))⟩)
  · intro h t ht
    obtain ⟨L, hL, ht⟩ := List.mem_flatMap.1 ht
    rcases List.mem_append.1 ht with ht | ht
    · obtain ⟨e, he, hk⟩ := List.mem_filterMap.1 ht
      cases e with
      | task u => cases hk; exact (h L hL).1 _ he
      | again e n => cases hk
    · obtain ⟨p, hp, rfl⟩ := List.mem_map.1 ht
      exact (h L hL).2 p hp

/-- Replacing the live launches by ones whose kept tasks are in canonical form keeps the form. -/
theorem State.wf_withLaunches {s t : State} (h : s.wf = true) (hm : t.mem = s.mem) (hh : t.host = s.host) (hp : t.peer = s.peer)
    (hl : t.task.loft = s.task.loft) (hw : t.worlds = s.worlds) (hr : t.parts = s.parts) (hk : ∀ L ∈ t.launches, L.keptWf) :
    t.wf = true := by
  rw [State.wf_iff] at h ⊢
  exact ⟨hm ▸ h.1, hh ▸ h.2.1, hp ▸ h.2.2.1, hl ▸ h.2.2.2.1, State.keptTasks_wf_iff.2 hk, hw ▸ h.2.2.2.2.2.1, hr ▸ h.2.2.2.2.2.2⟩

theorem State.wf_keptWf {s : State} (h : s.wf = true) : ∀ L ∈ s.launches, L.keptWf :=
  State.keptTasks_wf_iff.1 (State.wf_iff.1 h).2.2.2.2.1

theorem State.wf_setLaunch {s : State} (h : s.wf = true) {L : Launch} (hL : L.keptWf) : (s.setLaunch L).wf = true := by
  refine State.wf_withLaunches h rfl rfl rfl rfl rfl rfl ?_
  intro k hk
  obtain ⟨x, hx, rfl⟩ := List.mem_map.1 hk
  split
  · exact hL
  · exact State.wf_keptWf h x hx

theorem State.wf_launch? {s : State} (h : s.wf = true) {part : Fin 16} {id : BitVec 12} {L : Launch} (hL : s.launch? part id = some L) :
    L.keptWf := State.wf_keptWf h L (List.mem_of_find?_eq_some hL)

/-- Dropping worlds keeps the form. -/
theorem State.wf_fewerWorlds {s t : State} (h : s.wf = true) (hm : t.mem = s.mem) (hh : t.host = s.host) (hp : t.peer = s.peer)
    (hl : t.task.loft = s.task.loft) (hk : t.launches = s.launches) (hr : t.parts = s.parts) (hw : ∀ w ∈ t.worlds, w ∈ s.worlds) :
    t.wf = true := by
  rw [State.wf_iff] at h ⊢
  refine ⟨hm ▸ h.1, hh ▸ h.2.1, hp ▸ h.2.2.1, hl ▸ h.2.2.2.1, ?_, fun w hx => h.2.2.2.2.2.1 w (hw w hx), hr ▸ h.2.2.2.2.2.2⟩
  have := h.2.2.2.2.1
  simpa only [State.keptTasks, hk] using this

theorem State.wf_dropWorld {s : State} (h : s.wf = true) (w : Nat) : (s.dropWorld w).wf = true := by
  unfold State.dropWorld
  split
  · exact h
  · exact State.wf_fewerWorlds h rfl rfl rfl rfl rfl rfl fun w hw => (List.mem_filter.1 hw).1

theorem State.wf_dropBelow {s : State} (h : s.wf = true) (w : Nat) (rs : List Rival) : (s.dropBelow w rs).wf = true := by
  unfold State.dropBelow
  induction rs generalizing s with
  | nil => exact h
  | cons r rs ih =>
    simp only [List.foldl_cons]
    apply ih
    split
    · exact h
    · exact State.wf_dropWorld h _

theorem State.wf_emptyWorld {s : State} (h : s.wf = true) (w : Nat) : (s.emptyWorld w).wf = true := by
  unfold State.emptyWorld
  split
  · exact State.wf_setWorld h rfl
  · exact h

theorem Parent.resumed_loft (p : Parent) : p.resumed.loft = p.task.loft := by
  rfl

theorem State.wf_rivalEnded {s : State} (h : s.wf = true) (t : Task) (score : Option Word) : (s.rivalEnded t score).wf = true := by
  unfold State.rivalEnded
  split
  · exact h
  · rename_i L hL
    have hk := State.wf_launch? h hL
    have hp : ∀ p ∈ L.parked.map (fun p : Parent => if p.task.id.tid == t.id.parent then
        { p with rivals := p.rivals.map fun r => if r.world == t.id.world then { r with ended := true, score := score } else r }
        else p), p.task.loft.wf = true := by
      intro p hp
      obtain ⟨q, hq, rfl⟩ := List.mem_map.1 hp
      split
      · exact hk.2 q hq
      · exact hk.2 q hq
    refine State.wf_setLaunch h ⟨?_, fun p hq => hp p (List.mem_filter.1 hq).1⟩
    intro u hu
    rw [← List.append_assoc] at hu
    rcases List.mem_append.1 hu with hu | hu
    · exact hk.1 u hu
    · obtain ⟨p, hq, he⟩ := List.mem_map.1 hu
      cases he
      rw [Parent.resumed_loft]
      exact hp p (List.mem_filter.1 hq).1

theorem State.wf_abortRival {s : State} (h : s.wf = true) : s.abortRival.wf = true :=
  State.wf_rivalEnded (State.wf_stopTask (State.wf_emptyWorld (State.wf_dropBelow h _ _) _)) _ _

theorem State.wf_releaseKept {s : State} (h : s.wf = true) (L : Launch) : (s.releaseKept L).wf = true := by
  unfold State.releaseKept
  dsimp only
  have h1 : ∀ (l : List Saved) (s : State), s.wf = true → (l.foldl (fun s e => match e with
      | .task t => s.releasePair t
      | .again _ _ => s) s).wf = true := by
    intro l
    induction l with
    | nil => intro s h; exact h
    | cons e l ih =>
      intro s h
      simp only [List.foldl_cons]
      apply ih
      cases e with
      | task t => exact State.wf_releasePair h t
      | again e n => exact h
  have h2 : ∀ (l : List Parent) (s : State), s.wf = true → (l.foldl (fun s p => s.releasePair p.task) s).wf = true := by
    intro l
    induction l with
    | nil => intro s h; exact h
    | cons e l ih => intro s h; exact ih _ (State.wf_releasePair h _)
  exact h2 _ _ (h1 _ _ h)

theorem State.wf_dropLaunch {s : State} (h : s.wf = true) (L : Launch) : (s.dropLaunch L).wf = true := by
  have h0 : (if s.runs L then s.stopTask else s).wf = true := by
    split
    · exact State.wf_stopTask h
    · exact h
  have h1 := State.wf_releaseKept h0 L
  have h2 := State.wf_iff.1 h1
  rw [State.wf_iff]
  refine ⟨h2.1, h2.2.1, h2.2.2.1, h2.2.2.2.1, ?_, fun w hw => h2.2.2.2.2.2.1 w (List.mem_filter.1 hw).1, h2.2.2.2.2.2.2⟩
  exact State.keptTasks_wf_iff.2 fun k hk => State.wf_keptWf h1 k (List.mem_filter.1 hk).1

theorem State.wf_endLaunch : ∀ (f : Nat) {s : State}, s.wf = true → ∀ (part : Fin 16) (id : BitVec 12) (st code : Nat) (fr : Word),
    (s.endLaunch f part id st code fr).wf = true := by
  intro f
  induction f with
  | zero => intro s h _ _ _ _ _; exact h
  | succ f ih =>
    intro s h part id st code fr
    unfold State.endLaunch
    split
    · exact h
    · rename_i L hL
      have h1 := State.wf_writeCompletion (State.wf_dropLaunch h L) L.cid L.done L.id st code L.tasks fr
      have h2 : ({ (s.dropLaunch L).writeCompletion L.cid L.done L.id st code L.tasks fr with
          launches := ((s.dropLaunch L).writeCompletion L.cid L.done L.id st code L.tasks fr).launches.map fun k : Launch =>
            if k.part == part then { k with preds := k.preds.filter (· != id) } else k } : State).wf = true := by
        refine State.wf_withLaunches h1 rfl rfl rfl rfl rfl rfl fun k hk => ?_
        obtain ⟨x, hx, rfl⟩ := List.mem_map.1 hk
        split
        · exact State.wf_keptWf h1 x hx
        · exact State.wf_keptWf h1 x hx
      have h3 : ∀ (l : List Launch) (u : State), u.wf = true →
          (l.foldl (fun (s : State) (k : Launch) => State.endLaunch f s part k.id 1 code 0) u).wf = true := by
        intro l
        induction l with
        | nil => intro u hu; exact hu
        | cons k l ihl => intro u hu; exact ihl _ (ih hu _ _ _ _ _)
      dsimp only
      split
      · exact h3 _ _ h2
      · exact h2

theorem State.wf_failLaunch {s : State} (h : s.wf = true) (part : Fin 16) (id : BitVec 12) (code : Nat) (fr : Word) :
    (s.failLaunch part id code fr).wf = true := State.wf_endLaunch _ h _ _ _ _ _

theorem State.wf_failTask {s : State} (h : s.wf = true) (code : Nat) : (s.failTask code).wf = true := by
  unfold State.failTask
  split
  · exact State.wf_abortRival h
  · exact State.wf_failLaunch h _ _ _ _

theorem State.wf_restore {s : State} (h : s.wf = true) (t : Task) : (s.restore t).wf = true := by
  unfold State.restore
  split
  · exact State.wf_gleanWrite h _ _ _
  · exact h

/-- The end of a re-execution, from the state in which the entry is undone. -/
theorem State.wf_tryAgain {s : State} (h : s.wf = true) (part : Fin 16) (id : BitVec 12) (code n : Nat) (src : Word) (e : Saved)
    (he : ∀ t, Saved.task t ≠ e) (ev : Event) :
    (if n > 2 then s.failLaunch part id code src
      else match s.launch? part id with
        | none => s
        | some L => (s.setLaunch { L with queue := L.queue ++ [e] }).logEvent part ev).wf = true := by
  split
  · exact State.wf_failLaunch h _ _ _ _
  · split
    · exact h
    · rename_i L hL
      have hk := State.wf_launch? h hL
      have hk' : Launch.keptWf { L with queue := L.queue ++ [e] } := by
        refine ⟨fun t ht => ?_, hk.2⟩
        rw [← List.append_assoc] at ht
        rcases List.mem_append.1 ht with ht | ht
        · exact hk.1 t ht
        · exact absurd (List.mem_singleton.1 ht) (he t)
      have hs := State.wf_setLaunch h hk'
      generalize s.setLaunch { L with queue := L.queue ++ [e] } = u at hs ⊢
      exact State.wf_logEvent hs part ev

theorem State.wf_reexecute {s : State} (h : s.wf = true) (cause : Cause) : (s.reexecute cause).wf = true := by
  have h1 := State.wf_stopTask (State.wf_dropBelow h s.task.id.world s.task.pendingRivals)
  have h2 : (if s.task.guarded then (s.dropBelow s.task.id.world s.task.pendingRivals).stopTask.dropWorld s.task.id.world
      else (s.dropBelow s.task.id.world s.task.pendingRivals).stopTask.restore s.task).wf = true := by
    split
    · exact State.wf_dropWorld h1 _
    · exact State.wf_restore h1 _
  exact State.wf_tryAgain h2 s.myPart s.task.id.launch cause.code (s.task.id.attempts + 1) s.task.id.entry.src _
    (fun _ h => Saved.noConfusion h) _

/-! ### Traps -/

theorem State.wf_setPiece {s : State} (h : s.wf = true) (p : Option Partial) : (s.setPiece p).wf = true := State.wf_setTask_loft h rfl

theorem State.wf_deliver {s : State} (h : s.wf = true) (q : TrapReq) : (s.deliver q).wf = true := by
  unfold State.deliver
  dsimp only
  split
  · exact State.wf_failTask (State.wf_logLine h _ _) _
  · exact State.wf_failTask h _
  · exact State.wf_setTask_loft h rfl

theorem State.wf_takeTrap {s : State} (h : s.wf = true) (q : TrapReq) : (s.takeTrap q).wf = true := by
  have h1 := State.wf_setPiece (State.wf_logLine h s.myPart q.line) none
  unfold State.takeTrap
  extract_lets u t
  change u.wf = true at h1
  split
  · split
    · exact State.wf_abortRival h1
    · split
      · exact State.wf_failLaunch h1 _ _ _ _
      · exact State.wf_reexecute h1 _
  · split
    · exact State.wf_failTask h1 _
    · exact State.wf_deliver h1 q

theorem State.wf_fault {s : State} (h : s.wf = true) (r : Raise) : (s.fault r).wf = true := State.wf_takeTrap h _

/-- What an instruction answers keeps the form, if its own work does, wherever it ends. -/
theorem State.wf_settle {s t : State} (h : s.wf = true) {r : Res State} (hok : ∀ u, r = .ok u → u.wf = true)
    (htrap : ∀ u q, r = .trap u q → u.wf = true) (ht : s.settle r = .next t) : t.wf = true := by
  rcases State.settle_eq_next ht with hr | ⟨s', q, hr, rfl⟩ | ⟨_, rfl⟩ | ⟨_, rfl⟩
  · exact hok t hr
  · exact State.wf_fault (htrap s' q hr) q
  · exact h
  · exact State.wf_setTask_loft h (Task.strain_loft _)

/-- Time passing keeps the form. -/
theorem State.wf_tick {s : State} (h : s.wf = true) (n : Nat) : (s.tick n).wf = true := by
  refine State.wf_congr h rfl rfl rfl ?_ rfl rfl rfl
  show (if s.running then _ else _ : Task).loft = _
  split <;> rfl

/-- Keeping the block being passed, and dropping a slot's blocks, keep the form. -/
theorem State.wf_keepPassing {s : State} (h : s.wf = true) : s.keepPassing.wf = true := by
  rw [State.keepPassing_eq]; exact State.wf_congr h rfl rfl rfl rfl rfl rfl rfl

theorem State.wf_dropSlot {s : State} (h : s.wf = true) (k : Fin 4) : (s.dropSlot k).wf = true := by
  rw [State.dropSlot_eq]; exact State.wf_congr h rfl rfl rfl rfl rfl rfl rfl

theorem State.wf_mendGroups {s : State} (h : s.wf = true) : s.mendGroups.wf = true := State.wf_congr h rfl rfl rfl rfl rfl rfl rfl

end Sys2Proof.Machine
end

