-- ==== Sys2Proof/Tests/Slice0.lean ====
section
/-! SUPPORT. Tests: ill-formed terms are refused, words written out from the encoding tables decode, single steps give results worked
out by hand from the rules named, and every statement's hypotheses are met by a concrete state (the witnesses). -/

namespace Sys2Proof.Tests

set_option Elab.async false

open Sys2Proof Sys2Proof.Machine

/-! ### Small states -/

/-- A launch of context 0 in partition 0. -/
def labLaunch : Launch :=
  { id := 1, cid := 0, part := 0, prio := 1, det := false, stamped := false, start := 0, preds := [], seed := 7, qbase := 0
    capacity := 4, hwm := 2, budget := 0, done := 0, queue := [], saved := [], parked := [], tasks := 0 }

/-- A fresh task of that launch at pc 0x1000, in task mode, at the root. -/
def labTask : Task := Task.start 0x1000 0 0 0 false 64 { Ident.none with tid := 1, launch := 1 }

/-- A running task in task mode. Device page 0x10000 is mapped at virtual page 0 with every permission. -/
def lab : State :=
  { State.reset with running := true, launches := [labLaunch], task := labTask, tlb := [⟨0, 0, 0x10000, 0x1011F⟩] }

/-- The state with a task that differs. -/
def labTaskIs (f : Task → Task) : State := { lab with task := f lab.task }

/-- The state with some x registers set. -/
def withX (s : State) (l : List (XReg × Word)) : State :=
  { s with task := { s.task with x := l.foldl (fun x p => x.set p.1.val p.2) s.task.x } }

/-- The state in supervisor mode. -/
def asSup (s : State) : State := { s with task := { s.task with csr := { s.task.csr with status := 1 } } }

/-- The state under DET. -/
def asDet (s : State) : State := { s with task := { s.task with csr := { s.task.csr with status := 0x10 } } }

/-- The state with a shape granted. -/
def shaped (s : State) (sh : Word) : State := { s with task := { s.task with csr := { s.task.csr with sh := sh } } }

/-- Memory with bytes placed at an address. -/
def memAt (a : Nat) (bs : List Byte) : Mem := Mem.putBytes [] a bs

/-- Doublewords as bytes. -/
def dwords (ws : List Word) : List Byte := ws.flatMap fun w => leBytes 8 w.toNat

/-- An address of the loft. -/
def loftAddr (o : Nat) : Word := wd (0x00F0000000000000 + o)

/-- An x register after a step, or none where it did not go on. -/
def xAfter (r : Result) (d : XReg) : Option Word :=
  match r with
  | .next t => some (t.task.x.toList.getD d.val 0)
  | _ => none

/-- The pc after a step. -/
def pcAfter (r : Result) : Option Word :=
  match r with
  | .next t => some t.task.pc
  | _ => none

/-- A task's CSRs after a step, one of them read. -/
def csrAfter (r : Result) (f : Csrs → Word) : Option Word :=
  match r with
  | .next t => some (f t.task.csr)
  | _ => none

/-- What a step answers about the next state. -/
def after {α : Type} (r : Result) (f : State → α) : Option α :=
  match r with
  | .next t => some (f t)
  | _ => none

/-! ### Ill-formed instructions are refused (R63, R73, R74, R293, R370) -/

theorem test_wf_loop_zero : Instr.wf (.loop 0 1 0) = false := by decide
theorem test_wf_loopi_zero : Instr.wf (.loopi 1 5 0) = false := by decide
theorem test_wf_pushm_order : Instr.wf (.pushm 5 4 0 false) = false := by decide
theorem test_wf_popm_order : Instr.wf (.popm 31 30 0 false) = false := by decide
theorem test_wf_pushm_vreg : Instr.wf (.pushm 0 16 0 true) = false := by decide
theorem test_wf_popm_vreg : Instr.wf (.popm 15 16 0 true) = false := by decide
theorem test_wf_fcvtff_rounding : Instr.wf (.fcvtff 1 2 .d .rtz) = false := by decide
theorem test_wf_bar2_empty_read : Instr.wf (.bar2Read 0 0 0) = false := by decide
theorem test_wf_bar2_empty_write : Instr.wf (.bar2Write 0 0 []) = false := by decide
theorem test_wf_partition_dies : Instr.wf (.partition [⟨0, 0, 3, [], [], List.replicate 32 0⟩]) = false := by decide
theorem test_wf_partition_start : Instr.wf (.partition [⟨0, 1, 2, [], [], List.replicate 32 0⟩]) = false := by decide
theorem test_wf_partition_digest : Instr.wf (.partition [⟨0, 0, 2, [], [], []⟩]) = false := by decide
theorem test_wf_set_measure : Instr.wf (.expansionSetLoad 1 ⟨[], []⟩ true) = false := by decide

/-- A frame of one flit. -/
def labFrame : Frame := ⟨0, 0, 0, 0, false, 0, 0, 0, List.replicate 64 0, true⟩

theorem test_wf_frame : Instr.wf (.dataFrame 0 labFrame) = true := by decide +kernel
theorem test_wf_data_flits : Instr.wf (.dataFrame 0 { labFrame with payload := [0] }) = false := by decide
theorem test_wf_ack_empty : Instr.wf (.ackFrame 0 { labFrame with payload := [] }) = false := by decide
theorem test_wf_nack_seq : Instr.wf (.nackFrame 0 { labFrame with seq := 2 ^ 48 }) = false := by decide +kernel
theorem test_wf_rekey_ack : Instr.wf (.rekeyFrame 0 { labFrame with ackSeq := 2 ^ 48 }) = false := by decide +kernel
theorem test_wf_idle_flits : Instr.wf (.idleFrame 0 { labFrame with payload := List.replicate 65 0 }) = false := by decide +kernel
/-- Bring-up data with a firmware measurement that is too short. -/
theorem test_wf_reset_firmware :
    Instr.wf (.reset ⟨true, true, false, [], ⟨List.replicate 32 0, []⟩, [], 0, [], [], []⟩) = false := by decide

/-! ### Words written out from R62 to R77 -/

theorem test_word_sel : decode false 0b000001_00001_00010_00011_00000011100 = .instr (.sel 1 2 3) := by decide +kernel
theorem test_word_clz : decode false 0b000001_11111_00001_00000_00000011000 = .instr (.clz 31 1) := by decide +kernel
theorem test_word_xori : decode false 0b000101_00001_00010_1000000000000000 = .instr (.xori 1 2 0x8000#16) := by decide +kernel
theorem test_word_srai : decode false 0b001000_00001_00010_10_00000000_111111 = .instr (.srai 1 2 63#6) := by decide +kernel
theorem test_word_luipc : decode false 0b001010_00101_100000000000000000000 = .instr (.luipc 5 0x100000#21) := by decide +kernel
theorem test_word_lwu : decode false 0b010000_00001_00010_0000000000000100 = .instr (.lwu 1 2 4#16) := by decide +kernel
theorem test_word_sb : decode false 0b010010_00001_00010_1111111111111111 = .instr (.sb 1 2 0xFFFF#16) := by decide +kernel
theorem test_word_amofadd :
    decode false 0b010110_00001_00010_00011_11_0_1_1_001010 = .instr (.amofadd 1 2 3 .fabric false true true) := by decide +kernel
theorem test_word_fence : decode false 0b010111_00000_00000_00000_00000_01_1_0_00 = .instr (.fence .die true false) := by decide +kernel
theorem test_word_tlbinv : decode true 0b010111_00000_00001_00010_00111_000000 = .instr (.tlbinv 1 2) := by decide +kernel
theorem test_word_bgeu : decode false 0b011101_00010_00001_0111111111111111 = .instr (.bgeu 2 1 0x7FFF#16) := by decide +kernel
theorem test_word_jalr : decode false 0b011111_00001_00010_0000000000000010 = .instr (.jalr 1 2 2#16) := by decide +kernel
theorem test_word_loop : decode false 0b100000_1_0000_00011_0000000000000001 = .instr (.loop 1 3 1#16) := by decide +kernel
theorem test_word_loopi : decode false 0b100001_0_111111111_1111111111111111 = .instr (.loopi 0 511#9 0xFFFF#16) := by decide +kernel
theorem test_word_popm : decode false 0b100010_00000_01111_00010_000000000_1_1 = .instr (.popm 0 15 2 true) := by decide +kernel
theorem test_word_jinit : decode false 0b100011_00001_00010_00011_00000000010 = .instr (.jinit 1 2 3) := by decide +kernel
theorem test_word_choose : decode false 0b100100_00001_00010_00000_00000000010 = .instr (.choose 1 2) := by decide +kernel
theorem test_word_setshp : decode false 0b100101_00001_00010_00000_00000000000 = .instr (.setshp 1 2) := by decide +kernel
theorem test_word_cpq : decode false 0b100110_00000_00001_00010_00000000001 = .instr (.cpq 1 2) := by decide +kernel
theorem test_word_skrd : decode false 0b100111_00001_00000_00000_0_1111_000011 = .instr (.skrd 1 15) := by decide +kernel
theorem test_word_wpwait_channel : decode false 0b100111_00000_00001_00000_0_0100_000100 = .fault .reservedField := by decide +kernel
theorem test_word_csrr : decode false 0b101000_00001_00000_000001000000_0000 = .instr (.csrr 1 0x040#12) := by decide +kernel
theorem test_word_fcvtff : decode false 0b101001_00001_00010_00000_000_1100_001_0 = .instr (.fcvtff 1 2 .s .rne) := by decide +kernel
theorem test_word_orbmul : decode false 0b101010_00001_00010_00011_00000000010 = .instr (.orbmul 1 2 3) := by decide +kernel
theorem test_word_vfnma :
    decode false 0b110001_00001_00010_00011_00100_000010 = .instr (.vfnma (.v 1) (.v 2) (.v 3) (.v 4)) := by decide +kernel
theorem test_word_vnot : decode false 0b110010_00001_10111_00000_00000_000011 = .instr (.vnot (.v 1) (.q 7)) := by decide +kernel
theorem test_word_vcmp :
    decode false 0b110011_00001_00010_00011_00000_110_000 = .instr (.vcmp (.v 1) (.v 2) (.v 3) .un) := by decide +kernel
theorem test_word_vcvt : decode false 0b110100_00001_00010_01100_00000_000000 = .instr (.vcvt (.v 1) (.v 2) .uint16) := by decide +kernel
theorem test_word_vsigm : decode false 0b110101_00001_00010_00000_00000_000110 = .instr (.vsigm (.v 1) (.v 2)) := by decide +kernel
theorem test_word_vredr_min : decode false 0b110110_00001_00010_00000_00000_001001 = .instr (.vredrMin (.v 1) (.v 2)) := by decide +kernel
theorem test_word_vext : decode false 0b111000_11111_00010_00000_00011_000010 = .instr (.vext 31 (.v 2) 3) := by decide +kernel
theorem test_word_vpeek : decode false 0b111000_00001_10111_00000_00000_001101 = .instr (.vpeek (.v 1) 7) := by decide +kernel
theorem test_word_vldb : decode false 0b111001_10000_00001_00000_0011_0000100 = .instr (.vldb 0 1 .e4m3) := by decide +kernel
theorem test_word_vrngu :
    decode false 0b111010_00001_00000_00010_00011_000001 = .instr (.vrngu (.v 1) 0 2 3) := by decide +kernel

/-! ### Single steps, with results worked out by hand -/

/-- Two operands in x1 and x2. -/
def two (a b : Word) : State := withX lab [(1, a), (2, b)]

/-- R111: modulo 2^64. -/
theorem test_add_wraps : xAfter (exec (.add 3 1 2) (two (-1) 2)) 3 = some 1 := by decide +kernel
/-- R24: x0 discards a write. -/
theorem test_add_x0 : xAfter (exec (.add 0 1 2) (two 5 6)) 0 = some 0 := by decide +kernel
/-- R112: the most negative number by −1 saturates; the remainder is 0. -/
theorem test_div_overflow : xAfter (exec (.div 3 1 2) (two 0x8000000000000000 (-1))) 3 = some 0x7FFFFFFFFFFFFFFF := by decide +kernel
theorem test_rem_overflow : xAfter (exec (.rem 3 1 2) (two 0x8000000000000000 (-1))) 3 = some 0 := by decide +kernel
/-- R112: by zero, the least value for a negative dividend, and the dividend as remainder. -/
theorem test_div_zero : xAfter (exec (.div 3 1 2) (two (-7) 0)) 3 = some 0x8000000000000000 := by decide +kernel
theorem test_divu_zero : xAfter (exec (.divu 3 1 2) (two 7 0)) 3 = some (-1) := by decide +kernel
theorem test_remu_zero : xAfter (exec (.remu 3 1 2) (two 7 0)) 3 = some 7 := by decide +kernel
/-- R112: toward zero, with the dividend's sign. −7 = −3 × 2 − 1. -/
theorem test_div_negative : xAfter (exec (.div 3 1 2) (two (-7) 2)) 3 = some (-3) := by decide +kernel
theorem test_rem_negative : xAfter (exec (.rem 3 1 2) (two (-7) 2)) 3 = some (-1) := by decide +kernel
/-- The high half of (−1) × (−1) = 1 is 0; unsigned, (2^64 − 1)² = 2^128 − 2^65 + 1. -/
theorem test_mhis : xAfter (exec (.mhis 3 1 2) (two (-1) (-1))) 3 = some 0 := by decide +kernel
theorem test_mhiu : xAfter (exec (.mhiu 3 1 2) (two (-1) (-1))) 3 = some (-2) := by decide +kernel
/-- Shifts count modulo 64. -/
theorem test_sll_count : xAfter (exec (.sll 3 1 2) (two 1 65)) 3 = some 2 := by decide +kernel
theorem test_sra : xAfter (exec (.sra 3 1 2) (two (-8) 2)) 3 = some (-2) := by decide +kernel
theorem test_slt_signed : xAfter (exec (.slt 3 1 2) (two (-1) 0)) 3 = some 1 := by decide +kernel
theorem test_sltu_unsigned : xAfter (exec (.sltu 3 1 2) (two (-1) 0)) 3 = some 0 := by decide +kernel
theorem test_minu : xAfter (exec (.minu 3 1 2) (two (-1) 0)) 3 = some 0 := by decide +kernel
theorem test_clz_zero : xAfter (exec (.clz 3 1) (two 0 0)) 3 = some 64 := by decide +kernel
theorem test_ctz : xAfter (exec (.ctz 3 1) (two 8 0)) 3 = some 3 := by decide +kernel
theorem test_popc : xAfter (exec (.popc 3 1) (two 0xFF01 0)) 3 = some 9 := by decide +kernel
/-- R114: rd is the condition. -/
theorem test_sel_zero : xAfter (exec (.sel 3 1 2) (withX lab [(1, 5), (2, 6), (3, 0)])) 3 = some 6 := by decide +kernel
/-- R63: ADDI sign-extends, ORI zero-extends. -/
theorem test_addi_sign : xAfter (exec (.addi 3 1 0xFFFF#16) (two 1 0)) 3 = some 0 := by decide +kernel
theorem test_ori_zero : xAfter (exec (.ori 3 1 0xFFFF#16) (two 0 0)) 3 = some 0xFFFF := by decide +kernel
theorem test_luipc : xAfter (exec (.luipc 3 0x1FFFFF#21) lab) 3 = some (-0x10000) := by decide +kernel

/-- R119, R121: −1 words back; JALR clears no bit and reads rs1 before it writes rd. -/
theorem test_blt_back : pcAfter (exec (.blt 1 2 0xFFFF#16) (two 1 (-1))) = some 0xFFC := by decide +kernel
theorem test_bgeu_not : pcAfter (exec (.bgeu 1 2 0xFFFF#16) (two 2 1)) = some 0x1004 := by decide +kernel
theorem test_jal_link : xAfter (exec (.jal 1 2#21) lab) 1 = some 0x1004 := by decide +kernel
theorem test_jalr_same : pcAfter (exec (.jalr 1 1 2#16) (two 0x2000 0)) = some 0x2002 := by decide +kernel
/-- R122: a count of 0 goes past LE. -/
theorem test_loop_zero : pcAfter (exec (.loop 0 1 3#16) (two 0 0)) = some 0x1010 := by decide +kernel
theorem test_loopi_body : csrAfter (exec (.loopi 1 5#9 3#16) lab) (·.lc1) = some 5 := by decide +kernel
/-- R123: the last instruction of a body with count 2 goes back. -/
theorem test_loop_back : pcAfter (exec (.addi 0 0 0#16)
    (labTaskIs fun t => { t with csr := { t.csr with ls0 := 0xFF8, le0 := 0x1000, lc0 := 2 } })) = some 0xFF8 := by decide +kernel

/-- R132: 1.5 + 2.25 = 3.75; 1 / 3 rounds to 0x3EAAAAAB; √2 to 0x3FB504F3 and sets NX (R101: bit 3). -/
theorem test_fadd : xAfter (exec (.fadd 3 1 2 .s .rne) (two 0x3FC00000 0x40100000)) 3 = some 0x40700000 := by decide +kernel
theorem test_fdiv : xAfter (exec (.fdiv 3 1 2 .s .rne) (two 0x3F800000 0x40400000)) 3 = some 0x3EAAAAAB := by decide +kernel
theorem test_fdiv_rtz : xAfter (exec (.fdiv 3 1 2 .s .rtz) (two 0x3F800000 0x40400000)) 3 = some 0x3EAAAAAA := by decide +kernel
theorem test_fsqrt : xAfter (exec (.fsqrt 3 1 .s .rne) (two 0x40000000 0)) 3 = some 0x3FB504F3 := by decide +kernel
theorem test_fmul_double :
    xAfter (exec (.fmul 3 1 2 .d .rne) (two 0x4008000000000000 0xBFE0000000000000)) 3 = some 0xBFF8000000000000 := by decide +kernel
theorem test_fcvtif_trunc : xAfter (exec (.fcvtif 3 1 .s .rtz) (two 0xC0200000 0)) 3 = some (-2) := by decide +kernel
theorem test_fcvtfi : xAfter (exec (.fcvtfi 3 1 .d .rne) (two (-3) 0)) 3 = some 0xC008000000000000 := by decide +kernel
theorem test_flt_nan : xAfter (exec (.flt 3 1 2 .s) (two 0x7FC00000 0)) 3 = some 0 := by decide +kernel
theorem test_fmadd : xAfter (exec (.fmadd 3 1 2 .s .rne)
    (withX lab [(1, 0x40000000), (2, 0x40400000), (3, 0x3F800000)])) 3 = some 0x40E00000 := by decide +kernel

/-- R116, R118: little-endian, extended from its width. -/
theorem test_lb_sign : xAfter (exec (.lb 3 1 1#16)
    (withX (labTaskIs fun t => { t with loft := [(0x41, 0x80)] }) [(1, loftAddr 0x40)])) 3 = some (-128) := by decide +kernel
theorem test_lw_order : xAfter (exec (.lw 3 1 0#16)
    (withX (labTaskIs fun t => { t with loft := [(0x40, 0x01), (0x43, 0x7F)] }) [(1, loftAddr 0x40)])) 3 = some 0x7F000001 := by
  decide +kernel
theorem test_sh_bytes : after (exec (.sh 2 1 2#16) (withX lab [(1, 0x10), (2, 0x1234)])) (·.mem)
    = some [(0x10012, 0x34), (0x10013, 0x12)] := by decide +kernel
theorem test_sd_misaligned : csrAfter (exec (.sd 2 1 1#16)
    { withX lab [(1, 0x10)] with ctxs := lab.ctxs.set 0 { Context.reset with tvec := 0x100 } }) (·.cause) = some 0x0C := by decide +kernel
/-- R242: the old value to rd, the sum to memory. -/
theorem test_amoadd : after (exec (.amoadd 3 1 2 .device false false true)
    { withX lab [(1, 0x10), (2, 5)] with mem := [(0x10010, 0xFF)] }) (fun t => (t.task.x[3]!, t.mem))
    = some (0xFF, [(0x10010, 0x04), (0x10011, 0x01)]) := by decide +kernel
theorem test_amocas_fails : after (exec (.amocas 3 1 2 .device false false true)
    { withX lab [(1, 0x10), (2, 5), (3, 1)] with mem := [(0x10010, 2)] }) (fun t => (t.task.x[3]!, t.mem))
    = some (2, [(0x10010, 2)]) := by decide +kernel
/-- R127: the first step stores the lowest register at SSP − 16; the second the next one above it, and then SSP moves. -/
theorem test_pushm_first : after (exec (.pushm 1 2 0 false) (two 0x11 0x22)) (fun t => (t.task.csr.ssp, t.task.loft, t.task.pc))
    = some (loftAddr 0x1C0000, [(0x1BFFF0, 0x11)], 0x1000) := by decide +kernel
theorem test_pushm_last : after (exec (.pushm 1 2 0 false) (withX (labTaskIs fun t => { t with
      part := some ⟨.pushm 1 2 0 false, [], [((loftAddr 0x1BFFF8).toNat, .loft 0x1BFFF8)], []⟩ }) [(1, 0x11), (2, 0x22)]))
    (fun t => (t.task.csr.ssp, t.task.loft, t.task.pc, t.task.part.isNone))
    = some (loftAddr 0x1BFFF0, [(0x1BFFF8, 0x22)], 0x1004, true) := by decide +kernel

/-- R263: 3 more on a count of 3 with target 4 leaves 2 and flips the phase. -/
theorem test_skadd : after (exec (.skadd 1 5) (withX (labTaskIs fun t => { t with stooks := t.stooks.set 5 ⟨3, 4, false⟩ }) [(1, 3)]))
    (fun t => t.task.stooks[(5 : Fin 16)]) = some ⟨2, 4, true⟩ := by decide +kernel
theorem test_skwait_waits : pcAfter (exec (.skwait 1 5) (two 1 0)) = some 0x1000 := by decide +kernel
/-- R136: 20 × 70 of FP32 is cut to 16 × 64, and SH shows the column maximum 64. -/
theorem test_setshp : xAfter (exec (.setshp 3 1) (two 0x4614 0)) 3 = some 0x40004010 := by decide +kernel
theorem test_setshp_strict : csrAfter (exec (.setshp 3 1)
    { two 0x104614 0 with ctxs := lab.ctxs.set 0 { Context.reset with tvec := 0x100 } }) (·.cause) = some 0x34 := by decide +kernel

/-- R364: the old value to rd; R366: FCTL keeps bits 7 to 0 only. -/
theorem test_csrw_old : after (exec (.csrw 3 1 0x042#12) (two 0xFFFFFFFFFF 0)) (fun t => (t.task.x[3]!, t.task.csr.dslack))
    = some (64, 0xFFFFFFFF) := by decide +kernel
theorem test_csrs_fctl : csrAfter (exec (.csrs 3 1 0x010#12) (two 0xF08 0)) (·.fctl) = some 8 := by decide +kernel
/-- R388: SVREQ from task mode raises 0x08 with its own address, and EPC is past it. -/
theorem test_svreq : after (exec .svreq { lab with ctxs := lab.ctxs.set 0 { Context.reset with tvec := 0x100 } })
    (fun t => (t.task.csr.cause, t.task.csr.tval, t.task.csr.epc, t.task.pc, t.task.csr.status))
    = some (0x08, 0x1000, 0x1004, 0x100, 1) := by decide +kernel
/-- R387: back at EPC in task mode. -/
theorem test_tret : after (exec .tret (labTaskIs fun t => { t with csr := { t.csr with status := 1, epc := 0x2000 } }))
    (fun t => (t.task.pc, t.task.csr.status)) = some (0x2000, 0) := by decide +kernel
theorem test_tret_task_mode : decode false 0x5C000100 = .fault .privileged := by decide +kernel

/-- R185: SYM2 on extents 4 × 4, tuple (2, 3): 3 × 4 / 2 + 2 = 8. -/
theorem test_orboff : xAfter (exec (.orboff 3 1 2) (withX
    (labTaskIs fun t => { t with loft := memAt 0x40 (dwords [0x200000101, 0x40004, 1, 0]) }) [(1, loftAddr 0x40), (2, 0x30002)])) 3
    = some 8 := by decide +kernel
theorem test_orbmul : xAfter (exec (.orbmul 3 1 2) (withX
    (labTaskIs fun t => { t with loft := memAt 0x40 (dwords [0x200000101, 0x40004, 1, 0]) }) [(1, loftAddr 0x40), (2, 0x30002)])) 3
    = some 2 := by decide +kernel

/-! ### Elements of vector results -/

/-- The entry of an instruction dispatched under a shape. -/
def entry (i : Instr) (sh xs xt : Word) : VeEntry :=
  { instr := i, addr := 0x1000, xs := xs, xt := xt, sh := sh, arow := 0, rm := 0, stoch := 0, issued := 0, roleOk := true }

/-- A VE context with a lane format code, a 1 × 1 grant, and a captured scalar. -/
def vctx (fmt : Nat) (xs : Word) : VeCtx :=
  lab.veCtx (entry (.vadd (.v 0) (.v 1) (.v 2)) (wd (0x40000101 + fmt * 0x10000)) xs 0)

/-- INT8: 100 + 100 wraps to −56 = 0xC8; saturated it is 127. -/
theorem test_vadd_int8 : (vctx 8 0).addAt 0 100 100 = (0xC8, 0) := by decide +kernel
theorem test_vaddsat_int8 : (vctx 8 0).satAt (· + ·) 0 100 100 = (127, 0) := by decide +kernel
/-- BF16: 1.5 + 2.5 = 4. -/
theorem test_vadd_bf16 : (vctx 1 0).addAt 0 0x3FC0 0x4020 = (0x4080, 0) := by decide +kernel
/-- UINT8: 5 − 7 wraps to 254. INT16: −7 / 2 = −3. -/
theorem test_vsub_uint8 : (vctx 9 0).subAt 0 5 7 = (254, 0) := by decide +kernel
theorem test_vdiv_int16 : (vctx 7 0).divAt 0 0xFFF9 2 = (0xFFFD, 0) := by decide +kernel
/-- INT8: the larger of −1 and 1 is 1. -/
theorem test_vmax_int8 : (vctx 8 0).maxAt 0 0xFF 1 = (1, 0) := by decide +kernel
/-- INT8: 3 × 5 − 7 = 8; −(3 × 5) + 7 = −8. -/
theorem test_vfms_int8 : (vctx 8 0).fmaAt false true 0 3 5 7 = (8, 0) := by decide +kernel
theorem test_vfnma_int8 : (vctx 8 0).fmaAt true false 0 3 5 7 = (0xF8, 0) := by decide +kernel
/-- R152: a count of the width or more shifts everything out. -/
theorem test_vshl_width : (vctx 8 0).shlAt 0 1 8 = (0, 0) := by decide +kernel
theorem test_vsra_int8 : (vctx 8 0).sraAt 0 0x80 100 = (0xFF, 0) := by decide +kernel
/-- R153: UN holds for a NaN, LT does not and sets NV (bit 0 of the flags, R101). -/
theorem test_vcmp_un : (vctx 0 0).cmpAt .un 0 0x7FC00000 0 = (0xFFFFFFFF, 0) := by decide +kernel
theorem test_vcmp_lt_nan : (vctx 0 0).cmpAt .lt 0 0x7FC00000 0 = (0, fNV) := by decide +kernel
/-- R169: row 0 rotated by −1 among 16 rows takes row 15. -/
theorem test_vrotc_back : rotated 0 (-1) 16 = 15 := by decide +kernel
/-- R170: the INT8 sum 100 + 100 − 1 wraps to −57. -/
theorem test_vredc_add : (vctx 8 0).sumOf 0 [100, 100, 0xFF] = (0xC7, 0) := by decide +kernel
/-- R175: of 1 … 8 the four largest stand at positions 4 to 7; equal ones keep the lowest positions. -/
theorem test_vcmp48 : keptOf (fun i => rankOf .int8 true (i + 1)) = [4, 5, 6, 7] := by decide +kernel
theorem test_vcmp48_ties : keptOf (fun _ => rankOf .int8 true 5) = [0, 1, 2, 3] := by decide +kernel
/-- R159: INT8 0x80 is sign-extended, UINT8 is not. -/
theorem test_vext_int8 : extended .int8 0x80 = -128 := by decide +kernel
theorem test_vext_uint8 : extended .uint8 0x80 = 128 := by decide +kernel
/-- R164: FP32 1.0 is BF16 0x3F80, and 300 in INT8 is limited to 127. -/
theorem test_convert_bf16 : (roundTo .bf16 .rne 0 (readNum .fp32 0x3F800000)).1 = 0x3F80 := by decide +kernel
theorem test_convert_int8 : (roundTo .int8 .rne 0 (readNum .fp32 0x43960000)).1 = 127 := by decide +kernel

/-! ### Witnesses: the hypotheses of each statement are met together by a concrete state

Each theorem is named for its statement and, where the statement has several clauses, for the clause. -/

/-- Two loop levels that end at pc. -/
def looped (lc0 lc1 : Word) : State := labTaskIs fun t =>
  { t with csr := { t.csr with ls0 := 0xFF0, le0 := 0x1000, lc0 := lc0, ls1 := 0xFF8, le1 := 0x1000, lc1 := lc1 } }

theorem witness_IntegerResults_level1 : aluSpec (looped 2 2) (.addi 1 0 0#16) = some (1, 0)
    ∧ (looped 2 2).task.csr.le1 = (looped 2 2).task.pc ∧ 1 < (looped 2 2).task.csr.lc1.toNat := by decide +kernel
theorem witness_IntegerResults_level0 : aluSpec (looped 2 1) (.lui 31 0x1FFFFF#21) = some (31, -0x10000)
    ∧ ¬ ((looped 2 1).task.csr.le1 = (looped 2 1).task.pc ∧ 1 < (looped 2 1).task.csr.lc1.toNat)
    ∧ (looped 2 1).task.csr.le0 = (looped 2 1).task.pc ∧ 1 < (looped 2 1).task.csr.lc0.toNat := by decide +kernel
theorem witness_IntegerResults_neither : aluSpec (looped 1 0) (.div 0 1 2) = some (0, 0x7FFFFFFFFFFFFFFF)
    ∧ ¬ ((looped 1 0).task.csr.le1 = (looped 1 0).task.pc ∧ 1 < (looped 1 0).task.csr.lc1.toNat)
    ∧ ¬ ((looped 1 0).task.csr.le0 = (looped 1 0).task.pc ∧ 1 < (looped 1 0).task.csr.lc0.toNat) := by decide +kernel

theorem witness_ControlFlow_taken : ∃ p k, branchSpec (two 1 1) (.beq 1 2 0x8000#16) = some (p, k) ∧ p := ⟨_, _, rfl, by decide +kernel⟩
theorem witness_ControlFlow_not_taken : ∃ p k, branchSpec (two 1 2) (.bltu 1 2 0x8000#16) = some (p, k) ∧ ¬ p :=
  ⟨_, _, rfl, by decide +kernel⟩
theorem witness_ControlFlow_count_zero : loopSpec (two 0 0) (.loop 0 1 0xFFFF#16) = some (0, 0, 0x40FFC) := by decide +kernel
theorem witness_ControlFlow_nested : loopSpec (looped 2 0) (.loopi 1 511#9 1#16) = some (1, 511, 0x1004)
    ∧ ¬ LoopsNest (withLevel (looped 2 0).task.csr 1 0x1004 0x1004 511) := by
  refine ⟨by decide +kernel, ?_⟩
  unfold LoopsNest
  decide +kernel
theorem witness_ControlFlow_alone : loopSpec lab (.loopi 1 1#9 1#16) = some (1, 1, 0x1004)
    ∧ LoopsNest (withLevel lab.task.csr 1 0x1004 0x1004 1) := ⟨by decide +kernel, .inl rfl⟩

theorem witness_FpsResults : ∃ d r f, fpsSpec lab (.fcvtff 1 2 .s .rne) = some (d, r, f) := ⟨_, _, _, rfl⟩

theorem witness_FpsExact : ((two 0x3FC00000 0xC0100000).fnum .s 1).rat = some (3 / 2)
    ∧ ((two 0x3FC00000 0xC0100000).fnum .s 2).rat = some (-9 / 4) ∧ ((two 0x3FC00000 0xC0100000).fnum .s 0).rat = some 0 := by
  decide +kernel
/-- 3 / 2^26 lies below the smallest FP16 subnormal, 2^-24. -/
theorem witness_FpsExact_rounded : (Machine.Num.exact true 3 (-26)).rat = some (-3 / 67108864) ∧ (-3 / 67108864 : Rat) ≠ 0
    ∧ scaled 1 (-25) ≤ ratMag (-3 / 67108864) ∧ ratMag (-3 / 67108864) < scaled 1 (-25 + 1) := by decide +kernel
theorem witness_FpsExact_identity : (0xFC00 : Nat) - 1 < 2 ^ ff16.width ∧ (ff16.decode 0xFBFF).rat.isSome = true := by decide +kernel

/-- Checks 1 to 4 pass for an access that task mode may make. -/
theorem witness_CsrReads : csrSpec lab (.csrr 1 0x010#12) = some (1, 0x010, true, none) ∧ CsrAllowed lab (.csrr 1 0x010#12) 0x010 true false
    ∧ CsrIdle lab 0x010 false ∧ lab.running = true ∧ lab.csrFree 0x010 = false :=
  ⟨by decide +kernel, ⟨.inr (.inl (by decide)), by decide, by decide, by decide +kernel, by decide +kernel⟩,
    ⟨fun _ => rfl, by decide, by decide⟩, rfl, by decide⟩
theorem witness_CsrReads_values : (0x042, 64) ∈ csrReadsSpec lab ∧ (0x030, 0x40000000) ∈ csrReadsSpec lab
    ∧ (0x10A, 0) ∈ csrReadsSpec lab := by decide +kernel
theorem witness_CsrReads_readOnly : csrSpec lab (.csrr 1 0x040#12) = some (1, 0x040, true, none)
    ∧ CsrAllowed lab (.csrr 1 0x040#12) 0x040 true false :=
  ⟨by decide +kernel, .inr (.inr (.inl (by decide))), by decide, by decide, by decide +kernel, by decide +kernel⟩

theorem witness_CsrWrites_task : csrSpec (two 0x1008 0) (.csrw 0 1 0x024#12) = some (0, 0x024, false, some 0x1008)
    ∧ taskCsrSpec 0x024 0x1008 (two 0x1008 0).task.csr = some { (two 0x1008 0).task.csr with le1 := 0x1008 }
    ∧ CsrAllowed (two 0x1008 0) (.csrw 0 1 0x024#12) 0x024 false true ∧ CsrIdle (two 0x1008 0) 0x024 true
    ∧ LoopsNest { (two 0x1008 0).task.csr with le1 := 0x1008 } :=
  ⟨by decide +kernel, by decide +kernel, ⟨.inr (.inl (by decide)), by decide, by decide, by decide +kernel, by decide +kernel⟩,
    ⟨by decide, by decide, by decide⟩, .inl rfl⟩
theorem witness_CsrWrites_nesting : taskCsrSpec 0x024 0x2000 (looped 2 2).task.csr = some { (looped 2 2).task.csr with le1 := 0x2000 }
    ∧ ¬ LoopsNest { (looped 2 2).task.csr with le1 := 0x2000 } := by
  refine ⟨by decide +kernel, ?_⟩
  unfold LoopsNest
  decide +kernel
theorem witness_CsrWrites_shared : ∃ u, csrSpec (asSup (two 0x103 0)) (.csrw 2 1 0x004#12) = some (2, 0x004, true, some 0x103)
    ∧ sharedCsrSpec (asSup (two 0x103 0)) 0x004 0x103 = some u ∧ (asSup (two 0x103 0)).sup = true
    ∧ CsrAllowed (asSup (two 0x103 0)) (.csrw 2 1 0x004#12) 0x004 true true :=
  ⟨_, by decide +kernel, rfl, by decide +kernel, .inl (by decide +kernel), by decide, by decide, by decide +kernel, by decide +kernel⟩
theorem witness_CsrWrites_partition : ∃ u, sharedCsrSpec (asSup lab) 0x10A 0x7FFF = some u := ⟨_, rfl⟩

/-- A forked rival's state. -/
def rivalState : State := labTaskIs fun t => { t with id := { t.id with world := 2, forked := true, parent := 9 } }

theorem witness_CsrFaults_privileged : csrSpec lab (.csrw 0 1 0x004#12) = some (0, 0x004, false, some 0) ∧ lab.sup = false
    ∧ csrUse 0x004 ≠ .readWrite ∧ csrUse 0x004 ≠ .readOnly ∧ ¬ clearsSb lab (.csrw 0 1 0x004#12) :=
  ⟨by decide +kernel, by decide +kernel, by decide, by decide, id⟩
theorem witness_CsrFaults_unassigned : (asSup lab).sup = true ∧ csrUse 0xFFF = .unassigned := by decide +kernel
theorem witness_CsrFaults_fixed : (asSup lab).sup = true ∧ csrUse 0x030 ≠ .unassigned ∧ csrFixed 0x030 = true := by decide +kernel
theorem witness_CsrFaults_det : (asDet lab).det = true ∧ csrUse 0x041 = .readOnly ∧ csrFixed 0x041 = true := by decide +kernel
theorem witness_CsrFaults_rival : (asSup rivalState).sup = true ∧ csrUse 0x051 ≠ .unassigned ∧ csrFixed 0x051 = false
    ∧ (asSup rivalState).det = false ∧ (asSup rivalState).inRival = true := by decide +kernel

theorem witness_CsrWriteSteps_task : writeStepSpec (.loopRegisterWrite 5 (-1)) = some (0x025, -1)
    ∧ taskCsrSpec 0x025 (-1) lab.task.csr = some { lab.task.csr with lc1 := -1 } ∧ csrUse 0x025 = .readWrite ∧ CsrIdle lab 0x025 true
    ∧ lab.task.part = none ∧ LoopsNest { lab.task.csr with lc1 := -1 } :=
  ⟨by decide +kernel, by decide +kernel, by decide, ⟨by decide, by decide, by decide⟩, rfl, .inl rfl⟩
theorem witness_CsrWriteSteps_shared : ∃ u, writeStepSpec (.fwgrantWrite (-1)) = some (0x10B, -1)
    ∧ sharedCsrSpec (asSup lab) 0x10B (-1) = some u ∧ (asSup lab).running = true ∧ (asSup lab).task.part = none ∧ (asSup lab).sup = true ∧ (asSup lab).inRival = false :=
  ⟨_, by decide +kernel, rfl, rfl, rfl, by decide +kernel, by decide +kernel⟩
/-- Two live launches; the second does not run. -/
def twoLaunches : State := { asSup lab with launches := [labLaunch, { labLaunch with id := 2 }] }
theorem witness_CsrWriteSteps_places : (asSup lab).task.id.world = 0 ∧ (asSup lab).world? 0 = none ∧ (asSup lab).wf = true
    ∧ (asSup lab).dev.slots[(0 : Fin 4)].isSome = true ∧ (asSup lab).dev.slots[(3 : Fin 4)] = none
    ∧ (loftAddr 0x1BFFC0).toNat % 64 = 0 ∧ (asSup lab).task.addrKind (loftAddr 0x1BFFC0) = .loft 0x1BFFC0
    ∧ (asSup lab).launchesAllowed = true ∧ ((asSup lab).launches.map fun k => (k.part, k.id)).Nodup
    ∧ (asSup lab).parts[(asSup lab).myPart].attest = none := by decide +kernel
theorem witness_CsrWriteSteps_reaches : Reaches (asSup lab) .load (loftAddr 0x1BFFC0) 64 (asSup lab) (.loft 0x1BFFC0) := ⟨⟨rfl, rfl, rfl, rfl, fun _ => rfl⟩, rfl, rfl⟩
theorem witness_CsrWriteSteps_end : twoLaunches.launches = [labLaunch] ++ { labLaunch with id := 2 } :: []
    ∧ (twoLaunches.launches.map fun k => (k.part, k.id)).Nodup ∧ labLaunch.part = twoLaunches.myPart
    ∧ (0x8002 : Word).toNat % 2 ^ 12 = 2 ∧ (0x8002 : Word).toNat / 2 ^ 15 % 2 = 1 ∧ twoLaunches.task.id.launch ≠ 2
    ∧ ∀ k ∈ [labLaunch] ++ [], k.part = labLaunch.part → (2 : BitVec 12) ∉ k.preds := by decide +kernel

/-- Page tables for virtual page 0: the root at 0x10000, a table of each lower level, and a leaf for page 0x50000. -/
def walked : State :=
  { lab with
    tlb := [], ctxs := lab.ctxs.set 0 { Context.reset with ptbase := 0x10000 }
    mem := [(0x10000, 0x01), (0x10002, 0x02), (0x20000, 0x01), (0x20002, 0x03), (0x30000, 0x01), (0x30002, 0x04),
      (0x40000, 0x1F), (0x40001, 0x01), (0x40002, 0x05)] }
theorem witness_Translation_walk : walksTo walked (walked.who false) walked.root 0xFFFF 3 0x40000 :=
  ⟨0x30000, ⟨0x20000, ⟨0x10000, (by decide +kernel : 0x10000 = walked.root), ⟨by decide +kernel, rfl, rfl, rfl⟩, by
    unfold pointsTo; decide +kernel⟩, ⟨by decide +kernel, rfl, rfl, rfl⟩, by unfold pointsTo; decide +kernel⟩,
    ⟨by decide +kernel, rfl, rfl, rfl⟩, by unfold pointsTo; decide +kernel⟩
theorem witness_Translation_leaf : walked.pteReadable (walked.who false) 0x40000 0xFFFF 0 ∧ walked.tlb.find? (·.covers 0 0xFFFF) = none
    ∧ leafAccepted walked.parts[(0 : Fin 16)] (walked.pteIn 0x40000 0xFFFF 0) 0 :=
  ⟨⟨by decide +kernel, rfl, rfl, rfl⟩, rfl, by unfold leafAccepted; decide +kernel⟩
theorem witness_Translation_refused : walksTo walked (walked.who false) walked.root (2 ^ 56 - 1) 0 0x10000 ∧ walked.pteReadable (walked.who false) 0x10000 (2 ^ 56 - 1) 3
    ∧ refusedPte walked.parts[(0 : Fin 16)] (walked.pteIn 0x10000 (2 ^ 56 - 1) 3) 3 := by
  refine ⟨(by decide +kernel : 0x10000 = walked.root), ⟨by decide +kernel, rfl, rfl, rfl⟩, ?_, .inr fun t h => ?_⟩
  · unfold leafAccepted
    decide +kernel
  · have h0 : (walked.pteIn 0x10000 (2 ^ 56 - 1) 3).toNat = 0 := by decide +kernel
    have := h.1
    omega
theorem witness_Translation_loft : lab.task.storeQ = [] ∧ lab.task.thr.cmds = [] ∧ (∀ t ∈ lab.keptTasks, t.storeQ = [])
    ∧ lab.task.addrKind (loftAddr 0x1BFFFF) = .loft 0x1BFFFF ∧ lab.task.id.unfilled.contains (0x1BFFFF / 0x10000) = false
    ∧ lab.task.badLoft.contains (granule 0x1BFFFF) = false := by decide +kernel
theorem witness_Translation_device : lab.task.addrKind 0xFFFF = .global ∧ lab.lookup (lab.who lab.sup) (0xFFFF : Word).toNat = .leaf 0x1011F 0
    ∧ grants lab.sup .amo 0x1011F ∧ (0x1011F : Word).toNat / 64 % 4 ≠ 2 ∧ lab.isolatedAt 0x1FFFF = false
    ∧ lab.badDevice lab.task.id.world 0x1FFFF = false :=
  ⟨by decide +kernel, by decide +kernel, ⟨by decide, .inr (by decide)⟩, by decide, by decide +kernel, by decide +kernel⟩
/-- The mapped page of the host's memory, and of a peer through table entry 0 and a port that is up. -/
def hostPage : State := { lab with tlb := [⟨0, 0, 0x10000, 0x1019F⟩] }
/-- See `hostPage`. -/
def peerPage : State :=
  { lab with
    tlb := [⟨0, 0, 0x10000, 0x400000001019F⟩], mem := [(0x80000, 1), (0x80007, 0x80)], ports := lab.ports.set 0 { Port.reset with up := true }
    parts := lab.parts.set 0 { Partition.whole with coltab := 0x80001 } }
theorem witness_Translation_host : hostPage.lookup (hostPage.who hostPage.sup) 0 = .leaf 0x1019F 0 ∧ grants hostPage.sup .load 0x1019F
    ∧ (0x1019F : Word).toNat / 64 % 4 = 2 ∧ (0x1019F : Word).toNat / 2 ^ 50 % 4 = 0 ∧ hostPage.hostErr.contains (granule 0x10000) = false :=
  ⟨by decide +kernel, ⟨by decide, .inr (by decide)⟩, by decide, by decide, by decide +kernel⟩
theorem witness_Translation_peer : peerPage.lookup (peerPage.who peerPage.sup) 0 = .leaf 0x400000001019F 0
    ∧ grants peerPage.sup .load 0x400000001019F ∧ (0x400000001019F : Word).toNat / 64 % 4 = 2
    ∧ (0x400000001019F : Word).toNat / 2 ^ 50 % 4 ≠ 0 ∧ peerPage.peerUp peerPage.myPart 0 = true
    ∧ peerPage.peerErr.contains (peerKey 0 (granule 0x10000)) = false :=
  ⟨by decide +kernel, ⟨by decide, .inr (by decide)⟩, by decide, by decide, by decide +kernel, by decide +kernel⟩
/-- A loft page still to be refilled, without and with a backing slot. -/
def unbacked : State := labTaskIs fun t => { t with id := { t.id with unfilled := [27] } }
/-- See `unbacked`. -/
def backed : State :=
  { unbacked with
    ctxs := lab.ctxs.set 0 { Context.reset with lpool := 0x210002, pairs := [0] }
    task := { unbacked.task with id := { unbacked.task.id with pair := some (0, 0x200000) } } }
theorem witness_Translation_refill : unbacked.wf = true ∧ unbacked.task.addrKind (loftAddr 0x1BFFFF) = .loft 0x1BFFFF
    ∧ unbacked.task.id.unfilled.contains (0x1BFFFF / 0x10000) = true
    ∧ unbacked.task.id.pair = none
    ∧ backed.task.id.unfilled.contains (0x1BFFFF / 0x10000) = true
    ∧ backed.task.id.pair = some (0, 0x200000) ∧ backed.ctxs[backed.task.id.cid].lpool.toNat / 2 ^ 16 % 2 = 1
    ∧ 2 * 0 + 2 ≤ backed.ctxs[backed.task.id.cid].lpool.toNat % 2 ^ 16 ∧ (0x200000 + 0x400000 : Nat) ≤ 0x20000000000
    ∧ backed.isolatedAt (0x200000 + 0x1BFFFF / 0x10000 * 0x10000) = false ∧ backed.badLines = [] := by decide +kernel

theorem witness_Loads : ∃ ext, loadSpec (withX lab [(1, loftAddr 0x1BFFF8)]) (.ld 2 1 0#16) = some (2, loftAddr 0x1BFFF8, 8, ext)
    ∧ Reaches (withX lab [(1, loftAddr 0x1BFFF8)]) .load (loftAddr 0x1BFFF8) 8 (withX lab [(1, loftAddr 0x1BFFF8)]) (.loft 0x1BFFF8) :=
  ⟨_, rfl, ⟨rfl, rfl, rfl, rfl, fun _ => rfl⟩, rfl, rfl⟩
theorem witness_Loads_refill : ∃ s1, Reaches backed .load (loftAddr 0x1BFFF8) 8 s1 (.loft 0x1BFFF8) := ⟨_, ⟨rfl, rfl, rfl, rfl, fun _ => rfl⟩, rfl, rfl⟩

theorem witness_Stores : storeSpec (two 0xFFF8 5) (.sd 2 1 0#16) = some (0xFFF8, 8, 5) ∧ (two 0xFFF8 5).wf = true
    ∧ (two 0xFFF8 5).task.addrKind 0xFFF8 ≠ .out := by decide +kernel
theorem witness_Stores_reaches : Reaches lab .store 0xFFF8 8 lab (.device 0x1FFF8)
    ∧ lab.claimCheck (lab.who lab.sup) 0xFFF8 (.device 0x1FFF8) = .ok lab := ⟨⟨⟨rfl, rfl, rfl, rfl, fun _ => rfl⟩, rfl, rfl⟩, rfl⟩
/-- A rival with its world, in a context without a pool. -/
def rivalLab : State :=
  { rivalState with worlds := [⟨2, 0, 5, 1, 0, 0, 1, [], [], []⟩], nextWorld := 3 }
theorem witness_Stores_pool : storeSpec rivalLab (.sb 1 0 8#16) = some (8, 1, 0) ∧ rivalLab.claim rivalLab.task.id.world (0x10008 / 4096) = none
    ∧ rivalLab.task.id.forked = true ∧ rivalLab.ctxs[rivalLab.task.id.cid].wtrap.toNat % 2 = 0 ∧ rivalLab.task.id.choice = none := by
  decide +kernel
theorem witness_Stores_pool_reaches : Reaches rivalLab .store 8 1 rivalLab (.device 0x10008) := ⟨⟨rfl, rfl, rfl, rfl, fun _ => rfl⟩, rfl, rfl⟩

theorem witness_ScalarFaults_range : accessSpec (two (-1) 0) (.lb 3 1 0#16) = some (.load, -1, 1) ∧ (two (-1) 0).task.addrKind (-1) = .out
    ∧ (two (-1) 0).det = false := by decide +kernel
theorem witness_ScalarFaults_misaligned : accessSpec (two 1 0) (.amoadd 3 1 2 .croft false false true) = some (.amo, 1, 4)
    ∧ (two 1 0).task.addrKind 1 ≠ .out ∧ (1 : Word).toNat % 4 ≠ 0 := by decide +kernel
theorem witness_ScalarFaults_page : lab.task.addrKind 0x10000 = .global ∧ lab.lookup (lab.who lab.sup) (0x10000 : Word).toNat = .invalid := by
  decide +kernel
theorem witness_ScalarFaults_protection : ¬ grants false .store 0x1011B := by unfold grants; decide
theorem witness_ScalarFaults_backing : accessSpec (withX unbacked [(1, loftAddr 0x1BFFF8)]) (.sd 0 1 0#16) = some (.store, loftAddr 0x1BFFF8, 8)
    ∧ (withX unbacked [(1, loftAddr 0x1BFFF8)]).task.id.unfilled.contains (0x1BFFF8 / 0x10000) = true
    ∧ (∀ d b e c n, amoFields (.sd 0 1 0#16) = some (d, b, e, c, n) → c = .croft) :=
  ⟨by decide +kernel, by decide +kernel, fun _ _ _ _ _ h => nomatch h⟩
theorem witness_ScalarFaults_scope : amoFields (.amoor 1 2 3 .die false true true) = some (1, 2, 3, .die, true) ∧ lab.det = false
    ∧ lab.task.addrKind (loftAddr 0x1BFFFC) = .loft 0x1BFFFC ∧ (loftAddr 0x1BFFFC).toNat % 4 = 0 := by decide +kernel
theorem witness_ScalarFaults_external : hostPage.task.addrKind 8 = .global ∧ hostPage.task.id.world = 0 ∧ hostAmo (.amomax 1 2 3 .fabric false false false) = false
    ∧ grants hostPage.sup .amo 0x1019F := ⟨by decide +kernel, by decide +kernel, by decide, ⟨by decide, .inr (by decide)⟩⟩

theorem witness_AtomicOps : amoFields (.amofadd 3 1 2 .fabric true true true) = some (3, 1, 2, .fabric, true) ∧ lab.wf = true ∧ lab.det = false
    ∧ scopeAgrees (.amofadd 3 1 2 .fabric true true true) .fabric (.device 0x1FFFC) := ⟨by decide, by decide +kernel, by decide +kernel, trivial⟩
theorem witness_AtomicOps_reaches : Reaches lab .amo 0xFFFC 4 lab (.device 0x1FFFC)
    ∧ ∃ s2, lab.claimCheck (lab.who lab.sup) 0xFFFC (.device 0x1FFFC) = .ok s2 := ⟨⟨⟨rfl, rfl, rfl, rfl, fun _ => rfl⟩, rfl, rfl⟩, _, rfl⟩
/-- A queued VST whose granule lies at the host, with its tile to come. -/
def windowStore (tiles : List Tile) : State := labTaskIs fun t => { t with
  storeQ := [⟨.vst 4 1 2 .int32, 0x1000, 0x40, 4, 0x40060101, [], [(0x40, .host 0x40)], [], 0, 0, false, false⟩]
  q := t.q.set 4 ⟨.store, tiles, none⟩ }
theorem witness_AtomicOps_release : amoRel (.amoadd 3 1 2 .fabric false true false) = true
    ∧ (windowStore [Tile.zero]).task.storeQ.length = 1 ∧ (windowStore [Tile.zero]).task.storeDead 0 = false
    ∧ (windowStore []).task.storeDead 0 = true := by decide +kernel
theorem witness_AtomicOps_window : ∃ e, (windowStore [Tile.zero]).task.storeQ[0]? = some e ∧ e.toWindow :=
  ⟨_, rfl, (0x40, .host 0x40), by simp, rfl⟩

/-- Ranges up to a small bound, checked case by case. -/
theorem forall_lt_two {P : Nat → Prop} (h0 : P 0) (h1 : P 1) : ∀ j, j < 2 → P j
  | 0, _ => h0
  | 1, _ => h1

theorem witness_RegisterLists_push : ListReaches (withX lab [(9, loftAddr 0x40)]) 1 2 9 false true (fun j => .loft (0x40 + 8 * j)) :=
  ⟨by decide, by decide +kernel, by decide, fun j hj => match j, hj with
    | 0, _ => by decide +kernel
    | 1, _ => by decide +kernel, fun j hj => match j, hj with
    | 0, _ => ⟨⟨rfl, rfl, rfl, rfl, fun _ => rfl⟩, fun _ => ⟨⟨rfl, rfl⟩, rfl⟩⟩
    | 1, _ => ⟨⟨rfl, rfl, rfl, rfl, fun _ => rfl⟩, fun _ => ⟨⟨rfl, rfl⟩, rfl⟩⟩⟩
theorem witness_RegisterLists_push_starts : ListAt (withX lab [(9, loftAddr 0x40)]) (.pushm 1 2 9 false) 1 2 9 false true
    (fun j => .loft (0x40 + 8 * j)) 0 [] ∧ lab.rootFull lab.task.id.world (.loft 0x40) = false :=
  ⟨⟨rfl, fun _ h => (nomatch h), .inl ⟨rfl, rfl, rfl, witness_RegisterLists_push⟩⟩, rfl⟩
/-- A list instruction that has one piece left. -/
def midList (i : Instr) (got : List (Nat × List Byte)) : State := withX (labTaskIs fun t => { t with
  part := some ⟨i, [], [((loftAddr 0x48).toNat, .loft 0x48)], got⟩ }) [(9, loftAddr 0x40)]
theorem witness_RegisterLists_push_goes_on : ListAt (midList (.pushm 1 2 9 false) []) (.pushm 1 2 9 false) 1 2 9 false true
    (fun j => .loft (0x40 + 8 * j)) 1 [] := ⟨rfl, fun _ h => (nomatch h), .inr rfl⟩
theorem witness_RegisterLists_pop_goes_on : ListAt (midList (.popm 1 2 9 false) [((loftAddr 0x40).toNat, leBytes 8 5)]) (.popm 1 2 9 false)
    1 2 9 false false (fun j => .loft (0x40 + 8 * j)) 1 [((loftAddr 0x40).toNat, leBytes 8 5)]
    ∧ Sound (midList (.popm 1 2 9 false) []) .load (loftAddr 0x48) 8 (.loft 0x48) :=
  ⟨⟨rfl, fun g h => by rw [List.mem_singleton] at h; subst h; rfl, .inr rfl⟩, rfl, rfl⟩
theorem witness_RegisterLists_pop : ListReaches lab 31 31 0 false false (fun j => .loft (0x1C0000 + 8 * j)) ∨
    ListReaches (labTaskIs fun t => { t with csr := { t.csr with ssp := loftAddr 0x1BFFF8 } }) 31 31 0 false false
      (fun _ => .loft 0x1BFFF8) :=
  .inr ⟨by decide, by decide +kernel, by decide, fun j hj => match j, hj with
    | 0, _ => by decide +kernel, fun j hj => match j, hj with
    | 0, _ => ⟨⟨rfl, rfl, rfl, rfl, fun _ => rfl⟩, fun h => nomatch h⟩⟩
theorem witness_RegisterLists_range : lab.task.addrKind (listBase lab 0 0 0 false false + wd (8 * 0)) = .out := by decide +kernel
theorem witness_RegisterLists_misaligned : (∀ m, m < 1 → (two 4 0).task.addrKind (listBase (two 4 0) 5 5 1 false true + wd (8 * m)) ≠ .out)
    ∧ ((two 4 0).x 1).toNat % listBytes false ≠ 0 := by decide +kernel
theorem witness_RegisterLists_spill :
    let s := labTaskIs fun t => { t with csr := { t.csr with ssp := t.csr.sslim } }
    (listBase s 1 1 0 false true).toNat < s.task.csr.sslim.toNat ∧ s.task.csr.ssp.toNat % listBytes false = 0 := by decide +kernel
theorem witness_RegisterLists_check : ∃ r, (two 0x10000 0).placeFind ((two 0x10000 0).who (two 0x10000 0).sup) .load 0x10000 = .bad r ∧ (two 0x10000 0).task.part = none := ⟨_, rfl, rfl⟩

/-- A handler at 0x100 in context 0. -/
def handled (s : State) : State := { s with ctxs := s.ctxs.set 0 { s.ctxs[0] with tvec := 0x100, wtrap := 0x201 } }

theorem delivered_of (s : State) (c : Cause) (v : Word) (h1 : s.task.reruns = false) (h2 : c.code ≠ 0x51) (h3 : handlerOf s c ≠ 0)
    (h4 : ∃ w, s.fetchWord true (handlerOf s c) = .ok w) : Delivered s (ownTrap c v) :=
  ⟨.inr (.inr h1), fun h => absurd h h2, h3, .inr h4⟩
theorem witness_TrapEntry : Delivered ((handled lab).logLine (handled lab).myPart none) (ownTrap .watchdog 0) :=
  delivered_of _ _ _ rfl (by decide) (by decide +kernel) ⟨_, rfl⟩
theorem witness_TrapEntry_pool : Delivered (handled lab) (ownTrap .worldPool 0x1000) :=
  ⟨.inr (.inr rfl), fun _ => by decide +kernel, by decide +kernel, .inr ⟨_, rfl⟩⟩
theorem witness_TrapEntry_no_handler : lab.running = true ∧ lab.myLaunch = some labLaunch ∧ lab.task.reruns = false
    ∧ handlerOf lab .illegal = 0 ∧ lab.task.id.forked = false := by decide +kernel
theorem witness_TrapEntry_rival : rivalState.running = true ∧ rivalState.myLaunch = some labLaunch ∧ handlerOf rivalState .illegal = 0
    ∧ rivalState.task.id.forked = true := by decide +kernel

/-- The state with pending causes. -/
def pends (f : Pending → Pending) : State := labTaskIs fun t => { t with pend := f t.pend }
theorem witness_TrapOrder_masked : (asSup lab).running = true ∧ (asSup lab).canPreempt = false ∧ (asSup lab).overBudget = false
    ∧ (asSup lab).sup = true ∧ (asSup lab).task.csr.status.toNat / 2 % 2 = 0 := by decide +kernel
theorem witness_TrapOrder_hw : (pends ({ · with hw := true })).canPreempt = false ∧ (pends ({ · with hw := true })).overBudget = false
    ∧ (pends ({ · with hw := true })).sup = false ∧ (pends ({ · with hw := true })).task.pend.hw = true := by decide +kernel
theorem witness_TrapOrder_watchdog : (pends ({ · with watchdog := true })).task.pend.hw = false
    ∧ (pends ({ · with watchdog := true })).task.pend.watchdog = true := by decide +kernel
theorem witness_TrapOrder_set : ({ lab with ctxs := lab.ctxs.set 0 { Context.reset with xset := 3 } } : State).slotHeld 0 = false := by
  decide +kernel
theorem witness_TrapOrder_ve : (pends ({ · with ve := some ⟨.format, 0⟩ })).slotHeld 0 = true
    ∧ (pends ({ · with ve := some ⟨.format, 0⟩ })).task.pend.ve = some ⟨.format, 0⟩ := by decide +kernel
theorem witness_TrapOrder_thresher : (pends ({ · with thresher := some ⟨.stampOverrun, 0⟩ })).task.pend.ve = none
    ∧ (pends ({ · with thresher := some ⟨.stampOverrun, 0⟩ })).task.pend.thresher = some ⟨.stampOverrun, 0⟩ := by decide +kernel
theorem witness_TrapOrder_channel :
    let s := pends fun p => { p with ch := p.ch.set 3 (some ⟨.stampOverrun, 0⟩) }
    s.task.pend.ch[(3 : Fin 4)] = some ⟨.stampOverrun, 0⟩ ∧ ∀ j : Fin 4, j < 3 → s.task.pend.ch[j] = none := by decide +kernel
theorem witness_TrapOrder_stream :
    let s := pends fun p => { p with stream := p.stream.set 7 (some ⟨.streamRate, 0⟩) }
    (∀ j : Fin 4, s.task.pend.ch[j] = none) ∧ s.task.pend.stream[(7 : Fin 8)] = some ⟨.streamRate, 0⟩
      ∧ ∀ j : Fin 8, j < 7 → s.task.pend.stream[j] = none := by decide +kernel
theorem witness_TrapOrder_collective :
    let s := pends ({ · with coll := [⟨.collectiveInvalid, 0⟩] })
    (∀ j : Fin 8, s.task.pend.stream[j] = none) ∧ s.task.pend.coll = ⟨.collectiveInvalid, 0⟩ :: [] ∧ lab.task.pend.coll = [] := by decide +kernel

/-- A state and the same state past its instruction. -/
theorem witness_ServiceRequests : ∃ u, u = { handled lab with task := { (handled lab).task with csr := u.task.csr, pc := u.task.pc } }
    ∧ Retired (handled lab) u (handled lab).task.csr ∧ Delivered u (ownTrap .svreqTask (handled lab).task.pc)
    ∧ Delivered u (ownTrap .debugBreak (handled lab).task.pc) :=
  ⟨{ handled lab with task := (handled lab).task.advance }, rfl, ⟨rfl, rfl⟩,
    delivered_of _ _ _ rfl (by decide) (by decide +kernel) ⟨_, rfl⟩, delivered_of _ _ _ rfl (by decide) (by decide +kernel) ⟨_, rfl⟩⟩
theorem witness_ServiceRequests_super : ∃ u, u = { handled (asSup lab) with task := { (handled (asSup lab)).task with csr := u.task.csr, pc := u.task.pc } }
    ∧ (handled (asSup lab)).sup = true ∧ Delivered u (ownTrap .svreqSuper (handled (asSup lab)).task.pc) :=
  ⟨{ handled (asSup lab) with task := (handled (asSup lab)).task.advance }, rfl, by decide +kernel,
    delivered_of _ _ _ rfl (by decide) (by decide +kernel) ⟨_, rfl⟩⟩

/-- A trap handler about to return, to task mode where `status` says so. -/
def handler (status epc vepc : Word) : State := labTaskIs fun t =>
  { t with csr := { t.csr with status := status, epc := epc, vepc := vepc, cause := if vepc = 0 then 0 else 0x80 } }
theorem witness_TrapReturn_plain : (handler 1 0x2000 0).sup = true ∧ (handler 1 0x2000 0).task.veQ = []
    ∧ ¬ ((handler 1 0x2000 0).task.csr.vepc.toNat % 2 = 1) ∧ ¬ ((handler 1 0x2000 0).task.csr.epc.toNat % 2 = 1) := by decide +kernel
/-- One held VE instruction at 0x2000, which VEPC names with SKIP. -/
def skipping : State := { handler 1 0x2000 0x2001 with task := { (handler 1 0x2000 0x2001).task with
  held := [⟨[{ entry (.vnot (.v 0) (.v 1)) 0 0 0 with addr := 0x2000 }], none, none, none⟩] } }
theorem witness_TrapReturn_skip : Skipped skipping.task { skipping.task with held := [⟨[], none, none, none⟩] } ∧ skipping.task.csr.vepc.toNat % 2 = 1
    ∧ skipping.task.csr.cause.toNat / 0x80 % 2 = 1 :=
  ⟨.inr ⟨fun e h => (nomatch (show e ∈ ([] : List StoreEntry) from h)), .inl ⟨[], _, [], { entry (.vnot (.v 0) (.v 1)) 0 0 0 with addr := 0x2000 }, [], [], rfl,
    fun _ h => (nomatch h), rfl, rfl, fun _ h => (nomatch h), rfl⟩⟩, by decide +kernel, by decide +kernel⟩
/-- A VST at 0x2000 that its trap holds. -/
def heldStore : StoreEntry := ⟨.vst 4 1 2 .int32, 0x2000, 0x40, 4, 0x40060101, [], [(0x40, .device 0x10040)], [], 3, 0, true, true⟩
/-- See `heldStore`. -/
def skippingStore : State := { handler 1 0x2000 0x2001 with task := { (handler 1 0x2000 0x2001).task with
  storeQ := [heldStore], held := [⟨[], some 3, none, none⟩] } }
theorem witness_TrapReturn_skip_store : Skipped skippingStore.task { skippingStore.task with
      storeQ := [], q := skippingStore.task.q.set 4 { skippingStore.task.q[(4 : Fin 8)] with tiles := [] } } :=
  .inl ⟨heldStore, [], [], ⟨_, [], rfl, rfl, rfl, rfl⟩, rfl, fun _ h => (nomatch h), rfl⟩
/-- A frame pool of one pair. -/
def pooled (s : State) : State := { s with ctxs := s.ctxs.set 0 { s.ctxs[0] with lpool := 0x210002 } }
theorem witness_TrapReturn_save : (pooled (handler 1 0x2001 0)).myLaunch = some labLaunch
    ∧ (pooled (handler 1 0x2001 0)).task.csr.epc.toNat % 2 = 1 ∧ (pooled (handler 1 0x2001 0)).task.csr.status.toNat / 4 % 2 = 0
    ∧ (({ pooled (handler 1 0x2001 0) with task := returned (pooled (handler 1 0x2001 0)).task } : State).pairFor
        (returned (pooled (handler 1 0x2001 0)).task)).isSome = true := by decide +kernel
theorem witness_TrapReturn_not_deferred : ({ pooled (handler 1 0x2001 0) with task := returned (pooled (handler 1 0x2001 0)).task } : State).deferred = false := by
  decide +kernel
/-- A STAMPED launch whose task has a stamped command that has not started. -/
def deferring : State := { handler 1 0x2001 0 with
  launches := [{ labLaunch with stamped := true }]
  task := { (handler 1 0x2001 0).task with thr := { (handler 1 0x2001 0).task.thr with cmds := [⟨[0x500020004], 0, 0, 1, false, false, none, 0⟩] } } }
theorem witness_TrapReturn_deferred : ({ deferring with task := returned deferring.task } : State).deferred = true := by decide +kernel
theorem witness_TrapReturn_refused : ({ handler 1 0x2001 0 with task := returned (handler 1 0x2001 0).task } : State).pairFor
    (returned (handler 1 0x2001 0).task) = none := by decide +kernel

theorem witness_Harvest_faults : lab.sup = false ∧ (asSup rivalState).task.id.world ≠ 0 ∧ (asSup (two 4 0)).sup = true
    ∧ ((asSup (two 4 0)).x 1).toNat % 8 ≠ 0 ∧ (2 ^ 25 - 64 + 128 : Nat) > 2 ^ 25 := by decide +kernel
/-- The last 64 records of the device, and a bitmap at virtual 0x100. -/
def harvesting : State := asSup (two 0x100 (wd ((2 ^ 25 - 64) * 2 ^ 32 + 64)))
theorem witness_Harvest : harvesting.sup = true ∧ harvesting.task.id.world = 0 ∧ (harvesting.x 1).toNat % 8 = 0
    ∧ (harvesting.x 2).toNat / 2 ^ 32 + (harvesting.x 2).toNat % 2 ^ 32 ≤ 2 ^ 25 ∧ harvesting.wf = true ∧ harvesting.world? 0 = none
    ∧ harvesting.dirty.Nodup ∧ harvesting.task.addrKind 0x100 ≠ .out ∧ (Place.device 0x10100).isWindow = false := by decide +kernel
theorem witness_Harvest_reaches : Reaches harvesting .store 0x100 8 harvesting (.device 0x10100) := ⟨⟨rfl, rfl, rfl, rfl, fun _ => rfl⟩, rfl, rfl⟩

theorem witness_Waits : ∃ c, waitSpec (two 0 0) (.waitt 1) = some c ∧ c := ⟨_, rfl, by decide +kernel⟩
theorem witness_Waits_not : ∃ c, waitSpec (two 1 0) (.waitt 1) = some c ∧ ¬ c := ⟨_, rfl, by decide +kernel⟩
theorem witness_Waits_fence : ∃ c, waitSpec lab (.fence .fabric true true) = some c ∧ c := ⟨_, rfl, by decide +kernel, fun _ => by decide +kernel⟩
theorem witness_Waits_stook : ∃ c, waitSpec (two 1 0) (.skwait 1 15) = some c ∧ ¬ c := ⟨_, rfl, by decide +kernel⟩
theorem witness_Waits_pointer : ∃ c, waitSpec (two 1 0) (.wpwait 1 3) = some c ∧ ¬ c := ⟨_, rfl, by decide +kernel⟩
theorem witness_Waits_interrupt : (asSup lab).sup = true ∧ (asSup lab).task.pend.hw = false ∧ (asSup lab).task.pend.coll = []
    ∧ (asSup (pends ({ · with watchdog := true }))).sup = true
    ∧ (asSup (pends ({ · with watchdog := true }))).task.pend.watchdog = true := by decide +kernel
theorem witness_Flushes : lab.task.storeQ = [] ∧ skippingStore.task.storeQ ≠ [] ∧ (asSup lab).sup = true := by decide +kernel
theorem witness_Stooks : lab.det = false ∧ (asDet lab).det = true ∧ lab.task.stooks[(15 : Fin 16)].target = 0
    ∧ (labTaskIs fun t => { t with stooks := t.stooks.set 15 ⟨3, 4, false⟩ }).task.stooks[(15 : Fin 16)].target ≠ 0 := by decide +kernel
theorem witness_EngineSequence : (two 4 0).det = false ∧ (two 4 0).x 1 = 4 ∧ (asDet lab).det = true := by decide +kernel
theorem witness_Shapes : shapeSpec 0 64 = some (0x40000000, 0) ∧ shapeSpec 0x1CFFFF 64 = none ∧ shapeSpec 0x1C4010 64 = some (0x400C4010, 0x1C4010)
    ∧ shapeSpec 0x1C4110 64 = none := by decide +kernel

/-- A rank-2 SYM2 descriptor of 4 × 4 at loft 0x40, an invalid one at loft 0x80, addressed by x1, with the tuple in x2. -/
def orbits (a b : Word) : State := withX (labTaskIs fun t =>
  { t with loft := Mem.putBytes (memAt 0x40 (dwords [0x200000101, 0x40004, 1, 0])) 0x80 (dwords [0x500000000, 0, 0, 0]) })
  [(1, a), (2, b)]
theorem witness_OrbitResults : ∃ f, orbSpec (.orboff 3 1 2) = some (3, 1, 2, f) ∧ (orbits (loftAddr 0x40) 0x30003).wf = true
    ∧ Reaches (orbits (loftAddr 0x40) 0x30003) .load (loftAddr 0x40) 32 (orbits (loftAddr 0x40) 0x30003) (.loft 0x40)
    ∧ Desc.valid (recordAt (orbits (loftAddr 0x40) 0x30003) (.loft 0x40)) = true :=
  ⟨_, rfl, by decide +kernel, ⟨⟨rfl, rfl, rfl, rfl, fun _ => rfl⟩, rfl, rfl⟩, by decide +kernel⟩
theorem witness_OrbitResults_inside : let D := Desc.ofDwords [0x200000101, 0x40004, 1, 0]
    D.rank = 2 ∧ (3 : Nat) < D.ext 0 ∧ (3 : Nat) < D.ext 1 ∧ D.ext 1 ≤ 4 := by decide +kernel
theorem witness_OrbitResults_invalid : Reaches (orbits (loftAddr 0x80) 0) .load (loftAddr 0x80) 32 (orbits (loftAddr 0x80) 0) (.loft 0x80)
    ∧ Desc.valid (recordAt (orbits (loftAddr 0x80) 0) (.loft 0x80)) = false := ⟨⟨⟨rfl, rfl, rfl, rfl, fun _ => rfl⟩, rfl, rfl⟩, by decide +kernel⟩
theorem witness_OrbitResults_faults : (31 : Word).toNat % 32 ≠ 0 ∧ lab.task.addrKind (-32) = .out ∧ (-32 : Word).toNat % 32 = 0 := by
  decide +kernel

theorem witness_Spawn : lab.task.id.world = 0 ∧ (loftAddr 0x1BFFE0).toNat % 32 = 0 ∧ lab.myLaunch = some labLaunch
    ∧ labLaunch.queue.length < labLaunch.capacity ∧ ({ labLaunch with capacity := 0 } : Launch).capacity ≤ labLaunch.queue.length := by
  decide +kernel
theorem witness_Spawn_reaches : Reaches lab .load (loftAddr 0x1BFFE0) 32 lab (.loft 0x1BFFE0) := ⟨⟨rfl, rfl, rfl, rfl, fun _ => rfl⟩, rfl, rfl⟩
theorem witness_Spawn_faults : rivalState.task.id.world ≠ 0 ∧ (two 31 0).task.id.world = 0 ∧ ((two 31 0).x 1).toNat % 32 ≠ 0
    ∧ (two (-32) 0).task.addrKind ((two (-32) 0).x 1) = .out := by decide +kernel

/-- A join counter of value 1 at virtual 0x10, its waiter's record in the loft. -/
def joining : State := { two 0x10 0 with mem := memAt 0x10010 (dwords [1, loftAddr 0x40]) }
theorem witness_Join : JoinReady joining 0x10 (.device 0x10010) 1 (loftAddr 0x40) (.loft 0x40) labLaunch :=
  ⟨by decide +kernel, by decide, ⟨_, rfl⟩, ⟨⟨rfl, rfl, rfl, rfl, fun _ => rfl⟩, rfl, rfl⟩, ⟨_, rfl⟩, by decide +kernel, by decide +kernel, by decide, by decide +kernel,
    fun _ _ => ⟨rfl, by decide +kernel, by decide +kernel, ⟨⟨rfl, rfl, rfl, rfl, fun _ => rfl⟩, rfl, rfl⟩, by decide⟩⟩
theorem witness_Join_underflow : Reaches (two 0x10 0) .amo 0x10 16 (two 0x10 0) (.device 0x10010)
    ∧ leValue ((two 0x10 0).sees (.device 0x10010) 4) = 0 := ⟨⟨⟨rfl, rfl, rfl, rfl, fun _ => rfl⟩, rfl, rfl⟩, by decide +kernel⟩
theorem witness_Join_jinit : ∃ s2, Reaches lab .amo 0xFFF0 16 lab (.device 0x1FFF0) ∧ Reaches lab .store 0xFFF0 16 lab (.device 0x1FFF0)
    ∧ lab.claimCheck (lab.who lab.sup) 0xFFF0 (.device 0x1FFF0) = .ok s2 := ⟨_, ⟨⟨rfl, rfl, rfl, rfl, fun _ => rfl⟩, rfl, rfl⟩, ⟨⟨rfl, rfl, rfl, rfl, fun _ => rfl⟩, rfl, rfl⟩, rfl⟩
theorem witness_Join_jinit_faults : lab.task.addrKind 8 ≠ .out ∧ (8 : Word).toNat % 16 ≠ 0
    ∧ lab.task.addrKind (loftAddr 0x1BFFF0) = .loft 0x1BFFF0 ∧ (loftAddr 0x1BFFF0).toNat % 16 = 0 := by decide +kernel

theorem witness_ExitAndYield_exit : lab.wf = true ∧ lab.task.id.forked = false ∧ lab.task.id.choice = none ∧ lab.task.id.exitDone = false
    ∧ lab.task.veQ = [] ∧ lab.task.storeQ = [] ∧ lab.task.held = [] ∧ lab.task.thr.cmds = [] ∧ (∀ k : Fin 4, lab.task.ch[k].cmds = []) ∧ lab.coll.cmds = []
    ∧ lab.task.id.world = 0 ∧ lab.world? 0 = none ∧ lab.myLaunch = some labLaunch ∧ lab.task.id.entry.record.getD 2 0 = 0 := by decide +kernel
/-- The task whose record names the join counter. -/
def exitJoins : State := { joining with task := { joining.task with id := { joining.task.id with entry := ⟨[0, 0, 0x10, 0], 0⟩ } } }
theorem witness_ExitAndYield_join : exitJoins.task.id.entry.record.getD 2 0 ≠ 0
    ∧ JoinReady exitJoins 0x10 (.device 0x10010) 1 (loftAddr 0x40) (.loft 0x40) labLaunch :=
  ⟨by decide +kernel, by decide +kernel, by decide, ⟨_, rfl⟩, ⟨⟨rfl, rfl, rfl, rfl, fun _ => rfl⟩, rfl, rfl⟩, ⟨_, rfl⟩, by decide +kernel, by decide +kernel, by decide,
    by decide +kernel, fun _ _ => ⟨rfl, by decide +kernel, by decide +kernel, ⟨⟨rfl, rfl, rfl, rfl, fun _ => rfl⟩, rfl, rfl⟩, by decide⟩⟩
theorem witness_ExitAndYield_faults : rivalState.task.id.forked = true
    ∧ (labTaskIs fun t => { t with id := { t.id with choice := some ⟨[], none⟩ } }).task.id.choice ≠ none := by decide +kernel
theorem witness_ExitAndYield_busy : let s := labTaskIs fun t => { t with thr := { t.thr with cmds := [⟨[], 0, 0, 1, false, false, none, 0⟩] } }
    s.task.veQ = [] ∧ s.task.storeQ = [] ∧ s.task.thr.cmds ≠ [] := by decide +kernel
/-- A ready launch of higher priority beside the running one. -/
def outranking : State := pooled { lab with launches := [labLaunch, { labLaunch with id := 2, prio := 3, queue := [.again ⟨[0, 0, 0, 0], 0⟩ 0] }] }
theorem witness_ExitAndYield_yield : outranking.myLaunch = some labLaunch ∧ outranking.sup = false ∧ outranking.deferred = false
    ∧ (∃ k ∈ outranking.launches, k.part = labLaunch.part ∧ outranking.eligible k = true ∧ k.nextEntry ≠ none ∧ labLaunch.prio < k.prio)
    ∧ (outranking.pairFor outranking.task).isSome = true := by decide +kernel
theorem witness_ExitAndYield_stays : lab.myLaunch = some labLaunch ∧ lab.pairFor lab.task = none := by decide +kernel

/-- FORKW of 8 rivals: a frame can be had, nothing is outstanding. -/
def forking : State := pooled (two 8 0)
theorem witness_Fork : forking.myLaunch = some labLaunch ∧ forking.worlds = [] ∧ forking.task.id.choice = none ∧ (forking.x 1).toNat = 8
    ∧ forking.task.id.worldCsr.toNat / 2 ^ 16 % 8 ≠ 4 ∧ (∀ k : Fin 8, forking.task.q[k].stream = none) ∧ forking.sup = false
    ∧ forking.task.vectorDone = true ∧ forking.commandsDone = true ∧ (forking.pairFor forking.task).isSome = true
    ∧ 8 ≤ forking.freeTags.length := by decide +kernel
theorem witness_Fork_refused : (asSup (two 8 0)).sup = true ∧ (asSup (two 8 0)).task.vectorDone = true ∧ (asSup (two 8 0)).commandsDone = true
    ∧ (two 8 0).pairFor (two 8 0).task = none := by decide +kernel
theorem witness_Fork_faults : ((two 1 0).x 1).toNat < 2 ∧ 8 < ((two 9 0).x 1).toNat
    ∧ (withX (labTaskIs fun t => { t with id := { t.id with worldCsr := 0x40001 } }) [(1, 8)]).task.id.worldCsr.toNat / 2 ^ 16 % 8 = 4
    := by decide +kernel
/-- Worlds with the tags 1 to n. -/
def tagged (n : Nat) : List World := (List.range n).map fun k => ⟨k + 1, 0, k + 1, 1, 0, 0, 1, [], [], []⟩
theorem tagged_any {n t : Nat} (h0 : t ≠ 0) (h : t ≤ n) : (tagged n).any (·.tag == t) = true := by
  refine List.any_eq_true.2 ⟨⟨t - 1 + 1, 0, t - 1 + 1, 1, 0, 0, 1, [], [], []⟩, List.mem_map.2 ⟨t - 1, List.mem_range.2 (by omega), rfl⟩, ?_⟩
  exact beq_iff_eq.2 (by show t - 1 + 1 = t; omega)
theorem freeTags_crowded {s : State} {n : Nat} {m : Nat} (hm : m = n + 1) (h4 : m + 3 = 1024) (h : s.worlds = tagged n) :
    s.freeTags.length < 8 := by
  have hn : ((List.range m).filter fun t => t != 0 && !(tagged n).any (·.tag == t)) = [] := by
    refine List.filter_eq_nil_iff.2 fun t ht => ?_
    have hlt := List.mem_range.1 ht
    by_cases h0 : t = 0
    · subst h0; simp
    · rw [tagged_any h0 (by omega)]; simp
  unfold State.freeTags
  rw [h, ← h4, List.range_succ, List.range_succ, List.range_succ, List.append_assoc, List.append_assoc, List.filter_append, hn, List.nil_append]
  exact Nat.lt_of_le_of_lt (List.length_filter_le _ _) (by simp)
/-- All tags but three are taken. -/
def crowded : State := { forking with worlds := tagged 1020 }
theorem witness_Fork_tags : crowded.freeTags.length < 8 := freeTags_crowded (n := 1020) (m := 1021) rfl rfl (by simp only [crowded])
theorem witness_Fork_stream :
    let d : Stream := ⟨[], 0, 0, false, 0, 0, 0, [], 0, [], [], [], false, false, 0⟩
    (labTaskIs fun t => { t with q := t.q.set 6 ⟨.stream, [], some d⟩ }).task.q[(6 : Fin 8)].stream ≠ none := by decide +kernel

/-- The suspended parent of a rival and of a second one that has ended or not. -/
def parentOf (otherEnded : Bool) : Parent :=
  { task := { labTask with id := { labTask.id with tid := 9 } }, rd := 5, rivals := [⟨0, 2, false, none⟩, ⟨1, 3, otherEnded, some 7⟩] }
/-- See `parentOf`. -/
def ending (otherEnded : Bool) : State := { rivalState with launches := [{ labLaunch with parked := [parentOf otherEnded] }] }
theorem witness_RivalEnd_launch : ∀ b, (ending b).myLaunch = some { labLaunch with parked := [] ++ parentOf b :: [] } := fun _ => rfl
theorem witness_RivalEnd : ∀ b, (parentOf b).task.id.tid = (ending b).task.id.parent ∧ (ending b).task.id.forked = true ∧ (ending b).task.id.choice = none
    ∧ (ending b).task.vectorDone = true ∧ (ending b).commandsDone = true
    ∧ ((∀ r ∈ (parentOf b).rivals, r.world = (ending b).task.id.world ∨ r.ended = true) ↔ b = true) := by decide +kernel
theorem witness_RivalEnd_other : lab.task.id.forked = false := by decide +kernel

/-- A pending choice of two rivals, each with its world. -/
def choosing (a : Word) : State := withX
  { (labTaskIs fun t => { t with id := { t.id with choice := some ⟨[⟨0, 2, true, some 5⟩, ⟨1, 3, true, none⟩], none⟩ } }) with
    worlds := [⟨2, 0, 5, 1, 0, 0, 1, [16], [(0x10000, 9)], []⟩, ⟨3, 0, 6, 1, 1, 0, 1, [], [], []⟩], nextWorld := 4 } [(1, a)]
theorem witness_Choose : (choosing 1).wf = true ∧ (choosing 1).task.id.world = 0 ∧ (choosing 1).world? 0 = none
    ∧ ((choosing (-2)).x 1).toInt = -2 ∧ ((choosing 1).x 1).toInt < 2 ∧ ¬ ((choosing 2).x 1).toInt < 2 ∧ ((choosing (-3)).x 1).toInt < -2
    ∧ lab.task.id.choice = none := by decide +kernel
theorem witness_Choose_sane : RivalsSane (choosing 1) [⟨0, 2, true, some 5⟩, ⟨1, 3, true, none⟩] := by
  refine ⟨fun k h => forall_lt_two (P := fun k => ∀ h : k < 2, ([⟨0, 2, true, some 5⟩, ⟨1, 3, true, none⟩] : List Rival)[k].rank = k)
    (fun _ => rfl) (fun _ => rfl) k h h, by decide, by decide +kernel, fun r hr hs => ?_⟩
  rcases List.mem_cons.1 hr with rfl | hr
  · exact ⟨_, rfl, rfl⟩
  · rcases List.mem_cons.1 hr with rfl | hr
    · exact absurd rfl hs
    · cases hr
theorem witness_Choose_free : (choosing 1).commitBusy 0 = .free ∧ (choosing 1).commitBusy 2 = .free ∧ (choosing 1).commitBusy 3 = .free := by
  decide +kernel
/-- The same with a vector store of the parent that has still to write a granule of the commit. -/
def choosingLate : State := { choosing (-1) with task := { (choosing (-1)).task with
  storeQ := [{ heldStore with stopped := false }], q := (choosing (-1)).task.q.set 4 ⟨.store, [Tile.zero], none⟩ } }
theorem witness_Choose_waits : choosingLate.commitBusy 2 = .wait ∧ picked [⟨0, 2, true, some 5⟩, ⟨1, 3, true, none⟩] (-1) (some ⟨0, 2, true, some 5⟩) := by
  refine ⟨by decide +kernel, by simp, 5, rfl, fun h => absurd h (by decide), fun _ k hk u hu => ?_, fun h => absurd h (by decide)⟩
  rcases List.mem_cons.1 hk with rfl | hk
  · cases hu; exact .inr ⟨rfl, Nat.le_refl _⟩
  · rcases List.mem_cons.1 hk with rfl | hk
    · cases hu
    · cases hk
theorem witness_Choose_inner : ∃ P, rivalLab.world? rivalLab.task.id.world = some P := ⟨_, rfl⟩

/-- A record of 16 doublewords from its first ones, with VERSION 1 in the last. -/
def record (ws : List Word) : List Word := (ws ++ List.replicate 15 0).take 15 ++ [1]
/-- LOADACC of INT32 rows of 256 bytes at loft 0. -/
def loadRecord : List Word := record [4, 0, 0, 0, 0xC02000000000, 1, 1, 1, 1, 1, 1]
/-- FILL of one UINT8 element at loft 0x400 with the value 0x5A. -/
def fillRecord : List Word := record [1, 0, 0, loftAddr 0x400, 1, 1, 1, 1, 0x5A00000090]
/-- ALLREDUCE of one FP32 element from virtual 0x400 into 0x440, in group 0. -/
def sumRecord : List Word := record [0, 0, 0x400, 0x440, 1]
/-- A task with a record at loft 0x80, and an all-zero one at loft 0x100; x1 addresses it and x2 holds the channel. -/
def issuing (r : List Word) (a b : Word) : State := withX (labTaskIs fun t => { t with loft := memAt 0x80 (dwords r) }) [(1, a), (2, b)]

theorem witness_EngineIssue_mxq : ReadsRecord (issuing loadRecord (loftAddr 0x80) 0) (loftAddr 0x80) (issuing loadRecord (loftAddr 0x80) 0) loadRecord
    ∧ thrCheck loadRecord (issuing loadRecord (loftAddr 0x80) 0).task.loftLimit = none ∧ (issuing loadRecord (loftAddr 0x80) 0).task.thr.cmds.length < 8 :=
  ⟨⟨0x80, by decide +kernel, by decide +kernel, ⟨⟨rfl, rfl, rfl, rfl, fun _ => rfl⟩, rfl, rfl⟩, ⟨⟨rfl, rfl, rfl, rfl, fun _ => rfl⟩, rfl, rfl⟩, by decide +kernel⟩, by decide +kernel, by decide +kernel⟩
theorem witness_EngineIssue_cpq : ReadsRecord (issuing fillRecord (loftAddr 0x80) 3) (loftAddr 0x80) (issuing fillRecord (loftAddr 0x80) 3) fillRecord
    ∧ (issuing fillRecord (loftAddr 0x80) 3).task.copyCheck fillRecord = none ∧ ((issuing fillRecord (loftAddr 0x80) 3).x 2).toNat = 3 :=
  ⟨⟨0x80, by decide +kernel, by decide +kernel, ⟨⟨rfl, rfl, rfl, rfl, fun _ => rfl⟩, rfl, rfl⟩, ⟨⟨rfl, rfl, rfl, rfl, fun _ => rfl⟩, rfl, rfl⟩, by decide +kernel⟩, by decide +kernel, by decide +kernel⟩
theorem witness_EngineIssue_clq : ReadsRecord (issuing sumRecord (loftAddr 0x80) 0) (loftAddr 0x80) (issuing sumRecord (loftAddr 0x80) 0) sumRecord
    ∧ collCheck sumRecord = none ∧ (issuing sumRecord (loftAddr 0x80) 0).task.id.world = 0 ∧ (issuing sumRecord (loftAddr 0x80) 0).coll.cmds = [] :=
  ⟨⟨0x80, by decide +kernel, by decide +kernel, ⟨⟨rfl, rfl, rfl, rfl, fun _ => rfl⟩, rfl, rfl⟩, ⟨⟨rfl, rfl, rfl, rfl, fun _ => rfl⟩, rfl, rfl⟩, by decide +kernel⟩, by decide +kernel, rfl, rfl⟩
theorem witness_EngineIssue_faults : rivalState.task.id.world ≠ 0 ∧ (∀ o, lab.task.addrKind 0x80 ≠ .loft o)
    ∧ lab.task.addrKind (loftAddr 0x7F) = .loft 0x7F ∧ (loftAddr 0x7F).toNat % 128 ≠ 0 ∧ 3 < (4 : Word).toNat
    ∧ thrCheck (record []) 0x1C0000 = some .recordMalformed ∧ lab.task.copyCheck (record [6]) = some .recordMalformed
    ∧ collCheck (record []) = some .recordMalformed := by
  refine ⟨by decide +kernel, fun o h => ?_, by decide +kernel⟩
  have : lab.task.addrKind 0x80 = .global := by decide +kernel
  rw [this] at h
  cases h
theorem witness_EngineIssue_full :
    let c : ThrCmd := ⟨loadRecord, 0, 0, 1, false, false, none, 0⟩
    let s := labTaskIs fun t => { t with thr := { t.thr with cmds := List.replicate 8 c } }
    8 ≤ s.task.thr.cmds.length := by decide +kernel

/-- A queue register, an instruction that names it, and a stream. -/
def busyQueue : State := labTaskIs fun t => { t with veQ := [entry (.vnot (.v 0) (.q 7)) 0x40000101 0 0] }
theorem witness_QueueRoles_quiet : QueueQuiet (two 7 2) 7 ∧ ((two 7 2).x 1).toNat = 7 ∧ ((two 7 2).x 2).toNat ≤ 2
    ∧ (two 7 2).task.q[(7 : Fin 8)].tiles = [] ∧ (two 7 2).task.q[(7 : Fin 8)].stream = none :=
  ⟨⟨fun _ h => (nomatch h), fun _ h => (nomatch h)⟩, by decide +kernel, by decide +kernel, by decide +kernel, by decide +kernel⟩
theorem witness_QueueRoles_busy : ¬ QueueQuiet busyQueue 7 := fun h =>
  absurd (h.1 (entry (.vnot (.v 0) (.q 7)) 0x40000101 0 0) (by simp [busyQueue, labTaskIs])) (by decide +kernel)
theorem witness_QueueRoles_faults : 7 < ((two 8 3).x 1).toNat ∧ 2 < ((two 7 3).x 2).toNat
    ∧ (labTaskIs fun t => { t with q := t.q.set 7 ⟨.load, [Tile.zero], none⟩ }).task.q[(7 : Fin 8)].role = .load := by decide +kernel
/-- A stream of one FP32 element in raw Bale chunks, described at loft 0x80, for q7 bound STREAM. -/
def streamDesc : List Word := [loftAddr 0x400, 0, 0x10000000001, 1, 0, 0, 0, 0]
/-- See `streamDesc`. -/
def attaching (ws : List Word) : State := shaped (withX (labTaskIs fun t =>
  { t with loft := memAt 0x80 (dwords ws), q := t.q.set 7 ⟨.stream, [], none⟩ }) [(1, 7), (2, loftAddr 0x80)]) 0x40000101
theorem witness_QueueRoles_strm : Reaches (attaching streamDesc) .load (loftAddr 0x80) 64 (attaching streamDesc) (.loft 0x80)
    ∧ (attaching streamDesc).task.q[(7 : Fin 8)].role = .stream ∧ ((attaching streamDesc).csrValue 0x030).toNat % 256 ≠ 0
    ∧ (List.range 8).map (fun k => wd (leValue ((((attaching streamDesc).sees (.loft 0x80) 64).drop (8 * k)).take 8))) = streamDesc
    ∧ streamValid streamDesc ((attaching streamDesc).csrValue 0x030) = true ∧ 3 ∉ streamOps streamDesc
    ∧ streamValid [0, 0, 0, 1, 0, 0, 0, 0] ((attaching streamDesc).csrValue 0x030) = false :=
  ⟨⟨⟨rfl, rfl, rfl, rfl, fun _ => rfl⟩, rfl, rfl⟩, by decide +kernel, by decide +kernel, by decide +kernel, by decide +kernel, by decide +kernel, by decide +kernel⟩

theorem witness_VeDispatch : ∃ xs xt, veScalars (shaped lab 0x40000101) (.vrngb (.v 0) 0 1 2) = some (xs, xt)
    ∧ (shaped lab 0x40000101).task.csr.sh.toNat % 2 ^ 8 ≠ 0
    ∧ (shaped lab 0x40000101).task.veQ.length < min ((shaped lab 0x40000101).task.csr.slip.toNat % 64) 32 := ⟨_, _, rfl, by decide +kernel⟩
theorem witness_VeDispatch_no_grant : lab.task.csr.sh.toNat % 2 ^ 8 = 0 := by decide +kernel
theorem witness_VeDispatch_no_room : ¬ busyQueue.task.veQ.length < min 1 32 := by decide +kernel
theorem witness_VeDispatch_queued :
    let s := labTaskIs fun t => { t with veQ := [entry (.vext 1 (.v 0) 2) 0x40000101 0 0] }
    ∃ e ∈ s.task.veQ, e.instr.isVext = true ∧ e.addr = s.task.pc := by decide +kernel

/-- One instruction in the VE queue. -/
def veHead (i : Instr) : State := labTaskIs fun t => { t with veQ := [entry i 0x40080101 5 0] }
theorem witness_VeOrder : ∃ f, VeReady (veHead (.vsplat (.v 0) 0 1)) (entry (.vsplat (.v 0) 0 1) 0x40080101 5 0) []
    ∧ (Instr.vsplat (.v 0) 0 1).ve = some f ∧ ∃ o, f ((veHead (.vsplat (.v 0) 0 1)).veCtx (entry (.vsplat (.v 0) 0 1) 0x40080101 5 0)) = .ok o :=
  ⟨_, ⟨rfl, by decide +kernel, rfl, rfl, rfl, (by decide), (by decide), fun _ h => nomatch h⟩, rfl, _, rfl⟩
theorem witness_VeOrder_fault : ∃ f r, (Instr.vaddsat (.v 0) (.v 1) (.v 2)).ve = some f
    ∧ f (lab.veCtx (entry (.vaddsat (.v 0) (.v 1) (.v 2)) 0x40000101 0 0)) = .error r := ⟨_, _, rfl, rfl⟩
theorem witness_VeOrder_role :
    let e := { entry (.vnot (.v 0) (.q 4)) 0x40080101 0 0 with roleOk := false }
    let s := labTaskIs fun t => { t with veQ := [e] }
    s.running = true ∧ s.dev.limiting = false ∧ s.task.veQ = e :: [] ∧ s.task.pend.ve = none ∧ e.roleOk = false := by decide +kernel

theorem witness_VeLanes : ∃ srcs g f, Fmt.ofCode ((0x400C4010 : Word).toNat / 2 ^ 16 % 2 ^ 4) = some .uint16
    ∧ laneSpec .uint16 0 (.vdiv (.v 0) (.v 1) (.v 2)) = some (true, srcs, g) ∧ Fmt.isInt .uint16 = true
    ∧ (Instr.vdiv (.v 0) (.v 1) (.v 2)).ve = some f ∧ isActive 0x400C4010 1023 ∧ ¬ isActive 0x40080101 1 :=
  ⟨_, _, _, by decide, rfl, by decide, rfl, by decide +kernel, by decide +kernel⟩
theorem witness_VeLanes_fault : Fmt.isInt .d8 = false ∧ Fmt.ofCode 5 = some .d8 := by decide
theorem witness_VeMoves : ∃ a g, moveSpec 16 64 (-1) (.vrotr (.v 0) (.v 1) 1) = some (a, g) ∧ g 15 0 = some (15, 63) := ⟨_, _, rfl, by decide +kernel⟩
theorem witness_VeMoves_reduce : ∃ a g, reduceSpec .int8 (.vredrMin (.v 0) (.v 1)) = some (false, a, g) ∧ Fmt.isInt .int8 = true := ⟨_, _, rfl, by decide⟩
/-- A floating instruction with an FP32 grant of 16 × 8, its sources zero; q7 and q6 are not used. -/
def fent (i : Instr) (xs xt : Word) : VeEntry := entry i 0x40000810 xs xt
theorem witness_VeFloats : ∃ f, Fmt.ofCode ((fent (.vfnma (.v 0) (.v 1) (.v 2) (.v 3)) 0 0).sh.toNat / 2 ^ 16 % 2 ^ 4) = some .fp32
    ∧ Fmt.isInt .fp32 = false ∧ (floatLane .fp32 .rne 0 0 (.vfnma (.v 0) (.v 1) (.v 2) (.v 3))).isSome = true
    ∧ (Instr.vfnma (.v 0) (.v 1) (.v 2) (.v 3)).ve = some f ∧ isActive 0x40000810 (15 * 64 + 7) ∧ ¬ isActive 0x40000810 8 :=
  ⟨_, by decide +kernel, by decide, rfl, rfl, by decide +kernel, by decide +kernel⟩
theorem witness_VeFloats_convert : (∃ f, (Instr.vcvt (.v 0) (.v 1) .int8).ve = some f) ∧ Fmt.ofCode ((8 : Word).toNat % 16) = some .int8
    ∧ Fmt.ofCode ((15 : Word).toNat % 16) = none ∧ (∃ f, (Instr.vqnt (.v 0) (.v 1) 1 2).ve = some f)
    ∧ ∃ f, (Instr.vdq (.v 0) (.v 1) 1 2).ve = some f := ⟨⟨_, rfl⟩, by decide, by decide, ⟨_, rfl⟩, _, rfl⟩
theorem witness_VeFloats_reduce : (floatReduce .bf16 .rne 0 (.vredcAdd (.v 0) (.v 1))).isSome = true ∧ Fmt.isInt .bf16 = false
    ∧ (∃ f, (Instr.vredcAdd (.v 0) (.v 1)).ve = some f) ∧ ∃ f, (Instr.viota (.v 0) 0 1).ve = some f := ⟨rfl, by decide, ⟨_, rfl⟩, _, rfl⟩
theorem witness_VeFloats_special : specialOf (.vsqrt (.v 0) (.v 1)) = some (4, .v 1) ∧ (∃ f, (Instr.vsqrt (.v 0) (.v 1)).ve = some f)
    ∧ Fmt.int8 ∉ [Fmt.fp32, .bf16, .fp16] ∧ Fmt.fp16 ∈ [Fmt.fp32, .bf16, .fp16] := ⟨rfl, ⟨_, rfl⟩, by decide, by decide⟩
theorem witness_VeDots : (∃ f, (Instr.vdot4 (.v 0) (.v 1) (.v 2) (.v 3) true false true).ve = some f)
    ∧ Fmt.ofCode ((0x40080810 : Word).toNat / 2 ^ 16 % 2 ^ 4) = some .int8 ∧ ¬ (Fmt.int8 = .int32 ∨ (true = true ∧ Fmt.int8.isInt = false))
    ∧ (Fmt.fp32 = .int32 ∨ (true = true ∧ Fmt.fp32.isInt = false)) ∧ (0x40080810 : Word).toNat / 2 ^ 8 % 2 ^ 8 % 8 = 0
    ∧ ¬ (0x40080710 : Word).toNat / 2 ^ 8 % 2 ^ 8 % 8 = 0 := ⟨⟨_, rfl⟩, by decide, by decide, by decide, by decide, by decide⟩
/-- Positions 0 to 3, and positions 0, 0, 0, 0. -/
theorem witness_VeDots_metadata : metaGood 0x688 ∧ ¬ metaGood 0 ∧ (∃ f, (Instr.vsmv (.v 0) (.v 1) (.v 2) (.v 3) true false true).ve = some f)
    ∧ (∃ f, (Instr.vcmp48 (.v 0) (.v 1) 2 true false false).ve = some f) ∧ ∃ f, (Instr.vrngu (.v 0) 0 1 2).ve = some f :=
  ⟨by decide, by decide, ⟨_, rfl⟩, ⟨_, rfl⟩, _, rfl⟩
theorem witness_SpecialFunctions : specialOf (.vlog2 (.v 0) (.v 1)) = some (1, .v 1) ∧ (1 : Nat) ∈ [0, 1, 5, 6] ∧ (∃ f, (Instr.vlog2 (.v 0) (.v 1)).ve = some f)
    ∧ (readNum .fp32 0x40400000).rat = some 3 ∧ (3 : Rat) ≠ 0 ∧ (0 < (3 : Rat) ∧ (3 : Rat) ≠ 1) := by
  exact ⟨rfl, by decide, ⟨_, rfl⟩, by decide +kernel, by decide, by decide⟩

/-- Vector accesses at loft 0x40 with a 1 × 1 grant of INT32; x2 is the stride, x3 the address of a descriptor. -/
def vmem : State := shaped (withX (labTaskIs fun t => { t with loft := memAt 0x80 (dwords [0x60200000101, 0x40004, 1, loftAddr 0x40]) })
  [(1, loftAddr 0x40), (2, 4), (3, loftAddr 0x80)]) 0x40060101
/-- The place of a loft granule. -/
def loftGranule (g : Nat) : Place := .loft (g - 0x00F0000000000000)
theorem witness_VectorLoads : VmemReady vmem 0 .load ∧ Fmt.ofCode (vmem.task.csr.sh.toNat / 2 ^ 16 % 2 ^ 4) = some .int32
    ∧ vmem.task.q[(0 : Fin 8)].tiles.length < 4 ∧ vmem.task.part = none ∧ (vmem.x 1).toNat % Fmt.bytes .int32 = 0
    ∧ (vmem.x 2).toNat % Fmt.bytes .int32 = 0 ∧ vmem.task.windowBusy = .free
    ∧ GranuleSound vmem 4 (fun a => ∃ x y, x < 1 ∧ y < 1 ∧ a = elemAddr .int32 (loftAddr 0x40) 4 x y) ((loftAddr 0x40).toNat, .loft 0x40) := by
  refine ⟨⟨by decide +kernel, by decide +kernel⟩, by decide +kernel, by decide +kernel, rfl, by decide +kernel, by decide +kernel, rfl, rfl, ?_⟩
  rintro a ⟨x, y, hx, hy, rfl⟩ -
  obtain rfl : x = 0 := by omega
  obtain rfl : y = 0 := by omega
  exact rfl
theorem witness_VectorLoads_granules : GranuleList loftGranule (fun a => ∃ x y, x < 1 ∧ y < 1 ∧ a = elemAddr .int32 (loftAddr 0x40) 4 x y)
      [((loftAddr 0x40).toNat, .loft 0x40)]
    ∧ GranuleOpen vmem .load (Fmt.bytes .int32) loftGranule (elemAddr .int32 (loftAddr 0x40) 4 0 0) := by
  refine ⟨⟨List.pairwise_singleton _ _, fun g h => by rw [List.mem_singleton] at h; subst h; decide +kernel, fun n => ?_⟩,
    ⟨by decide +kernel, rfl, rfl, rfl, fun h => nomatch h⟩⟩
  have h0 : granule (elemAddr .int32 (loftAddr 0x40) 4 0 0).toNat = (loftAddr 0x40).toNat := by decide +kernel
  constructor
  · intro h
    exact ⟨_, ⟨0, 0, by omega, by omega, rfl⟩, (List.mem_singleton.1 h).trans h0.symm⟩
  · rintro ⟨a, ⟨x, y, hx, hy, rfl⟩, rfl⟩
    obtain rfl : x = 0 := by omega
    obtain rfl : y = 0 := by omega
    exact List.mem_singleton.2 h0
/-- A load in the middle. -/
theorem witness_VectorLoads_goes_on : let s : State := { vmem with task := { vmem.task with
      part := some ⟨.vld 0 1 2 .int32, [], [((loftAddr 0x40).toNat, .loft 0x40)], []⟩ } }
    s.task.part = some { instr := .vld 0 1 2 .int32, desc := [], left := [((loftAddr 0x40).toNat, .loft 0x40)], got := [] } := rfl
theorem witness_VectorLoads_orbit : OrbitReady vmem 3 .int32 0 [0x60200000101, 0x40004, 1, loftAddr 0x40] (Desc.ofDwords [0x60200000101, 0x40004, 1, loftAddr 0x40]) := by
  refine ⟨.loft 0x80, by decide +kernel, by decide +kernel, ⟨⟨rfl, rfl, rfl, rfl, fun _ => rfl⟩, rfl, rfl⟩, by decide +kernel, rfl, by decide +kernel, by decide +kernel,
    by decide +kernel, by decide +kernel, fun r c hr hc k hk => ?_⟩
  have hr' : r < 1 := hr
  have hc' : c < 1 := hc
  have hk' : k < 2 := hk
  obtain rfl : r = 0 := by omega
  obtain rfl : c = 0 := by omega
  match k, hk' with
  | 0, _ => decide +kernel
  | 1, _ => decide +kernel
theorem witness_VectorLoads_faults : lab.task.csr.sh.toNat % 2 ^ 8 = 0 ∧ vmem.task.q[(4 : Fin 8)].role ≠ .load ∧ vmem.task.q[(0 : Fin 8)].role ≠ .store
    ∧ (shaped (two (-64) 0) 0x40060101).task.addrKind (wd (granule (elemAddr .int32 (-64) 0 0 0).toNat)) = .out
    ∧ vmem.task.addrKind (wd (granule (elemAddr .int32 (loftAddr 0x41) 0 0 0).toNat)) ≠ .out ∧ (loftAddr 0x41).toNat % Fmt.bytes .int32 ≠ 0 := by
  decide +kernel
theorem witness_VectorStores : VmemReady vmem 4 .store ∧ vmem.task.storeQ.length < 16
    ∧ GranuleOpen vmem .store (Fmt.bytes .int32) loftGranule (elemAddr .int32 (vmem.x 1) (vmem.x 2) 0 0) :=
  ⟨⟨by decide +kernel, by decide +kernel⟩, by decide +kernel, by decide +kernel, rfl, rfl, rfl, fun _ => ⟨rfl, rfl⟩⟩

/-- A queued VST of one INT32 element at loft 0x40 whose tile has arrived. -/
def vst : StoreEntry := ⟨.vst 4 1 2 .int32, 0x1000, loftAddr 0x40, 4, 0x40060101, [], [((loftAddr 0x40).toNat, .loft 0x40)], [], 0, 0, false, false⟩
/-- See `vst`. -/
def pairing : State := labTaskIs fun t => { t with storeQ := [vst], q := t.q.set 4 ⟨.store, [Tile.zero], none⟩ }
/-- What it writes. -/
def vstWrites : List (Word × Nat × Nat) := [(loftAddr 0x40, 0, 0)]
theorem witness_StorePairing : pairing.wf = true ∧ pairing.running = true ∧ pairing.task.pend.ve = none ∧ pairing.task.storeQ = vst :: []
    ∧ vst.stopped = false ∧ vst.instr.memQ = some 4 ∧ pairing.task.q[(4 : Fin 8)].tiles = Tile.zero :: []
    ∧ Fmt.ofCode (vst.sh.toNat / 2 ^ 16 % 2 ^ 4) = some .int32 ∧ vst.base.toNat % Fmt.bytes .int32 = 0 ∧ vst.stride.toNat % Fmt.bytes .int32 = 0 :=
  ⟨by decide +kernel, rfl, rfl, rfl, rfl, rfl, rfl, by decide +kernel, by decide +kernel, by decide +kernel⟩
theorem converted_zero : converted .int32 .int32 (Tile.zero.toList.getD (64 * 0 + 0) 0).toNat = 0 := by decide +kernel
theorem witness_StorePairing_writes : StoreWrites vst .int32 .int32 Tile.zero vstWrites false := by
  refine ⟨rfl, ?_⟩
  have hr : rowsOf vst.sh = 1 := by decide +kernel
  have hc : colsOf vst.sh = 1 := by decide +kernel
  rw [hr, hc]
  simp only [List.range_succ, List.range_zero, List.nil_append, List.flatMap_cons, List.flatMap_nil, List.map_cons, List.map_nil,
    List.append_nil, converted_zero]
  decide +kernel
theorem witness_StorePairing_granule : vstWrites.find? (fun w => (vst.placeAt (granule w.1.toNat)).isSome) = some (loftAddr 0x40, 0, 0)
    ∧ granule (loftAddr 0x40).toNat = (loftAddr 0x40).toNat ∧ vst.placeAt (loftAddr 0x40).toNat = some (.loft 0x40)
    ∧ (Place.loft 0x40).key.2 % 64 = 0 ∧ pairing.rootFull pairing.task.id.world (.loft 0x40) = false ∧ pairing.owedTo vst (.loft 0x40) = none
    ∧ pairing.task.id.unfilled.contains (0x40 / 0x10000) = false := by decide +kernel
theorem witness_StorePairing_line : pairing.ownView (.loft 0x40) ∧ pairing.targetCheck (pairing.who false) .store (wd (loftAddr 0x40).toNat) (.loft 0x40) = .ok ()
    ∧ pairing.lineCheck (pairing.who false) .store (wd (loftAddr 0x40).toNat) 64 (.loft 0x40) = .ok () := ⟨trivial, rfl, rfl⟩
/-- A VSTO through a rank-2 ASYM2 descriptor of 4 × 4 INT32 with policy FAULT: the diagonal has sign 0. -/
def vsto : StoreEntry :=
  ⟨.vsto 4 1 2 .int32, 0x1000, 0, 0, 0x40060101, [0x60200000102, 0x40004, 1, loftAddr 0x40], [], [], 0, 0, false, false⟩
theorem witness_StorePairing_orbit : Desc.valid vsto.desc = true ∧ (Desc.ofDwords vsto.desc).rank ≠ 1 ∧ (Desc.ofDwords vsto.desc).base.toNat % Fmt.bytes .int32 = 0
    ∧ vsto.isVsto = true ∧ (Desc.ofDwords vsto.desc).policy = 0 ∧ (orbitSpec (Desc.ofDwords vsto.desc) (tupleAt vsto.stride 0 0)).2.1 = 0
    ∧ isActive vsto.sh 0 ∧ isZeroBits .int32 1 = false := by decide +kernel
theorem witness_StorePairing_orbit_inside : ∀ k, isActive vsto.sh k → ∀ l, l < (Desc.ofDwords vsto.desc).rank →
    (tupleAt vsto.stride (k / 64) (k % 64)).getD l 0 < (Desc.ofDwords vsto.desc).ext l := by
  intro k hk l hl
  have h1 : k / 64 < 1 := hk.1
  have h2 : k % 64 < 1 := hk.2
  have hl' : l < 2 := hl
  obtain rfl : k = 0 := by omega
  match l, hl' with
  | 0, _ => decide +kernel
  | 1, _ => decide +kernel

/-- A stamped LOADACC at the head of the Thresher's queue, and a stamped FILL at the head of channel 3. -/
def stampedLoad : ThrCmd := ⟨record [0x500020004, 0, 0, 0, 0xC02000000000, 1, 1, 1, 1, 1, 1], loftAddr 0x80, 2, 1, false, false, none, 0⟩
/-- See `stampedLoad`. -/
def stampedFill : CopyCmd := ⟨record [0x500004001, 0, 0, loftAddr 0x400, 1, 1, 1, 1, 0x5A00000090], loftAddr 0x80, 2, 1, false, 0, false, false, none, 0, 0, 0xFFFFFFFF⟩
/-- See `stampedLoad`; `cycle` is the die's count, so FRAME. -/
def stamping (cycle : Nat) : State :=
  { (labTaskIs fun t => { t with id := { t.id with birth := some 0 }, thr := { t.thr with cmds := [stampedLoad] }, ch := t.ch.set 3 { t.ch[(3 : Fin 4)] with cmds := [stampedFill] } }) with
    dev := { lab.dev with cycle := cycle } }
theorem witness_EngineStarts_thresher : thrStepSpec .loadacc = some 4 ∧ (stamping 8).running = true ∧ (stamping 8).dev.limiting = false
    ∧ (stamping 8).task.thr.halted = false ∧ (stamping 8).task.thr.cmds = stampedLoad :: [] ∧ stampedLoad.started = false
    ∧ (stampedLoad.record.getD 0 0).toNat % 2 ^ 8 = 4 ∧ (stampedLoad.record.getD 0 0).getLsbD 17 = true := by decide +kernel
theorem witness_EngineStarts_overrun : (startSpec (stamping 8) stampedLoad.record true false 2).overrun := ⟨⟨rfl, rfl⟩, by decide +kernel⟩
theorem witness_EngineStarts_early : ¬ (startSpec (stamping 4) stampedLoad.record true false 2).overrun
    ∧ ¬ (startSpec (stamping 4) stampedLoad.record true false 2).mayStart :=
  ⟨fun h => absurd h.2 (by decide +kernel), fun h => absurd (h.1 ⟨rfl, rfl⟩).1 (by decide +kernel)⟩
theorem witness_EngineStarts_due : (startSpec (stamping 7) stampedLoad.record true false 2).mayStart ∧ (stamping 7).task.storeQ = [] :=
  ⟨⟨fun _ => by decide +kernel, fun h => absurd h (by decide +kernel)⟩, rfl⟩
/-- The command has started and has read no descriptor; the rest stands in its way: a vector store to its row, or a VE read of its tile. -/
def beginning (f : Task → Task) : State := labTaskIs fun t => f { t with thr := { t.thr with cmds := [{ stampedLoad with started := true }] } }
theorem witness_EngineStarts_started : (beginning id).running = true ∧ (beginning id).dev.limiting = false ∧ (beginning id).task.thr.halted = false
    ∧ (beginning id).task.thr.cmds = { stampedLoad with started := true } :: [] ∧ 0 < (thrWalk stampedLoad.record).prod
    ∧ (beginning id).task.storeQ = [] ∧ (beginning id).task.dispatched = [] ∧ ∀ n : Fin 4, thrDesc stampedLoad.record n = false := by decide +kernel
theorem witness_EngineStarts_store : let e := { vst with granules := [((loftAddr 0).toNat, .loft 0)] }
    e ∈ (beginning fun t => { t with storeQ := [e] }).task.storeQ ∧ e.issued < stampedLoad.ordinal ∧ thrReads (fun _ => some []) stampedLoad.record 0 = true :=
  ⟨List.mem_singleton.2 rfl, by decide, by decide +kernel⟩
theorem witness_EngineStarts_read : let e := entry (.vnot (.v 0) (.a 0)) 0x40060101 0 0
    e ∈ (beginning fun t => { t with veQ := [e] }).task.veQ ∧ e.issued < stampedLoad.ordinal ∧ 0 ∈ e.instr.readsAcc ∧ 0 ∈ thrTiles stampedLoad.record :=
  ⟨List.mem_singleton.2 rfl, by decide, by decide, by decide +kernel⟩
theorem witness_EngineStarts_copy : copyStepSpec (.fillCmd 3) = some (3, 1) ∧ (stamping 8).task.ch[(3 : Fin 4)].halted = false
    ∧ (stamping 8).task.ch[(3 : Fin 4)].cmds = stampedFill :: [] ∧ stampedFill.started = false
    ∧ (stampedFill.record.getD 0 0).toNat % 2 ^ 8 = 1 ∧ (stampedFill.record.getD 0 0).getLsbD 14 = true := by decide +kernel
theorem witness_EngineStarts_copy_overrun : (startSpec (stamping 8) stampedFill.record true false 2).overrun
    ∧ (startSpec (stamping 7) stampedFill.record true false 2).mayStart ∧ ¬ (startSpec (stamping 4) stampedFill.record true false 2).mayStart :=
  ⟨⟨⟨rfl, rfl⟩, by decide +kernel⟩, ⟨fun _ => by decide +kernel, fun h => absurd h (by decide +kernel)⟩,
    fun h => absurd (h.1 ⟨rfl, rfl⟩).1 (by decide +kernel)⟩
theorem witness_EngineStarts_other : lab.task.thr.cmds = [] ∧ lab.task.ch[(0 : Fin 4)].cmds = [] := ⟨rfl, rfl⟩

/-- A started Thresher command at its last nest point. -/
def thrHead (r : List Word) : ThrCmd := ⟨r, loftAddr 0x80, 0, 1, true, true, some [[], [], [], []], 0⟩
/-- See `thrHead`. -/
def multiplying (r : List Word) : State := labTaskIs fun t => { t with thr := { t.thr with cmds := [thrHead r] } }
/-- The readiness of a record without descriptors. -/
theorem thrReady_of (r : List Word) (kind : Nat) (hp : 0 < (thrWalk r).prod) (h : (r.getD 0 0).toNat % 2 ^ 8 = kind) (hd : ∀ n, n < 4 → thrDesc r n = false)
    (ho : (r.getD 0 0).getLsbD 10 = false) : ThrReady (multiplying r) (thrHead r) [] kind :=
  ⟨rfl, rfl, rfl, rfl, rfl, hp, ⟨_, rfl, rfl, fun n hn h1 => absurd ((hd n hn).symm.trans h1) (by decide)⟩, h, (hd 3 (by omega)).trans ho.symm, rfl, rfl,
    fun l hl => (nomatch hl)⟩
theorem witness_ThresherResults_loadacc : thrStepSpec .loadacc = some 4 ∧ ThrReady (multiplying loadRecord) (thrHead loadRecord) [] 4
    ∧ (multiplying loadRecord).wf = true ∧ (Fmt.ofCode (thrDrainFmt loadRecord)).isSome = true :=
  ⟨rfl, thrReady_of _ _ (by decide +kernel) (by decide) (by decide +kernel) (by decide), by decide +kernel, by decide +kernel⟩
/-- DRAIN of the same rows, TOPK of 64 columns, and MMA and DIST of 64 × 64 tiles of INT8 and of BF16. -/
def drainRecord : List Word := record [3, 0, 0, 0, 0xC02000000000, 1, 1, 1, 1, 1, 1]
/-- See `drainRecord`. -/
def topkRecord : List Word := record [2, 0, 0, 0, 0x80000000000000, 1, 1, 1, 1, 1, 1]
/-- See `drainRecord`. -/
def mmaRecord (kind fmt pitch : Nat) : List Word :=
  record [wd kind, 0, wd (fmt * 2 ^ 57 + pitch * 2 ^ 21), wd (fmt * 2 ^ 57 + pitch * 2 ^ 21 + 0x4000), 0, 1, 1, 1, 1, 1, 1]
theorem witness_ThresherResults_drain : ThrReady (multiplying drainRecord) (thrHead drainRecord) [] 3 ∧ 8 * Fmt.width .int32 ≤ thrPitch drainRecord
    ∧ Fmt.ofCode (thrDrainFmt drainRecord) = some .int32 :=
  ⟨thrReady_of _ _ (by decide +kernel) (by decide) (by decide +kernel) (by decide), by decide +kernel, by decide +kernel⟩
theorem witness_ThresherResults_topk : ThrReady (multiplying topkRecord) (thrHead topkRecord) [] 2 ∧ thrTopK topkRecord = 64 :=
  ⟨thrReady_of _ _ (by decide +kernel) (by decide) (by decide +kernel) (by decide), by decide +kernel⟩
theorem witness_ThresherResults_mma : ThrReady (multiplying (mmaRecord 0 8 64)) (thrHead (mmaRecord 0 8 64)) [] 0
    ∧ Fmt.ofCode (opndFmt (mmaRecord 0 8 64) 0) = some .int8 ∧ thrClass 8 = 2 ∧ ((mmaRecord 0 8 64).getD 0 0).getLsbD 9 = false
    ∧ thrCheck (mmaRecord 0 8 64) 0x1C0000 = none :=
  ⟨thrReady_of _ _ (by decide +kernel) (by decide) (by decide +kernel) (by decide), by decide +kernel, by decide +kernel, by decide +kernel, by decide +kernel⟩
theorem witness_ThresherResults_dist : ThrReady (multiplying (mmaRecord 1 1 128)) (thrHead (mmaRecord 1 1 128)) [] 1
    ∧ Fmt.ofCode (opndFmt (mmaRecord 1 1 128) 0) = some .bf16 ∧ ((readNum .bf16 0x3F80).scale (thrScale (mmaRecord 1 1 128) 8)).rat = some 1
    ∧ (ff32.decode 0).rat = some 0 :=
  ⟨thrReady_of _ _ (by decide +kernel) (by decide) (by decide +kernel) (by decide), by decide +kernel, by decide +kernel, by decide +kernel⟩

theorem witness_ThresherResults_positions : (mmaRecord 0 8 64).getD 13 0 = 0 ∧ Positions (mmaRecord 0 8 64) ((thrHead (mmaRecord 0 8 64)).desc 3) ((List.range 64).map fun k => (k, 1))
    ∧ ¬ offStored (thrHead (mmaRecord 0 8 64)) (fun _ => 0)
    ∧ OpndReady (multiplying (mmaRecord 0 8 64)) (mmaRecord 0 8 64) 0 .int8 ((thrHead (mmaRecord 0 8 64)).desc 0) (fun _ => 0) := by
  refine ⟨by decide +kernel, ?_, fun h => absurd h.1 (by decide +kernel), fun E h => ?_⟩
  · have h : (thrHead (mmaRecord 0 8 64)).desc 3 = none := by decide +kernel
    rw [h]
    exact rfl
  · have h0 : (thrHead (mmaRecord 0 8 64)).desc 0 = none := by decide +kernel
    rw [h0] at h
    cases h
/-- DRAIN through a SYM2 descriptor of 64 × 64 INT32 at loft 0, its elements at loft 0x1000. -/
def orbitDrain : List Word :=
  record [0x300, 0, 0, 0, 0xC02000000000, 1, 1, 1, 1, 1, 1, 0, 0, 0x800000] |>.set 0 3
/-- See `orbitDrain`. -/
def orbitWords : List Word := [0x60200000101, 0x400040, 1, loftAddr 0x1000]
/-- See `orbitDrain`. -/
def orbitHead : ThrCmd := ⟨orbitDrain, loftAddr 0x80, 0, 1, true, true, some [[], [], orbitWords, []], 0⟩
theorem witness_ThresherResults_orbit : ThrReady (labTaskIs fun t => { t with thr := { t.thr with cmds := [orbitHead] } }) orbitHead [] 3
    ∧ orbitHead.desc 2 = some (Desc.ofDwords orbitWords) ∧ (Desc.ofDwords orbitWords).rank = 2
    ∧ (Desc.ofDwords orbitWords).base.toNat % Fmt.bytes .int32 = 0
    ∧ (blockOf orbitDrain (thrPitch orbitDrain) 2 (fun _ => 0) 0 = 1 ∨ (0 : Nat) < (Desc.ofDwords orbitWords).ext 0) := by
  refine ⟨⟨rfl, rfl, rfl, rfl, rfl, by decide +kernel, ⟨_, rfl, rfl, fun n hn h => ?_⟩, by decide +kernel, by decide +kernel, rfl, rfl, fun l hl => (nomatch hl)⟩, by decide +kernel, by decide +kernel,
    by decide +kernel, .inr (by decide +kernel)⟩
  match n, hn with
  | 0, _ => exact absurd h (by decide +kernel)
  | 1, _ => exact absurd h (by decide +kernel)
  | 2, _ => decide +kernel
  | 3, _ => exact absurd h (by decide +kernel)

/-- The loft, byte by byte, at its addresses. -/
def loftPlace (a : Nat) : Place := .loft (a - 0x00F0000000000000)
/-- A started FILL, a UNPACKO without and with its descriptor, and a FILL that has delivered its element and writes its CRC at loft 0x480. -/
def fillHead : CopyCmd := ⟨fillRecord, loftAddr 0x80, 0, 1, false, 0, true, true, none, 0, 0, 0xFFFFFFFF⟩
/-- See `fillHead`. -/
def copying (c : CopyCmd) : State := labTaskIs fun t =>
  { t with loft := memAt 0x80 (dwords [0x60200000101, 0x40004, 1, loftAddr 0x40]), ch := t.ch.set 0 { t.ch[(0 : Fin 4)] with cmds := [c] } }
theorem witness_CopyResults_move : copyStepSpec (.fillCmd 0) = some (0, 1) ∧ CopyReady (copying fillHead) 0 fillHead [] 1 ∧ (copying fillHead).wf = true
    ∧ fillHead.pos < (copyCounts fillRecord).prod ∧ 1 ≤ copyBytes fillRecord false ∧ copyBytes fillRecord true = 1
    ∧ copyAddr fillRecord true 0 = (0x00F0000000000400 : Int) :=
  ⟨rfl, ⟨rfl, rfl, rfl, rfl, by decide +kernel⟩, by decide +kernel, by decide +kernel, by decide +kernel, by decide +kernel, by decide +kernel⟩
theorem witness_CopyResults_place : EngineBytes (copying fillHead) false 0 true loftPlace 0x00F0000000000400 1 := fun k hk => by
  obtain rfl : k = 0 := by omega
  refine ⟨by decide +kernel, fun j hj _ => ?_, rfl⟩
  obtain rfl : j = 0 := by omega
  rfl
theorem witness_CopyResults_end :
    let c := { fillHead with pos := 1, record := record [0x201, 0, 0, loftAddr 0x400, 1, 1, 1, 1, 0x5A00000090, 0, loftAddr 0x480] }
    CopyReady (copying c) 0 c [] 1 ∧ (copyCounts c.record).prod ≤ c.pos ∧ (c.record.getD 0 0).toNat / 2 ^ 9 % 2 = 1 ∧ (c.record.getD 10 0).toNat = 0x00F0000000000480 :=
  ⟨⟨rfl, rfl, rfl, rfl, by decide +kernel⟩, by decide +kernel, by decide +kernel, by decide +kernel⟩
/-- UNPACKO of a SYM2 tile of 4 × 4 INT32, its descriptor at loft 0x80. -/
def unpackHead : CopyCmd :=
  ⟨record [5, 0, 0, loftAddr 0x400, 4, 4, 1, 1, 0x66, loftAddr 0x80], loftAddr 0x100, 0, 1, false, 0, true, true, none, 0, 0, 0xFFFFFFFF⟩
theorem witness_CopyResults_descriptor : CopyReady (copying unpackHead) 0 unpackHead [] 5 ∧ unpackHead.desc = none
    ∧ (List.range 4).map (fun j => wd ((copying unpackHead).seenAt loftPlace (0x00F0000000000080 + 8 * j) 8)) = [0x60200000101, 0x40004, 1, loftAddr 0x40]
    ∧ Desc.valid [0x60200000101, 0x40004, 1, loftAddr 0x40] = true ∧ copyCounts unpackHead.record = [4, 4, 1, 1] ∧ copySfmt unpackHead.record = 6 :=
  ⟨⟨rfl, rfl, rfl, rfl, by decide +kernel⟩, rfl, by decide +kernel, by decide +kernel, by decide +kernel, by decide +kernel⟩
theorem witness_CopyResults_reads : (copying unpackHead).enginePlace ((copying unpackHead).engine false 0) .load (loftAddr 0x9F) = .ok (copying unpackHead, .loft 0x9F) := rfl

/-- A collective command of the running task in group 0 of two members, this one first; the tables lie at 0x80000. -/
def sumHead : CollCmd := ⟨sumRecord, loftAddr 0x80, 1, 0, 1, 0, false, 1, 0, none, 0⟩
/-- See `sumHead`. -/
def summing : State :=
  { lab with
    coll := ⟨[sumHead], [], []⟩, parts := lab.parts.set 0 { Partition.whole with coltab := 0x80001 }
    mem := memAt 0x82000 (dwords [0x8000000100010002, 0, 1, 0x83000]) }
/-- The other member's command, which agrees. -/
def otherSum : PeerCmd := ⟨1, 0, 0, 0, 0, 1, 0, [0, 0, 0x80, 0x3F], []⟩
/-- The group. -/
def pairGroup : Group := ⟨2, 1, 1, 0, 0, 0, 1, [0, 0]⟩
theorem witness_Collectives : collStepSpec (.allreduce 0 [otherSum]) = some (0, 0, [otherSum]) ∧ CollFirst summing sumHead [] []
    ∧ CollGroupOk summing sumHead pairGroup ∧ summing.wf = true ∧ collKind sumRecord = 0 ∧ collGroup sumRecord = 0 :=
  ⟨rfl, ⟨rfl, rfl, rfl, rfl, fun _ h => (nomatch h), fun _ h => (nomatch h), fun _ h => absurd h (by decide +kernel)⟩,
    ⟨by decide +kernel, by decide +kernel, fun h => (nomatch h), rfl, by decide +kernel, rfl, by decide +kernel,
      fun h => absurd h (by decide +kernel), fun h => absurd h (by decide +kernel), by decide +kernel⟩, by decide +kernel, by decide +kernel, by decide +kernel⟩
theorem witness_Collectives_missing : (1 : Nat) < pairGroup.n ∧ 1 ≠ pairGroup.me ∧ matchOf sumRecord pairGroup [] 1 = none := by decide +kernel
theorem witness_Collectives_matched : CollMatched sumRecord pairGroup [otherSum] (fun _ => otherSum) ∧ CollAgrees sumRecord otherSum
    ∧ (∀ l, l < 3 → winnowed sumRecord l = false) := by
  refine ⟨fun j hj => ?_, ⟨by decide +kernel, by decide +kernel, fun _ => ⟨by decide +kernel, by decide +kernel, by decide +kernel,
    fun h => absurd h (by decide +kernel)⟩⟩, by decide +kernel⟩
  have hj' : j < 2 ∧ j ≠ 0 := hj
  obtain rfl : j = 1 := by omega
  rfl
theorem witness_Collectives_disagrees : ¬ CollAgrees sumRecord { otherSum with count := 2 } := fun h => absurd h.2.1 (by decide +kernel)
theorem witness_Collectives_bytes : EngineBytes summing false 0 false (fun a => .device (a + 0x10000)) 0x400 4
    ∧ EngineBytes summing false 0 true (fun a => .device (a + 0x10000)) 0x440 4 := by
  refine ⟨fun k hk => ?_, fun k hk => ?_⟩
  all_goals
    match k, hk with
    | 0, _ | 1, _ | 2, _ | 3, _ =>
      refine ⟨by decide +kernel, fun j hj _ => ?_, rfl⟩
      match j, hj with
      | 0, _ | 1, _ | 2, _ | 3, _ => rfl

theorem witness_Collectives_started : CollOpen { summing with dev := { lab.dev with cycle := 2699999 } } { sumHead with group := some pairGroup } pairGroup :=
  .inr ⟨rfl, by decide, by decide, by decide, fun h => absurd h (by decide +kernel), fun h => absurd h (by decide +kernel), by decide +kernel⟩
theorem witness_Collectives_overdue : pairGroup.tmo * 2700000
    ≤ ({ summing with dev := { lab.dev with cycle := 2700000 } } : State).dev.cycle - ({ sumHead with group := some pairGroup } : CollCmd).since := by
  decide +kernel
theorem witness_Collectives_released : (sumRecord.getD 0 0).toNat / 2 ^ 15 % 2 = 0 ∧ (windowStore []).task.storeQ.length = 1 := by decide +kernel
/-- The same reduction winnowed at L1, its chaff at virtual 0x480: this member owns its one element. -/
def winnowRecord : List Word := record [0x20000, 0, 0x400, 0x440, 1, 0x480]
theorem witness_Collectives_winnowed : collCheck winnowRecord = none ∧ winnowed winnowRecord 1 = true ∧ chaffBytes winnowRecord pairGroup = 4
    ∧ chaffSpec winnowRecord pairGroup 1 0 = 0 := by decide +kernel
theorem witness_Collectives_chaff : EngineBytes summing false 0 true (fun a => .device (a + 0x10000)) 0x480 4 := fun k hk => by
  match k, hk with
  | 0, _ | 1, _ | 2, _ | 3, _ =>
    refine ⟨by decide +kernel, fun j hj _ => ?_, rfl⟩
    match j, hj with
    | 0, _ | 1, _ | 2, _ | 3, _ => rfl
theorem witness_Collectives_owns : ownsChaff winnowRecord pairGroup 1 0 := by
  unfold ownsChaff
  decide +kernel

/-- A stream at its first chunk: a raw chunk of 4 zero bytes whose entry at loft 0x400 names the header at `off`. -/
def chunkStream : Stream := ⟨streamDesc, loftAddr 0x80, 0x40000101, false, 0, 0, 0, [], 0, [], [], [], false, false, 0⟩
/-- See `chunkStream`; `ulen` and `clen` are the header's, and `crc` its check. -/
def chunked (off : Word) (codec ulen clen crc : Nat) : State := labTaskIs fun t =>
  { t with
    loft := memAt 0x400 (leBytes 8 off.toNat ++ List.replicate 24 0
      ++ [0x42, 0x4C, 1] ++ leBytes 1 codec ++ leBytes 4 ulen ++ leBytes 4 clen ++ leBytes 4 crc)
    q := t.q.set 7 ⟨.stream, [], some chunkStream⟩ }
theorem streamReady_of (off : Word) (codec ulen clen crc : Nat) : StreamReady (chunked off codec ulen clen crc) 7 chunkStream :=
  have h : streamOps chunkStream.desc = [1] ∧ chunkStream.chunk < (chunkStream.desc.getD 2 0).toNat % 2 ^ 32 ∧ chunkStream.waiting.length < chunkStream.tileLen
      ∧ chunkStream.carry.length < chunkStream.inNibbles ∧ 1 ≤ chunkStream.sh.toNat % 2 ^ 8 ∧ 1 ≤ chunkStream.sh.toNat / 2 ^ 8 % 2 ^ 8
      ∧ chunkStream.sh.toNat % 2 ^ 8 ≤ 16 ∧ chunkStream.sh.toNat / 2 ^ 8 % 2 ^ 8 ≤ 64 := by decide +kernel
  ⟨rfl, rfl, rfl, rfl, Nat.zero_lt_succ 3, h.1, rfl, h.2.1, h.2.2.1, h.2.2.2.1, rfl, Nat.zero_lt_succ 2, h.2.2.2.2⟩
theorem witness_StreamChunks : StreamReady (chunked 0x20 3 4 4 0x48674BC7) 7 chunkStream
    ∧ (chunked 0x20 3 4 4 0x48674BC7).streamRead ((chunked 0x20 3 4 4 0x48674BC7).engine false 0) (loftAddr 0x400 + wd 0) 8
      = .ok ⟨chunked 0x20 3 4 4 0x48674BC7, leBytes 8 0x20, false⟩
    ∧ HeaderSpec ([0x42, 0x4C, 1, 3] ++ leBytes 4 4 ++ leBytes 4 4 ++ leBytes 4 0x48674BC7 ++ List.replicate 16 0) 3 4 4 0x48674BC7
    ∧ ChunkBytes 3 4 [0, 0, 0, 0] [0, 0, 0, 0] ∧ (crc32c [0, 0, 0, 0]).toNat = 0x48674BC7
    ∧ 4 * 256 ≤ (streamDesc.getD 2 0).toNat / 2 ^ 32 % 2 ^ 16 * 4 ∧ (chunkStream.carry.length + 2 * 4) % chunkStream.inNibbles = 0 :=
  ⟨streamReady_of _ _ _ _ _, rfl, by unfold HeaderSpec; decide +kernel, ⟨rfl, .inl ⟨rfl, rfl⟩⟩, by decide +kernel, by decide +kernel, by decide +kernel⟩
theorem witness_StreamChunks_header : (chunked 0x20 3 4 4 0x48674BC7).streamRead ((chunked 0x20 3 4 4 0x48674BC7).engine false 0) (loftAddr 0x420) 32
      = .ok ⟨chunked 0x20 3 4 4 0x48674BC7, [0x42, 0x4C, 1, 3] ++ leBytes 4 4 ++ leBytes 4 4 ++ leBytes 4 0x48674BC7 ++ List.replicate 16 0, false⟩
    ∧ (chunked 0x20 3 4 4 0x48674BC7).streamRead ((chunked 0x20 3 4 4 0x48674BC7).engine false 0) (loftAddr 0x440) 4
      = .ok ⟨chunked 0x20 3 4 4 0x48674BC7, [0, 0, 0, 0], false⟩ := ⟨rfl, rfl⟩
theorem witness_StreamChunks_misaligned : StreamReady (chunked 0x21 3 4 4 0) 7 chunkStream ∧ (loftAddr 0x400 + wd 0x21).toNat % 32 ≠ 0
    ∧ chunkStream.attempt = 0 := ⟨streamReady_of _ _ _ _ _, by decide +kernel, rfl⟩
theorem witness_StreamChunks_bad_header : ∀ k u n x, ¬ HeaderSpec (List.replicate 32 0) k u n x := fun _ _ _ _ h => absurd h.1 (by decide +kernel)
theorem witness_StreamChunks_last : let d := { chunkStream with attempt := 2 }
    ¬ (d.attempt = 0 ∨ (d.attempt = 1 ∧ d.desc.getD 1 0 ≠ 0)) := by decide +kernel
theorem witness_StreamChunks_rate : (streamDesc.getD 2 0).toNat / 2 ^ 32 % 2 ^ 16 * 4 < 5 * 256 := by decide +kernel
theorem witness_StreamChunks_crc : ChunkBytes 3 4 [0, 0, 0, 0] [0, 0, 0, 0] ∧ (crc32c [0, 0, 0, 0]).toNat ≠ 0 := ⟨⟨rfl, .inl ⟨rfl, rfl⟩⟩, by decide +kernel⟩
theorem witness_StreamChunks_idle : lab.task.q[(0 : Fin 8)].stream = none := rfl

/-- A ring of 16 slots at virtual 0x200 with one packet announced; at `base` 0x20 its slot is misaligned. -/
def ringed (base : Word) : State := { lab with ctxs := lab.ctxs.set 0 { Context.reset with ring := ⟨base, 0x104, 1, 0, 0⟩ } }
theorem witness_Launching_packet : (ringed 0x200).wf = true ∧ (ringed 0x200).world? 0 = none ∧ (ringed 0x200).launchesAllowed = true
    ∧ (ringed 0x200).awake = true ∧ (ringed 0x200).ctxs[(0 : Fin 64)].ring.head ≠ (ringed 0x200).ctxs[(0 : Fin 64)].ring.tail
    ∧ (0x200 : Word).toNat % 64 = 0 ∧ (ringed 0x200).gleanPlace 0 .load 0x200 = some (.device 0x10200) := by decide +kernel
theorem witness_Launching_dropped : (ringed 0x20).awake = true ∧ ((ringed 0x20).ctxs[(0 : Fin 64)].ring.base).toNat % 64 ≠ 0
    ∧ lab.ctxs[(0 : Fin 64)].ring.head = lab.ctxs[(0 : Fin 64)].ring.tail := by decide +kernel
/-- A packet that is admitted, and one whose ID is live. -/
theorem witness_Launching_submit : refusalSpec { ringed 0x200 with launches := [] } 0 [0, 0, 0, 0, 0, 0x400, 1, 0x300] = none
    ∧ refusalSpec (ringed 0x200) 0 [1, 0, 0, 0, 0, 0x400, 1, 0x300] = some 1
    ∧ refusalSpec (ringed 0x200) 0 [2, 0, 0, 0, 0, 0x410, 1, 0x300] = some 3 := by
  unfold refusalSpec
  decide +kernel
/-- An idle croft and a launch with an entry. -/
def popping : State := { lab with running := false, parts := lab.parts.set 0 { Partition.whole with dies := 1 }, launches := [{ labLaunch with queue := [.again ⟨[0x1000, 0, 0, 0], 0⟩ 0] }] }
theorem witness_Launching_pop : popping.awake = true ∧ popping.running = false ∧ popping.cmax ≠ 0 ∧ popping.partOfDie popping.die.val = some 0
    ∧ (popping.launches.map fun k => (k.part, k.id)).Nodup ∧ (∀ K ∈ popping.launches, K.prio < 4)
    ∧ ((popping.launches.filter (·.part == 0)).filter fun K => popping.ready K && popping.serves K) ≠ [] := by decide +kernel
theorem witness_Launching_fits : popping.tooWide 0 { labLaunch with queue := [.again ⟨[0x1000, 0, 0, 0], 0⟩ 0] } = none := by decide +kernel
theorem witness_Launching_none : (({ lab with running := false } : State).launches.filter fun K => lab.ready K && lab.serves K) = [] := by decide +kernel
theorem witness_Launching_complete : ({ lab with running := false } : State).launches = [] ++ labLaunch :: [] ∧ labLaunch.preds = []
    ∧ labLaunch.start.toNat ≤ lab.time ∧ labLaunch.queue = [] ∧ labLaunch.saved = [] ∧ labLaunch.parked = []
    ∧ lab.runs labLaunch = true := by decide +kernel

/-- A task over its launch's budget. -/
def late (s : State) : State := { s with launches := [{ labLaunch with budget := 1 }], task := { s.task with id := { s.task.id with wdog := 2 } } }
theorem witness_HardwareEvents_watchdog : (late lab).running = true ∧ ((late lab).myLaunch.map (·.budget)).getD 0 = 1 ∧ 1 < (late lab).task.id.wdog
    ∧ (late lab).task.id.wdogDone = false ∧ (late lab).sup = false ∧ (late lab).task.pend.hw = false
    ∧ (late (asSup lab)).sup = true ∧ (late (asSup lab)).task.csr.status.toNat / 2 % 2 = 0 := by decide +kernel
theorem witness_HardwareEvents_watchdog_taken :
    let s := late (handled lab)
    Delivered { s with task := { s.task with pend := { s.task.pend with watchdog := false }, id := { s.task.id with wdogDone := true } } }
      { ownTrap .watchdog 0 with source := 9 } := ⟨.inr (.inr rfl), fun h => absurd h (by decide), by decide +kernel, .inr ⟨_, rfl⟩⟩
theorem witness_HardwareEvents_trap : (∃ t, (handled (pends ({ · with watchdog := true }))).asyncTrap = some t) ∧ lab.asyncTrap = none :=
  ⟨⟨_, rfl⟩, rfl⟩
theorem witness_HardwareEvents_line : (2 ^ 41 - 1 : Nat) < 2 ^ 41 ∧ lab.running = true ∧ (2 ^ 21 - 1 : Nat) < 2 ^ 21 := by decide
theorem witness_HardwareEvents_check :
    let e := entry (.vnot (.v 0) (.q 7)) 0x40000101 0 0
    let s := asSup (labTaskIs fun t => { t with veQ := [e], q := t.q.set 7 ⟨.load, [Tile.zero], none⟩ })
    s.sup = true ∧ s.task.csr.status.toNat / 2 % 2 = 0 ∧ s.task.veQ = e :: [] ∧ 7 ∈ e.instr.popped ∧ s.task.pend.ve = none := by decide +kernel
theorem witness_HardwareEvents_isolation : (15 : Fin 16) ∉ lab.dev.isolated ∧ lab.die = 0 ∧ (0 : Fin 16) ∉ lab.dev.isolated ∧ lab.task.reruns = false
    ∧ lab.myLaunch = some labLaunch := by decide +kernel

/-- Port 31 up and about to expect the last sequence number. -/
def linked (fails : Nat) (frames : Nat) : State :=
  { lab with ports := lab.ports.set 31 { Port.reset with up := true, expect := 2 ^ 48 - 1, fails := fails, frames := frames } }
theorem witness_LinkFrames_order : frameSpec (.dataFrame 31 { labFrame with seq := 2 ^ 48 - 1 }) = some (31, 0, { labFrame with seq := 2 ^ 48 - 1 })
    ∧ (linked 0 0).up = true ∧ (linked 0 0).ports[(31 : Fin 32)].up = true ∧ labFrame.tagOk = true
    ∧ (2 ^ 48 - 1 : Nat) = (linked 0 0).ports[(31 : Fin 32)].expect ∧ (2 ^ 48 - 1 : Nat) < 2 ^ 48 ∧ (linked 0 0).ports[(31 : Fin 32)].early = [] := by decide +kernel
theorem witness_LinkFrames_again : ¬ notBefore (2 ^ 48 - 2) (2 ^ 48 - 1) ∧ notBefore 0 (2 ^ 48 - 1) ∧ (0 : Nat) ≠ (2 ^ 48 - 1) % 2 ^ 48 := by
  unfold notBefore
  decide
theorem witness_LinkFrames_bad_tag : ({ labFrame with tagOk := false } : Frame).tagOk = false ∧ (linked 1 0).ports[(31 : Fin 32)].fails < 2
    ∧ 2 ≤ (linked 2 0).ports[(31 : Fin 32)].fails ∧ lab.ports[(31 : Fin 32)].up = false := by decide +kernel
theorem witness_LinkFrames_renewal : 2 ^ 31 ≤ (linked 0 (2 ^ 31)).ports[(31 : Fin 32)].frames
    ∧ ¬ 2 ^ 31 ≤ (linked 0 0).ports[(31 : Fin 32)].frames ∧ ¬ (81000000000 ≤ ((linked 0 0).dev.cycle : Int) - (linked 0 0).ports[(31 : Fin 32)].keyAge) := by
  decide +kernel
/-- A long-haul port 0 whose table names peer 511 by digest 7. -/
def bringing : State :=
  { lab with
    parts := lab.parts.set 0 { Partition.whole with coltab := 0x80001 }
    mem := Mem.putBytes (memAt 0x81FF0 (dwords [0x8000000000000001, 7])) 0x86000 (dwords [0x2000003, 0x40000000]) }
theorem witness_LinkFrames_bring_up : bringing.up = true ∧ bringing.partOfPort 0 = some 0
    ∧ leValue (bringing.mem.getBytes 0x86000 8) % 2 = 1 ∧ leValue (bringing.mem.getBytes 0x86000 8) / 2 % 2 = 1
    ∧ leValue (bringing.mem.getBytes 0x86000 8) / 2 ^ 26 = 0 ∧ leValue (bringing.mem.getBytes 0x86000 8) / 2 ^ 16 % 2 ^ 10 = 512
    ∧ leValue (bringing.mem.getBytes 0x86000 8) % 2 ^ 16 / 4 = 0 ∧ leValue (bringing.mem.getBytes 0x86008 8) = 0x40000000
    ∧ Partition.whole.owns 0x40000000 (512 * 2 ^ 20) = true ∧ leValue (bringing.mem.getBytes 0x81FF0 8) = 2 ^ 63 + 1
    ∧ leValue (bringing.mem.getBytes 0x81FF8 8) = (7 : Word).toNat ∧ (511 : Nat) < 512 := by decide +kernel

theorem witness_HostAccess : ∀ write, lab.wf = true ∧ lab.world? 0 = none ∧ Bar2Open lab 0 (16 * Config.dieBytes - 8) 8 write
    ∧ (16 * Config.dieBytes - 8) % 8 = 0 := fun write =>
  ⟨by decide +kernel, rfl, ⟨⟨⟨rfl, rfl, by decide +kernel⟩, fun _ h => (nomatch h), by cases write <;> decide +kernel⟩, rfl, by decide +kernel,
    fun k _ => ⟨rfl, rfl⟩⟩, by decide +kernel⟩
/-- Beyond the one die of partition 0. -/
theorem witness_HostAccess_out : ∀ write, (popping.parts[(0 : Fin 16)]).dies * Config.dieBytes ≤ Config.dieBytes
    ∧ Bar2Free popping 0 Config.dieBytes 8 write := fun write =>
  ⟨by decide +kernel, ⟨rfl, rfl, by decide +kernel⟩, fun _ h => (nomatch h), by cases write <;> decide +kernel⟩
theorem witness_HostAccess_isolated : let s := { lab with dev := { lab.dev with isolated := [0] } }
    (∃ k, k < 8 ∧ s.isolatedAt (s.parts[(0 : Fin 16)].firstDie * Config.dieBytes + 0 + k) = true)
      ∧ ∀ write, Bar2Free s 0 0 8 write :=
  ⟨⟨0, by omega, by decide +kernel⟩, fun write => ⟨⟨rfl, rfl, by decide +kernel⟩, fun _ h => (nomatch h), by cases write <;> decide +kernel⟩⟩
theorem witness_HostAccess_waits : bar2Shape (.bar2Read 0 0 8) = some (0, 0, 8, false) ∧ Bar2Serves lab 0 0 8
    ∧ ¬ Bar2Free { lab with posted := [.bar2Write 0 0x40 [1]] } 0 0 8 false ∧ ¬ Bar2Serves lab 1 0 8 := by
  refine ⟨rfl, ⟨rfl, rfl, by decide +kernel⟩, fun h => ?_, fun h => absurd h.2.1 (by decide +kernel)⟩
  exact h.2.1 (.bar2Write 0 0x40 [1]) (List.mem_singleton.2 rfl) (0, 0x40, 1, true) rfl rfl

/-- A ring of 2^20 slots, full at TAIL 2^20. -/
def bigRing : State := { lab with ctxs := lab.ctxs.set 63 { Context.reset with ring := ⟨0, 0x114, 0, 0, 0⟩ } }
theorem witness_HostRegisters : bigRing.up = true ∧ (bigRing.parts[(0 : Fin 16)]).present = true ∧ (63 : Fin 64) ∈ (bigRing.parts[(0 : Fin 16)]).contexts
    ∧ bigRing.partOfCtx 63 = 0 ∧ ((0x100000 : BitVec 32).toNat + 2 ^ 32 - 0) % 2 ^ 32 ≤ 2 ^ 20 ∧ ¬ ((0x100001 : BitVec 32).toNat + 2 ^ 32 - 0) % 2 ^ 32 ≤ 2 ^ 20
    ∧ (0xFFF : Nat) ∉ [0, 8, 0x10] := by decide +kernel
theorem witness_HostRegisters_ptp : lab.up = true ∧ lab.dev.everLocked = false ∧ lab.dev.launched = false
    ∧ ({ lab with dev := { lab.dev with launched := true } } : State).dev.launched = true ∧ lab.wf = true := by decide +kernel
/-- Bring-up with one partition of 8 dies, and one that fails. -/
def boot (ok : Bool) : Boot := ⟨ok, true, false, List.replicate 32 0, ⟨List.replicate 32 0, []⟩, [], 0, [], [⟨15, 8, 8, [0], [0], List.replicate 32 0⟩], []⟩
theorem witness_HostRegisters_reset : (boot false).firmwareOk = false ∧ (boot true).managementOk = true ∧ (boot true).badDies = []
    ∧ (boot true).downPorts = [] ∧ [1, 2, 4, 8, 16].contains 8 = true ∧ (8 : Fin 16).val % 8 = 0 ∧ (8 : Fin 16).val + 8 ≤ 16 := by decide

theorem witness_Management : lab.up = true ∧ lab.dev.slots[(0 : Fin 4)].isSome = true ∧ lab.dev.slots[(1 : Fin 4)] = none ∧ popping.running = false
    ∧ State.reset.launches = [] ∧ (∀ p : Fin 16, State.reset.parts[p].debug ≠ .invasive) := by decide +kernel
theorem witness_Management_preempt : (lab.parts[(1 : Fin 16)]).present = false ∧ (lab.parts[(0 : Fin 16)]).present = true ∧ lab.running = true ∧ lab.myPart = 0
    ∧ lab.task.id.launch = 1 ∧ (asSup lab).sup = true ∧ (pooled lab).sup = false ∧ (pooled lab).deferred = false
    ∧ ((pooled lab).pairFor (pooled lab).task).isSome = true ∧ (pooled lab).myLaunch = some labLaunch := by decide +kernel
theorem witness_Management_attest : (0x1FFFFFFFFC0 : Word).toNat % 64 = 0 ∧ (lab.parts[(0 : Fin 16)]).owns 0x1FFFFFFFFC0 64 = true ∧ lab.isolatedAt 0x1FFFFFFFFC0 = false
    ∧ lab.badLines.contains 0x1FFFFFFFFC0 = false ∧ lab.awake = true ∧ lab.launchesAllowed = true ∧ (lab.parts[(0 : Fin 16)]).attest = none := by decide +kernel
theorem witness_Management_partition : State.reset.mayConfigure [⟨0, 1, 2, [], [], []⟩] = false ∧ State.reset.wf = true
    ∧ [1, 2, 4, 8, 16].contains 16 = true ∧ (0 : Fin 16).val % 16 = 0 ∧ State.reset.launches = []
    ∧ ∀ p : Fin 16, p ≠ 0 → State.reset.parts[p].present = false := by decide +kernel

/-- A Cellar request at 0x40: a reserve of one 2 MiB block at 0x200000, the manifest at 0x80, the status at 0x100; and one in progress. -/
def cellaring : State := { lab with mem := memAt 0x40 (dwords [0x200000, 1, 0, 0, 0x80, 0x100]) }
/-- See `cellaring`. -/
def draining : State := { cellaring with parts := lab.parts.set 0 { Partition.whole with cellar := some ⟨[0x200000, 1, 0, 0, 0x80, 0x100, 0, 0], 0x40, [], [], [], [], [], []⟩ } }
theorem witness_CellarAndGrants_valid : cellaring.up = true ∧ cellaring.awake = true ∧ cellaring.wf = true ∧ (cellaring.parts[(0 : Fin 16)]).present = true
    ∧ (cellaring.parts[(0 : Fin 16)]).owns 0x40 64 = true ∧ cellaring.isolatedAt 0x40 = false
    ∧ (List.range 8).map (fun k => leValue (cellaring.mem.getBytes (0x40 + 8 * k) 8)) = [0x200000, 1, 0, 0, 0x80, 0x100, 0, 0]
    ∧ (cellaring.parts[(0 : Fin 16)]).owns 0x200000 0x200000 = true ∧ (cellaring.parts[(0 : Fin 16)]).owns 0x100 8 = true
    ∧ (cellaring.parts[(0 : Fin 16)]).cellar = none ∧ (draining.parts[(0 : Fin 16)]).cellar ≠ none ∧ draining.world? 0 = none ∧ draining.wf = true
    ∧ bit (draining.parts[(0 : Fin 16)]).evCfg 8 = false := by decide +kernel
theorem witness_CellarAndGrants_refused : (lab.parts[(1 : Fin 16)]).present = false ∧ (0x41 : Word).toNat % 64 ≠ 0 := by decide +kernel
theorem witness_CellarAndGrants_lifecycle : lab.dev.lifecycle = .production ∧ ({ lab with dev := { lab.dev with lifecycle := .blank } } : State).dev.lifecycle = .blank := by
  decide +kernel
theorem witness_CellarAndGrants_token : let tok : DebugToken := ⟨true, true, 0, .invasive, 5⟩
    lab.dev.lifecycle = .production ∧ tok.nonce ∉ lab.dev.usedNonces ∧ (lab.parts[tok.part]).present = true
      ∧ debugCode (lab.parts[tok.part]).debug < debugCode tok.level := by decide +kernel
theorem witness_CellarAndGrants_slots : (lab.parts[(0 : Fin 16)]).present = true ∧ (0 : Fin 64) ∈ (lab.parts[(0 : Fin 16)]).contexts ∧ lab.ctxs[(0 : Fin 64)].xset = 0
    ∧ ∀ c : Fin 64, lab.ctxs[c].xset ≠ 3 := by decide +kernel

theorem atBoundary_of (s : State) (h1 : s.schedule = [.sequencer]) (h2 : s.running = true) (hp : s.task.part = none) (h3 : s.canPreempt = false) (h4 : s.overBudget = false)
    (h5 : ({ s with schedule := [] } : State).asyncTrap = none) : AtBoundary s { s with schedule := [] } := ⟨.inl ⟨[], h1, rfl⟩, h2, hp, h3, h4, h5⟩
/-- A scheduled sequencer, and ADD x3, x4, x5 at pc. -/
def fetching (w : Nat) : State := { lab with schedule := [.sequencer], mem := memAt 0x11000 (leBytes 4 w) }
theorem witness_StepRunsDecoded : AtBoundary (fetching 0x04642800) { fetching 0x04642800 with schedule := [] }
    ∧ ({ fetching 0x04642800 with schedule := [] } : State).fetchWord false 0x1000 = .ok 0x04642800 ∧ decode false 0x04642800 = .instr (.add 3 4 5) :=
  ⟨atBoundary_of _ rfl rfl rfl (by decide +kernel) (by decide +kernel) rfl, rfl, by decide +kernel⟩
theorem witness_StepRunsDecoded_fault : AtBoundary (fetching 0) { fetching 0 with schedule := [] } ∧ decode false 0 = .fault .zeroWord :=
  ⟨atBoundary_of _ rfl rfl rfl (by decide +kernel) (by decide +kernel) rfl, by decide +kernel⟩
theorem witness_StepRunsDecoded_fetch : ∃ r, ({ lab with task := { labTask with pc := 0x1002 } } : State).fetchWord false 0x1002 = .bad r := ⟨_, rfl⟩
theorem witness_StepRunsDecoded_idle : AtBoundary lab lab.engines := by
  refine ⟨.inr ⟨rfl, rfl, by decide +kernel, by decide +kernel, rfl⟩, ?_⟩
  exact ⟨by decide +kernel, rfl, by decide +kernel, by decide +kernel, rfl⟩

theorem witness_DecodeEncode : Instr.wf (.popm 0 31 31 false) = true ∧ encode (.popm 0 31 31 false) = some 0x881FF801
    ∧ decode true 0x5C000100 = .instr .tret ∧ privileged .tret = true := by decide +kernel
theorem witness_StepKeepsWf : ∃ t, State.reset.wf = true ∧ step State.reset = .next t := ⟨_, by decide +kernel, rfl⟩

/-! ### Single steps of the later paths -/

/-- A VST of 4 bytes to virtual 0x40, not yet performed: the host's write of that granule waits, and a later one behind it (R273). -/
def hostWaiting : State := labTaskIs fun t => { t with
  stores := 1, storeQ := [{ vst with base := 0x40, granules := [(0x40, .device 0x10040)] }], q := t.q.set 4 ⟨.store, [Tile.zero], none⟩ }
theorem test_bar2_waits : after (exec (.bar2Write 0 0x10040 [1]) hostWaiting) (fun t => (t.posted.length, t.mem)) = some (1, []) := by decide +kernel
theorem test_bar2_behind : after (exec (.bar2Write 0 0x20000 [1]) { hostWaiting with posted := [.bar2Write 0 0x10040 [1]] })
    (fun t => (t.posted.length, t.mem)) = some (2, []) := by decide +kernel
/-- R269: the task's own load of bytes whose tile nothing pushes raises 0x30. -/
theorem test_load_reserved : csrAfter (exec (.lw 3 1 0#16) { withX (labTaskIs fun t => { t with
      storeQ := [{ vst with base := 0x40, granules := [(0x40, .device 0x10040)] }] }) [(1, 0x40)] with
    ctxs := lab.ctxs.set 0 { Context.reset with tvec := 0x100 } }) (·.cause) = some 0x30 := by decide +kernel
/-- R268: a read of other bytes of the granule goes through. -/
theorem test_load_beside : xAfter (exec (.lw 3 1 0#16) (withX hostWaiting [(1, 0x48)])) 3 = some 0 := by decide +kernel
/-- R415: a granule reaches the target as it stood at the event; peer entry 0. -/
theorem test_drain : ((draining.drainGranule 0 0).parts[(0 : Fin 16)].cellar.map (·.sent)) = some [0] := by decide +kernel
/-- R414: the first root write of an undrained granule copies it into the reserve before the byte changes. -/
theorem test_reserve : after (exec (.sb 2 1 0#16) (withX { draining with tlb := [⟨0, 0, 0x10000, 0x11F⟩] } [(1, 0x40), (2, 0x77)]))
    (fun t => (t.mem.get 0x40, t.mem.getBytes 0x200040 3, t.parts[(0 : Fin 16)].cellar.map (·.copied)))
    = some (0x77, [0, 0, 0x20], some [0]) := by decide +kernel
/-- R387: TRET leaves a store of an outer trap stopped. -/
theorem test_tret_outer : after (exec .tret { skippingStore with task := { skippingStore.task with
      csr := { skippingStore.task.csr with vepc := 0 }, held := [⟨[], none, none, none⟩, ⟨[], some 3, none, none⟩] } })
    (fun t => t.task.storeQ.map (·.stopped)) = some [true] := by decide +kernel
/-- R424: a hold ends only below the limit. -/
theorem test_current_at_limit : after (exec (.currentSample 30000) { lab with dev := { lab.dev with limiting := true } }) (·.dev.limiting)
    = some true := by decide +kernel
/-- R320: an ID that names no live launch changes nothing. -/
theorem test_lend_dead : after (exec (.lendWrite 0x8FFF) (asSup lab)) (fun t => t.parts[(0 : Fin 16)].lendId) = some 0 := by decide +kernel
/-- R14: a PW-B7-H die: 120 enabled crofts, 16 of them at 32 columns. -/
theorem test_fused : fusedB7H (List.replicate 16 (List.replicate 104 64 ++ List.replicate 16 32 ++ List.replicate 8 0)) = true
    ∧ fusedB7 State.reset.dev.colmax = true := by decide +kernel

/-! ### Witnesses of the clauses on waiting, saving and hardware -/

theorem witness_CsrReads_digest : ∃ x, lab.dev.slots[lab.ctxs[lab.task.id.cid].xset] = some x ∧ x.measure.length = 32 := ⟨_, rfl, by decide +kernel⟩
/-- A packet with its ROOT at virtual 0x10040, read by the checks of a submission. -/
def packetAt (a : Word) : List Word := [0, 0, a, 0, 0, 0x400, 1, 0x300]
/-- The state with a vector store that has still to write device bytes 0x10040 to 0x10043. -/
def storing : State := labTaskIs fun t => { t with
  stores := 1, storeQ := [{ vst with base := 0x40, granules := [(0x40, .device 0x10040)] }], q := t.q.set 4 ⟨.store, [Tile.zero], none⟩ }
theorem witness_CsrWriteSteps_held : storing.submitHeld 0 (packetAt 0x40) = true ∧ storing.submitHeld 0 (packetAt 0x80) = false := by decide +kernel

/-- A loft with one uncorrectable doubleword, at 0x40. -/
def scarred : State := labTaskIs fun t => { t with badLoft := [0x40] }
theorem witness_Translation_beside : ∀ l ∈ scarred.task.badLoft, l + 8 ≤ 0x48 ∨ 0x48 + 8 ≤ l := by decide +kernel
/-- The pool ends with the pair's first slot. -/
theorem witness_Translation_boundary : 2 * 0 + 1 ≤ (0x210001 : Word).toNat % 2 ^ 16 ∧ (0x210001 : Word).toNat / 2 ^ 16 % 2 = 1
    ∧ ¬ 2 * 0 + 1 ≤ (0x210000 : Word).toNat % 2 ^ 16 := by decide
theorem witness_AtomicOps_place : (windowStore []).placeFind ((windowStore []).who (windowStore []).sup) .amo 0x80 = .ok (windowStore [], .device 0x10080) := rfl

/-- A handler that took a queue-precise cause of an inner and of an outer level along, with its stopped store. -/
def heldCauses : State := labTaskIs fun t => { t with
  csr := { t.csr with status := 3 }
  held := [⟨[], none, none, none⟩, ⟨[], some 3, some (⟨.format, 0x1234⟩, 0x2000), none⟩] }
theorem witness_TrapOrder_held : heldCauses.task.csr.status.toNat / 2 % 2 = 1 ∧ heldCauses.task.pend.ve = none ∧ heldCauses.task.held
      = [⟨[], none, none, none⟩] ++ ⟨[], some 3, some (⟨.format, 0x1234⟩, 0x2000), none⟩ :: [] ∧ heldCauses.slotHeld 0 = true := by decide +kernel
theorem witness_Waits_held : ∃ h ∈ heldCauses.task.held, h.cause.isSome = true := ⟨_, List.mem_cons_of_mem _ (List.mem_singleton.2 rfl), rfl⟩

/-- A running Cellar whose reserve, at 0xA00000, has room for `k` more granules. -/
def reserving (s : State) (k : Nat) : State := { s with
  parts := s.parts.set 0 { s.parts[0] with
    cellar := some ⟨[0xA00000, 1, 0, 0, 0x80, 0x100, 0, 0], 0x40, [], [], [], (List.range (512 - k)).map (0x10000 + ·), [], []⟩ } }
/-- A save that must wait for the reserve, whose 512 granules are fewer than it may write, and one that need not. -/
theorem witness_TrapReturn_room : (reserving (pooled (handler 1 0x2001 0)) 512).saveRoom = false ∧ (pooled (handler 1 0x2001 0)).saveRoom = true := by
  decide +kernel
theorem witness_Harvest_room : (reserving harvesting 0).placesRoom [.device 0x10100] = false ∧ (reserving harvesting 1).placesRoom [.device 0x10100] = true := by
  decide +kernel
theorem witness_Harvest_window : let s := asSup hostPage
    s.task.addrKind 8 = .global ∧ s.lookup (s.who s.sup) (8 : Word).toNat = .leaf 0x1019F 0 ∧ grants s.sup .store 0x1019F
      ∧ (0x1019F : Word).toNat / 64 % 4 = 2 :=
  ⟨by decide +kernel, by decide +kernel, ⟨by decide, .inr (by decide)⟩, by decide⟩
theorem witness_ExitAndYield_queue : waitingCount labLaunch < labLaunch.capacity ∧ outranking.saveRoom = true ∧ (reserving outranking 512).saveRoom = false
    ∧ ¬ waitingCount { labLaunch with capacity := 0 } < 0 := by decide +kernel
theorem witness_Fork_room : forking.saveRoom = true ∧ (reserving forking 512).saveRoom = false := by decide +kernel

/-- The commit would write the stack of an isolated die. -/
theorem witness_Choose_isolated : ({ choosing 1 with dev := { lab.dev with isolated := [0] } } : State).commitIsolated 2 = true
    ∧ (choosing 1).commitIsolated 2 = false := by decide +kernel
/-- The commit waits for a store of the task whose tile nothing pushes. -/
theorem witness_Choose_dead : ({ choosingLate with task := { choosingLate.task with q := lab.task.q.set 4 ⟨.store, [], none⟩ } } : State).commitBusy 2 = .dead := by
  decide +kernel

/-- A VST with a second granule still to reserve. -/
def halfReserved : State := labTaskIs fun t => { t with
  stores := 1, part := some ⟨.vst 4 1 2 .int32, [], [], []⟩
  storeQ := [{ vst with left := [((loftAddr 0x80).toNat, .loft 0x80)] }] }
theorem witness_VectorStores_goes_on : halfReserved.task.part.isSome = true
    ∧ halfReserved.task.storeQ = [] ++ [{ vst with left := [((loftAddr 0x80).toNat, .loft 0x80)] }] := by decide +kernel
/-- A store whose one granule is written before the next is reserved keeps its tile. -/
theorem witness_StorePairing_more : ({ vst with left := [((loftAddr 0x80).toNat, .loft 0x80)] } : StoreEntry).left ≠ []
    ∧ halfReserved.owedTo { vst with left := [((loftAddr 0x80).toNat, .loft 0x80)] } (.loft 0x40) = none := by decide +kernel

/-- The latch holds the one row of a tile of 64-byte rows, as the loft has it. -/
theorem witness_ThresherResults_latch : let l : Latch := ⟨0, 8, 0, [0], List.replicate (rowBytes 8) 0⟩
    l.rows ≠ [] ∧ l.bytes = l.rows.flatMap fun o => (multiplying (mmaRecord 0 8 64)).task.loft.getBytes o (rowBytes l.fmt) := by decide +kernel
theorem witness_CopyResults_room : CellarRoom lab 2 ∧ CellarRoom (reserving lab 2) 2 := by
  refine ⟨fun i c h => ?_, fun i c h => ?_⟩
  · have := (by decide +kernel : ∀ i : Fin 16, lab.parts[i].cellar = none) i
    rw [this] at h
    cases h
  · have h0 : ∀ i : Fin 16, i ≠ 0 → (reserving lab 2).parts[i].cellar = none := by decide +kernel
    by_cases hi : i = 0
    · subst hi
      cases h
      decide +kernel
    · rw [h0 i hi] at h
      cases h
/-- The last byte of the receive buffer is spoiled, the send buffer is not. -/
theorem witness_Collectives_spoils : collSpoils sumRecord pairGroup 0x443 ∧ ¬ collSpoils sumRecord pairGroup 0x400 := by
  refine ⟨⟨.inl ⟨3, by decide +kernel, by decide +kernel⟩, .inr (by decide +kernel)⟩, fun h => ?_⟩
  rcases h.1 with ⟨u, hu, h1⟩ | ⟨lvl, e, u, ho, hu, h1⟩
  · have h2 : (sumRecord.getD 3 0).toNat = 0x440 := by decide +kernel
    simp only [h2] at h1
    omega
  · have h2 : ¬ ((collKind sumRecord = 0 ∧ (sumRecord.getD 2 0).toNat = (sumRecord.getD 3 0).toNat) ∨ 0x400 < (sumRecord.getD 2 0).toNat
        ∨ (sumRecord.getD 2 0).toNat + collSize sumRecord * collSends sumRecord pairGroup ≤ 0x400) := by decide +kernel
    exact h2 h.2

theorem witness_Launching_waits : { ringed 0x200 with dev := { lab.dev with power := .nap } }.awake = false
    ∧ ({ storing with ctxs := lab.ctxs.set 0 { Context.reset with ring := ⟨0x40, 0x104, 1, 0, 0⟩ } } : State).packetHeld 0 = true
    ∧ (ringed 0x200).packetHeld 0 = false := by decide +kernel
/-- Walks meet no uncorrectable line where there is none. -/
theorem witness_Launching_frame :
    let u : Task := { labTask with id := { labTask.id with pair := some (0, 0x200000) } }
    lab.frameLost u = none ∧ ({ lab with dev := { lab.dev with isolated := [0] } } : State).frameLost u ≠ none ∧ lab.frameLost labTask = none := by
  decide +kernel

/-- A task with RESTART at its first or third attempt, without its logged frame bytes. -/
def rerunning (n : Nat) : State := { lab with task := { lab.task with id := { lab.task.id with restart := true, attempts := n } } }
/-- A guarded task in a world of its own. -/
def guarding : State :=
  { lab with
    task := { lab.task with id := { lab.task.id with world := 2, entry := ⟨[0x1000, 0x40, 0, 0x20000], 0⟩ } }
    worlds := [⟨2, 0, 5, 1, 0, 0, 1, [], [], []⟩], nextWorld := 3 }
theorem witness_HardwareEvents_rerun : (rerunning 0).running = true ∧ (rerunning 0).sup = false ∧ (rerunning 0).task.part = none ∧ (rerunning 0).myLaunch = some labLaunch
    ∧ (rerunning 0).task.reruns = true ∧ (rerunning 0).task.id.forked = false ∧ (rerunning 0).task.id.choice = none ∧ (rerunning 0).task.guarded = false
    ∧ (rerunning 0).wf = true ∧ (rerunning 0).world? 0 = none ∧ (rerunning 1).task.id.attempts + 1 ≤ 2 ∧ 2 < (rerunning 2).task.id.attempts + 1 := by
  decide +kernel
theorem witness_HardwareEvents_guard : guarding.sup = false ∧ guarding.task.reruns = true ∧ guarding.task.guarded = true ∧ guarding.task.id.world ≠ 0
    ∧ guarding.task.id.forked = false ∧ guarding.wf = true ∧ guarding.world? 0 = none ∧ guarding.myLaunch = some labLaunch := by decide +kernel
theorem witness_HardwareEvents_told : ((rerunning 0).eventSlot 0 = none ∧ (rerunning 0).late = [])
    ∧ ({ lab with parts := lab.parts.set 0 { Partition.whole with evBase := 0x3000, evCfg := 0x104 } } : State).eventSlot 0 = some 0x3000 := by
  decide +kernel
/-- A unit of die 0 at its 1,023rd and its first corrected error. -/
theorem witness_HardwareEvents_corrected : ∃ x : EccUnit, lab.partOfUnit x = some 0 ∧ (lab.dev.corrected.of x + 1) % 1024 ≠ 0
    ∧ ({ lab with dev := { lab.dev with corrected := (List.range 1023).foldl (fun c _ => c.add x) lab.dev.corrected } } : State).dev.corrected.of x + 1 = 1024 :=
  ⟨.stack 0, by decide +kernel⟩
theorem witness_HardwareEvents_pops : (Instr.vnot (.v 0) (.q 7)).pops 7 = true ∧ (Instr.vpeek (.v 0) 7).pops 7 = false := by decide

/-- The bring-up reads its two entries, each 16 bytes of the partition's sound memory. -/
theorem witness_LinkFrames_readable : bringing.tableRead 0 0x86000 16 0 = .ok () ∧ bringing.tableRead 0 0x81FF0 16 0 = .ok ()
    ∧ ({ bringing with badLines := [0x86000] } : State).tableRead 0 0x86000 16 0 ≠ .ok () := ⟨rfl, rfl, fun h => (nomatch h)⟩
/-- Port 31 in long-haul mode with 4 MiB at 0x40000000, its keys due. -/
def hauling : State := { lab with ports := lab.ports.set 31 { Port.reset with
  up := true, longHaul := true, rsize := 4, rbase := 0x40000000, frames := 2 ^ 31, cursor := 4 * 2 ^ 20 - 1 } }
theorem witness_LinkFrames_longHaul : hauling.up = true ∧ hauling.ports[(31 : Fin 32)].up = true ∧ hauling.wf = true
    ∧ hauling.ports[(31 : Fin 32)].stalled = [] ∧ hasRoom hauling.ports[(31 : Fin 32)] [] 64 := by
  refine ⟨by decide +kernel, by decide +kernel, by decide +kernel, by decide +kernel, ?_⟩
  unfold hasRoom
  decide +kernel
/-- A table that ends outside a partition of one die. -/
theorem witness_LinkFrames_outside : (popping.parts[(0 : Fin 16)]).owns (Config.dieBytes - 0x10000 + 0x86000) 16 = false := by decide +kernel

theorem witness_HostRegisters_unserved : ({ lab with dev := { lab.dev with pcie := { lab.dev.pcie with vfs := 1 } } } : State).dev.pcie.serves 1 = false
    ∧ lab.dev.pcie.vfs = 0 ∧ (0 : Fin 16).val < ({ lab.dev.pcie with vfs := 1 } : Pcie).vfs ∧ (popping.parts[(1 : Fin 16)]).present = false := by decide +kernel
theorem witness_HostRegisters_serves : bigRing.dev.pcie.serves 0 = true := by decide +kernel
theorem witness_Management_preempt_room : (reserving (pooled lab) 512).saveRoom = false ∧ (pooled lab).saveRoom = true ∧ lab.pairFor lab.task = none := by decide +kernel

/-- The status word of a running Cellar that a vector store still reserves; and a granule that was reserved before the event. -/
def owing : State := { storing with
  parts := lab.parts.set 0 { Partition.whole with cellar := some ⟨[0x200000, 1, 0, 0, 0x80, 0x100, 0, 0], 0x40, [], [], [], [], [], [(1, 0, 0x10040)]⟩ } }
theorem witness_CellarAndGrants_late : draining.late = [] ∧ draining.rootHeld 0x100 8 = false ∧ storing.rootHeld 0x10040 8 = true := by decide +kernel
theorem witness_CellarAndGrants_owed : owing.drainHeld 0 = true ∧ draining.drainHeld 0 = false
    ∧ (∃ C, owing.parts[(0 : Fin 16)].cellar = some C ∧ owing.stillOwed C 16 = true ∧ owing.stillOwed C 17 = false) :=
  ⟨by decide +kernel, by decide +kernel, _, rfl, by decide +kernel, by decide +kernel⟩
theorem witness_StepRunsDecoded_late : lab.posted = [] ∧ lab.late = [] := ⟨rfl, rfl⟩

/-! ### Single steps on waiting, saving and hardware -/

/-- R268: a VST of two granules reserves the first, stays, and then reserves the second and completes. -/
theorem test_vst_first : after (exec (.vst 4 1 2 .int32) (shaped (withX lab [(1, loftAddr 0x40), (2, 0x40)]) 0x40060102))
    (fun t => (t.task.pc, t.task.storeQ.map fun e => (e.granules.length, e.left.length))) = some (0x1000, [(1, 1)]) := by decide +kernel
theorem test_vst_second : after (exec (.vst 4 1 2 .int32) (shaped halfReserved 0x40060102))
    (fun t => (t.task.pc, t.task.storeQ.map fun e => (e.granules.length, e.left.length))) = some (0x1004, [(2, 0)]) := by decide +kernel
/-- R308: an entry that YIELD saved is taken before one that was saved earlier otherwise. -/
theorem test_yield_first : ({ labLaunch with queue := [.task labTask], saved := [.task { labTask with pc := 0x2000 }] } : Launch).nextEntry.map
    (fun e => match e.1 with | .task t => t.pc | .again _ _ => 0) = some 0x2000 := by decide +kernel
/-- R407: a datapath check re-executes a task with GUARD: its view goes, and its record waits with one attempt made. -/
theorem test_guard_rerun : after (exec (.croftDatapathCheck none) guarding) (fun t => (t.running, t.worlds.length, t.launches.map fun L =>
    L.queue.map fun e => match e with | .again _ n => n | .task _ => 9)) = some (false, 0, [[1]]) := by decide +kernel
/-- R400: a good doubleword beside a bad one reads; a read that takes the bad one in faults. -/
theorem test_loft_beside : xAfter (exec (.ld 3 1 8#16) (withX scarred [(1, loftAddr 0x40)])) 3 = some 0
    ∧ csrAfter (exec (.ld 3 1 0#16) (handled (withX scarred [(1, loftAddr 0x40)]))) (·.cause) = some 0x70 := by decide +kernel
/-- R414: TRET with SAVE waits while the Cellar's reserve has no room for the frame. -/
theorem test_tret_waits : after (exec .tret (reserving (pooled (handler 1 0x2001 0)) 512)) (fun t => (t.running, t.task.pc)) = some (true, 0x1000) := by
  decide +kernel

end Sys2Proof.Tests
end

section
/-! SUPPORT. CSR writes (R363 to R366): a write of LEND whose ID names no live launch does nothing (R320), and the state in which that
answers the statement about CSR writes. -/

namespace Sys2Proof.Machine

/-! ### A write of LEND -/

/-- R320: an ID that names no live launch of the partition makes the write do nothing, with GO set or clear. -/
theorem State.writeLend_eq_self {s : State} {v : Word} (hdead : s.launch? s.myPart (BitVec.ofNat 12 (bits v 11 0)) = none) :
    s.writeLend v = .ok s := by
  simp [State.writeLend, hdead]

/-- Checks 1 to 4 of R365 let supervisor code outside rivals write LEND. -/
theorem State.csrCheck_lend_write {s : State} (hsup : s.sup = true) (hrival : s.inRival = false) (word : Word) :
    s.csrCheck ⟨0x10A, false, true, false, word⟩ = .ok () := by
  have huse : csrUse 0x10A = .system := by decide
  have hfixed : csrFixed 0x10A = false := by decide
  simp [State.csrCheck, Res.need, Res.bind, hsup, hrival, huse, hfixed]

/-- A CSRW of LEND with rd x0, by supervisor code outside rivals and with an ID that names no live launch, retires and does nothing
else (R320, R364). -/
theorem exec_csrw_lend_dead {s : State} {a : XReg} (hsup : s.sup = true) (hrival : s.inRival = false) (hrun : s.running = true)
    (hdead : s.launch? s.myPart (BitVec.ofNat 12 (bits (s.x a) 11 0)) = none) :
    exec (.csrw 0 a 0x10A#12) s = .next s.advance := by
  have hcheck := State.csrCheck_lend_write hsup hrival (wordOf (.csrw 0 a 0x10A#12))
  have hwrite := State.writeLend_eq_self hdead
  calc exec (.csrw 0 a 0x10A#12) s
      = s.settle ((s.csrCheck ⟨0x10A, false, true, false, wordOf (.csrw 0 a 0x10A#12)⟩).bind fun _ =>
          (s.writeLend (s.x a)).bind fun t => .ok (t.csrFinish 0 false (s.csrValue 0x10A))) := rfl
    _ = .next s.advance := by rw [hcheck, hwrite]; simp [Res.bind, State.csrFinish, hrun]

/-- What the statement about CSR writes asks of a write of LEND with GO clear: the partition's LEND holds the ID written. -/
def State.withLendId (s : State) (id : BitVec 12) : State :=
  { s with parts := s.parts.set s.myPart { s.parts[s.myPart] with lendId := id } }

theorem sharedCsrSpec_lend (s : State) {v : Word} (hgo : v.toNat / 2 ^ 15 % 2 = 0) :
    sharedCsrSpec s 0x10A v = some (s.withLendId (BitVec.ofNat 12 (v.toNat % 2 ^ 12))) := by
  have hctx : ctxCsrSpec 0x10A v s.ctxs[s.task.id.cid] = none := rfl
  have hpart : partCsrSpec 0x10A v s.parts[s.myPart] =
      some { s.parts[s.myPart] with lendId := BitVec.ofNat 12 (v.toNat % 2 ^ 12) } := if_pos hgo
  rw [sharedCsrSpec, if_neg (by decide), hctx, hpart, State.withLendId]

theorem State.withLendId_lendId (s : State) (id : BitVec 12) : (s.withLendId id).parts[s.myPart].lendId = id := by
  simp [State.withLendId]

theorem OnlyRegs.parts_eq {s t : State} (h : OnlyRegs s t) : t.parts = s.parts := by rw [h]

/-! ### The state that refutes the statement about CSR writes -/

/-- Supervisor code of launch 1, the only live launch, with x1 = 0xFFF: an ID of LEND that names no live launch, with GO clear. -/
def deadLend : State :=
  { State.reset with
    running := true
    launches := [{ id := 1, cid := 0, part := 0, prio := 1, det := false, stamped := false, start := 0, preds := [], seed := 7
                   qbase := 0, capacity := 4, hwm := 2, budget := 0, done := 0, queue := [], saved := [], parked := [], tasks := 0 }]
    task := { State.reset.task with
      x := State.reset.task.x.set 1 0xFFF
      csr := { State.reset.task.csr with status := 1 }
      id := { State.reset.task.id with tid := 1, launch := 1 } } }

theorem csrSpec_deadLend : csrSpec deadLend (.csrw 0 1 0x10A#12) = some (0, 0x10A, false, some 0xFFF) := by decide +kernel

theorem csrAllowed_deadLend : CsrAllowed deadLend (.csrw 0 1 0x10A#12) 0x10A false true :=
  ⟨.inl (by decide +kernel), by decide, by decide, fun _ h => (nomatch h), fun h => absurd h (by decide +kernel)⟩

/-- What the model answers: the task goes on, and LEND holds 0 as before (R320). -/
theorem exec_deadLend : exec (.csrw 0 1 0x10A#12) deadLend = .next deadLend.advance :=
  exec_csrw_lend_dead (by decide +kernel) (by decide +kernel) rfl (by decide +kernel)

/-- Refutes O6: the second clause lets every LEND write with GO clear set LEND's ID, but a write whose ID names no live launch does
nothing (R320); in `deadLend` the ID 0xFFF is written and LEND stays 0. -/
theorem not_csrWrites : ¬ Obligations.CsrWrites := by
  unfold Obligations.CsrWrites
  rintro ⟨-, hshared⟩
  obtain ⟨t, ht, honly, -⟩ := hshared (.csrw 0 1 0x10A#12) deadLend (deadLend.withLendId 0xFFF) 0 0x10A false 0xFFF csrSpec_deadLend
    (sharedCsrSpec_lend deadLend (by decide)) (by decide +kernel) csrAllowed_deadLend rfl
  obtain rfl : deadLend.advance = t := by simpa [exec_deadLend] using ht
  have hkept : deadLend.parts = (deadLend.withLendId 0xFFF).parts := honly.parts_eq
  have hid : deadLend.parts[deadLend.myPart].lendId = 0xFFF := by rw [hkept, State.withLendId_lendId]
  exact absurd hid (by decide +kernel)

end Sys2Proof.Machine
end

section
/-! SUPPORT. Decode and encode agree (R62 to R79): each decoder is taken back to the word of the instruction it gives, shape by shape. -/

namespace Sys2Proof.Machine

/-! ### A word from its fields (R62) -/

/-- Format R: opcode, three register fields and an 11-bit function. -/
theorem word_eq_fieldsR (w : Nat) :
    w % 2 ^ 32 = fOp w * 67108864 + fD w * 2097152 + fA w * 65536 + fB w * 2048 + fFn w := by
  unfold fOp fD fA fB fFn; omega

/-- Formats V3 and VX: opcode, four operand fields and a 6-bit function. -/
theorem word_eq_fieldsV (w : Nat) :
    w % 2 ^ 32 = fOp w * 67108864 + fD w * 2097152 + fA w * 65536 + fB w * 2048 + fC w * 64 + fFn6 w := by
  unfold fOp fD fA fB fC fFn6; omega

/-- Formats I and B: opcode, two register fields and a 16-bit immediate. -/
theorem word_eq_fieldsI (w : Nat) :
    w % 2 ^ 32 = fOp w * 67108864 + fD w * 2097152 + fA w * 65536 + w % 65536 := by
  unfold fOp fD fA; omega

/-- Format J: opcode, one register field and a 21-bit immediate. -/
theorem word_eq_fieldsJ (w : Nat) : w % 2 ^ 32 = fOp w * 67108864 + fD w * 2097152 + w % 2097152 := by
  unfold fOp fD; omega

theorem fD_lt (w : Nat) : fD w < 32 := Nat.mod_lt _ (by decide)
theorem fA_lt (w : Nat) : fA w < 32 := Nat.mod_lt _ (by decide)
theorem fB_lt (w : Nat) : fB w < 32 := Nat.mod_lt _ (by decide)
theorem fC_lt (w : Nat) : fC w < 32 := Nat.mod_lt _ (by decide)

/-! ### Operand codes read and written back -/

theorem val_xr {n : Nat} (h : n < 32) : (xr n).val = n := Nat.mod_eq_of_lt h
theorem val_finOfNat {m n : Nat} [NeZero m] (h : n < m) : (Fin.ofNat m n).val = n := Nat.mod_eq_of_lt h
theorem toNat_ofNat_bv {k n : Nat} (h : n < 2 ^ k) : (BitVec.ofNat k n).toNat = n := by simp [Nat.mod_eq_of_lt h]
theorem toNat_imm16 (w : Nat) : (imm16 w).toNat = w % 65536 := toNat_ofNat_bv (Nat.mod_lt _ (by decide))
theorem toNat_imm21 (w : Nat) : (imm21 w).toNat = w % 2097152 := toNat_ofNat_bv (Nat.mod_lt _ (by decide))
theorem toNat_bit (n : Nat) : (n % 2 == 1).toNat = n % 2 := by
  rcases Nat.mod_two_eq_zero_or_one n with h | h <;> simp [h]

theorem VSrc.code_ofCode {n : Nat} (h : n < 28) : (VSrc.ofCode n).code = n := by
  revert n; decide
theorem VDst.code_ofCode {n : Nat} (h : n < 24) : (VDst.ofCode n).code = n := by
  revert n; decide
theorem Scope.code_ofCode {n : Nat} (h : n < 4) : (Scope.ofCode n).code = n := by
  revert n; decide
theorem FRnd.code_ofCode {n : Nat} (h : n < 5) : (FRnd.ofCode n).code = n := by
  revert n; decide
theorem Cond.code_ofCode {n : Nat} (h : n < 7) : (Cond.ofCode n).code = n := by
  revert n; decide
theorem Fmt.code_of_ofCode {n : Nat} {f : Fmt} (h : Fmt.ofCode n = some f) : f.code = n := by
  unfold Fmt.ofCode at h
  split at h <;> cases h <;> rfl

/-! ### What a decoder gives is written back as its word -/

/-- `i` is a well-formed instruction with word `n`, and no instruction of supervisor mode only. -/
def HasWord (i : Instr) (n : Nat) : Prop := i.wf = true ∧ encode i = some n ∧ privileged i = false

/-- What the decoding of `w` gives is a cause, or the well-formed instruction whose word `w` is. -/
def WritesBack (sup : Bool) (w : Nat) (r : Decoded) : Prop :=
  ∀ i, r = .instr i → i.wf = true ∧ encode i = some (w % 2 ^ 32) ∧ (privileged i = true → sup = true)

section
variable {sup : Bool} {w n : Nat} {r : Decoded}

theorem writesBack_fault (c : Cause) : WritesBack sup w (.fault c) := fun _ h => Decoded.noConfusion h

theorem writesBack_instr {i : Instr} (h : HasWord i n) (hn : w % 2 ^ 32 = n) : WritesBack sup w (.instr i) := by
  obtain ⟨hwf, henc, hpriv⟩ := h
  rintro _ ⟨⟩
  exact ⟨hwf, hn ▸ henc, fun h => absurd h (by simp [hpriv])⟩

theorem writesBack_zeroField (h : n = 0 → WritesBack sup w r) : WritesBack sup w (zeroField n r) := by
  unfold zeroField
  split
  · exact h ‹_›
  · exact writesBack_fault _

theorem writesBack_needField {b : Bool} (h : b = true → WritesBack sup w r) : WritesBack sup w (needField b r) := by
  unfold needField
  split
  · exact h ‹_›
  · exact writesBack_fault _

/-- Past checks 6 and 7 of R79 every source code is one of the 28 operands, and the destination none of the accumulators. -/
theorem writesBack_vcheck {codes : List Nat} {d : Nat} (h : (∀ c ∈ codes, c < 28) → d < 24 → WritesBack sup w r) :
    WritesBack sup w (vcheck codes d r) := by
  unfold vcheck
  split
  · exact writesBack_fault _
  · rename_i hany
    split
    · exact writesBack_fault _
    · simp only [List.any_cons, List.any_eq_true, Bool.or_eq_true, decide_eq_true_eq, not_or, not_exists, not_and] at hany
      exact h (fun c hc => Nat.lt_of_not_le (hany.2 c hc)) (by omega)

/-! ### The shapes of format R (R62) -/

section
variable {o k : Nat} (ho : fOp w = o) (hk : fFn w = k)
include ho hk

theorem writesBack_decR3 {f : XReg → XReg → XReg → Instr}
    (hf : ∀ d a b, HasWord (f d a b) (o * 67108864 + k + d.val * 2097152 + a.val * 65536 + b.val * 2048)) :
    WritesBack sup w (decR3 w f) := by
  refine writesBack_instr (hf _ _ _) ?_
  rw [val_xr (fD_lt w), val_xr (fA_lt w), val_xr (fB_lt w), word_eq_fieldsR, ho, hk]
  omega

theorem writesBack_decR2 {f : XReg → XReg → Instr}
    (hf : ∀ d a, HasWord (f d a) (o * 67108864 + k + d.val * 2097152 + a.val * 65536)) : WritesBack sup w (decR2 w f) := by
  refine writesBack_zeroField fun hz => writesBack_instr (hf _ _) ?_
  rw [val_xr (fD_lt w), val_xr (fA_lt w), word_eq_fieldsR, ho, hk]
  omega

theorem writesBack_decRd {f : XReg → Instr} (hf : ∀ d, HasWord (f d) (o * 67108864 + k + d.val * 2097152)) :
    WritesBack sup w (decRd w f) := by
  refine writesBack_zeroField fun hz => writesBack_instr (hf _) ?_
  rw [val_xr (fD_lt w), word_eq_fieldsR, ho, hk]
  omega

theorem writesBack_decRa {f : XReg → Instr} (hf : ∀ a, HasWord (f a) (o * 67108864 + k + a.val * 65536)) :
    WritesBack sup w (decRa w f) := by
  refine writesBack_zeroField fun hz => writesBack_instr (hf _) ?_
  rw [val_xr (fA_lt w), word_eq_fieldsR, ho, hk]
  omega

theorem writesBack_decRab {f : XReg → XReg → Instr}
    (hf : ∀ a b, HasWord (f a b) (o * 67108864 + k + a.val * 65536 + b.val * 2048)) : WritesBack sup w (decRab w f) := by
  refine writesBack_zeroField fun hz => writesBack_instr (hf _ _) ?_
  rw [val_xr (fA_lt w), val_xr (fB_lt w), word_eq_fieldsR, ho, hk]
  omega

theorem writesBack_decR0 {i : Instr} (hi : HasWord i (o * 67108864 + k)) : WritesBack sup w (decR0 w i) := by
  refine writesBack_zeroField fun hz => writesBack_instr hi ?_
  rw [word_eq_fieldsR, ho, hk]
  omega

end

/-! ### The majors without a function field -/

section
variable {o : Nat} (ho : fOp w = o)
include ho

theorem writesBack_decI {f : XReg → XReg → BitVec 16 → Instr}
    (hf : ∀ d a i, HasWord (f d a i) (o * 67108864 + d.val * 2097152 + a.val * 65536 + i.toNat)) : WritesBack sup w (decI w f) := by
  refine writesBack_instr (hf _ _ _) ?_
  rw [val_xr (fD_lt w), val_xr (fA_lt w), toNat_imm16, word_eq_fieldsI, ho]

theorem writesBack_decB {f : XReg → XReg → BitVec 16 → Instr}
    (hf : ∀ b a i, HasWord (f b a i) (o * 67108864 + b.val * 2097152 + a.val * 65536 + i.toNat)) : WritesBack sup w (decB w f) :=
  writesBack_decI ho hf

theorem writesBack_decJ {f : XReg → BitVec 21 → Instr}
    (hf : ∀ d i, HasWord (f d i) (o * 67108864 + d.val * 2097152 + i.toNat)) : WritesBack sup w (decJ w f) := by
  refine writesBack_instr (hf _ _) ?_
  rw [val_xr (fD_lt w), toNat_imm21, word_eq_fieldsJ, ho]

end

/-! ### The shapes of formats V3 and VX (R62, R76) -/

section
variable {o k : Nat} (ho : fOp w = o) (hk : fFn6 w = k)
include ho hk

theorem writesBack_decV1 {f : VDst → VSrc → Instr}
    (hf : ∀ d a, HasWord (f d a) (o * 67108864 + k + d.code * 2097152 + a.code * 65536)) : WritesBack sup w (decV1 w f) := by
  refine writesBack_zeroField fun hz => writesBack_vcheck fun hs hd => writesBack_instr (hf _ _) ?_
  rw [VDst.code_ofCode hd, VSrc.code_ofCode (hs _ (by simp)), word_eq_fieldsV, ho, hk]
  omega

theorem writesBack_decV2 {f : VDst → VSrc → VSrc → Instr}
    (hf : ∀ d a b, HasWord (f d a b) (o * 67108864 + k + d.code * 2097152 + a.code * 65536 + b.code * 2048)) :
    WritesBack sup w (decV2 w f) := by
  refine writesBack_zeroField fun hz => writesBack_vcheck fun hs hd => writesBack_instr (hf _ _ _) ?_
  rw [VDst.code_ofCode hd, VSrc.code_ofCode (hs _ (by simp)), VSrc.code_ofCode (hs _ (by simp)), word_eq_fieldsV, ho, hk]
  omega

theorem writesBack_decV3 {f : VDst → VSrc → VSrc → VSrc → Instr}
    (hf : ∀ d a b c, HasWord (f d a b c) (o * 67108864 + k + d.code * 2097152 + a.code * 65536 + b.code * 2048 + c.code * 64)) :
    WritesBack sup w (decV3 w f) := by
  refine writesBack_vcheck fun hs hd => writesBack_instr (hf _ _ _ _) ?_
  rw [VDst.code_ofCode hd, VSrc.code_ofCode (hs _ (by simp)), VSrc.code_ofCode (hs _ (by simp)), VSrc.code_ofCode (hs _ (by simp)),
    word_eq_fieldsV, ho, hk]
  omega

theorem writesBack_decXs {f : VDst → VSrc → XReg → Instr}
    (hf : ∀ d a s, HasWord (f d a s) (o * 67108864 + k + d.code * 2097152 + a.code * 65536 + s.val * 2048)) :
    WritesBack sup w (decXs w f) := by
  refine writesBack_zeroField fun hz => writesBack_vcheck fun hs hd => writesBack_instr (hf _ _ _) ?_
  rw [VDst.code_ofCode hd, VSrc.code_ofCode (hs _ (by simp)), val_xr (fB_lt w), word_eq_fieldsV, ho, hk]
  omega

theorem writesBack_decXst {f : VDst → VSrc → XReg → XReg → Instr}
    (hf : ∀ d a s t, HasWord (f d a s t) (o * 67108864 + k + d.code * 2097152 + a.code * 65536 + s.val * 2048 + t.val * 64)) :
    WritesBack sup w (decXst w f) := by
  refine writesBack_vcheck fun hs hd => writesBack_instr (hf _ _ _ _) ?_
  rw [VDst.code_ofCode hd, VSrc.code_ofCode (hs _ (by simp)), val_xr (fB_lt w), val_xr (fC_lt w), word_eq_fieldsV, ho, hk]
  omega

theorem writesBack_decUs {f : VDst → Fin 32 → XReg → Instr}
    (hf : ∀ d u s, HasWord (f d u s) (o * 67108864 + k + d.code * 2097152 + u.val * 65536 + s.val * 2048)) :
    WritesBack sup w (decUs w f) := by
  refine writesBack_zeroField fun hz => writesBack_vcheck fun _ hd => writesBack_instr (hf _ _ _) ?_
  rw [VDst.code_ofCode hd, val_finOfNat (fA_lt w), val_xr (fB_lt w), word_eq_fieldsV, ho, hk]
  omega

theorem writesBack_decUst {f : VDst → Fin 32 → XReg → XReg → Instr}
    (hf : ∀ d u s t, HasWord (f d u s t) (o * 67108864 + k + d.code * 2097152 + u.val * 65536 + s.val * 2048 + t.val * 64)) :
    WritesBack sup w (decUst w f) := by
  refine writesBack_vcheck fun _ hd => writesBack_instr (hf _ _ _ _) ?_
  rw [VDst.code_ofCode hd, val_finOfNat (fA_lt w), val_xr (fB_lt w), val_xr (fC_lt w), word_eq_fieldsV, ho, hk]
  omega

end

/-! ### The groups of the opcode map (R66 to R77) -/

theorem writesBack_decodeOpr (ho : fOp w = 0x01) : WritesBack sup w (decodeOpr w) := by
  unfold decodeOpr
  split <;> rename_i hk
  case h_22 | h_23 | h_24 => exact writesBack_decR2 ho hk fun _ _ => ⟨rfl, rfl, rfl⟩
  case h_26 => exact writesBack_fault _
  all_goals exact writesBack_decR3 ho hk fun _ _ _ => ⟨rfl, rfl, rfl⟩

theorem writesBack_decodeShi (ho : fOp w = 0x08) : WritesBack sup w (decodeShi w) := by
  have word : ∀ f : XReg → XReg → BitVec 6 → Instr,
      (∀ d a n, HasWord (f d a n) (0x20000000 + w / 16384 % 4 * 16384 + d.val * 2097152 + a.val * 65536 + n.toNat)) →
      WritesBack sup w (zeroField (w / 64 % 256) (.instr (f (xr (fD w)) (xr (fA w)) (BitVec.ofNat 6 (w % 64))))) := by
    intro f hf
    refine writesBack_zeroField fun hz => writesBack_instr (hf _ _ _) ?_
    rw [val_xr (fD_lt w), val_xr (fA_lt w), toNat_ofNat_bv (show w % 64 < 2 ^ 6 from Nat.mod_lt _ (by decide)), word_eq_fieldsI, ho]
    omega
  unfold decodeShi
  dsimp only
  split <;> rename_i hk
  case h_4 => exact writesBack_fault _
  all_goals exact word _ fun _ _ _ => ⟨rfl, by rw [hk]; rfl, rfl⟩

theorem writesBack_decodeAmo (ho : fOp w = 0x16) : WritesBack sup w (decodeAmo w) := by
  have word : ∀ f : XReg → XReg → XReg → Scope → Bool → Bool → Bool → Instr,
      (∀ d a b c q l e, HasWord (f d a b c q l e) (0x58000000 + fFn6 w + d.val * 2097152 + a.val * 65536 + b.val * 2048
        + c.code * 512 + q.toNat * 256 + l.toNat * 128 + e.toNat * 64)) →
      WritesBack sup w (.instr (f (xr (fD w)) (xr (fA w)) (xr (fB w)) (.ofCode (w / 512 % 4)) (w / 256 % 2 == 1)
        (w / 128 % 2 == 1) (w / 64 % 2 == 1))) := by
    intro f hf
    refine writesBack_instr (hf _ _ _ _ _ _ _) ?_
    rw [val_xr (fD_lt w), val_xr (fA_lt w), val_xr (fB_lt w), Scope.code_ofCode (Nat.mod_lt _ (by decide)), toNat_bit, toNat_bit,
      toNat_bit, word_eq_fieldsV, ho]
    unfold fC
    omega
  unfold decodeAmo
  dsimp only
  split <;> rename_i hk
  case h_12 => exact writesBack_fault _
  all_goals exact word _ fun _ _ _ _ _ _ _ => ⟨rfl, by rw [hk]; rfl, rfl⟩

/-- Of the instructions of supervisor mode only it is asked that the mode is supervisor. -/
theorem writesBack_super {i : Instr} (hs : sup = true) (hwf : i.wf = true) (henc : encode i = some (w % 2 ^ 32)) :
    WritesBack sup w (.instr i) := by
  rintro _ ⟨⟩
  exact ⟨hwf, henc, fun _ => hs⟩

theorem writesBack_superOnly (h : sup = true → WritesBack sup w r) : WritesBack sup w (superOnly sup r) := by
  unfold superOnly
  split
  · exact h ‹_›
  · exact writesBack_fault _

theorem writesBack_decodeSys (ho : fOp w = 0x17) : WritesBack sup w (decodeSys sup w) := by
  have hfn : fFn w = fC w * 64 + w % 64 := by unfold fFn fC; omega
  have hopts : w % 64 = w / 16 % 4 * 16 + w / 8 % 2 * 8 + w / 4 % 2 * 4 + w % 4 := by omega
  have word0 {i : Instr} (hz : fD w + fA w + fB w = 0) {n : Nat} (hk : fFn w = n) : w % 2 ^ 32 = 0x5C000000 + n := by
    rw [word_eq_fieldsR, ho]; omega
  have wordAb {n : Nat} (hz : fD w = 0) (hk : fFn w = n) :
      w % 2 ^ 32 = 0x5C000000 + n + (xr (fA w)).val * 65536 + (xr (fB w)).val * 2048 := by
    rw [val_xr (fA_lt w), val_xr (fB_lt w), word_eq_fieldsR, ho]; omega
  unfold decodeSys
  dsimp only
  split <;> rename_i hk
  case h_1 =>
    refine writesBack_zeroField fun hz => writesBack_instr
      (n := 0x5C000000 + (Scope.ofCode (w / 16 % 4)).code * 16 + (w / 8 % 2 == 1).toNat * 8 + (w / 4 % 2 == 1).toNat * 4) ⟨rfl, rfl, rfl⟩ ?_
    rw [Scope.code_ofCode (Nat.mod_lt _ (by decide)), toNat_bit, toNat_bit, word_eq_fieldsR, ho, hfn, hopts]
    omega
  case h_2 => exact writesBack_zeroField fun hz => writesBack_decRab ho (k := 0x40) (by omega) fun _ _ => ⟨rfl, rfl, rfl⟩
  case h_3 => exact writesBack_zeroField fun hz => writesBack_decR0 ho (k := 0x80) (by omega) ⟨rfl, rfl, rfl⟩
  case h_4 => exact writesBack_zeroField fun hz => writesBack_decR0 ho (k := 0xC0) (by omega) ⟨rfl, rfl, rfl⟩
  case h_5 | h_6 =>
    refine writesBack_superOnly fun hs => writesBack_zeroField fun hz => writesBack_zeroField fun hr => writesBack_super hs rfl ?_
    rw [word0 (i := .tret) hr (by rw [hfn, hk, hz])]
    rfl
  case h_7 | h_8 =>
    refine writesBack_superOnly fun hs => writesBack_zeroField fun hz => writesBack_zeroField fun hr => writesBack_super hs rfl ?_
    rw [wordAb hr (by rw [hfn, hk, hz])]
    rfl
  case h_9 => exact writesBack_fault _

theorem writesBack_decodeLoop (ho : fOp w = 0x20) : WritesBack sup w (decodeLoop w) := by
  refine writesBack_zeroField fun hz => writesBack_needField fun ho' => ?_
  have hwf : imm16 w ≠ 0 := fun h => by
    have := toNat_imm16 w
    simp only [h, bne_iff_ne] at this ho'
    exact ho' this.symm
  refine writesBack_instr (n := 0x80000000 + (Fin.ofNat 2 (w / 33554432 % 2)).val * 33554432 + (xr (fA w)).val * 65536 + (imm16 w).toNat)
    ⟨by simpa [Instr.wf] using hwf, rfl, rfl⟩ ?_
  rw [val_finOfNat (Nat.mod_lt _ (by decide)), val_xr (fA_lt w), toNat_imm16, word_eq_fieldsI, ho]
  unfold fD
  omega

theorem writesBack_decodeLoopi (ho : fOp w = 0x21) : WritesBack sup w (decodeLoopi w) := by
  refine writesBack_needField fun ho' => ?_
  have hwf : imm16 w ≠ 0 := fun h => by
    have := toNat_imm16 w
    simp only [h, bne_iff_ne] at this ho'
    exact ho' this.symm
  refine writesBack_instr (n := 0x84000000 + (Fin.ofNat 2 (w / 33554432 % 2)).val * 33554432
    + (BitVec.ofNat 9 (w / 65536 % 512)).toNat * 65536 + (imm16 w).toNat) ⟨by simpa [Instr.wf] using hwf, rfl, rfl⟩ ?_
  rw [val_finOfNat (Nat.mod_lt _ (by decide)), toNat_ofNat_bv (show w / 65536 % 512 < 2 ^ 9 from Nat.mod_lt _ (by decide)),
    toNat_imm16, word_eq_fieldsI, ho]
  unfold fD fA
  omega

theorem writesBack_decodeStk (ho : fOp w = 0x22) : WritesBack sup w (decodeStk w) := by
  refine writesBack_zeroField fun hz => writesBack_needField fun hr => ?_
  have hwf : (decide ((xr (fD w)).val ≤ (xr (fA w)).val) && (!(w / 2 % 2 == 1) || decide ((xr (fA w)).val < 16))) = true := by
    rwa [val_xr (fD_lt w), val_xr (fA_lt w)]
  have word : w % 2 ^ 32 = 0x88000000 + w % 2 + (xr (fD w)).val * 2097152 + (xr (fA w)).val * 65536 + (xr (fB w)).val * 2048
      + (w / 2 % 2 == 1).toNat * 2 := by
    rw [val_xr (fD_lt w), val_xr (fA_lt w), val_xr (fB_lt w), toNat_bit, word_eq_fieldsR, ho]
    unfold fFn
    omega
  split
  · rename_i hk
    exact writesBack_instr ⟨hwf, rfl, rfl⟩ (by rw [word, hk])
  · rename_i hk
    exact writesBack_instr ⟨hwf, rfl, rfl⟩ (by rw [word, show w % 2 = 1 by omega])

theorem writesBack_decodeTask (ho : fOp w = 0x23) : WritesBack sup w (decodeTask w) := by
  unfold decodeTask
  split <;> rename_i hk
  case h_1 | h_2 => exact writesBack_decR2 ho hk fun _ _ => ⟨rfl, rfl, rfl⟩
  case h_3 => exact writesBack_decR3 ho hk fun _ _ _ => ⟨rfl, rfl, rfl⟩
  case h_4 | h_5 => exact writesBack_decR0 ho hk ⟨rfl, rfl, rfl⟩
  case h_6 => exact writesBack_decRa ho hk fun _ => ⟨rfl, rfl, rfl⟩
  case h_7 => exact writesBack_fault _

theorem writesBack_decodeWorld (ho : fOp w = 0x24) : WritesBack sup w (decodeWorld w) := by
  unfold decodeWorld
  split <;> rename_i hk
  case h_1 | h_3 => exact writesBack_decR2 ho hk fun _ _ => ⟨rfl, rfl, rfl⟩
  case h_2 => exact writesBack_decRa ho hk fun _ => ⟨rfl, rfl, rfl⟩
  case h_4 => exact writesBack_decR0 ho hk ⟨rfl, rfl, rfl⟩
  case h_5 => exact writesBack_decRd ho hk fun _ => ⟨rfl, rfl, rfl⟩
  case h_6 => exact writesBack_fault _

theorem writesBack_decodeShape (ho : fOp w = 0x25) : WritesBack sup w (decodeShape w) := by
  unfold decodeShape
  split <;> rename_i hk
  case h_1 => exact writesBack_decR2 ho hk fun _ _ => ⟨rfl, rfl, rfl⟩
  case h_2 => exact writesBack_decRd ho hk fun _ => ⟨rfl, rfl, rfl⟩
  case h_3 => exact writesBack_fault _

theorem writesBack_decodeEng (ho : fOp w = 0x26) : WritesBack sup w (decodeEng w) := by
  unfold decodeEng
  split <;> rename_i hk
  case h_1 | h_3 | h_5 => exact writesBack_decRa ho hk fun _ => ⟨rfl, rfl, rfl⟩
  case h_2 | h_4 | h_6 => exact writesBack_decRab ho hk fun _ _ => ⟨rfl, rfl, rfl⟩
  case h_7 => exact writesBack_decR2 ho hk fun _ _ => ⟨rfl, rfl, rfl⟩
  case h_8 => exact writesBack_fault _

theorem writesBack_decodeSync (ho : fOp w = 0x27) : WritesBack sup w (decodeSync w) := by
  have hfn : fFn w = w / 1024 % 2 * 1024 + w / 64 % 16 * 64 + fFn6 w := by unfold fFn fFn6; omega
  have hobj : w / 64 % 16 < 16 := Nat.mod_lt _ (by decide)
  have word : ∀ f : XReg → Fin 16 → Instr,
      (∀ a k, HasWord (f a k) (0x9C000000 + fFn6 w + a.val * 65536 + k.val * 64)) →
      WritesBack sup w (zeroField (w / 1024 % 2 + fD w + fB w) (.instr (f (xr (fA w)) (Fin.ofNat 16 (w / 64 % 16))))) := by
    intro f hf
    refine writesBack_zeroField fun hz => writesBack_instr (hf _ _) ?_
    rw [val_xr (fA_lt w), val_finOfNat hobj, word_eq_fieldsR, ho, hfn]
    omega
  unfold decodeSync
  dsimp only
  split <;> rename_i hk
  case h_1 | h_2 | h_3 => exact word _ fun _ _ => ⟨rfl, by rw [hk]; rfl, rfl⟩
  case h_4 =>
    refine writesBack_zeroField fun hz => writesBack_instr
      (n := 0x9C000003 + (xr (fD w)).val * 2097152 + (Fin.ofNat 16 (w / 64 % 16)).val * 64) ⟨rfl, rfl, rfl⟩ ?_
    rw [val_xr (fD_lt w), val_finOfNat hobj, word_eq_fieldsR, ho, hfn]
    omega
  case h_5 =>
    refine writesBack_zeroField fun hz => writesBack_needField fun h4 => writesBack_instr
      (n := 0x9C000004 + (xr (fA w)).val * 65536 + (Fin.ofNat 4 (w / 64 % 16)).val * 64) ⟨rfl, rfl, rfl⟩ ?_
    rw [val_xr (fA_lt w), val_finOfNat (of_decide_eq_true h4), word_eq_fieldsR, ho, hfn]
    omega
  case h_6 => exact writesBack_fault _

theorem writesBack_decodeCsr (ho : fOp w = 0x28) : WritesBack sup w (decodeCsr w) := by
  have hn : (BitVec.ofNat 12 (w / 16 % 4096)).toNat = w / 16 % 4096 := toNat_ofNat_bv (Nat.mod_lt _ (by decide))
  have word : ∀ f : XReg → XReg → BitVec 12 → Instr,
      (∀ d a c, HasWord (f d a c) (0xA0000000 + w % 16 + d.val * 2097152 + a.val * 65536 + c.toNat * 16)) →
      WritesBack sup w (.instr (f (xr (fD w)) (xr (fA w)) (BitVec.ofNat 12 (w / 16 % 4096)))) := by
    intro f hf
    refine writesBack_instr (hf _ _ _) ?_
    rw [val_xr (fD_lt w), val_xr (fA_lt w), hn, word_eq_fieldsI, ho]
    omega
  unfold decodeCsr
  dsimp only
  split <;> rename_i hk
  case h_1 =>
    refine writesBack_zeroField fun hz => writesBack_instr
      (n := 0xA0000000 + (xr (fD w)).val * 2097152 + (BitVec.ofNat 12 (w / 16 % 4096)).toNat * 16) ⟨rfl, rfl, rfl⟩ ?_
    rw [val_xr (fD_lt w), hn, word_eq_fieldsI, ho]
    omega
  case h_5 => exact writesBack_fault _
  all_goals exact word _ fun _ _ _ => ⟨rfl, by rw [hk]; rfl, rfl⟩

/-- The fields of an FPS word past its reserved codes (R74). -/
theorem word_fps (ho : fOp w = 0x29) (hf : w / 256 % 8 < 2) :
    w % 2 ^ 32 = 0xA4000000 + w / 16 % 16 * 16 + fD w * 2097152 + fA w * 65536 + fB w * 2048
      + (if w / 256 % 8 = 0 then FFmt.s else FFmt.d).code * 256 + w / 2 % 8 * 2 + w % 2 := by
  have hcode : (if w / 256 % 8 = 0 then FFmt.s else FFmt.d).code = w / 256 % 8 := by
    split
    · rename_i h; rw [h]; rfl
    · rw [show w / 256 % 8 = 1 by omega]; rfl
  rw [hcode, word_eq_fieldsR, ho]
  unfold fFn
  omega

theorem writesBack_decodeFps (ho : fOp w = 0x29) : WritesBack sup w (decodeFps w) := by
  unfold decodeFps
  dsimp only
  split
  · exact writesBack_fault _
  rename_i hlim
  obtain ⟨hf, hr⟩ : w / 256 % 8 < 2 ∧ w / 2 % 8 < 5 := by simpa using hlim
  have word := word_fps ho hf
  generalize (if w / 256 % 8 = 0 then FFmt.s else FFmt.d) = f at word ⊢
  have hrnd : (FRnd.ofCode (w / 2 % 8)).code = w / 2 % 8 := FRnd.code_ofCode hr
  have bin : ∀ g : XReg → XReg → XReg → FFmt → FRnd → Instr,
      (∀ d a b f r, HasWord (g d a b f r) (0xA4000000 + w / 16 % 16 * 16 + d.val * 2097152 + a.val * 65536 + b.val * 2048
        + f.code * 256 + r.code * 2)) →
      WritesBack sup w (zeroField (w % 2) (.instr (g (xr (fD w)) (xr (fA w)) (xr (fB w)) f (FRnd.ofCode (w / 2 % 8))))) := by
    intro g hg
    refine writesBack_zeroField fun hz => writesBack_instr (hg _ _ _ _ _) ?_
    rw [val_xr (fD_lt w), val_xr (fA_lt w), val_xr (fB_lt w), hrnd, word]
    omega
  have un : ∀ g : XReg → XReg → FFmt → FRnd → Instr,
      (∀ d a, HasWord (g d a f (FRnd.ofCode (w / 2 % 8))) (0xA4000000 + w / 16 % 16 * 16 + d.val * 2097152 + a.val * 65536 + f.code * 256
        + (FRnd.ofCode (w / 2 % 8)).code * 2)) →
      WritesBack sup w (zeroField (w % 2 + fB w) (.instr (g (xr (fD w)) (xr (fA w)) f (FRnd.ofCode (w / 2 % 8))))) := by
    intro g hg
    refine writesBack_zeroField fun hz => writesBack_instr (hg _ _) ?_
    rw [val_xr (fD_lt w), val_xr (fA_lt w), hrnd, word]
    omega
  have exact_ : ∀ g : XReg → XReg → XReg → FFmt → Instr,
      (∀ d a b f, HasWord (g d a b f) (0xA4000000 + w / 16 % 16 * 16 + d.val * 2097152 + a.val * 65536 + b.val * 2048 + f.code * 256)) →
      WritesBack sup w (zeroField (w % 2 + w / 2 % 8) (.instr (g (xr (fD w)) (xr (fA w)) (xr (fB w)) f))) := by
    intro g hg
    refine writesBack_zeroField fun hz => writesBack_instr (hg _ _ _ _) ?_
    rw [val_xr (fD_lt w), val_xr (fA_lt w), val_xr (fB_lt w), word]
    omega
  split <;> rename_i hk
  case h_1 | h_2 | h_3 | h_4 | h_14 => exact bin _ fun _ _ _ _ _ => ⟨rfl, by rw [hk]; rfl, rfl⟩
  case h_5 | h_11 | h_12 => exact un _ fun _ _ => ⟨rfl, by rw [hk]; rfl, rfl⟩
  case h_6 | h_7 | h_8 | h_9 | h_10 => exact exact_ _ fun _ _ _ _ => ⟨rfl, by rw [hk]; rfl, rfl⟩
  case h_13 =>
    refine writesBack_needField fun hd => un _ fun _ _ => ⟨?_, by rw [hk]; rfl, rfl⟩
    rcases Bool.or_eq_true_iff.1 hd with hs | h0
    · simp [Instr.wf, hs]
    · rw [beq_iff_eq.1 h0]; simp [Instr.wf, FRnd.ofCode]
  case h_15 => exact writesBack_fault _

theorem writesBack_decodeOrb (ho : fOp w = 0x2A) : WritesBack sup w (decodeOrb w) := by
  unfold decodeOrb
  split <;> rename_i hk
  case h_4 => exact writesBack_fault _
  all_goals exact writesBack_decR3 ho hk fun _ _ _ => ⟨rfl, rfl, rfl⟩

theorem writesBack_decodeVar (ho : fOp w = 0x30) : WritesBack sup w (decodeVar w) := by
  unfold decodeVar
  split <;> rename_i hk
  case h_7 | h_8 => exact writesBack_decV1 ho hk fun _ _ => ⟨rfl, rfl, rfl⟩
  case h_11 => exact writesBack_fault _
  all_goals exact writesBack_decV2 ho hk fun _ _ _ => ⟨rfl, rfl, rfl⟩

theorem writesBack_decodeVfm (ho : fOp w = 0x31) : WritesBack sup w (decodeVfm w) := by
  unfold decodeVfm
  split <;> rename_i hk
  case h_4 => exact writesBack_fault _
  all_goals exact writesBack_decV3 ho hk fun _ _ _ _ => ⟨rfl, rfl, rfl⟩

theorem writesBack_decodeVbit (ho : fOp w = 0x32) : WritesBack sup w (decodeVbit w) := by
  unfold decodeVbit
  split <;> rename_i hk
  case h_4 => exact writesBack_decV1 ho hk fun _ _ => ⟨rfl, rfl, rfl⟩
  case h_8 => exact writesBack_fault _
  all_goals exact writesBack_decV2 ho hk fun _ _ _ => ⟨rfl, rfl, rfl⟩

theorem writesBack_decodeVcmpg (ho : fOp w = 0x33) : WritesBack sup w (decodeVcmpg w) := by
  have hfn : fFn6 w = w / 8 % 8 * 8 + w % 8 := by unfold fFn6; omega
  unfold decodeVcmpg
  dsimp only
  split <;> rename_i hk
  case h_1 =>
    split
    · exact writesBack_fault _
    · have hc : (Cond.ofCode (w / 8 % 8)).code = w / 8 % 8 := Cond.code_ofCode (by omega)
      refine writesBack_decV2 ho (k := (Cond.ofCode (w / 8 % 8)).code * 8) (by rw [hfn, hk, hc, Nat.add_zero]) fun d a b => ⟨rfl, ?_, rfl⟩
      simp only [encode, Option.some.injEq]
      omega
  case h_2 =>
    exact writesBack_zeroField fun hz => writesBack_decV3 ho (k := 1) (by rw [hfn, hk, hz]) fun _ _ _ _ => ⟨rfl, rfl, rfl⟩
  case h_3 => exact writesBack_fault _

theorem writesBack_decodeVcv (ho : fOp w = 0x34) : WritesBack sup w (decodeVcv w) := by
  unfold decodeVcv
  split
  · rename_i hk
    refine writesBack_zeroField fun hz => writesBack_vcheck fun hs hd => ?_
    split
    · rename_i f hf
      refine writesBack_instr (n := 0xD0000000 + (VDst.ofCode (fD w)).code * 2097152 + (VSrc.ofCode (fA w)).code * 65536 + f.code * 2048)
        ⟨rfl, rfl, rfl⟩ ?_
      rw [VDst.code_ofCode hd, VSrc.code_ofCode (hs _ (by simp)), Fmt.code_of_ofCode hf, word_eq_fieldsV, ho, hk]
      omega
    · exact writesBack_fault _
  · exact writesBack_fault _

theorem writesBack_decodeVsf (ho : fOp w = 0x35) : WritesBack sup w (decodeVsf w) := by
  unfold decodeVsf
  split <;> rename_i hk
  case h_8 => exact writesBack_fault _
  all_goals exact writesBack_decV1 ho hk fun _ _ => ⟨rfl, rfl, rfl⟩

theorem writesBack_decodeVax (ho : fOp w = 0x36) : WritesBack sup w (decodeVax w) := by
  unfold decodeVax
  split <;> rename_i hk
  case h_1 | h_2 | h_3 | h_4 => exact writesBack_decXs ho hk fun _ _ _ => ⟨rfl, rfl, rfl⟩
  case h_12 => exact writesBack_decUs ho hk fun _ _ _ => ⟨rfl, rfl, rfl⟩
  case h_13 => exact writesBack_fault _
  all_goals exact writesBack_decV1 ho hk fun _ _ => ⟨rfl, rfl, rfl⟩

theorem writesBack_decodeVdt (ho : fOp w = 0x37) : WritesBack sup w (decodeVdt w) := by
  have hfn : fFn6 w = w / 32 % 2 * 32 + (w / 16 % 2 == 1).toNat * 16 + (w / 8 % 2 == 1).toNat * 8 + (w / 4 % 2 == 1).toNat * 4 + w % 4 := by
    rw [toNat_bit, toNat_bit, toNat_bit]
    unfold fFn6
    omega
  unfold decodeVdt
  dsimp only
  generalize (w / 16 % 2 == 1) = g, (w / 8 % 2 == 1) = h, (w / 4 % 2 == 1) = t at hfn ⊢
  have v3 : ∀ f : VDst → VSrc → VSrc → VSrc → Bool → Bool → Bool → Instr,
      (∀ d a b c, HasWord (f d a b c g h t) (0xDC000000 + w % 4 + d.code * 2097152 + a.code * 65536 + b.code * 2048 + c.code * 64
        + g.toNat * 16 + h.toNat * 8 + t.toNat * 4)) →
      WritesBack sup w (zeroField (w / 32 % 2) (decV3 w (f · · · · g h t))) := by
    intro f hf
    refine writesBack_zeroField fun hz => writesBack_decV3 ho (k := fFn6 w) rfl fun d a b c => ?_
    obtain ⟨hwf, henc, hpriv⟩ := hf d a b c
    refine ⟨hwf, ?_, hpriv⟩
    rw [henc, hfn, hz]
    congr 1
    omega
  split <;> rename_i hk
  case h_1 | h_3 => exact v3 _ fun _ _ _ _ => ⟨rfl, by rw [hk]; rfl, rfl⟩
  case h_2 =>
    refine writesBack_zeroField fun hz => ?_
    split
    · exact writesBack_fault _
    split
    · exact writesBack_fault _
    split
    · exact writesBack_fault _
    rename_i hres hacc hq
    refine writesBack_instr (n := 0xDC000001 + (VDst.ofCode (fD w)).code * 2097152 + (VSrc.ofCode (fA w)).code * 65536
      + (Fin.ofNat 16 (fB w)).val * 2048 + g.toNat * 16 + h.toNat * 8 + t.toNat * 4) ⟨rfl, rfl, rfl⟩ ?_
    simp only [Bool.or_eq_true, decide_eq_true_eq] at hres hacc
    rw [VDst.code_ofCode (by omega), VSrc.code_ofCode (by omega), val_finOfNat (by omega), word_eq_fieldsV, ho, hfn, hk]
    omega
  case h_4 => exact writesBack_fault _

theorem writesBack_decodeVxs (ho : fOp w = 0x38) : WritesBack sup w (decodeVxs w) := by
  unfold decodeVxs
  split <;> rename_i hk
  case h_1 => exact writesBack_decUs ho hk fun _ _ _ => ⟨rfl, rfl, rfl⟩
  case h_2 => exact writesBack_decUst ho hk fun _ _ _ _ => ⟨rfl, rfl, rfl⟩
  case h_3 =>
    refine writesBack_zeroField fun hz => ?_
    split
    · exact writesBack_fault _
    refine writesBack_instr (n := 0xE0000002 + (xr (fD w)).val * 2097152 + (VSrc.ofCode (fA w)).code * 65536 + (xr (fC w)).val * 64)
      ⟨rfl, rfl, rfl⟩ ?_
    rw [val_xr (fD_lt w), VSrc.code_ofCode (by omega), val_xr (fC_lt w), word_eq_fieldsV, ho, hk]
    omega
  case h_4 | h_5 => exact writesBack_decXst ho hk fun _ _ _ _ => ⟨rfl, rfl, rfl⟩
  case h_14 =>
    refine writesBack_zeroField fun hz => writesBack_vcheck fun hs hd => ?_
    split
    · rename_i hq
      simp only [Bool.and_eq_true, decide_eq_true_eq] at hq
      refine writesBack_instr (n := 0xE000000D + (VDst.ofCode (fD w)).code * 2097152 + ((Fin.ofNat 8 (fA w - 16)).val + 16) * 65536)
        ⟨rfl, rfl, rfl⟩ ?_
      rw [VDst.code_ofCode hd, val_finOfNat (by omega), word_eq_fieldsV, ho, hk]
      omega
    · exact writesBack_fault _
  case h_15 => exact writesBack_fault _
  all_goals exact writesBack_decXs ho hk fun _ _ _ => ⟨rfl, rfl, rfl⟩

theorem writesBack_decodeVrng (ho : fOp w = 0x3A) : WritesBack sup w (decodeVrng w) := by
  unfold decodeVrng
  split <;> rename_i hk
  case h_3 => exact writesBack_fault _
  all_goals exact writesBack_decUst ho hk fun _ _ _ _ => ⟨rfl, rfl, rfl⟩

theorem writesBack_decodeVmem (ho : fOp w = 0x39) : WritesBack sup w (decodeVmem w) := by
  have hfn : fFn w = w / 128 % 16 * 128 + w % 128 := by unfold fFn; omega
  have word : ∀ f : Fin 8 → Fmt → Instr,
      (∀ q m, HasWord (f q m) (0xE4000000 + w % 128 + (q.val + 16) * 2097152 + (xr (fA w)).val * 65536
        + (xr (fB w)).val * 2048 + m.code * 128)) →
      WritesBack sup w (if 28 ≤ fD w then .fault .reservedVector else if fD w < 16 || 24 ≤ fD w then .fault .queueRole
        else match Fmt.ofCode (w / 128 % 16) with
          | some m => .instr (f (Fin.ofNat 8 (fD w - 16)) m)
          | none => .fault .format) := by
    intro f hf
    split
    · exact writesBack_fault _
    split
    · exact writesBack_fault _
    rename_i hq
    simp only [Bool.or_eq_true, decide_eq_true_eq] at hq
    split
    · rename_i m hm
      refine writesBack_instr (hf _ _) ?_
      rw [val_xr (fA_lt w), val_xr (fB_lt w), val_finOfNat (by omega), Fmt.code_of_ofCode hm, word_eq_fieldsR, ho, hfn]
      omega
    · exact writesBack_fault _
  unfold decodeVmem
  dsimp only
  split <;> rename_i hk
  case h_1 => exact word (.vld · (xr (fA w)) (xr (fB w)) ·) fun _ _ => ⟨rfl, by rw [hk]; rfl, rfl⟩
  case h_2 => exact word (.vst · (xr (fA w)) (xr (fB w)) ·) fun _ _ => ⟨rfl, by rw [hk]; rfl, rfl⟩
  case h_3 => exact word (.vldo · (xr (fA w)) (xr (fB w)) ·) fun _ _ => ⟨rfl, by rw [hk]; rfl, rfl⟩
  case h_4 => exact word (.vsto · (xr (fA w)) (xr (fB w)) ·) fun _ _ => ⟨rfl, by rw [hk]; rfl, rfl⟩
  case h_5 =>
    refine writesBack_zeroField fun hz => word (.vldb · (xr (fA w)) ·) fun _ _ => ⟨rfl, ?_, rfl⟩
    rw [hk, hz]
    rfl
  case h_6 => exact writesBack_fault _

/-- A word that decodes to an instruction is, in its low 32 bits, the word of that well-formed instruction (R66, R79). -/
theorem writesBack_decode (sup : Bool) (w : Nat) : WritesBack sup w (decode sup w) := by
  unfold decode
  split
  · exact writesBack_fault _
  split <;> rename_i ho
  case h_1 => exact writesBack_decodeOpr ho
  case h_8 => exact writesBack_decodeShi ho
  case h_9 | h_10 | h_30 => exact writesBack_decJ ho fun _ _ => ⟨rfl, rfl, rfl⟩
  case h_18 | h_19 | h_20 | h_21 => exact writesBack_decB ho fun _ _ _ => ⟨rfl, rfl, rfl⟩
  case h_22 => exact writesBack_decodeAmo ho
  case h_23 => exact writesBack_decodeSys ho
  case h_24 | h_25 | h_26 | h_27 | h_28 | h_29 => exact writesBack_decB ho fun _ _ _ => ⟨rfl, rfl, rfl⟩
  case h_32 => exact writesBack_decodeLoop ho
  case h_33 => exact writesBack_decodeLoopi ho
  case h_34 => exact writesBack_decodeStk ho
  case h_35 => exact writesBack_decodeTask ho
  case h_36 => exact writesBack_decodeWorld ho
  case h_37 => exact writesBack_decodeShape ho
  case h_38 => exact writesBack_decodeEng ho
  case h_39 => exact writesBack_decodeSync ho
  case h_40 => exact writesBack_decodeCsr ho
  case h_41 => exact writesBack_decodeFps ho
  case h_42 => exact writesBack_decodeOrb ho
  case h_43 => exact writesBack_decodeVar ho
  case h_44 => exact writesBack_decodeVfm ho
  case h_45 => exact writesBack_decodeVbit ho
  case h_46 => exact writesBack_decodeVcmpg ho
  case h_47 => exact writesBack_decodeVcv ho
  case h_48 => exact writesBack_decodeVsf ho
  case h_49 => exact writesBack_decodeVax ho
  case h_50 => exact writesBack_decodeVdt ho
  case h_51 => exact writesBack_decodeVxs ho
  case h_52 => exact writesBack_decodeVmem ho
  case h_53 => exact writesBack_decodeVrng ho
  case h_54 => exact writesBack_fault _
  all_goals exact writesBack_decI ho fun _ _ _ => ⟨rfl, rfl, rfl⟩

end

/-! ### Decoding in task mode (R70, R79) -/

theorem zeroField_eq_instr {n : Nat} {k : Decoded} {i : Instr} : zeroField n k = .instr i ↔ n = 0 ∧ k = .instr i := by
  unfold zeroField
  split <;> simp [*]

/-- The mode decides nothing but whether SYS may give an instruction of supervisor mode. -/
theorem decodeSys_false_of_true {w : Nat} {i : Instr} (h : decodeSys true w = .instr i) :
    decodeSys false w = if privileged i then .fault .privileged else .instr i := by
  unfold decodeSys at h ⊢
  dsimp only at h ⊢
  split at h
  case h_1 =>
    rw [h]
    simp only [zeroField_eq_instr, Decoded.instr.injEq] at h
    obtain ⟨-, rfl⟩ := h
    rfl
  case h_2 | h_3 | h_4 =>
    rw [h]
    simp only [decRab, decR0, zeroField_eq_instr, Decoded.instr.injEq] at h
    obtain ⟨-, -, rfl⟩ := h
    rfl
  case h_5 | h_6 | h_7 | h_8 =>
    simp only [superOnly, decRab, decR0, if_true, zeroField_eq_instr, Decoded.instr.injEq] at h
    obtain ⟨-, -, rfl⟩ := h
    rfl
  case h_9 => cases h

theorem decode_false_of_true {w : Nat} {i : Instr} (h : decode true w = .instr i) :
    decode false w = if privileged i then .fault .privileged else .instr i := by
  by_cases ho : fOp w = 0x17
  · have nz : w ≠ 0 := by rintro rfl; exact absurd ho (by decide)
    rw [decode_17 ho nz] at h ⊢
    exact decodeSys_false_of_true h
  · have hmode : decode false w = decode true w := by
      unfold decode
      split
      · rfl
      · split
        case h_23 => contradiction
        all_goals rfl
    have hpriv : privileged i = false := by
      have := (writesBack_decode false w i (hmode ▸ h)).2.2
      simpa using this
    rw [hmode, h, hpriv]
    rfl

/-! ### The word of every instruction decodes to it -/

open Laws in
/-- The word of every well-formed instruction fits 32 bits and decodes to it in supervisor mode. -/
theorem encoding_statement : ∀ i : Instr, Encoding.Statement i
  | .add d a b => Encoding.add d a b
  | .sub d a b => Encoding.sub d a b
  | .andR d a b => Encoding.andR d a b
  | .orR d a b => Encoding.orR d a b
  | .xorR d a b => Encoding.xorR d a b
  | .sll d a b => Encoding.sll d a b
  | .srl d a b => Encoding.srl d a b
  | .sra d a b => Encoding.sra d a b
  | .slt d a b => Encoding.slt d a b
  | .sltu d a b => Encoding.sltu d a b
  | .min d a b => Encoding.min d a b
  | .max d a b => Encoding.max d a b
  | .minu d a b => Encoding.minu d a b
  | .maxu d a b => Encoding.maxu d a b
  | .mul d a b => Encoding.mul d a b
  | .mhis d a b => Encoding.mhis d a b
  | .mhiu d a b => Encoding.mhiu d a b
  | .div d a b => Encoding.div d a b
  | .divu d a b => Encoding.divu d a b
  | .rem d a b => Encoding.rem d a b
  | .remu d a b => Encoding.remu d a b
  | .clz d a => Encoding.clz d a
  | .ctz d a => Encoding.ctz d a
  | .popc d a => Encoding.popc d a
  | .sel d a b => Encoding.sel d a b
  | .addi d a i => Encoding.addi d a i
  | .andi d a i => Encoding.andi d a i
  | .ori d a i => Encoding.ori d a i
  | .xori d a i => Encoding.xori d a i
  | .slti d a i => Encoding.slti d a i
  | .sltiu d a i => Encoding.sltiu d a i
  | .slli d a n => Encoding.slli d a n
  | .srli d a n => Encoding.srli d a n
  | .srai d a n => Encoding.srai d a n
  | .lui d i => Encoding.lui d i
  | .luipc d i => Encoding.luipc d i
  | .lb d a i => Encoding.lb d a i
  | .lbu d a i => Encoding.lbu d a i
  | .lh d a i => Encoding.lh d a i
  | .lhu d a i => Encoding.lhu d a i
  | .lw d a i => Encoding.lw d a i
  | .lwu d a i => Encoding.lwu d a i
  | .ld d a i => Encoding.ld d a i
  | .sb b a i => Encoding.sb b a i
  | .sh b a i => Encoding.sh b a i
  | .sw b a i => Encoding.sw b a i
  | .sd b a i => Encoding.sd b a i
  | .amoswap d a b c q l w => Encoding.amoswap d a b c q l w
  | .amoadd d a b c q l w => Encoding.amoadd d a b c q l w
  | .amoand d a b c q l w => Encoding.amoand d a b c q l w
  | .amoor d a b c q l w => Encoding.amoor d a b c q l w
  | .amoxor d a b c q l w => Encoding.amoxor d a b c q l w
  | .amomin d a b c q l w => Encoding.amomin d a b c q l w
  | .amomax d a b c q l w => Encoding.amomax d a b c q l w
  | .amominu d a b c q l w => Encoding.amominu d a b c q l w
  | .amomaxu d a b c q l w => Encoding.amomaxu d a b c q l w
  | .amocas d a b c q l w => Encoding.amocas d a b c q l w
  | .amofadd d a b c q l w => Encoding.amofadd d a b c q l w
  | .fence s e h => Encoding.fence s e h
  | .iflush a b => Encoding.iflush a b
  | .svreq => Encoding.svreq
  | .dbgbrk => Encoding.dbgbrk
  | .tret => Encoding.tret
  | .waiti => Encoding.waiti
  | .harvest a b => Encoding.harvest a b
  | .tlbinv a b => Encoding.tlbinv a b
  | .beq b a i => Encoding.beq b a i
  | .bne b a i => Encoding.bne b a i
  | .blt b a i => Encoding.blt b a i
  | .bge b a i => Encoding.bge b a i
  | .bltu b a i => Encoding.bltu b a i
  | .bgeu b a i => Encoding.bgeu b a i
  | .jal d i => Encoding.jal d i
  | .jalr d a i => Encoding.jalr d a i
  | .loop l a o => Encoding.loop l a o
  | .loopi l c o => Encoding.loopi l c o
  | .pushm f l b k => Encoding.pushm f l b k
  | .popm f l b k => Encoding.popm f l b k
  | .spawn d a => Encoding.spawn d a
  | .join d a => Encoding.join d a
  | .jinit d a b => Encoding.jinit d a b
  | .exit => Encoding.exit
  | .yield => Encoding.yield
  | .waitt a => Encoding.waitt a
  | .forkw d a => Encoding.forkw d a
  | .yieldw a => Encoding.yieldw a
  | .choose d a => Encoding.choose d a
  | .abortw => Encoding.abortw
  | .wid d => Encoding.wid d
  | .setshp d a => Encoding.setshp d a
  | .getshp d => Encoding.getshp d
  | .mxq a => Encoding.mxq a
  | .cpq a b => Encoding.cpq a b
  | .clq a => Encoding.clq a
  | .strm a b => Encoding.strm a b
  | .unstrm a => Encoding.unstrm a
  | .qbind a b => Encoding.qbind a b
  | .engseq d a => Encoding.engseq d a
  | .skwait a k => Encoding.skwait a k
  | .skadd a k => Encoding.skadd a k
  | .skset a k => Encoding.skset a k
  | .skrd d k => Encoding.skrd d k
  | .wpwait a k => Encoding.wpwait a k
  | .csrr d c => Encoding.csrr d c
  | .csrw d a c => Encoding.csrw d a c
  | .csrs d a c => Encoding.csrs d a c
  | .csrc d a c => Encoding.csrc d a c
  | .fadd d a b f r => Encoding.fadd d a b f r
  | .fsub d a b f r => Encoding.fsub d a b f r
  | .fmul d a b f r => Encoding.fmul d a b f r
  | .fdiv d a b f r => Encoding.fdiv d a b f r
  | .fsqrt d a f r => Encoding.fsqrt d a f r
  | .fmin d a b f => Encoding.fmin d a b f
  | .fmax d a b f => Encoding.fmax d a b f
  | .flt d a b f => Encoding.flt d a b f
  | .feq d a b f => Encoding.feq d a b f
  | .fle d a b f => Encoding.fle d a b f
  | .fcvtfi d a f r => Encoding.fcvtfi d a f r
  | .fcvtif d a f r => Encoding.fcvtif d a f r
  | .fcvtff d a f r => Encoding.fcvtff d a f r
  | .fmadd d a b f r => Encoding.fmadd d a b f r
  | .orboff d a b => Encoding.orboff d a b
  | .orbsgn d a b => Encoding.orbsgn d a b
  | .orbmul d a b => Encoding.orbmul d a b
  | .vadd d a b => Encoding.vadd d a b
  | .vsub d a b => Encoding.vsub d a b
  | .vmul d a b => Encoding.vmul d a b
  | .vdiv d a b => Encoding.vdiv d a b
  | .vmin d a b => Encoding.vmin d a b
  | .vmax d a b => Encoding.vmax d a b
  | .vabs d a => Encoding.vabs d a
  | .vneg d a => Encoding.vneg d a
  | .vaddsat d a b => Encoding.vaddsat d a b
  | .vsubsat d a b => Encoding.vsubsat d a b
  | .vfma d a b c => Encoding.vfma d a b c
  | .vfms d a b c => Encoding.vfms d a b c
  | .vfnma d a b c => Encoding.vfnma d a b c
  | .vand d a b => Encoding.vand d a b
  | .vor d a b => Encoding.vor d a b
  | .vxor d a b => Encoding.vxor d a b
  | .vnot d a => Encoding.vnot d a
  | .vshl d a b => Encoding.vshl d a b
  | .vshr d a b => Encoding.vshr d a b
  | .vsra d a b => Encoding.vsra d a b
  | .vcmp d a b c => Encoding.vcmp d a b c
  | .vsel d a b c => Encoding.vsel d a b c
  | .vcvt d a f => Encoding.vcvt d a f
  | .vexp2 d a => Encoding.vexp2 d a
  | .vlog2 d a => Encoding.vlog2 d a
  | .vrcp d a => Encoding.vrcp d a
  | .vrsq d a => Encoding.vrsq d a
  | .vsqrt d a => Encoding.vsqrt d a
  | .vtanh d a => Encoding.vtanh d a
  | .vsigm d a => Encoding.vsigm d a
  | .vrotc d a s => Encoding.vrotc d a s
  | .vrotr d a s => Encoding.vrotr d a s
  | .vbcc d a s => Encoding.vbcc d a s
  | .vbcr d a s => Encoding.vbcr d a s
  | .vredcAdd d a => Encoding.vredcAdd d a
  | .vredcMax d a => Encoding.vredcMax d a
  | .vredcMin d a => Encoding.vredcMin d a
  | .vredrAdd d a => Encoding.vredrAdd d a
  | .vredrMax d a => Encoding.vredrMax d a
  | .vredrMin d a => Encoding.vredrMin d a
  | .vtrn d a => Encoding.vtrn d a
  | .viota d u s => Encoding.viota d u s
  | .vdot4 d a b c g h t => Encoding.vdot4 d a b c g h t
  | .vcmp48 d a b g h t => Encoding.vcmp48 d a b g h t
  | .vsmv d a b c g h t => Encoding.vsmv d a b c g h t
  | .vsplat d u s => Encoding.vsplat d u s
  | .vins d u s t => Encoding.vins d u s t
  | .vext d a t => Encoding.vext d a t
  | .vqnt d a s t => Encoding.vqnt d a s t
  | .vdq d a s t => Encoding.vdq d a s t
  | .vaddx d a s => Encoding.vaddx d a s
  | .vsubx d a s => Encoding.vsubx d a s
  | .vmulx d a s => Encoding.vmulx d a s
  | .vmaxx d a s => Encoding.vmaxx d a s
  | .vminx d a s => Encoding.vminx d a s
  | .vshlx d a s => Encoding.vshlx d a s
  | .vshrx d a s => Encoding.vshrx d a s
  | .vsrax d a s => Encoding.vsrax d a s
  | .vpeek d a => Encoding.vpeek d a
  | .vld q b s m => Encoding.vld q b s m
  | .vst q b s m => Encoding.vst q b s m
  | .vldo q b s m => Encoding.vldo q b s m
  | .vsto q b s m => Encoding.vsto q b s m
  | .vldb q b m => Encoding.vldb q b m
  | .vrngb d u s t => Encoding.vrngb d u s t
  | .vrngu d u s t => Encoding.vrngu d u s t
  | .mma => Encoding.mma
  | .dist => Encoding.dist
  | .topk => Encoding.topk
  | .drain => Encoding.drain
  | .loadacc => Encoding.loadacc
  | .stampOverrun engine => Encoding.stampOverrun engine
  | .copyCmd ch => Encoding.copyCmd ch
  | .fillCmd ch => Encoding.fillCmd ch
  | .gatherCmd ch => Encoding.gatherCmd ch
  | .scatterCmd ch => Encoding.scatterCmd ch
  | .packoCmd ch => Encoding.packoCmd ch
  | .unpackoCmd ch => Encoding.unpackoCmd ch
  | .allreduce group peers => Encoding.allreduce group peers
  | .reducescatter group peers => Encoding.reducescatter group peers
  | .allgather group peers => Encoding.allgather group peers
  | .broadcast group peers => Encoding.broadcast group peers
  | .sendCmd group peers => Encoding.sendCmd group peers
  | .recvCmd group peers => Encoding.recvCmd group peers
  | .collectiveTimeout group => Encoding.collectiveTimeout group
  | .chunkAttempt q => Encoding.chunkAttempt q
  | .launchPacket ctx => Encoding.launchPacket ctx
  | .pop => Encoding.pop
  | .launchComplete id => Encoding.launchComplete id
  | .watchdog => Encoding.watchdog
  | .trap => Encoding.trap
  | .dieIsolation die => Encoding.dieIsolation die
  | .dataFrame port frame => Encoding.dataFrame port frame
  | .ackFrame port frame => Encoding.ackFrame port frame
  | .nackFrame port frame => Encoding.nackFrame port frame
  | .rekeyFrame port frame => Encoding.rekeyFrame port frame
  | .idleFrame port frame => Encoding.idleFrame port frame
  | .keyRenewal port => Encoding.keyRenewal port
  | .portBringUp port peer digest => Encoding.portBringUp port peer digest
  | .bar2Read part offset len => Encoding.bar2Read part offset len
  | .bar2Write part offset bytes => Encoding.bar2Write part offset bytes
  | .atomicop part offset op wide value compare => Encoding.atomicop part offset op wide value compare
  | .flr part => Encoding.flr part
  | .reset boot => Encoding.reset boot
  | .ptpLock time => Encoding.ptpLock time
  | .tailWrite ctx value => Encoding.tailWrite ctx value
  | .rcfgWrite ctx value => Encoding.rcfgWrite ctx value
  | .evcfgWrite part value => Encoding.evcfgWrite part value
  | .registerWrite target value => Encoding.registerWrite target value
  | .fctlWrite value => Encoding.fctlWrite value
  | .slipWrite value => Encoding.slipWrite value
  | .lcfgWrite value => Encoding.lcfgWrite value
  | .statusWrite value => Encoding.statusWrite value
  | .loopRegisterWrite which value => Encoding.loopRegisterWrite which value
  | .xsetWrite value => Encoding.xsetWrite value
  | .dseedWrite value => Encoding.dseedWrite value
  | .lsubWrite value => Encoding.lsubWrite value
  | .lendWrite value => Encoding.lendWrite value
  | .attreqWrite value => Encoding.attreqWrite value
  | .fwgrantWrite value => Encoding.fwgrantWrite value
  | .preempt part launch => Encoding.preempt part launch
  | .cellar part block => Encoding.cellar part block
  | .cellarDrainEnd part => Encoding.cellarDrainEnd part
  | .targetUnreachable part => Encoding.targetUnreachable part
  | .power target => Encoding.power target
  | .partition cfgs => Encoding.partition cfgs
  | .cap amps => Encoding.cap amps
  | .attest part block => Encoding.attest part block
  | .xunload slot => Encoding.xunload slot
  | .currentSample amps => Encoding.currentSample amps
  | .lifecycleAdvance target => Encoding.lifecycleAdvance target
  | .debugToken token => Encoding.debugToken token
  | .grandmasterLost => Encoding.grandmasterLost
  | .lossOfPower => Encoding.lossOfPower
  | .expansionSetLoad slot set signed => Encoding.expansionSetLoad slot set signed
  | .uncorrectableError site => Encoding.uncorrectableError site
  | .croftDatapathCheck queue => Encoding.croftDatapathCheck queue
  | .debugLevelChange part level => Encoding.debugLevelChange part level

/-- Settles O59: the word of a well-formed instruction decodes to it (one lemma for each instruction), and each decoder writes back the
word it was given, so the encoder and the decoder are inverse to each other. -/
theorem decodeEncode : Obligations.DecodeEncode := by
  unfold Obligations.DecodeEncode
  refine ⟨fun i w hwf henc => ?_, fun sup w i h => writesBack_decode sup w i h⟩
  obtain ⟨hlt, hdec⟩ := encoding_statement i w hwf henc
  exact ⟨hlt, hdec, decode_false_of_true hdec⟩

/-- Settles O58, by evaluation of the decoder on each word. -/
theorem decodeWords : Obligations.DecodeWords := by
  unfold Obligations.DecodeWords
  decide

end Sys2Proof.Machine
end

section
/-! SUPPORT. What every step keeps, through the shared operations: `Keeps s t` says that t has its memories in canonical form if s has,
and the column maxima of s (R14). -/

namespace Sys2Proof.Machine

/-! ### The device registers that the shared operations leave alone -/

theorem State.foldl_dev {α : Type} {f : State → α → State} (hf : ∀ s a, (f s a).dev = s.dev) (l : List α) (s : State) :
    (l.foldl f s).dev = s.dev := by
  induction l generalizing s with
  | nil => rfl
  | cons a l ih => rw [List.foldl_cons, ih, hf]

section
variable (s : State)

@[simp] theorem State.keepOld_dev (pa n : Nat) : (s.keepOld pa n).dev = s.dev := by rw [State.keepOld_eq]
@[simp] theorem State.writeRoot_dev (pa : Nat) (bs : List Byte) : (s.writeRoot pa bs).dev = s.dev := by simp [State.writeRoot]

@[simp] theorem State.writeDevice_dev (w pa : Nat) (bs : List Byte) : (s.writeDevice w pa bs).dev = s.dev := by
  unfold State.writeDevice; split <;> simp

@[simp] theorem State.writePlace_dev (w : Nat) (p : Place) (bs : List Byte) : (s.writePlace w p bs).dev = s.dev := by
  cases p <;> simp [State.writePlace]

@[simp] theorem State.scramble_dev (p : Place) : (s.scramble p).dev = s.dev := by cases p <;> rfl

theorem State.claim_dev {s s1 : State} {w g : Nat} (h : s.claim w g = some s1) : s1.dev = s.dev := by
  unfold State.claim at h
  split at h
  · cases h; rfl
  · split at h
    · cases h; rfl
    · split at h <;> cases h; rfl

theorem State.claimCheck_dev {s s1 : State} {w : Who} {a : Word} {p : Place} (h : s.claimCheck w a p = .ok s1) : s1.dev = s.dev := by
  unfold State.claimCheck at h
  split at h
  · split at h
    · split at h
      · simp [Chk.fail] at h
      · cases h; exact State.claim_dev ‹_›
    · simp [Chk.fail] at h
  · cases h; rfl

/-! ### Events and the module's own writes -/

@[simp] theorem State.putEvent_dev (part : Fin 16) (bs : List Byte) : (s.putEvent part bs).dev = s.dev := by
  unfold State.putEvent; split <;> simp

@[simp] theorem State.postEvent_dev (part : Fin 16) (bs : List Byte) : (s.postEvent part bs).dev = s.dev := by
  unfold State.postEvent; split <;> simp

@[simp] theorem State.gleanPut_dev (cid : Fin 64) (a : Word) (bs : List Byte) : (s.gleanPut cid a bs).dev = s.dev :=
  State.foldl_dev (fun s g => by split <;> simp) _ s

@[simp] theorem State.makeLate_dev (w : LateWrite) : (s.makeLate w).dev = s.dev := by
  cases w with
  | glean c a bs => unfold State.makeLate; dsimp only; split <;> simp
  | root pa bs => exact State.writeRoot_dev s pa bs
  | event part bs => exact State.putEvent_dev s part bs

@[simp] theorem State.post_dev (w : LateWrite) : (s.post w).dev = s.dev := by
  unfold State.post; split <;> simp

@[simp] theorem State.behind_dev (l : List LateWrite) : (s.behind l).dev = s.dev := rfl

@[simp] theorem State.deliverLate_dev (n : Nat) : (s.deliverLate n).dev = s.dev := by
  induction n generalizing s with
  | zero => rfl
  | succ n ih =>
    unfold State.deliverLate
    split
    · rfl
    · split
      · rfl
      · rw [ih]; simp

@[simp] theorem State.logEvent_dev (part : Fin 16) (e : Event) : (s.logEvent part e).dev = s.dev := by simp [State.logEvent]

@[simp] theorem State.logLine_dev (part : Fin 16) (l : Option Line) : (s.logLine part l).dev = s.dev := by
  unfold State.logLine; split <;> simp

@[simp] theorem State.gleanLog_dev (cid : Fin 64) (a n : Nat) : (s.gleanLog cid a n).dev = s.dev := by
  unfold State.gleanLog; split <;> simp

@[simp] theorem State.gleanWrite_dev (cid : Fin 64) (a : Word) (bs : List Byte) : (s.gleanWrite cid a bs).dev = s.dev := by
  simp [State.gleanWrite]

@[simp] theorem State.writeCompletion_dev (cid : Fin 64) (done : Word) (id : BitVec 12) (st code tasks : Nat) (f : Word) :
    (s.writeCompletion cid done id st code tasks f).dev = s.dev := by simp [State.writeCompletion]

/-! ### The end of tasks, worlds and launches -/

@[simp] theorem State.releasePair_dev (t : Task) : (s.releasePair t).dev = s.dev := by
  unfold State.releasePair; split <;> rfl

@[simp] theorem State.stopTask_dev : s.stopTask.dev = s.dev := by simp [State.stopTask]

@[simp] theorem State.dropWorld_dev (w : Nat) : (s.dropWorld w).dev = s.dev := by
  unfold State.dropWorld; split <;> rfl

@[simp] theorem State.dropBelow_dev (w : Nat) (rs : List Rival) : (s.dropBelow w rs).dev = s.dev :=
  State.foldl_dev (fun s r => by split <;> simp) _ s

@[simp] theorem State.emptyWorld_dev (w : Nat) : (s.emptyWorld w).dev = s.dev := by
  unfold State.emptyWorld; split <;> simp

@[simp] theorem State.rivalEnded_dev (t : Task) (score : Option Word) : (s.rivalEnded t score).dev = s.dev := by
  unfold State.rivalEnded; split <;> simp

@[simp] theorem State.abortRival_dev : s.abortRival.dev = s.dev := by simp [State.abortRival]

@[simp] theorem State.releaseKept_dev (L : Launch) : (s.releaseKept L).dev = s.dev := by
  unfold State.releaseKept
  rw [State.foldl_dev fun s p => by simp, State.foldl_dev fun s e => by split <;> simp]

@[simp] theorem State.dropLaunch_dev (L : Launch) : (s.dropLaunch L).dev = s.dev := by
  simp only [State.dropLaunch, State.releaseKept_dev]; split <;> simp

@[simp] theorem State.endLaunch_dev (f : Nat) (part : Fin 16) (id : BitVec 12) (st code : Nat) (fr : Word) :
    (s.endLaunch f part id st code fr).dev = s.dev := by
  induction f generalizing s id st code fr with
  | zero => rfl
  | succ f ih =>
    unfold State.endLaunch
    split
    · rfl
    · dsimp only
      split
      · rw [State.foldl_dev fun s k => ih s _ _ _ _]; simp
      · simp

@[simp] theorem State.failLaunch_dev (part : Fin 16) (id : BitVec 12) (code : Nat) (fr : Word) :
    (s.failLaunch part id code fr).dev = s.dev := by simp [State.failLaunch]

@[simp] theorem State.failTask_dev (code : Nat) : (s.failTask code).dev = s.dev := by
  unfold State.failTask; split <;> simp

@[simp] theorem State.restore_dev (t : Task) : (s.restore t).dev = s.dev := by
  unfold State.restore; split <;> simp

@[simp] theorem State.reexecute_dev (c : Cause) : (s.reexecute c).dev = s.dev := by
  have hs : (if s.task.guarded then (s.dropBelow s.task.id.world s.task.pendingRivals).stopTask.dropWorld s.task.id.world
      else (s.dropBelow s.task.id.world s.task.pendingRivals).stopTask.restore s.task).dev = s.dev := by split <;> simp
  unfold State.reexecute
  extract_lets t part s1 s2 n
  change s2.dev = s.dev at hs
  split
  · simp [hs]
  · split
    · exact hs
    · simp [hs]

/-! ### Traps -/

@[simp] theorem State.setPiece_dev (p : Option Partial) : (s.setPiece p).dev = s.dev := rfl

@[simp] theorem State.deliver_dev (q : TrapReq) : (s.deliver q).dev = s.dev := by
  unfold State.deliver; dsimp only; split <;> simp

@[simp] theorem State.takeTrap_dev (q : TrapReq) : (s.takeTrap q).dev = s.dev := by
  have hu : ((s.logLine s.myPart q.line).setPiece none).dev = s.dev := by simp
  unfold State.takeTrap
  extract_lets u t
  change u.dev = s.dev at hu
  split
  · split
    · simp [hu]
    · split <;> simp [hu]
  · split <;> simp [hu]

@[simp] theorem State.fault_dev (r : Raise) : (s.fault r).dev = s.dev := State.takeTrap_dev s _

end

/-! ### What a step keeps -/

/-- t has its memories in canonical form if s has them so, and its column maxima are those of s (R14). -/
def Keeps (s t : State) : Prop := (s.wf = true → t.wf = true) ∧ t.dev.colmax = s.dev.colmax

section
variable {s u t : State}

theorem Keeps.refl (s : State) : Keeps s s := ⟨id, rfl⟩
theorem Keeps.trans (h : Keeps s u) (k : Keeps u t) : Keeps s t := ⟨k.1 ∘ h.1, k.2.trans h.2⟩

/-- A further change that keeps the form and leaves the device registers alone. -/
theorem Keeps.step (h : Keeps s u) (hw : u.wf = true → t.wf = true) (hd : t.dev = u.dev) : Keeps s t :=
  h.trans ⟨hw, by rw [hd]⟩

/-- What the canonical form and the column maxima are about: equal parts, equal answers. -/
def State.kept (s : State) : Mem × Mem × Mem × Mem × List Launch × List World × Vector Partition 16 × List (List Nat) :=
  (s.mem, s.host, s.peer, s.task.loft, s.launches, s.worlds, s.parts, s.dev.colmax)

/-- A further change of none of these parts. -/
theorem Keeps.same (h : Keeps s u) (e : t.kept = u.kept) : Keeps s t := by
  simp only [State.kept, Prod.mk.injEq] at e
  obtain ⟨hm, hh, hp, hl, hk, hw, hr, hc⟩ := e
  exact h.trans ⟨fun hu => State.wf_congr hu hm hh hp hl hk hw hr, hc⟩

theorem Keeps.foldl {α : Type} {f : State → α → State} (hf : ∀ {v}, Keeps s v → ∀ a, Keeps s (f v a)) (l : List α) (h : Keeps s u) :
    Keeps s (l.foldl f u) := by
  induction l generalizing u with
  | nil => exact h
  | cons a l ih => exact ih (hf h a)

theorem Keeps.ite {c : Prop} [Decidable c] (ht : Keeps s t) (hu : Keeps s u) : Keeps s (if c then t else u) := by
  split
  · exact ht
  · exact hu

/-- A change of the running task that leaves its loft alone. -/
theorem Keeps.setTask (h : Keeps s u) {f : Task → Task} (hf : (f u.task).loft = u.task.loft) : Keeps s (u.setTask f) :=
  h.step (fun hu => State.wf_setTask_loft hu hf) rfl

theorem Keeps.withTask (h : Keeps s u) {t : Task} (hl : t.loft = u.task.loft) : Keeps s { u with task := t } :=
  h.setTask (f := fun _ => t) hl

/-- A new loft in canonical form. -/
theorem Keeps.withLoft (h : Keeps s u) {t : Task} (hl : s.wf = true → t.loft.wf = true) : Keeps s { u with task := t } :=
  ⟨fun hs => State.wf_setTask (h.1 hs) (f := fun _ => t) (hl hs), h.2⟩

theorem Keeps.setX (h : Keeps s u) {d : XReg} {v : Word} : Keeps s (u.setX d v) := h.setTask (Task.setX_loft _ _ _)
theorem Keeps.setCsr (h : Keeps s u) {c : Csrs} : Keeps s (u.setCsr c) := h.setTask rfl
theorem Keeps.advance (h : Keeps s u) : Keeps s u.advance := h.setTask rfl
theorem Keeps.jump (h : Keeps s u) {pc : Word} : Keeps s (u.jump pc) := h.setTask rfl
theorem Keeps.setPiece (h : Keeps s u) {p : Option Partial} : Keeps s (u.setPiece p) := h.setTask rfl

section
variable (h : s.wf = true)
include h
theorem State.wf_mem : s.mem.wf = true := (State.wf_iff.1 h).1
theorem State.wf_host : s.host.wf = true := (State.wf_iff.1 h).2.1
theorem State.wf_peer : s.peer.wf = true := (State.wf_iff.1 h).2.2.1
theorem State.wf_loft : s.task.loft.wf = true := (State.wf_iff.1 h).2.2.2.1
theorem State.wf_worlds : ∀ w ∈ s.worlds, w.bytes.wf = true := (State.wf_iff.1 h).2.2.2.2.2.1
end

/-- A partition whose Cellar, if one runs, has a snapshot in canonical form. -/
theorem Keeps.setPart (h : Keeps s u) {i : Fin 16} {p : Partition} (hp : s.wf = true → ∀ c, p.cellar = some c → c.snapshot.wf = true) :
    Keeps s (u.setPart i p) := ⟨fun hs => State.wf_setPart (h.1 hs) i (hp hs), h.2⟩

/-- A partition's other registers change. -/
theorem Keeps.setPart_cellar (h : Keeps s u) {i : Fin 16} {p : Partition} (hp : p.cellar = u.parts[i].cellar) :
    Keeps s (u.setPart i p) := h.setPart fun hs _ hc => State.wf_cellar (h.1 hs) i (hp ▸ hc)

theorem Keeps.keepOld (h : Keeps s u) {pa n : Nat} : Keeps s (u.keepOld pa n) := h.step (State.wf_keepOld · pa n) (by simp)
theorem Keeps.writeRoot (h : Keeps s u) {pa : Nat} {bs : List Byte} : Keeps s (u.writeRoot pa bs) :=
  h.step (State.wf_writeRoot · pa bs) (by simp)
theorem Keeps.writePlace (h : Keeps s u) {w : Nat} {p : Place} {bs : List Byte} : Keeps s (u.writePlace w p bs) :=
  h.step (State.wf_writePlace · w p bs) (by simp)
theorem Keeps.scramble (h : Keeps s u) {p : Place} : Keeps s (u.scramble p) := h.step (State.wf_scramble · p) (by simp)
theorem Keeps.setWorld (h : Keeps s u) {w : World} (hw : s.wf = true → w.bytes.wf = true) : Keeps s (u.setWorld w) :=
  ⟨fun hs => State.wf_setWorld (h.1 hs) (hw hs), h.2⟩
theorem Keeps.setLaunch (h : Keeps s u) {L : Launch} (hL : s.wf = true → L.keptWf) : Keeps s (u.setLaunch L) :=
  ⟨fun hs => State.wf_setLaunch (h.1 hs) (hL hs), h.2⟩
theorem Keeps.msix (h : Keeps s u) {p : Fin 16} {v : Nat} : Keeps s (u.msix p v) := h.same rfl
theorem Keeps.putEvent (h : Keeps s u) {p : Fin 16} {bs : List Byte} : Keeps s (u.putEvent p bs) :=
  h.step (State.wf_putEvent · p bs) (by simp)
theorem Keeps.logEvent (h : Keeps s u) {p : Fin 16} {e : Event} : Keeps s (u.logEvent p e) :=
  h.step (State.wf_logEvent · p e) (by simp)
theorem Keeps.logLine (h : Keeps s u) {p : Fin 16} {l : Option Line} : Keeps s (u.logLine p l) :=
  h.step (State.wf_logLine · p l) (by simp)
theorem Keeps.gleanLog (h : Keeps s u) {c : Fin 64} {a n : Nat} : Keeps s (u.gleanLog c a n) :=
  h.step (State.wf_gleanLog · c a n) (by simp)
theorem Keeps.gleanWrite (h : Keeps s u) {c : Fin 64} {a : Word} {bs : List Byte} : Keeps s (u.gleanWrite c a bs) :=
  h.step (State.wf_gleanWrite · c a bs) (by simp)
theorem Keeps.post (h : Keeps s u) {w : LateWrite} : Keeps s (u.post w) := h.step (State.wf_post · w) (by simp)
theorem Keeps.writeCompletion (h : Keeps s u) {c : Fin 64} {d : Word} {id : BitVec 12} {st code n : Nat} {f : Word} :
    Keeps s (u.writeCompletion c d id st code n f) := h.step (State.wf_writeCompletion · c d id st code n f) (by simp)
theorem Keeps.deliverLate (h : Keeps s u) {n : Nat} : Keeps s (u.deliverLate n) := h.step (State.wf_deliverLate n ·) (by simp)
theorem Keeps.stopTask (h : Keeps s u) : Keeps s u.stopTask := h.step State.wf_stopTask (by simp)
theorem Keeps.releasePair (h : Keeps s u) {t : Task} : Keeps s (u.releasePair t) := h.step (State.wf_releasePair · t) (by simp)
theorem Keeps.dropWorld (h : Keeps s u) {w : Nat} : Keeps s (u.dropWorld w) := h.step (State.wf_dropWorld · w) (by simp)
theorem Keeps.dropBelow (h : Keeps s u) {w : Nat} {rs : List Rival} : Keeps s (u.dropBelow w rs) :=
  h.step (State.wf_dropBelow · w rs) (by simp)
theorem Keeps.emptyWorld (h : Keeps s u) {w : Nat} : Keeps s (u.emptyWorld w) := h.step (State.wf_emptyWorld · w) (by simp)
theorem Keeps.rivalEnded (h : Keeps s u) {t : Task} {score : Option Word} : Keeps s (u.rivalEnded t score) :=
  h.step (State.wf_rivalEnded · t score) (by simp)
theorem Keeps.abortRival (h : Keeps s u) : Keeps s u.abortRival := h.step State.wf_abortRival (by simp)
theorem Keeps.dropLaunch (h : Keeps s u) {L : Launch} : Keeps s (u.dropLaunch L) := h.step (State.wf_dropLaunch · L) (by simp)
theorem Keeps.endLaunch (h : Keeps s u) {n : Nat} {p : Fin 16} {id : BitVec 12} {st code : Nat} {f : Word} :
    Keeps s (u.endLaunch n p id st code f) := h.step (State.wf_endLaunch n · p id st code f) (by simp)
theorem Keeps.failLaunch (h : Keeps s u) {p : Fin 16} {id : BitVec 12} {code : Nat} {f : Word} :
    Keeps s (u.failLaunch p id code f) := h.step (State.wf_failLaunch · p id code f) (by simp)
theorem Keeps.failTask (h : Keeps s u) {code : Nat} : Keeps s (u.failTask code) := h.step (State.wf_failTask · code) (by simp)
theorem Keeps.reexecute (h : Keeps s u) {c : Cause} : Keeps s (u.reexecute c) := h.step (State.wf_reexecute · c) (by simp)
theorem Keeps.takeTrap (h : Keeps s u) {q : TrapReq} : Keeps s (u.takeTrap q) := h.step (State.wf_takeTrap · q) (by simp)
theorem Keeps.fault (h : Keeps s u) {r : Raise} : Keeps s (u.fault r) := h.step (State.wf_fault · r) (by simp)
theorem Keeps.keepPassing (h : Keeps s u) : Keeps s u.keepPassing := by
  rw [State.keepPassing_eq]; exact h.same rfl
theorem Keeps.dropSlot (h : Keeps s u) {k : Fin 4} : Keeps s (u.dropSlot k) := by
  rw [State.dropSlot_eq]; exact h.same rfl
theorem Keeps.tick (h : Keeps s u) {n : Nat} : Keeps s (u.tick n) := h.trans ⟨State.wf_tick (n := n), rfl⟩
theorem Keeps.mendGroups (h : Keeps s u) : Keeps s u.mendGroups := h.same rfl

end

/-! ### What an instruction's work keeps, whatever it becomes -/

/-- A value has a property, and the state a trap leaves another. -/
def Res.All {α : Type} (P : State → Prop) (Q : α → Prop) : Res α → Prop
  | .ok a => Q a
  | .trap u _ => P u
  | _ => True

/-- A checked value has a property. -/
def Chk.All {α : Type} (Q : α → Prop) (x : Chk α) : Prop := ∀ a, x = .ok a → Q a

/-- The next state of an answer has a property. -/
def NextIs (Q : State → Prop) (r : Result) : Prop := ∀ t, r = .next t → Q t

section
variable {α β : Type} {P : State → Prop} {Q : α → Prop} {R : β → Prop} {s u : State}

theorem Res.All.bind {x : Res α} {f : α → Res β} (h : x.All P Q) (k : ∀ a, Q a → (f a).All P R) : (x.bind f).All P R := by
  cases x
  case ok a => exact k a h
  all_goals exact h

theorem Res.All.mono {x : Res α} {P' : State → Prop} {Q' : α → Prop} (h : x.All P Q) (hp : ∀ v, P v → P' v) (hq : ∀ a, Q a → Q' a) :
    x.All P' Q' := by
  cases x
  case ok a => exact hq a h
  case trap v r => exact hp v h
  all_goals trivial

theorem Res.all_ok {a : α} (h : Q a) : (Res.ok a).All P Q := h

theorem Res.all_ofChk {x : Chk α} (h : P s) (hx : x.All Q) : (Res.ofChk s x).All P Q := by
  cases x
  case ok a => exact hx a rfl
  case bad r => exact h
  all_goals trivial

theorem Res.all_fail {c : Cause} {v : Word} (h : P s) : (Res.fail s c v : Res α).All P Q := h

theorem Res.all_need {b : Bool} {c : Cause} {v : Word} (h : P s) : (Res.need s b c v).All P fun _ => True := by
  cases b
  · exact h
  · trivial

theorem Res.all_until {b : Bool} : (Res.until b).All P fun _ => True := by cases b <;> trivial
theorem Res.all_untilVe {b : Bool} : (Res.untilVe b).All P fun _ => True := by cases b <;> trivial

theorem Res.all_undo {x : Res α} (h : P s) (hx : x.All P Q) : (Res.undo s x).All P Q := by
  cases x
  case trap v r => exact h
  all_goals exact hx

theorem Res.All.each {f : β → α → Res β} (hf : ∀ b a, R b → (f b a).All P R) : ∀ (l : List α) {b : β}, R b → (Res.each f l b).All P R
  | [], _, h => h
  | _ :: l, _, h => (hf _ _ h).bind fun _ hc => Res.All.each hf l hc

theorem Res.all_ite {c : Prop} [Decidable c] {x y : Res α} (hx : c → x.All P Q) (hy : ¬ c → y.All P Q) : (if c then x else y).All P Q := by
  split
  · exact hx ‹_›
  · exact hy ‹_›

theorem Chk.All.bind {x : Chk α} {f : α → Chk β} (h : x.All Q) (k : ∀ a, Q a → (f a).All R) : (x.bind f).All R := by
  intro b hb
  obtain ⟨a, ha, hf⟩ := Chk.bind_eq_ok.1 hb
  exact k a (h a ha) b hf

theorem Chk.all_true {x : Chk α} : x.All fun _ => True := fun _ _ => trivial
theorem Chk.all_ok {a : α} (h : Q a) : (Chk.ok a).All Q := fun _ e => by cases e; exact h
theorem Chk.all_fail {c : Cause} {v : Word} : (Chk.fail c v : Chk α).All Q := fun _ e => by simp [Chk.fail] at e

theorem nextIs_next {Q : State → Prop} (h : Q u) : NextIs Q (.next u) := fun _ e => by cases e; exact h
theorem nextIs_fault {Q : State → Prop} {f : Fault} : NextIs Q (.fault f) := fun _ e => nomatch e

/-- An instruction's answer keeps what its work does: after a trap the entry to it follows, and a wait changes nothing but what a deadlock
of the VE raises. -/
theorem nextIs_settle {r : Res State} (h : Keeps s u) (hr : r.All (Keeps s) (Keeps s)) : NextIs (Keeps s) (u.settle r) := by
  cases r with
  | ok t => exact nextIs_next hr
  | trap t q => exact nextIs_next (Keeps.fault hr)
  | wait => exact nextIs_next h
  | held => exact nextIs_next (h.setTask (Task.strain_loft _))
  | stop f => exact nextIs_fault

end
end Sys2Proof.Machine
end

section
/-! SUPPORT. Accesses, frames and traps keep what every step keeps (O60). -/

namespace Sys2Proof.Machine

section
variable {s u : State} {acc : Acc} {a : Word} {n : Nat} {p : Place}

/-! ### The checks of an access (R117) -/

theorem Keeps.refill (h : Keeps s u) {cid : Fin 64} {off : Nat} : (u.refill cid off a).All (Keeps s) := fun t ht =>
  h.step (fun hu => State.wf_refill hu ht) (by rw [State.refill_eq ht])

theorem Keeps.placeFind (h : Keeps s u) {w : Who} : (u.placeFind w acc a).All fun r => Keeps s r.1 := fun r hr =>
  h.step (fun hu => State.wf_placeFind (p := r.2) hu hr) (by rw [State.placeFind_eq (p := r.2) hr])

theorem Keeps.placeCheck (h : Keeps s u) {w : Who} : (u.placeCheck w acc a).All fun r => Keeps s r.1 :=
  h.placeFind.bind fun _ hr => Chk.all_true.bind fun _ _ => Chk.all_ok hr

theorem Keeps.accessCheck (h : Keeps s u) {w : Who} : (u.accessCheck w acc a).All fun r => Keeps s r.1 :=
  h.placeCheck.bind fun _ hr => Chk.all_true.bind fun _ _ => Chk.all_ok hr

theorem Keeps.claimCheck (h : Keeps s u) {w : Who} : (u.claimCheck w a p).All (Keeps s) := fun _ ht =>
  h.step (fun hu => State.wf_claimCheck hu ht) (State.claimCheck_dev ht)

theorem Keeps.claimFor (h : Keeps s u) : (u.claimFor a p).All (Keeps s) (Keeps s) := Res.all_ofChk h h.claimCheck

theorem Keeps.windowClear (h : Keeps s u) : (u.windowClear a).All (Keeps s) fun _ => True := by
  unfold State.windowClear
  split
  · trivial
  · trivial
  · exact h

theorem Keeps.placeClear (h : Keeps s u) {write : Bool} : (u.placeClear p n write a).All (Keeps s) fun _ => True := by
  unfold State.placeClear
  dsimp only
  split
  · exact Res.all_until
  · trivial
  · exact h

theorem Keeps.clear (h : Keeps s u) {write : Bool} : (u.clear p n write a).All (Keeps s) fun _ => True :=
  h.windowClear.bind fun _ _ => h.placeClear

theorem Keeps.targetCheck (h : Keeps s u) {w : Who} : (u.targetCheck w acc a p).All (Keeps s) fun _ => True :=
  Res.all_ofChk (Keeps.ite h.scramble h) Chk.all_true

theorem Keeps.moveCheck (h : Keeps s u) : (u.moveCheck acc a n p).All (Keeps s) fun _ => True :=
  h.targetCheck.bind fun _ _ => Res.all_ofChk h Chk.all_true

theorem Keeps.spanCheck (h : Keeps s u) {spans : List (Nat × Nat)} : (u.spanCheck a p spans).All (Keeps s) fun _ => True :=
  h.targetCheck.bind fun _ _ => Res.All.each (fun _ _ _ => Res.all_ofChk h Chk.all_true) spans trivial

theorem Keeps.openAt (h : Keeps s u) : (u.openAt acc a n).All (Keeps s) fun r => Keeps s r.1 :=
  (Res.all_ofChk h h.placeFind).bind fun _ hr => hr.clear.bind fun _ _ => hr.moveCheck.bind fun _ _ => hr

theorem Keeps.readGran (h : Keeps s u) : (u.readGran a n).All (Keeps s) fun r => Keeps s r.1 := h.openAt.bind fun _ hr => hr

theorem Keeps.writeGran (h : Keeps s u) {bs : List Byte} : (u.writeGran a bs).All (Keeps s) (Keeps s) :=
  h.openAt.bind fun _ hr => hr.claimFor.bind fun _ ht => ht.writePlace

theorem Keeps.aligned (h : Keeps s u) {w : Nat} {c : Cause} : (u.aligned a w c).All (Keeps s) fun _ => True :=
  (Res.all_ofChk h Chk.all_true).bind fun _ _ => Res.all_need h

theorem Keeps.read (h : Keeps s u) {w : Nat} : (u.read a w).All (Keeps s) fun r => Keeps s r.1 := h.aligned.bind fun _ _ => h.readGran

theorem Keeps.write (h : Keeps s u) {bs : List Byte} : (u.write a bs).All (Keeps s) (Keeps s) := h.aligned.bind fun _ _ => h.writeGran

theorem Keeps.readBlock : ∀ {n : Nat} {u : State} {a : Word}, Keeps s u → (u.readBlock a n).All (Keeps s) fun r => Keeps s r.1
  | 0, _, _, h => h
  | _ + 1, _, _, h => h.readGran.bind fun _ hr => (Keeps.readBlock hr).bind fun _ hm => hm

/-! ### Accesses made piece by piece -/

theorem Keeps.findAll (h : Keeps s u) {as : List Nat} : (u.findAll acc as).All (Keeps s) fun r => Keeps s r.1 := by
  refine Res.All.each (R := fun r : State × List (Nat × Place) => Keeps s r.1) (fun r x hr => ?_) as h
  exact (Res.all_ofChk hr hr.placeFind).bind fun _ hp => hp

theorem Keeps.clearAll (h : Keeps s u) {write : Bool} {ps : List (Nat × Place)} : (u.clearAll n write ps).All (Keeps s) fun _ => True :=
  Res.All.each (fun _ _ _ => h.clear) ps trivial

theorem Keeps.claimAll (h : Keeps s u) {ps : List (Nat × Place)} : (u.claimAll ps).All (Keeps s) (Keeps s) :=
  Res.All.each (fun _ _ hv => hv.claimFor) ps h

theorem Keeps.readPiece (h : Keeps s u) {q : Partial} {spans : Nat → List (Nat × Nat)} {done : State → List (Nat × List Byte) → State}
    (hd : ∀ got, Keeps s (done (u.setPiece none) got)) : (u.readPiece q n spans done).All (Keeps s) (Keeps s) := by
  unfold State.readPiece
  split
  · exact hd _
  · exact h.setPiece.spanCheck.bind fun _ _ => Keeps.ite (hd _) h.setPiece

theorem Keeps.writePiece (h : Keeps s u) {q : Partial} {piece : Nat → List Byte} {done : State → State}
    (hd : ∀ {v}, Keeps s v → Keeps s (done v)) : (u.writePiece q piece done).All (Keeps s) (Keeps s) := by
  unfold State.writePiece
  split
  · exact hd h.setPiece
  · exact Res.all_until.bind fun _ _ => Keeps.ite (hd h.writePlace.setPiece) h.writePlace.setPiece

/-! ### Tasks whose loft stays -/

section
variable (t : Task)

@[simp] theorem Task.skip_loft : t.skip.loft = t.loft := by
  unfold Task.skip
  dsimp only
  split
  · split <;> rfl
  · rfl

@[simp] theorem Task.goStream_loft (q : Fin 8) : (t.goStream q).loft = t.loft := by unfold Task.goStream; split <;> rfl

@[simp] theorem Task.takeBack_loft : t.takeBack.loft = t.loft := by
  unfold Task.takeBack
  split
  · rfl
  · dsimp only
    split
    all_goals
      dsimp only
      split
      · simp
      · rfl

@[simp] theorem Task.unhalt_loft : t.unhalt.loft = t.loft := rfl

@[simp] theorem Task.unhold_loft (b : Bool) : (t.unhold b).loft = t.loft := by unfold Task.unhold; split <;> simp

@[simp] theorem Task.stampTold_loft (q : TrapReq) : (t.stampTold q).loft = t.loft := by unfold Task.stampTold; split <;> rfl

@[simp] theorem Task.wakeParent_loft : t.wakeParent.loft = t.loft := by
  unfold Task.wakeParent
  split
  · split
    · dsimp only; split <;> rfl
    · rfl
  · rfl

end

theorem Task.veCause_loft {t t' : Task} {q : TrapReq} (h : t.veCause = some (q, t')) : t'.loft = t.loft := by
  unfold Task.veCause at h
  dsimp only at h
  split at h
  · cases h; rfl
  · obtain ⟨r, _, hr⟩ := Option.map_eq_some_iff.1 h
    cases hr; rfl

theorem State.pendingTrap_loft {t : Task} {q : TrapReq} (h : u.pendingTrap = some (q, t)) : t.loft = u.task.loft := by
  unfold State.pendingTrap at h
  dsimp only at h
  split at h
  · cases h; rfl
  split at h
  · cases h; rfl
  split at h
  · cases h; rfl
  split at h
  · cases h; exact Task.veCause_loft ‹_›
  split at h
  · cases h; rfl
  split at h
  · obtain ⟨r, _, hr⟩ := Option.map_eq_some_iff.1 h
    cases hr; rfl
  split at h
  · obtain ⟨r, _, hr⟩ := Option.map_eq_some_iff.1 h
    cases hr; rfl
  split at h <;> cases h; rfl

theorem Keeps.asyncTrap (h : Keeps s u) {t : State} (ht : u.asyncTrap = some t) : Keeps s t := by
  unfold State.asyncTrap at ht
  split at ht
  · obtain ⟨⟨q, k⟩, hq, rfl⟩ := Option.map_eq_some_iff.1 ht
    exact (h.withTask (by simp [State.pendingTrap_loft hq])).takeTrap
  · cases ht

/-! ### Context frames (R395 to R399) -/

/-- The pages of a task's loft go to its backing slot (R226). -/
theorem Keeps.writeFrame (h : Keeps s u) {t : Task} {pc : Word} {slot : Nat} (ht : s.wf = true → t.loft.wf = true) :
    Keeps s (u.writeFrame t pc slot) := by
  unfold State.writeFrame
  refine Keeps.foldl (fun {v} hv k => ?_) _ (Keeps.foldl (fun hv _ => hv.writeRoot) _ h.writeRoot)
  split
  · refine ⟨fun hs => ?_, hv.keepOld.2⟩
    have hk := hv.keepOld (pa := slot + k * 0x10000) (n := 0x10000) |>.1 hs
    obtain ⟨hmem, hrest⟩ := State.wf_iff.1 hk
    refine State.wf_iff.2 ⟨?_, hrest⟩
    have := Mem.wf_copy hmem (ht hs) (k * 0x10000) 0x10000 slot
    rwa [Nat.add_comm (k * 0x10000) slot] at this
  · exact hv

theorem Keeps.takePair (h : Keeps s u) {cid : Fin 64} {k : Nat} : Keeps s (u.takePair cid k) := h.same rfl

/-- A saved task keeps no loft of its own: its pages are in the backing slot. -/
theorem Keeps.saveFrame (h : Keeps s u) {t t1 : Task} {pc : Word} {u1 : State} (ht : s.wf = true → t.loft.wf = true)
    (hs : u.saveFrame t pc = some (u1, t1)) : Keeps s u1 ∧ t1.loft = [] := by
  obtain ⟨p, _, hp⟩ := Option.map_eq_some_iff.1 hs
  cases hp
  exact ⟨h.takePair.writeFrame ht, rfl⟩

/-- The loft a saved entry carries is in canonical form. -/
def Saved.loftWf : Saved → Prop
  | .task t => t.loft.wf = true
  | .again _ _ => True

theorem Launch.keptWf_iff {L : Launch} : L.keptWf ↔
    (∀ e ∈ L.saved, e.loftWf) ∧ (∀ e ∈ L.queue, e.loftWf) ∧ ∀ p ∈ L.parked, p.task.loft.wf = true := by
  have hall : ∀ l : List Saved, (∀ t, Saved.task t ∈ l → t.loft.wf = true) ↔ ∀ e ∈ l, e.loftWf := by
    intro l
    constructor
    · intro h e he
      cases e with
      | task t => exact h t he
      | again e n => trivial
    · exact fun h t ht => h _ ht
  unfold Launch.keptWf
  rw [hall, List.forall_mem_append, and_assoc]

/-- One more saved task in a launch. -/
theorem Launch.keptWf_keep {L : Launch} (hL : L.keptWf) {b : Bool} {t : Task} (ht : t.loft.wf = true) : (L.keep b t).keptWf := by
  have he : Saved.loftWf (.task t) := ht
  rw [Launch.keptWf_iff] at hL ⊢
  cases b <;> simpa [Launch.keep, he, or_imp, forall_and] using hL

theorem Keeps.askPreempt (h : Keeps s u) {p : Fin 16} {tid : Nat} : Keeps s (u.askPreempt p tid) := h.setPart_cellar rfl
theorem Keeps.answered (h : Keeps s u) {p : Fin 16} {tid : Nat} : Keeps s (u.answered p tid) := h.setPart_cellar rfl

theorem State.wf_myLaunch (h : u.wf = true) {L : Launch} (hL : u.myLaunch = some L) : L.keptWf := State.wf_launch? h hL

/-- The croft is left to the next task. -/
theorem Keeps.idle (h : Keeps s u) : Keeps s { u with running := false, task := Task.idle } :=
  (h.same (t := { u with running := false }) rfl).withLoft fun _ => Mem.wf_nil

theorem Keeps.preemptAt (h : Keeps s u) {b : Bool} {pc : Word} {t : State} (ht : u.preemptAt b pc = some t) : Keeps s t := by
  unfold State.preemptAt at ht
  dsimp only at ht
  split at ht
  · rename_i L u1 t1 hL hf
    obtain ⟨h1, hloft⟩ := h.saveFrame (t := { u.task with veQ := withoutVext u.task.veQ }) (fun hs => State.wf_loft (h.1 hs)) hf
    cases ht
    refine (h1.idle.setLaunch fun hs => ?_).answered
    exact Launch.keptWf_keep (State.wf_myLaunch (h.1 hs) hL) (hloft ▸ Mem.wf_nil)
  · cases ht

theorem Keeps.trapReturn (h : Keeps s u) : u.trapReturn.All (Keeps s) (Keeps s) := by
  refine Res.all_untilVe.bind fun _ _ => ?_
  have hskip : (if bit u.task.csr.vepc 0 && bit u.task.csr.cause 7 then u.task.skip else u.task).loft = u.task.loft := by split <;> simp
  dsimp only
  generalize (if bit u.task.csr.vepc 0 && bit u.task.csr.cause 7 then u.task.skip else u.task) = t1 at hskip ⊢
  have h2 : Keeps s { u with task := { t1.unhold (!bit (statusReturn t1.csr.status) 0) with
      csr := { t1.csr with status := statusReturn t1.csr.status }, pc := setBits u.task.csr.epc 0 0 0 } } := h.withTask (by simp [hskip])
  split
  · split
    · exact h2.askPreempt
    · refine Res.all_until.bind fun _ _ => ?_
      split
      · exact h2.preemptAt ‹_›
      · exact Keeps.jump (h.withTask (by simp [hskip]))
  · exact h2

/-! ### A kept task comes back -/

/-- The pages that stand in the backing slot come back to a whole loft (R226). -/
theorem State.wf_wholeLoft (h : u.wf = true) {t : Task} (ht : t.loft.wf = true) : (u.wholeLoft t).loft.wf = true := by
  unfold State.wholeLoft
  split
  · exact ht
  · rename_i k slot hpair
    clear hpair
    dsimp only
    generalize t.id.unfilled = l
    induction l generalizing t with
    | nil => exact ht
    | cons p l ih =>
      refine ih ?_
      exact Mem.wf_move ht (State.wf_mem h) _ _ _

theorem State.resumed_loft (u : State) (t : Task) : (u.resumed t).loft = t.loft := by
  unfold State.resumed
  split
  · rw [Task.wakeParent_loft]; rfl
  · rfl

end
end Sys2Proof.Machine
end

section
/-! SUPPORT. The scalar, task and world instructions and the Gleaner keep what every step keeps (O60). -/

namespace Sys2Proof.Machine

section
variable {s u : State}

theorem State.result_keeps {d : XReg} {v : Word} : NextIs (Keeps s) (s.result d v) := nextIs_next (Keeps.refl s).setX.advance

/-! ### Control transfers and loops -/

theorem State.branch_keeps {i : BitVec 16} {b : Bool} : NextIs (Keeps s) (s.branch i b) := by
  unfold State.branch
  split
  · exact nextIs_next (Keeps.refl s).setCsr.jump
  · exact nextIs_next (Keeps.refl s).advance

theorem State.loopSet_keeps {lv : Fin 2} {n : Word} {o : BitVec 16} {i : Instr} : NextIs (Keeps s) (s.loopSet lv n o i) := by
  unfold State.loopSet
  dsimp only
  have h := Keeps.refl s
  split
  · exact nextIs_next (h.setCsr.setTask rfl)
  · exact nextIs_settle h ((Res.all_need h).bind fun _ _ => h.setCsr.advance)

/-! ### Atomic operations (R239 to R245) -/

theorem Keeps.amoCheck (h : Keeps s u) {a : Word} {w : Nat} {c : Scope} {b : Bool} : (u.amoCheck a w c b).All (Keeps s) fun _ => True := by
  refine h.aligned.bind fun _ _ => ?_
  split
  · exact Res.all_need h
  · exact (Res.all_ofChk h Chk.all_true).bind fun _ _ => (Res.all_need h).bind fun _ _ => Res.all_need h

theorem Keeps.amoRelease (h : Keeps s u) {a : Word} {c : Scope} {b : Bool} : (u.amoRelease a c b).All (Keeps s) fun _ => True := by
  unfold State.amoRelease
  split
  · trivial
  · split
    · split
      · exact h
      · trivial
    · trivial

theorem Keeps.amoAt (h : Keeps s u) {a : Word} {w : Nat} {p : Place} {f : Nat → Option Nat} :
    (u.amoAt a w p f).All (Keeps s) fun r => Keeps s r.1 := by
  unfold State.amoAt
  dsimp only
  split
  · exact h
  · exact h.claimFor.bind fun _ ht => ht.writePlace

theorem State.amo_keeps {d a b : XReg} {c : Scope} {r n ho : Bool} {f : AmoFn} : NextIs (Keeps s) (s.amo d a b c r n ho f) := by
  have h := Keeps.refl s
  exact nextIs_settle h (h.amoCheck.bind fun _ _ => h.amoRelease.bind fun _ _ => h.openAt.bind fun _ hr =>
    hr.amoAt.bind fun _ ht => ht.setX.advance)

theorem execAmofadd_keeps {d a b : XReg} {c : Scope} {q l w : Bool} : NextIs (Keeps s) (execAmofadd d a b c q l w s) := by
  have h := Keeps.refl s
  exact nextIs_settle h ((Res.all_need h).bind fun _ _ => h.amoCheck.bind fun _ _ => h.amoRelease.bind fun _ _ =>
    h.openAt.bind fun _ hr => hr.amoAt.bind fun _ ht => ht.setCsr.setX.advance)

/-! ### Launches and their entries (R299 to R310) -/

theorem Launch.keptWf_append {L : Launch} (hL : L.keptWf) {rec : List Word} {src : Word} : (L.append rec src).keptWf := by
  rw [Launch.keptWf_iff] at hL ⊢
  simpa [Launch.append, Saved.loftWf, or_imp, forall_and] using hL

/-- An entry taken from a launch, and the launch without it. -/
theorem Launch.keptWf_nextEntry {L L' : Launch} {e : Saved} (hL : L.keptWf) (hn : L.nextEntry = some (e, L')) : e.loftWf ∧ L'.keptWf := by
  rw [Launch.keptWf_iff] at hL ⊢
  obtain ⟨hsaved, hqueue, hparked⟩ := hL
  unfold Launch.nextEntry at hn
  split at hn
  · rename_i e' rest hs
    cases hn
    rw [hs, List.forall_mem_cons] at hsaved
    exact ⟨hsaved.1, hsaved.2, hqueue, hparked⟩
  · rename_i hs
    split at hn
    · split at hn
      · rename_i e' rest hq
        cases hn
        rw [hq, List.forall_mem_cons] at hqueue
        exact ⟨hqueue.1, hsaved, hqueue.2, hparked⟩
      · cases hn
    · obtain ⟨e', he, hr⟩ := Option.map_eq_some_iff.1 hn
      cases hr
      exact ⟨hqueue _ (List.mem_of_getLast? he), hsaved, fun x hx => hqueue x (List.mem_of_mem_dropLast hx), hparked⟩

theorem Keeps.donate : ∀ (f : Nat) {u : State}, Keeps s u → ∀ {p : Fin 16} {ids : List (BitVec 12)} {prio : Nat},
    Keeps s (u.donate f p ids prio)
  | 0, _, h, _, _, _ => h
  | f + 1, u, h, p, ids, prio => by
    unfold State.donate
    refine Keeps.foldl (fun {v} hv id => ?_) ids h
    split
    · rename_i L hL
      split
      · have hk (hw : v.wf = true) : L.keptWf := State.wf_launch? hw hL
        refine Keeps.donate f (hv.setLaunch fun hs => ?_)
        exact hk (hv.1 hs)
      · exact hv
    · exact hv

theorem Keeps.areaWalk (h : Keeps s u) {c : Fin 64} {p : List Word} : Keeps s (u.areaWalk c p) := Keeps.ite h.gleanLog h.gleanLog

/-- A further launch. -/
theorem Keeps.addLaunch (h : Keeps s u) {L : Launch} {b : Bool} (hL : L.keptWf) :
    Keeps s { u with launches := u.launches ++ [L], dev := { u.dev with launched := b } } := by
  refine ⟨fun hs => State.wf_withLaunches (h.1 hs) rfl rfl rfl rfl rfl rfl fun M hM => ?_, h.2⟩
  rcases List.mem_append.1 hM with hM | hM
  · exact State.wf_keptWf (h.1 hs) M hM
  · rw [List.mem_singleton.1 hM]; exact hL

/-- A launch that has no entries yet. -/
theorem Launch.keptWf_of_nil {L : Launch} (hs : L.saved = []) (hq : L.queue = []) (hp : L.parked = []) : L.keptWf := by
  rw [Launch.keptWf_iff, hs, hq, hp]; simp

theorem Keeps.takeOn (h : Keeps s u) {c : Fin 64} {p : List Word} : Keeps s (u.takeOn c p) := by
  unfold State.takeOn
  extract_lets d0 d3 d6 id part pred root L s1
  exact Keeps.donate _ (h.addLaunch (Launch.keptWf_append (Launch.keptWf_of_nil rfl rfl rfl)))

theorem Keeps.countDrop (h : Keeps s u) {c : Fin 64} : Keeps s (u.countDrop c) := h.same rfl

theorem Keeps.submit (h : Keeps s u) {c : Fin 64} {p : List Word} : Keeps s (u.submit c p) := by
  unfold State.submit
  have hv : Keeps s (if (dw p 7).toNat % 32 = 0 then u.gleanLog c (dw p 7).toNat 32 else u) := Keeps.ite h.gleanLog h
  extract_lets id v
  change Keeps s v at hv
  split
  · exact hv.countDrop
  · split
    · exact (hv.writeCompletion (c := c) (d := dw p 7) (id := id) (st := 2) (code := (Config.freeBits v.fresh).toNat) (n := 0) (f := 0)).same rfl
    · split
      · exact (Keeps.ite hv.areaWalk hv).writeCompletion
      · exact hv.takeOn

theorem Keeps.newWorld (h : Keeps s u) {p d r : Nat} {c : Fin 64} {l : BitVec 12} : Keeps s (u.newWorld p d r c l).1 := by
  refine ⟨fun hs => ?_, h.2⟩
  obtain ⟨hmem, hhost, hpeer, hloft, hkept, hworlds, hparts⟩ := State.wf_iff.1 (h.1 hs)
  refine State.wf_iff.2 ⟨hmem, hhost, hpeer, hloft, hkept, fun w hw => ?_, hparts⟩
  rcases List.mem_append.1 hw with hw | hw
  · exact hworlds w hw
  · rw [List.mem_singleton.1 hw]; rfl

/-- A further task starts: its loft is empty. -/
theorem Keeps.started (h : Keeps s u) {t : State} (hl : t.task.loft = [])
    (e : t.kept = (t.task.loft |> fun l => { u with task := { u.task with loft := l } }).kept) : Keeps s t :=
  (h.withLoft (t := { u.task with loft := t.task.loft }) fun _ => hl ▸ Mem.wf_nil).same e

theorem Keeps.startTask (h : Keeps s u) {L : Launch} {e : Entry} {n : Nat} : Keeps s (u.startTask L e n) := by
  have hv {b : Bool} : Keeps s (if b then u.gleanLog L.cid (dw e.record 1).toNat 256 else u) := Keeps.ite h.gleanLog h
  have hw {v : State} (hv : Keeps s v) {b : Bool} :
      Keeps s (if b then ((v.newWorld 0 1 0 L.cid L.id).1, some (v.newWorld 0 1 0 L.cid L.id).2) else (v, none)).1 := by
    cases b
    · exact hv
    · exact hv.newWorld
  exact (hw hv).started rfl rfl

/-- The Gleaner starts or resumes an entry whose loft is in canonical form. -/
theorem Keeps.runSaved (h : Keeps s u) {L : Launch} {e : Saved} (he : s.wf = true → e.loftWf) : Keeps s (u.runSaved L e) := by
  cases e with
  | task t => exact (h.withLoft (t := u.resumed t) fun hs => by rw [State.resumed_loft]; exact he hs).same rfl
  | again e n => exact h.startTask

theorem Keeps.runEntry (h : Keeps s u) {L : Launch} {e : Saved} (he : s.wf = true → e.loftWf) : Keeps s (u.runEntry L e) := by
  cases e with
  | again e n => exact h.runSaved he
  | task t =>
    unfold State.runEntry
    dsimp only
    split
    · exact h.logLine.releasePair.failLaunch
    · exact h.runSaved he

theorem mem_of_leastId : ∀ {E : List Launch} {L : Launch}, leastId E = some L → L ∈ E
  | K :: E, L, h => by
    unfold leastId at h
    split at h
    · cases h; exact List.mem_cons_self
    · rename_i M hM
      split at h
      · cases h; exact List.mem_cons_of_mem K (mem_of_leastId hM)
      · cases h; exact List.mem_cons_self

/-- The launch that a pop chooses is one of those it chooses from. -/
theorem mem_of_choosePop {p : Partition} {E : List Launch} {l : Nat} {L : Launch} (h : choosePop p E = some (l, L)) : L ∈ E := by
  unfold choosePop at h
  dsimp only at h
  split at h
  · cases h
  · obtain ⟨K, hM, hk⟩ := Option.map_eq_some_iff.1 h
    cases hk
    split at hM
    · rename_i hl
      cases hM
      exact List.mem_of_mem_filter (List.mem_of_mem_filter (mem_of_leastId hl))
    · exact List.mem_of_mem_filter (mem_of_leastId hM)

theorem Keeps.popOnce (h : Keeps s u) : Keeps s u.popOnce := by
  unfold State.popOnce
  split
  · exact h
  split
  · exact h
  dsimp only
  split
  · exact h.failLaunch
  split
  · exact h
  rename_i l L hpop
  split
  · exact h
  rename_i e L' hn
  have hL : L ∈ u.launches := List.mem_of_mem_filter (List.mem_of_mem_filter (mem_of_choosePop hpop))
  have hk : s.wf = true → e.loftWf ∧ L'.keptWf := fun hs => Launch.keptWf_nextEntry (State.wf_keptWf (h.1 hs) L hL) hn
  refine Keeps.runEntry (Keeps.setLaunch (Keeps.setPart_cellar h ?_) fun hs => (hk hs).2) fun hs => (hk hs).1
  rfl

theorem Keeps.completeLaunch (h : Keeps s u) {p : Fin 16} {id : BitVec 12} : Keeps s (u.completeLaunch p id) := by
  unfold State.completeLaunch
  split
  · exact Keeps.ite h.endLaunch h
  · exact h

/-! ### Worlds (R343 to R357) -/

theorem Keeps.commitRoot (h : Keeps s u) {w : World} {g : Nat} (hw : s.wf = true → w.bytes.wf = true) : Keeps s (u.commitRoot w g) := by
  refine ⟨fun hs => ?_, h.keepOld.2⟩
  obtain ⟨hmem, hrest⟩ := State.wf_iff.1 ((h.keepOld (pa := g * 4096) (n := 4096)).1 hs)
  exact State.wf_iff.2 ⟨Mem.wf_replace hmem (Mem.wfFrom_slice (hw hs) _ _) (Mem.slice_lt _ _ _) (by omega), hrest⟩

theorem wf_commitRivals {w : World} (hw : w.bytes.wf = true) : ∀ (gs : List Nat) {p : World}, p.bytes.wf = true →
    (gs.foldl (fun p g => commitRival p w g) p).bytes.wf = true
  | [], _, hp => hp
  | g :: gs, _, hp => by
    refine wf_commitRivals hw gs ?_
    exact Mem.wf_replace hp (Mem.wfFrom_slice hw _ _) (Mem.slice_lt _ _ _) (by omega)

theorem Keeps.commit (h : Keeps s u) {n : Nat} : Keeps s (u.commit n) := by
  unfold State.commit
  split
  · exact h
  · rename_i w hw
    have hb : s.wf = true → w.bytes.wf = true := fun hs => State.wf_world (h.1 hs) hw
    split
    · exact Keeps.foldl (fun hv _ => hv.commitRoot hb) _ h
    · exact h.setWorld fun hs => wf_commitRivals (hb hs) _ (State.wf_world (h.1 hs) ‹_›)

theorem Keeps.commitClear (h : Keeps s u) {n : Nat} : (u.commitClear n).All (Keeps s) fun _ => True := by
  have hf : Keeps s { u with fresh := u.fresh + 1 } := h.same rfl
  unfold State.commitClear
  dsimp only
  split
  · exact hf
  · split
    · trivial
    · trivial
    · exact hf

/-- The rivals of a fork have the loft of their parent. -/
theorem Keeps.makeRivals (h : Keeps s u) {t : Task} {rd : XReg} {n : Nat} :
    Keeps s (u.makeRivals t rd n).1 ∧ ∀ r ∈ (u.makeRivals t rd n).2.1, r.loft = t.loft := by
  unfold State.makeRivals
  generalize List.range n = l
  have hall : ∀ (l : List Nat) (v : State) (ts : List Task) (rs : List Rival), Keeps s v → (∀ r ∈ ts, r.loft = t.loft) →
      Keeps s (l.foldl (fun (x : State × List Task × List Rival) k =>
        let r := x.1.makeRival t rd k
        (r.1, x.2.1 ++ [r.2.1], x.2.2 ++ [r.2.2])) (v, ts, rs)).1
      ∧ ∀ r ∈ (l.foldl (fun (x : State × List Task × List Rival) k =>
        let r := x.1.makeRival t rd k
        (r.1, x.2.1 ++ [r.2.1], x.2.2 ++ [r.2.2])) (v, ts, rs)).2.1, r.loft = t.loft := by
    intro l
    induction l with
    | nil => exact fun v ts rs hv ht => ⟨hv, ht⟩
    | cons k l ih =>
      intro v ts rs hv ht
      refine ih _ _ _ (hv.newWorld.same rfl) fun r hr => ?_
      rcases List.mem_append.1 hr with hr | hr
      · exact ht r hr
      · rw [List.mem_singleton.1 hr]; exact Task.setX_loft _ _ _
  exact hall l u [] [] h (by simp)

theorem Keeps.fork (h : Keeps s u) {whole parent : Task} {rd : XReg} {n : Nat} {L : Launch} (hw : s.wf = true → whole.loft.wf = true)
    (hp : s.wf = true → parent.loft.wf = true) (hL : s.wf = true → L.keptWf) : Keeps s (u.fork whole parent rd n L) := by
  obtain ⟨h1, hts⟩ := h.makeRivals (t := whole) (rd := rd) (n := n)
  refine h1.idle.setLaunch fun hs => ?_
  obtain ⟨hsaved, hqueue, hparked⟩ := Launch.keptWf_iff.1 (hL hs)
  refine Launch.keptWf_iff.2 ⟨hsaved, ?_, ?_⟩
  · intro e he
    rcases List.mem_append.1 he with he | he
    · exact hqueue e he
    · obtain ⟨r, hr, rfl⟩ := List.mem_map.1 he
      show r.loft.wf = true
      rw [hts r hr]; exact hw hs
  · intro p hq
    rcases List.mem_append.1 hq with hq | hq
    · exact hparked p hq
    · rw [List.mem_singleton.1 hq]; exact hp hs

theorem execForkw_keeps {d a : XReg} : NextIs (Keeps s) (execForkw d a s) := by
  have h := Keeps.refl s
  refine nextIs_settle h ((Res.all_need h).bind fun _ _ => (Res.all_need h).bind fun _ _ => (Res.all_need h).bind fun _ _ =>
    (Res.all_need h).bind fun _ _ => Res.all_untilVe.bind fun _ _ => Res.all_until.bind fun _ _ => Res.all_until.bind fun _ _ => ?_)
  dsimp only
  split
  · rename_i L u1 parent hL hf
    refine (Res.all_need h).bind fun _ _ => ?_
    have hf' : s.saveFrame s.task.advance s.task.advance.pc = some (u1, parent) := by
      split at hf
      · cases hf
      · exact hf
    obtain ⟨h1, hloft⟩ := h.saveFrame (t := s.task.advance) (fun hs => State.wf_loft hs) hf'
    have hp : s.wf = true → parent.loft.wf = true := fun _ => hloft ▸ Mem.wf_nil
    have hw : s.wf = true → (s.wholeLoft s.task.advance).loft.wf = true :=
      fun hs => State.wf_wholeLoft hs (t := s.task.advance) (State.wf_loft hs)
    have hk : s.wf = true → L.keptWf := fun hs => State.wf_myLaunch hs hL
    have h2 := h1.fork (rd := d) (n := (s.x a).toNat) hw hp hk
    exact h2.answered
  · exact h.same rfl

theorem execYieldw_keeps {a : XReg} : NextIs (Keeps s) (execYieldw a s) := by
  have h := Keeps.refl s
  refine nextIs_settle h ((Res.all_need h).bind fun _ _ => Res.all_untilVe.bind fun _ _ => ?_)
  have h1 : Keeps s (s.setTask Task.detachAll) := h.setTask rfl
  exact Res.all_ite (fun _ => h1.stopTask.rivalEnded) fun _ => h1

theorem execAbortw_keeps : NextIs (Keeps s) (execAbortw s) := by
  have h := Keeps.refl s
  exact nextIs_settle h ((Res.all_need h).bind fun _ _ => h.abortRival)

theorem Keeps.choose (h : Keeps s u) {rs : List Rival} {pick : Option Nat} : Keeps s (u.choose rs pick) := by
  unfold State.choose
  dsimp only
  refine Keeps.setTask (Keeps.foldl (fun hv _ => hv.dropWorld) rs ?_) rfl
  split
  · exact h.commit
  · exact h

theorem execChoose_keeps {d a : XReg} : NextIs (Keeps s) (execChoose d a s) := by
  have h := Keeps.refl s
  refine nextIs_settle h ?_
  split
  · exact h
  · exact (Res.all_need h).bind fun _ _ => h.commitClear.bind fun _ _ => h.choose.setX.advance

/-! ### Tasks (R311 to R317) -/

theorem Keeps.recordPlace (h : Keeps s u) {r : Word} : (u.recordPlace r).All (Keeps s) fun x => Keeps s x.1 :=
  (Res.all_need h).bind fun _ _ => (Res.all_ofChk h Chk.all_true).bind fun _ _ => h.openAt

theorem Keeps.readRecord (h : Keeps s u) {r : Word} : (u.readRecord r).All (Keeps s) fun x => Keeps s x.1 :=
  h.recordPlace.bind fun _ hx => hx

theorem Keeps.enqueue (h : Keeps s u) {rec : List Word} {src : Word} : Keeps s (u.enqueue rec src) := by
  unfold State.enqueue
  split
  · exact h.setLaunch fun hs => Launch.keptWf_append (State.wf_myLaunch (h.1 hs) ‹_›)
  · exact h

theorem execSpawn_keeps {d a : XReg} : NextIs (Keeps s) (execSpawn d a s) := by
  have h := Keeps.refl s
  exact nextIs_settle h ((Res.all_need h).bind fun _ _ => h.readRecord.bind fun _ hx => (Res.all_need hx).bind fun _ _ =>
    hx.enqueue.setX.advance)

theorem execJinit_keeps {d a b : XReg} : NextIs (Keeps s) (execJinit d a b s) := by
  have h := Keeps.refl s
  exact nextIs_settle h (h.amoCheck.bind fun _ _ => h.writeGran.bind fun _ ht => ht.advance)

theorem Keeps.decrement (h : Keeps s u) {j : Word} : (u.decrement j).All (Keeps s) fun x => Keeps s x.1 := by
  refine h.amoCheck.bind fun _ _ => h.openAt.bind fun _ hx => (Res.all_need hx).bind fun _ _ => Res.all_ite (fun _ => ?_) fun _ => ?_
  · exact (Res.all_need hx).bind fun _ _ => hx.recordPlace.bind fun _ hy => (Res.all_need hy).bind fun _ _ =>
      hy.claimFor.bind fun _ hz => hz.writePlace.enqueue
  · exact hx.claimFor.bind fun _ hy => hy.writePlace

theorem execJoin_keeps {d a : XReg} : NextIs (Keeps s) (execJoin d a s) := by
  have h := Keeps.refl s
  exact nextIs_settle h (h.decrement.bind fun _ hx => hx.setX.advance)

theorem Keeps.guardCommit (h : Keeps s u) : Keeps s u.guardCommit := by
  unfold State.guardCommit
  split
  · exact h.commit.dropWorld.setTask rfl
  · exact h

theorem Keeps.guardClear (h : Keeps s u) : u.guardClear.All (Keeps s) fun _ => True := Res.all_ite (fun _ => h.commitClear) fun _ => trivial

theorem Keeps.drained (h : Keeps s u) : Keeps s u.drained := (h.setTask rfl).guardCommit

theorem Keeps.endTask (h : Keeps s u) : Keeps s u.endTask := by
  unfold State.endTask
  split
  · rename_i L hL
    have hk (hs : s.wf = true) : L.keptWf := State.wf_myLaunch (h.1 hs) hL
    refine (h.setLaunch fun hs => ?_).stopTask
    exact hk hs
  · exact h.stopTask

theorem Keeps.exitJoin (h : Keeps s u) : u.exitJoin.All (Keeps s) (Keeps s) :=
  Res.all_ite (fun _ => h.endTask) fun _ => h.decrement.bind fun _ hx => hx.endTask

theorem execExit_keeps : NextIs (Keeps s) (execExit s) := by
  have h := Keeps.refl s
  have h1 : Keeps s (s.setTask Task.detachAll) := h.setTask rfl
  refine nextIs_settle h ((Res.all_need h).bind fun _ _ => (Res.all_need h).bind fun _ _ => Res.all_ite (fun _ => h.exitJoin) fun _ =>
    Res.all_untilVe.bind fun _ _ => Res.all_ite (fun _ => ?_) fun _ => h1)
  exact h1.guardClear.bind fun _ _ => h1.drained.exitJoin

theorem execYield_keeps : NextIs (Keeps s) (execYield s) := by
  have h := Keeps.refl s
  unfold execYield
  dsimp only
  split
  · split
    · exact nextIs_next h
    · split
      · exact nextIs_next (h.advance.preemptAt ‹_›)
      · exact nextIs_next h.advance
  · exact nextIs_next h.advance

theorem execWaitt_keeps {a : XReg} : NextIs (Keeps s) (execWaitt a s) := by
  have h := Keeps.refl s
  exact nextIs_settle h (Res.all_until.bind fun _ _ => h.advance)

end
end Sys2Proof.Machine
end

section
/-! SUPPORT. The control registers, the engine issue instructions and the scalar accesses keep what every step keeps (O60). -/

namespace Sys2Proof.Machine

section
variable {s u : State}

/-! ### Control registers (R363 to R370) -/

theorem Keeps.spend (h : Keeps s u) {b : Bool} : Keeps s (u.spend b) := Keeps.ite (h.same rfl) h

theorem Keeps.setCtx (h : Keeps s u) {f : Context → Context} : Keeps s (u.setCtx f) := h.same rfl

theorem Keeps.writeLoop (h : Keeps s u) {k : Nat} {v w : Word} : (u.writeLoop k v w).All (Keeps s) (Keeps s) :=
  (Res.all_need h).bind fun _ _ => h.setCsr

theorem Keeps.writeXset (h : Keeps s u) {v : Word} : (u.writeXset v).All (Keeps s) (Keeps s) :=
  Res.all_ite (fun _ => h) fun _ => h.keepPassing.same rfl

theorem Keeps.writeDseed (h : Keeps s u) {v : Word} : (u.writeDseed v).All (Keeps s) (Keeps s) := h.same rfl

theorem Keeps.writeLsub (h : Keeps s u) {v : Word} : (u.writeLsub v).All (Keeps s) (Keeps s) :=
  h.aligned.bind fun _ _ => h.readGran.bind fun _ hr => Res.all_until.bind fun _ _ => hr.submit

theorem Keeps.writeLend (h : Keeps s u) {v : Word} : (u.writeLend v).All (Keeps s) (Keeps s) := by
  unfold State.writeLend
  dsimp only
  split
  · exact h
  · have h1 : Keeps s (u.setPart u.myPart { u.parts[u.myPart] with lendId := BitVec.ofNat 12 (bits v 11 0) }) := h.setPart_cellar rfl
    exact Keeps.ite h1.failLaunch h1

theorem Keeps.attestWrite (h : Keeps s u) {p : Fin 16} {c : Option (Fin 64)} {a : Word} {bs : List Byte} :
    Keeps s (u.attestWrite p c a bs) := by
  cases c with
  | some c => exact h.gleanWrite
  | none => exact Keeps.ite h.post h

theorem Keeps.attestAsk (h : Keeps s u) {p : Fin 16} {c : Option (Fin 64)} {b : List Word} : Keeps s (u.attestAsk p c b) := by
  unfold State.attestAsk
  dsimp only
  split
  · exact h.attestWrite
  · split
    · exact h.attestWrite
    · exact h.setPart_cellar rfl

theorem Keeps.writeAttreq (h : Keeps s u) {v : Word} : (u.writeAttreq v).All (Keeps s) (Keeps s) :=
  h.aligned.bind fun _ _ => h.readGran.bind fun _ hr => hr.attestAsk

theorem Keeps.csrWrite (h : Keeps s u) {n : Nat} {v w : Word} : (u.csrWrite n v w).All (Keeps s) (Keeps s) := by
  unfold State.csrWrite
  dsimp only
  split
  case h_9 | h_10 | h_11 | h_12 | h_13 | h_14 => exact h.writeLoop
  case h_20 => exact h.writeDseed
  case h_22 => exact h.writeXset
  case h_28 => exact h.writeLsub
  case h_29 => exact h.writeLend
  case h_31 => exact h.writeAttreq
  case h_27 | h_30 => exact h.setPart_cellar rfl
  case h_5 | h_23 | h_24 | h_25 | h_26 => exact h.setCtx
  case h_32 => exact h
  all_goals exact h.setCsr

theorem Keeps.csrFinish (h : Keeps s u) {d : XReg} {b : Bool} {v : Word} : Keeps s (u.csrFinish d b v) :=
  Keeps.ite (Keeps.ite h.setX h).advance h

theorem Keeps.csrCheck (h : Keeps s u) {q : CsrReq} : (u.csrCheck q).All (Keeps s) fun _ => True :=
  (Res.all_need h).bind fun _ _ => (Res.all_need h).bind fun _ _ => (Res.all_need h).bind fun _ _ => Res.all_need h

theorem State.csrStall_all {P : State → Prop} {q : CsrReq} : (u.csrStall q).All P fun _ => True :=
  Res.all_ite (fun _ => Res.all_untilVe) fun _ => Res.all_ite (fun _ => Res.all_untilVe) fun _ =>
    Res.all_ite (fun _ => Res.all_untilVe.bind fun _ _ => Res.all_until) fun _ => trivial

theorem State.csrAccess_keeps {d : XReg} {q : CsrReq} {f : Word → Word} : NextIs (Keeps s) (s.csrAccess d q f) := by
  have h := Keeps.refl s
  refine nextIs_settle h (h.csrCheck.bind fun _ _ => State.csrStall_all.bind fun _ _ => ?_)
  exact Res.all_ite (fun _ => h.spend.csrWrite.bind fun _ ht => ht.csrFinish) fun _ => h.spend.csrFinish

theorem State.writeStep_keeps {n : Nat} {v : Word} : NextIs (Keeps s) (s.writeStep n v) := by
  unfold State.writeStep
  split
  · exact State.csrAccess_keeps
  · exact nextIs_next (Keeps.refl s)

theorem execStatusWrite_keeps {v : Word} : NextIs (Keeps s) (execStatusWrite v s) := by
  unfold execStatusWrite
  dsimp only
  split
  · exact State.csrAccess_keeps
  · exact nextIs_next (Keeps.refl s)

/-! ### Commands for the engines (R201, R253, R281) -/

theorem Keeps.recordAt (h : Keeps s u) {d : Word} : (u.recordAt d).All (Keeps s) fun _ => True :=
  (Res.all_need h).bind fun _ _ => Res.all_need h

theorem Keeps.recordCheck (h : Keeps s u) {d : Word} {c : Option Cause} : (u.recordCheck d c).All (Keeps s) fun _ => True := by
  cases c
  · trivial
  · exact h

theorem execMxq_keeps {a : XReg} : NextIs (Keeps s) (execMxq a s) := by
  have h := Keeps.refl s
  exact nextIs_settle h (h.recordAt.bind fun _ _ => Res.all_until.bind fun _ _ => h.readBlock.bind fun _ hr =>
    hr.recordCheck.bind fun _ _ => (hr.setTask rfl).advance)

theorem execCpq_keeps {a b : XReg} : NextIs (Keeps s) (execCpq a b s) := by
  have h := Keeps.refl s
  exact nextIs_settle h (h.recordAt.bind fun _ _ => (Res.all_need h).bind fun _ _ => Res.all_until.bind fun _ _ =>
    h.readBlock.bind fun _ hr => hr.recordCheck.bind fun _ _ => (hr.setTask rfl).advance)

theorem Keeps.pushColl (h : Keeps s u) {r : List Word} {d : Word} : Keeps s (u.pushColl r d) := h.same rfl

theorem execClq_keeps {a : XReg} : NextIs (Keeps s) (execClq a s) := by
  have h := Keeps.refl s
  exact nextIs_settle h ((Res.all_need h).bind fun _ _ => h.recordAt.bind fun _ _ => Res.all_until.bind fun _ _ =>
    h.readBlock.bind fun _ hr => hr.recordCheck.bind fun _ _ => hr.pushColl.advance)

theorem execQbind_keeps {a b : XReg} : NextIs (Keeps s) (execQbind a b s) := by
  have h := Keeps.refl s
  exact nextIs_settle h ((Res.all_need h).bind fun _ _ => Res.all_untilVe.bind fun _ _ => (Res.all_need h).bind fun _ _ =>
    (h.setTask rfl).advance)

theorem execStrm_keeps {a b : XReg} : NextIs (Keeps s) (execStrm a b s) := by
  have h := Keeps.refl s
  exact nextIs_settle h ((Res.all_need h).bind fun _ _ => Res.all_untilVe.bind fun _ _ => (Res.all_need h).bind fun _ _ =>
    (Res.all_need h).bind fun _ _ => (Res.all_need h).bind fun _ _ => (Res.all_ofChk h Chk.all_true).bind fun _ _ =>
    h.readGran.bind fun _ hr => (Res.all_need hr).bind fun _ _ => (Res.all_need hr).bind fun _ _ => (hr.setTask rfl).advance)

theorem execUnstrm_keeps {a : XReg} : NextIs (Keeps s) (execUnstrm a s) := by
  have h := Keeps.refl s
  exact nextIs_settle h ((Res.all_need h).bind fun _ _ => Res.all_untilVe.bind fun _ _ => (h.setTask rfl).advance)

/-! ### SHAPE and SYNC (R136 to R138, R263 to R267) -/

theorem execSetshp_keeps {d a : XReg} : NextIs (Keeps s) (execSetshp d a s) := by
  have h := Keeps.refl s
  unfold execSetshp
  dsimp only
  split
  · exact nextIs_next h.setCsr.setX.advance
  · exact nextIs_settle h ((Res.all_need h).bind fun _ _ => (Res.all_need h).bind fun _ _ => h.setCsr.setX.advance)

theorem Keeps.setStook (h : Keeps s u) {k : Fin 16} {v : Stook} : Keeps s (u.setStook k v) := h.setTask rfl

theorem execSkwait_keeps {a : XReg} {k : Fin 16} : NextIs (Keeps s) (execSkwait a k s) := by
  have h := Keeps.refl s
  exact nextIs_settle h (Res.all_until.bind fun _ _ => h.advance)

theorem execSkrd_keeps {d : XReg} {k : Fin 16} : NextIs (Keeps s) (execSkrd d k s) := by
  have h := Keeps.refl s
  exact nextIs_settle h ((Res.all_need h).bind fun _ _ => h.setX.advance)

theorem execWpwait_keeps {a : XReg} {k : Fin 4} : NextIs (Keeps s) (execWpwait a k s) := by
  have h := Keeps.refl s
  exact nextIs_settle h (Res.all_until.bind fun _ _ => h.advance)

theorem execEngseq_keeps {d a : XReg} : NextIs (Keeps s) (execEngseq d a s) := by
  have h := Keeps.refl s
  exact nextIs_settle h ((Res.all_need h).bind fun _ _ => h.setX.advance)

/-! ### Scalar floating point (R131 to R133) -/

theorem Keeps.result (h : Keeps s u) {d : XReg} {v : Word} : NextIs (Keeps s) (u.result d v) := nextIs_next h.setX.advance

theorem State.fpsRound_keeps {d : XReg} {r : FRnd} {f : RM → Nat → Nat × Flags} : NextIs (Keeps s) (s.fpsRound d r f) :=
  (Keeps.ite ((Keeps.refl s).setTask (Task.takeStoch_loft _)) (Keeps.refl s)).setCsr.result

theorem State.fpsPlain_keeps {d : XReg} {v : Nat × Flags} : NextIs (Keeps s) (s.fpsPlain d v) := (Keeps.refl s).setCsr.result

theorem State.fcmp_keeps {q : Bool} {d a b : XReg} {f : FFmt} {c : Ordering → Bool} : NextIs (Keeps s) (s.fcmp q d a b f c) := by
  unfold State.fcmp
  dsimp only
  split <;> exact State.fpsPlain_keeps

theorem execFcvtff_keeps {d a : XReg} {f : FFmt} {r : FRnd} : NextIs (Keeps s) (execFcvtff d a f r s) := by
  unfold execFcvtff
  cases f
  · exact State.fpsRound_keeps
  · exact State.fpsPlain_keeps

/-! ### Loads, stores and register lists (R116 to R127) -/

theorem State.loadInto_keeps {d a : XReg} {i : BitVec 16} {w : Nat} {e : Nat → Word} : NextIs (Keeps s) (s.loadInto d a i w e) := by
  have h := Keeps.refl s
  refine nextIs_settle h (Res.All.bind h.read fun r hr => ?_)
  exact Keeps.advance hr.setX

theorem State.storeFrom_keeps {b a : XReg} {i : BitVec 16} {w : Nat} : NextIs (Keeps s) (s.storeFrom b a i w) := by
  have h := Keeps.refl s
  refine nextIs_settle h (Res.All.bind h.write fun t ht => ?_)
  exact Keeps.advance ht

theorem Res.All.foldl_bind {P : State → Prop} {x : Res Unit} {f : Nat → Res Unit} (hx : x.All P fun _ => True)
    (hf : ∀ j, (f j).All P fun _ => True) (l : List Nat) :
    (l.foldl (fun r j => r.bind fun _ => f j) x).All P fun _ => True := by
  induction l generalizing x with
  | nil => exact hx
  | cons j l ih => exact ih (hx.bind fun _ _ => hf j)

theorem Keeps.stkRange (h : Keeps s u) {b : Word} {n : Nat} : (u.stkRange b n).All (Keeps s) fun _ => True :=
  Res.All.foldl_bind (x := .ok ()) trivial (fun _ => Res.all_ofChk h Chk.all_true) _

theorem Keeps.moveCheckAll (h : Keeps s u) {n : Nat} {ps : List (Nat × Place)} : (u.moveCheckAll n ps).All (Keeps s) fun _ => True :=
  Res.All.each (fun _ _ _ => h.moveCheck) ps trivial

theorem Keeps.stkStart (h : Keeps s u) {i : Instr} {k : StkShape} {b : XReg} {push : Bool} :
    (u.stkStart i k b push).All (Keeps s) fun r => Keeps s r.1 := by
  refine Res.all_untilVe.bind fun _ _ => h.stkRange.bind fun _ _ => (Res.all_need h).bind fun _ _ => (Res.all_need h).bind fun _ _ =>
    h.findAll.bind fun r hr => hr.clearAll.bind fun _ _ => Res.All.bind (Q := Keeps s) ?_ fun _ ht => ht
  exact Res.all_ite (fun _ => hr.moveCheckAll.bind fun _ _ => hr.claimAll) fun _ => hr

theorem Keeps.stkLoad (h : Keeps s u) {k : StkShape} {ps : List (List Byte)} : Keeps s (u.stkLoad k ps) := by
  unfold State.stkLoad
  split
  · refine Keeps.foldl (fun hv j => ?_) _ h
    split
    · exact hv.setTask rfl
    · exact hv
  · exact Keeps.foldl (fun hv _ => hv.setX) _ h

theorem Keeps.stkSsp (h : Keeps s u) {k : StkShape} {b : XReg} {push : Bool} : Keeps s (u.stkSsp k b push) := Keeps.ite h.setCsr h

theorem Keeps.pushOn (h : Keeps s u) {k : StkShape} {b : XReg} {p : Partial} : (u.pushOn k b p).All (Keeps s) (Keeps s) := by
  unfold State.pushOn
  refine h.writePiece fun {v} ht => ?_
  exact Keeps.advance ht.stkSsp

theorem Keeps.popOn (h : Keeps s u) {k : StkShape} {b : XReg} {p : Partial} : (u.popOn k b p).All (Keeps s) (Keeps s) :=
  h.readPiece fun _ => Keeps.advance (Keeps.stkSsp h.setPiece.stkLoad)

theorem execPushm_keeps {f l : Fin 32} {b : XReg} {k : Bool} : NextIs (Keeps s) (execPushm f l b k s) := by
  have h := Keeps.refl s
  refine nextIs_settle h ?_
  split
  · exact h.pushOn
  · exact Res.all_undo h (h.stkStart.bind fun _ hr => hr.pushOn)

theorem execPopm_keeps {f l : Fin 32} {b : XReg} {k : Bool} : NextIs (Keeps s) (execPopm f l b k s) := by
  have h := Keeps.refl s
  refine nextIs_settle h ?_
  split
  · exact h.popOn
  · exact Res.all_undo h (h.stkStart.bind fun _ hr => hr.popOn)

end
end Sys2Proof.Machine
end

section
/-! SUPPORT. The VE and its loads and stores keep what every step keeps (O60). -/

namespace Sys2Proof.Machine

section
variable {s u : State} {t : Task}

/-! ### Changes of a task that leave its loft alone -/

theorem Task.foldl_loft {α : Type} {f : Task → α → Task} (hf : ∀ t a, (f t a).loft = t.loft) (l : List α) : (l.foldl f t).loft = t.loft := by
  induction l generalizing t with
  | nil => rfl
  | cons a l ih => exact ih.trans (hf t a)

@[simp] theorem Task.popAll_loft (i : Instr) : (t.popAll i).loft = t.loft := Task.foldl_loft Task.dropTile_loft _

@[simp] theorem Task.writeDst_loft (T : Tile) (d : Option VDst) : (t.writeDst T d).loft = t.loft := by
  unfold Task.writeDst; split <;> rfl

@[simp] theorem Task.writeSecond_loft (o : Option (Fin 16 × Tile)) : (t.writeSecond o).loft = t.loft := by
  unfold Task.writeSecond; split <;> rfl

@[simp] theorem Task.writeX_loft (o : Option (XReg × Word)) : (t.writeX o).loft = t.loft := by
  unfold Task.writeX
  split
  · exact Task.setX_loft _ _ _
  · rfl

@[simp] theorem Task.complete_loft (i : Instr) (o : VeOut) : (t.complete i o).loft = t.loft := by
  simp only [Task.complete, Task.writeX_loft, Task.writeSecond_loft, Task.writeDst_loft, Task.popAll_loft]

@[simp] theorem Task.unreserve_loft (n : Nat) (q : Fin 8) : (t.unreserve n q).loft = t.loft := rfl

@[simp] theorem Task.granuleDone_loft (n : Nat) (e : StoreEntry) (q : Fin 8) (g : Nat) : (t.granuleDone n e q g).loft = t.loft := by
  unfold Task.granuleDone; dsimp only; split <;> rfl

/-! ### Dispatch and execution in the VE (R139 to R145) -/

theorem Keeps.enqueueVe (h : Keeps s u) {i : Instr} {a b : Word} : Keeps s (u.enqueueVe i a b) :=
  (Keeps.ite (h.setTask (Task.takeStoch_loft _)) h).setTask rfl

theorem Keeps.dispatchCheck (h : Keeps s u) {i : Instr} : (u.dispatchCheck i).All (Keeps s) fun _ => True :=
  (Res.all_need h).bind fun _ _ => Res.all_untilVe

theorem State.dispatch_keeps {i : Instr} {a b : Word} : NextIs (Keeps s) (s.dispatch i a b) := by
  have h := Keeps.refl s
  exact nextIs_settle h (h.dispatchCheck.bind fun _ _ => h.enqueueVe.advance)

theorem State.dispatchVext_keeps {i : Instr} {a b : Word} : NextIs (Keeps s) (s.dispatchVext i a b) := by
  have h := Keeps.refl s
  exact nextIs_settle h (Res.all_ite (fun _ => trivial) fun _ => h.dispatchCheck.bind fun _ _ => h.enqueueVe)

theorem Keeps.veRun (h : Keeps s u) {e : VeEntry} : Keeps s (u.veRun e) := by
  unfold State.veRun
  split
  · exact h
  · split
    · exact h.setTask rfl
    · exact h.setTask (Task.complete_loft _ _)

theorem Keeps.veStep (h : Keeps s u) : Keeps s u.veStep := by
  unfold State.veStep
  split
  · exact Keeps.ite h (Keeps.ite (h.setTask rfl) (Keeps.ite h h.veRun))
  · exact h

/-! ### Loads to a queue (R181 to R192) -/

theorem Keeps.vmemCheck (h : Keeps s u) {i : Instr} {q : Fin 8} {r : QRole} : (u.vmemCheck i q r).All (Keeps s) fun _ => True :=
  (Res.all_need h).bind fun _ _ => Res.all_need h

theorem Keeps.rangeAll (h : Keeps s u) {gs : List Nat} : (u.rangeAll gs).All (Keeps s) (Keeps s) :=
  Res.All.each (fun _ _ hb => (Res.all_ofChk hb Chk.all_true).bind fun _ _ => hb) gs h

theorem Keeps.alignBoth (h : Keeps s u) {m : Fmt} {a b : Word} : (u.alignBoth m a b).All (Keeps s) fun _ => True :=
  (Res.all_need h).bind fun _ _ => Res.all_need h

theorem Keeps.clearElems (h : Keeps s u) {w : Nat} {b : Bool} {es : List MemElem} {ps : List (Nat × Place)} :
    (u.clearElems w b es ps).All (Keeps s) fun _ => True :=
  Res.All.each (fun _ _ _ => Res.All.each (fun _ _ _ => h.placeClear) _ trivial) ps trivial

theorem Keeps.loadRoom (h : Keeps s u) {q : Fin 8} : (u.loadRoom q).All (Keeps s) fun _ => True :=
  Res.all_ite (fun _ => trivial) fun _ => Res.all_ite (fun _ => trivial) fun _ => h

theorem Keeps.loadStart (h : Keeps s u) {i : Instr} {q : Fin 8} {d : List Word} {w : Nat} {es : List MemElem} :
    (u.loadStart i q d w es).All (Keeps s) fun r => Keeps s r.1 :=
  h.findAll.bind fun _ hr => hr.windowClear.bind fun _ _ => hr.clearElems.bind fun _ _ => hr.loadRoom.bind fun _ _ => hr

theorem Keeps.loadOn (h : Keeps s u) {q : Fin 8} {w : Nat} {es : List MemElem} {f : (Nat → List Byte) → Tile} {p : Partial} :
    (u.loadOn q w es f p).All (Keeps s) (Keeps s) := h.readPiece fun _ => Keeps.advance (h.setPiece.setTask rfl)

theorem State.loadDense_keeps {i : Instr} {q : Fin 8} {a b : Word} {n : Nat} {m : Fmt} {rep : Nat → List Nat} :
    NextIs (Keeps s) (s.loadDense i q a b n m rep) := by
  have h := Keeps.refl s
  refine nextIs_settle h ?_
  split
  · exact h.loadOn
  · exact Res.all_undo h (h.vmemCheck.bind fun _ _ => h.rangeAll.bind fun _ _ => h.alignBoth.bind fun _ _ =>
      h.loadStart.bind fun _ hr => hr.loadOn)

theorem Keeps.orbAccess (h : Keeps s u) {a o : Word} {m : Fmt} : (u.orbAccess a o m).All (Keeps s) fun r => Keeps s r.s := by
  refine h.readRecord.bind fun _ hr => (Res.all_need hr).bind fun _ _ => Res.All.bind (Q := fun _ => True) ?_ fun _ _ =>
    (Res.all_need hr).bind fun _ _ => hr
  split
  · exact hr
  · trivial

theorem execVldo_keeps {q : Fin 8} {b r : XReg} {m : Fmt} : NextIs (Keeps s) (execVldo q b r m s) := by
  have h := Keeps.refl s
  refine nextIs_settle h ?_
  split
  · exact h.loadOn
  · exact Res.all_undo h (h.vmemCheck.bind fun _ _ => h.orbAccess.bind fun _ ho => ho.rangeAll.bind fun _ _ =>
      ho.loadStart.bind fun _ hr => hr.loadOn)

/-! ### Stores from a queue (R193, R268, R269) -/

theorem Keeps.storeRoom (h : Keeps s u) : u.storeRoom.All (Keeps s) fun _ => True :=
  Res.all_ite (fun _ => trivial) fun _ => Res.all_ite (fun _ => trivial) fun _ => h

theorem Keeps.reserve (h : Keeps s u) {i : Instr} {a b : Word} {d : List Word} {w : Nat} {es : List MemElem} :
    (u.reserve i a b d w es).All (Keeps s) (Keeps s) := by
  refine h.findAll.bind fun _ hr => hr.clearElems.bind fun _ _ => hr.storeRoom.bind fun _ _ => hr.claimAll.bind fun v hv => ?_
  have h1 (e : StoreEntry) : Keeps s (v.setTask fun t => t.addStore e) := hv.setTask rfl
  exact Keeps.ite (h1 _).advance (h1 _).setPiece

theorem Keeps.reserveOn (h : Keeps s u) : Keeps s u.reserveOn := by
  unfold State.reserveOn
  split
  · rename_i e _
    have h1 : Keeps s (u.setTask fun t =>
        { t with storeQ := t.storeQ.dropLast ++ [{ e with granules := e.granules ++ e.left.take 1, left := e.left.drop 1 }] }) :=
      h.setTask rfl
    exact Keeps.ite h1.setPiece.advance h1
  · exact h.setPiece.advance

theorem Keeps.reserveDense (h : Keeps s u) {i : Instr} {a b : Word} {m : Fmt} : (u.reserveDense i a b m).All (Keeps s) (Keeps s) :=
  h.rangeAll.bind fun _ _ => h.alignBoth.bind fun _ _ => h.reserve

theorem execVst_keeps {q : Fin 8} {b r : XReg} {m : Fmt} : NextIs (Keeps s) (execVst q b r m s) := by
  have h := Keeps.refl s
  unfold execVst
  split
  · exact nextIs_next h.reserveOn
  · exact nextIs_settle h (Res.all_undo h (h.vmemCheck.bind fun _ _ => h.reserveDense))

theorem execVsto_keeps {q : Fin 8} {b r : XReg} {m : Fmt} : NextIs (Keeps s) (execVsto q b r m s) := by
  have h := Keeps.refl s
  unfold execVsto
  split
  · exact nextIs_next h.reserveOn
  · exact nextIs_settle h (Res.all_undo h (h.vmemCheck.bind fun _ _ => h.orbAccess.bind fun _ ho => ho.rangeAll.bind fun _ _ => ho.reserve))

/-! ### Pairing a store with its tile -/

theorem Keeps.repin (h : Keeps s u) {a : Word} {p : Place} : (u.repin a p).All (Keeps s) := by
  cases p with
  | loft o => exact h.refill
  | _ => exact Chk.all_ok h

theorem Keeps.granuleEvent (h : Keeps s u) {p : Place} {ws : List (Nat × Nat)} : Keeps s (u.granuleEvent p ws) :=
  Keeps.ite h.writePlace (Keeps.foldl (fun hv _ => hv.writePlace) _ h)

theorem Keeps.putRoot (h : Keeps s u) {pa : Nat} {bs : List Byte} : Keeps s (u.putRoot pa bs) := h.step (State.wf_putRoot · pa bs) rfl

/-- A store that the snapshot of a Cellar still owes reaches the snapshot too. -/
theorem Keeps.lateEvent (h : Keeps s u) {i : Fin 16} {c : Cellar} {k : Nat × Nat × Nat} {p : Place} {ws : List (Nat × Nat)}
    (hc : s.wf = true → c.snapshot.wf = true) : Keeps s (u.lateEvent i c k p ws) := by
  have h1 : Keeps s (State.granuleEvent (u.setPart i { u.parts[i] with cellar := none }) p ws) :=
    (h.setPart fun _ c hn => nomatch (hn : none = some c)).granuleEvent
  refine Keeps.setPart ?_ fun hs c1 hc1 => ?_
  · split
    · exact h1.putRoot
    · exact h1
  · cases hc1
    exact Mem.wf_putBytes (hc hs) _ _

theorem State.owedTo_cellar {e : StoreEntry} {p : Place} {i : Fin 16} {c : Cellar} {pa : Nat} (h : u.owedTo e p = some (i, c, pa)) :
    u.parts[i].cellar = some c := by
  unfold State.owedTo at h
  split at h
  · obtain ⟨x, hx, hm⟩ := Option.map_eq_some_iff.1 h
    cases hm
    exact State.cellarOf_mem (Option.filter_eq_some_iff.1 hx).1
  · cases h

theorem Keeps.storeGranule (h : Keeps s u) {e : StoreEntry} {es : List (MemElem × Nat)} {g : Nat} {p : Place} :
    (u.storeGranule e es g p).All (Keeps s) (Keeps s) := by
  refine Res.all_until.bind fun _ _ => (Res.all_ofChk h h.repin).bind fun v hv => hv.targetCheck.bind fun _ _ =>
    (Res.all_ofChk hv Chk.all_true).bind fun _ _ => ?_
  change Keeps s _
  split
  · exact hv.lateEvent fun hs => State.wf_cellar (h.1 hs) _ (State.owedTo_cellar ‹_›)
  · exact hv.granuleEvent

theorem Keeps.beginStore (h : Keeps s u) {n : Nat} {e : StoreEntry} {b : Bool} : Keeps s (u.beginStore n e b) :=
  h.setTask (by cases b <;> rfl)

theorem Keeps.stopStore (h : Keeps s u) {n : Nat} {e : StoreEntry} {r : Raised} : Keeps s (u.stopStore n e r) := h.setTask rfl

theorem Keeps.pairStore (h : Keeps s u) {n : Nat} {e : StoreEntry} {q : Fin 8} {T : Tile} : Keeps s (u.pairStore n e q T) := by
  unfold State.pairStore
  split
  · exact h.stopStore
  · rename_i es sb _
    have h1 : Keeps s (if e.begun then u else u.beginStore n e sb) := Keeps.ite h h.beginStore
    extract_lets e1 s1
    change Keeps s s1 at h1
    split
    · exact Keeps.ite (h1.setTask rfl) h1
    · rename_i g p _
      have h2 := h1.storeGranule (e := e) (es := es) (g := g) (p := p)
      split
      · rename_i hr
        rw [hr] at h2
        exact Keeps.setTask h2 (Task.granuleDone_loft _ _ _ _)
      · rename_i hr
        rw [hr] at h2
        exact (Keeps.logLine h2).stopStore
      · exact h1

theorem Keeps.storeStep (h : Keeps s u) : Keeps s u.storeStep := by
  unfold State.storeStep
  split
  · exact h
  · split
    · exact h.pairStore
    · exact h

end
end Sys2Proof.Machine
end

section
/-! SUPPORT. The Thresher and the copy channels keep what every step keeps (O60). -/

namespace Sys2Proof.Machine

section
variable {s u : State} {t : Task} {c : ThrCmd} {is : List Nat}

theorem Chk.All.each {α β : Type} {R : β → Prop} {f : β → α → Chk β} (hf : ∀ b a, R b → (f b a).All R) :
    ∀ (l : List α) {b : β}, R b → (Chk.each f l b).All R
  | [], _, h => Chk.all_ok h
  | _ :: l, _, h => (hf _ _ h).bind fun _ hc => Chk.All.each hf l hc

theorem Chk.all_ite {α : Type} {Q : α → Prop} {p : Prop} [Decidable p] {x y : Chk α} (hx : x.All Q) (hy : y.All Q) :
    (if p then x else y).All Q := by
  split
  · exact hx
  · exact hy

/-! ### Loft accesses of an engine -/

theorem Keeps.loftPin (h : Keeps s u) {v : Word} {o n : Nat} : (u.loftPin v o n).All (Keeps s) :=
  Chk.All.each (fun _ _ hb => Keeps.refill hb) _ h

theorem Keeps.loftOpen (h : Keeps s u) {b : Bool} {v : Word} {o n : Nat} : (u.loftOpen b v o n).All (Keeps s) :=
  h.loftPin.bind fun _ hv => Chk.all_true.bind fun _ _ => Chk.all_ok hv

theorem Keeps.putLoft (h : Keeps s u) {o : Nat} {bs : List Byte} : Keeps s (u.putLoft o bs) :=
  h.withLoft (t := u.task.putLoft o bs) fun hs => Mem.wf_putBytes (State.wf_loft (h.1 hs)) o bs

/-! ### Operands, descriptors and nest points (R206 to R214) -/

theorem Keeps.operandBytes (h : Keeps s u) {o : Option (List Byte)} {rows : List Nat} {n : Nat} :
    (u.operandBytes c o rows n).All fun r => Keeps s r.1 := by
  cases o with
  | some bs => exact Chk.all_ok h
  | none => exact (Chk.All.each (fun _ _ hb => Keeps.loftPin hb) rows h).bind fun _ hv => Chk.all_true.bind fun _ _ => Chk.all_ok hv

theorem Keeps.fetchDense (h : Keeps s u) {k : Nat} {f : Fmt} : (u.fetchDense c k f is).All fun r => Keeps s r.s :=
  h.operandBytes.bind fun _ hr => Chk.all_ok hr

theorem Keeps.fetchOrbit (h : Keeps s u) {k : Nat} {f : Fmt} {D : Desc} : (u.fetchOrbit c k f D is).All fun r => Keeps s r.s := by
  refine Chk.all_true.bind fun _ _ => Chk.All.bind (Q := fun p => Keeps s p.1) ?_ fun _ hp => Chk.all_ok hp
  refine Chk.All.each (fun p row hp => Chk.All.bind (Q := fun q => Keeps s q.1) ?_ fun q hq => Chk.all_ok hq) _ h
  refine Chk.All.each (fun q col hq => ?_) _ hp
  exact Chk.all_ite (Chk.all_ok hq) (Chk.all_true.bind fun _ _ => (Keeps.loftOpen hq).bind fun _ hv => Chk.all_ok hv)

theorem Keeps.fetch (h : Keeps s u) {k : Nat} : (u.fetch c k is).All fun r => Keeps s r.s := by
  unfold State.fetch
  dsimp only
  split
  · exact h.fetchOrbit
  · exact h.fetchDense

theorem Keeps.readDescs (h : Keeps s u) : (u.readDescs c).All fun r => Keeps s r.1 := by
  refine Chk.All.bind (Q := fun p => Keeps s p.1) ?_ fun p hp => Chk.all_true.bind fun _ _ => Chk.all_ok hp
  refine Chk.All.each (fun p n hp => ?_) _ h
  split
  · exact (Keeps.loftOpen hp).bind fun _ hv => Chk.all_ok hv
  · exact Chk.all_ok hp

theorem Keeps.fetchAll (h : Keeps s u) {k n : Nat} {zs : List Nat} : (u.fetchAll c k is zs n).All fun r => Keeps s r.1 := by
  refine Chk.All.each (R := fun r : State × List Fetched => Keeps s r.1) (fun p z hp => ?_) _ h
  split
  · exact (Keeps.fetch hp).bind fun _ hv => Chk.all_ok hv
  · exact Chk.all_ok hp

theorem Keeps.mulPoint (h : Keeps s u) : (u.mulPoint c is).All (Keeps s) := by
  unfold State.mulPoint
  dsimp only
  refine Chk.all_ite (Chk.all_ok h) (h.fetchAll.bind fun r1 h1 => Chk.All.bind h1.fetchAll fun r2 h2 => Chk.all_ok ?_)
  exact h2.setTask rfl

theorem Keeps.drainDense (h : Keeps s u) {f : Fmt} : (u.drainDense c f is).All (Keeps s) :=
  (Chk.All.each (fun _ _ hb => Keeps.loftOpen hb) _ h).bind fun _ hv => Chk.all_ok (Keeps.foldl (fun hw _ => hw.putLoft) _ hv)

theorem Keeps.putRep (h : Keeps s u) {D : Desc} {f : Fmt} {o off v : Nat} : Keeps s (u.putRep D f o off v) := Keeps.ite h.putLoft h.putLoft

theorem Keeps.drainOrbit (h : Keeps s u) {f : Fmt} {D : Desc} : (u.drainOrbit c f D is).All (Keeps s) := by
  refine Chk.all_true.bind fun _ _ => ?_
  split
  · exact Chk.all_fail
  · refine Chk.All.bind (Q := fun p => Keeps s p.1) ?_ fun p hp => Chk.all_ok ?_
    · exact Chk.All.each (fun p x hp => Chk.all_true.bind fun _ _ => (Keeps.loftOpen hp).bind fun _ hv => Chk.all_ok hv) _ h
    · have hf : Keeps s (p.2.foldl (fun s x => s.putRep D f x.o x.off x.v) p.1) := Keeps.foldl (fun hw _ => hw.putRep) _ hp
      exact Keeps.ite hf.setCsr hf

theorem Keeps.drainPoint (h : Keeps s u) : (u.drainPoint c is).All (Keeps s) := by
  unfold State.drainPoint
  dsimp only
  split
  · exact h.drainOrbit
  · exact h.drainDense

theorem Keeps.loadPoint (h : Keeps s u) : (u.loadPoint c is).All (Keeps s) :=
  (Chk.All.each (fun _ _ hb => Keeps.loftOpen hb) _ h).bind fun _ hv => Chk.all_ok (hv.setTask rfl)

theorem Keeps.topPoint (h : Keeps s u) : (u.topPoint c is).All (Keeps s) := h.loftOpen.bind fun _ hv => Chk.all_ok hv.putLoft

theorem Keeps.thrPoint (h : Keeps s u) : (u.thrPoint c is).All (Keeps s) :=
  Chk.all_ite h.mulPoint (Chk.all_ite h.topPoint (Chk.all_ite h.drainPoint h.loadPoint))

/-! ### A step of the Thresher (R201 to R206) -/

@[simp] theorem Task.signal_loft (t : Task) (k n : Nat) : (t.signal k n).loft = t.loft := rfl

@[simp] theorem Task.recordSignal_loft (r : List Word) : (t.recordSignal r).loft = t.loft := by
  unfold Task.recordSignal; dsimp only; split <;> rfl

theorem Keeps.thrHead (h : Keeps s u) : Keeps s (u.thrHead c) := h.setTask rfl

theorem Keeps.thrFault (h : Keeps s u) {r : Raise} : Keeps s (u.thrFault c r) := h.logLine.thrHead.setTask rfl

theorem Keeps.thrFinish (h : Keeps s u) : Keeps s (u.thrFinish c) := Keeps.ite (h.setTask (Task.recordSignal_loft _)) h.thrHead

theorem Keeps.thrRun (h : Keeps s u) : Keeps s (u.thrRun c) := by
  unfold State.thrRun
  split
  · rename_i v hv
    have h1 := h.thrPoint v hv
    exact Keeps.ite h1.thrHead h1.thrFinish
  · exact h.thrFault
  · exact h

theorem Keeps.thrStep (h : Keeps s u) : Keeps s u.thrStep := by
  unfold State.thrStep
  split
  · exact h
  · refine Keeps.ite h (Keeps.ite ?_ (Keeps.ite h.thrFinish ?_))
    · split
      · exact h
      · exact h.thrFault
      · exact h.thrHead
    · split
      · exact h.thrRun
      · refine Keeps.ite h ?_
        split
        · exact Keeps.thrHead (h.readDescs _ ‹_›)
        · exact h.thrFault
        · exact h

theorem State.thrKindStep_keeps {k : Nat} : NextIs (Keeps s) (s.thrKindStep k) := by
  have h := Keeps.refl s
  refine nextIs_next ?_
  split
  · exact Keeps.ite h.thrStep h
  · exact h

end

section
variable {s u : State} {t : Task} {w : Who} {a : Word} {n : Nat} {x : CopyCtx}

/-! ### Memory accesses of an engine (R257, R261) -/

theorem State.engineWait_all {P : State → Prop} {b : Bool} {p : Place} : (u.engineWait w n b p).All P fun _ => True := by
  cases p
  case device pa => exact Res.all_until
  all_goals trivial

theorem Keeps.enginePlace (h : Keeps s u) {acc : Acc} : (u.enginePlace w acc a).All (Keeps s) fun r => Keeps s r.1 :=
  (Res.all_ofChk h h.placeFind).bind fun _ hr => (Res.all_need hr).bind fun _ _ =>
    (Res.all_ofChk (Keeps.ite hr.scramble hr) Chk.all_true).bind fun _ _ => State.engineWait_all.bind fun _ _ =>
    (Res.all_ofChk hr Chk.all_true).bind fun _ _ => hr

theorem Keeps.engineRead (h : Keeps s u) : (u.engineRead w a n).All (Keeps s) fun r => Keeps s r.s :=
  Res.All.each (R := fun r : ReadBytes => Keeps s r.s) (fun _ _ hb => (Keeps.enginePlace hb).bind fun _ hr => Res.all_ok hr) _ h

theorem Keeps.engineOpen (h : Keeps s u) : (u.engineOpen w a).All (Keeps s) fun r => Keeps s r.1 :=
  h.enginePlace.bind fun _ hr => (Res.all_ofChk hr hr.claimCheck).bind fun _ hv => hv

theorem Keeps.nibAddr (h : Keeps s u) {p : Int} : (u.nibAddr p).All (Keeps s) fun _ => True := (Res.all_need h).bind fun _ _ => Res.all_ok trivial

theorem Keeps.engineDeliver (h : Keeps s u) {ns : List (Int × Nat)} : (u.engineDeliver w ns).All (Keeps s) (Keeps s) := by
  refine Res.All.bind (Q := fun p => Keeps s p.s) ?_ fun p hp => Res.all_until.bind fun _ _ => ?_
  · exact Res.All.each (R := fun p : Placed => Keeps s p.s) (fun p g hp => (Keeps.nibAddr hp).bind fun _ _ =>
      (Keeps.engineOpen hp).bind fun _ hr => Res.all_ok hr) _ h
  · exact Keeps.foldl (fun hv _ => hv.granuleEvent) _ hp

/-! ### The elements of a copy (R254, R255) -/

theorem Keeps.copyRead (h : Keeps s u) {p : Int} : (u.copyRead x p n).All (Keeps s) fun r => Keeps s r.1 :=
  h.nibAddr.bind fun _ _ => h.engineRead.bind fun _ hr => hr

theorem Keeps.copyIndex (h : Keeps s u) : (u.copyIndex x n).All (Keeps s) fun r => Keeps s r.1 := h.engineRead.bind fun _ hr => hr

/-- (Reducible transparency: the positions are sums of `Int`s that unification would evaluate.) -/
theorem Keeps.copySource (h : Keeps s u) : (u.copySource x n).All (Keeps s) fun r => Keeps s r.1 := by
  unfold State.copySource
  dsimp only
  refine Res.all_ite (fun _ => Res.all_ok h) fun _ => Res.all_ite (fun _ => ?_) fun _ => Res.all_ite (fun _ => ?_) fun _ => ?_
  · refine Res.All.bind h.copyIndex fun r hr => ?_
    with_reducible exact Keeps.copyRead hr
  · split
    · exact Res.all_ok h
    · with_reducible refine Res.All.bind h.copyRead fun r hr => ?_
      exact Res.all_ok hr
  · with_reducible exact h.copyRead

theorem Keeps.copyTarget (h : Keeps s u) : (u.copyTarget x n).All (Keeps s) fun r => Keeps s r.1 :=
  Res.all_ite (fun _ => h.copyIndex.bind fun _ hr => hr) fun _ => Res.all_ite (fun _ => h) fun _ => h

theorem Keeps.copyElem (h : Keeps s u) {p : Int} : (u.copyElem x n p).All (Keeps s) fun r => Keeps s r.1 :=
  h.copySource.bind fun _ hr => hr

theorem Keeps.copyPass (h : Keeps s u) {j : Nat} : (u.copyPass x n j).All (Keeps s) (Keeps s) :=
  Res.All.each (R := Keeps s) (fun _ _ hb => (Keeps.copySource hb).bind fun _ hr => Res.all_ok hr) _ h

theorem Keeps.copyPair (h : Keeps s u) {m : Moved} : (u.copyPair x m).All (Keeps s) fun r => Keeps s r.s := by
  unfold State.copyPair
  dsimp only
  refine Res.all_ite (fun _ => h) fun _ => h.copyTarget.bind fun r hr => ?_
  split
  · exact Res.all_ite (fun _ => hr.copyPass.bind fun _ hv => hv.copyElem.bind fun _ hw => hw) fun _ => h
  · exact h

theorem Keeps.copyPiece (h : Keeps s u) : (u.copyPiece x n).All (Keeps s) fun r => Keeps s r.s := by
  unfold State.copyPiece
  refine h.copyTarget.bind fun r hr => ?_
  dsimp only
  split
  · exact hr.copySource.bind fun _ hv => hv
  · exact hr.copyElem.bind fun _ hv => hv.copyPair

theorem Keeps.copyGroup {g : Int} : ∀ (f : Nat) {u : State} {j : Nat}, Keeps s u → ∀ p ∈ u.copyGroup x g f j, Keeps s p.s
  | 0, _, _, _ => by simp [State.copyGroup]
  | f + 1, u, j, h => by
    intro p hp
    unfold State.copyGroup at hp
    split at hp
    · cases hp
    · split at hp
      · rename_i q hq
        have h1 : Keeps s q.s := by
          have hall := h.copyPiece (x := x) (n := j)
          rw [hq] at hall
          exact hall
        dsimp only at hp
        split at hp
        · rcases List.mem_cons.1 hp with rfl | hp
          · exact h1
          · exact Keeps.copyGroup f h1 p hp
        · cases hp
      · cases hp

@[simp] theorem Task.byteSignals_loft (r : List Word) (i j : Nat) : (t.byteSignals r i j).loft = t.loft := by
  unfold Task.byteSignals
  split
  · exact Task.foldl_loft (fun t _ => Task.signal_loft t _ _) _
  · rfl

/-! ### A step of a channel (R253 to R260, R270) -/

theorem Keeps.setCh (h : Keeps s u) {k : Fin 4} {f : Channel → Channel} : Keeps s (u.setCh k f) := h.setTask rfl

theorem Keeps.copyCount (h : Keeps s u) {k : Fin 4} {c : CopyCmd} {bs : List Byte} {b : Bool} : Keeps s (u.copyCount k c bs n b) :=
  h.setCh.setTask (Task.byteSignals_loft _ _ _)

theorem Keeps.copyFault (h : Keeps s u) {k : Fin 4} {c : CopyCmd} {r : Raise} : Keeps s (u.copyFault k c r) := h.logLine.setCh.setTask rfl

theorem Keeps.copySettle (h : Keeps s u) {k : Fin 4} {c : CopyCmd} {r : Res State} (hr : r.All (Keeps s) (Keeps s)) :
    Keeps s (u.copySettle k c r) := by
  cases r with
  | ok v => exact hr
  | trap v q => exact Keeps.copyFault hr
  | _ => exact h

theorem Keeps.copyMove (h : Keeps s u) {k : Fin 4} : (u.copyMove k x).All (Keeps s) (Keeps s) := by
  unfold State.copyMove
  dsimp only
  refine h.copyPiece.bind fun p hp => ?_
  split
  · exact hp.copyCount
  · rename_i m _ _
    have hlist : ∀ q ∈ (if nibGranule m.pos == nibGranule (m.pos + copyUnit x.c.record true - 1)
        then p :: p.s.copyGroup x (nibGranule m.pos) 127 p.next else [p]), Keeps s q.s := by
      intro q hq
      split at hq
      · rcases List.mem_cons.1 hq with rfl | hq
        · exact hp
        · exact Keeps.copyGroup 127 hp q hq
      · rw [List.mem_singleton.1 hq]; exact hp
    generalize (if nibGranule m.pos == nibGranule (m.pos + copyUnit x.c.record true - 1)
        then p :: p.s.copyGroup x (nibGranule m.pos) 127 p.next else [p]) = ps at hlist ⊢
    have h1 : Keeps s ((ps.getLast?.map (·.s)).getD p.s) := by
      cases hl : ps.getLast? with
      | none => exact hp
      | some q => exact hlist q (List.mem_of_getLast? hl)
    exact h1.engineDeliver.bind fun _ hv => hv.copyCount

theorem Keeps.copyCrc (h : Keeps s u) : (u.copyCrc x).All (Keeps s) (Keeps s) := Res.all_ite (fun _ => h.engineDeliver) fun _ => h

theorem Keeps.copyComplete (h : Keeps s u) {k : Fin 4} {c : CopyCmd} : Keeps s (u.copyComplete k c) := by
  refine h.setCh.setTask ?_
  split
  · split <;> rfl
  · exact Task.recordSignal_loft _

theorem Keeps.copyDesc (h : Keeps s u) : (u.copyDesc x).All (Keeps s) fun r => Keeps s r.1 :=
  h.engineRead.bind fun _ hr => (Res.all_need hr).bind fun _ _ => hr

theorem Keeps.copyStep (h : Keeps s u) {k : Fin 4} : Keeps s (u.copyStep k) := by
  unfold State.copyStep
  dsimp only
  split
  · exact h
  · refine Keeps.ite h (Keeps.ite ?_ (Keeps.ite ?_ (Keeps.ite ?_ ?_)))
    · split
      · exact h
      · exact h.copyFault
      · exact h.setCh
    · exact h.copySettle (h.copyDesc.bind fun _ hr => hr.setCh)
    · exact h.copySettle h.copyMove
    · exact h.copySettle (Res.all_until.bind fun _ _ => h.copyCrc.bind fun _ hv => hv.copyComplete)

theorem State.copyKindStep_keeps {k : Fin 4} {m : Nat} : NextIs (Keeps s) (s.copyKindStep k m) := by
  have h := Keeps.refl s
  refine nextIs_next ?_
  split
  · exact Keeps.ite h.copyStep h
  · exact h

theorem execStampOverrun_keeps {e : Fin 5} : NextIs (Keeps s) (execStampOverrun e s) := by
  have h := Keeps.refl s
  refine nextIs_next (Keeps.ite ?_ ?_)
  · split
    · exact Keeps.ite h.thrStep h
    · exact h
  · dsimp only
    split
    · exact Keeps.ite h.copyStep h
    · exact h

end
end Sys2Proof.Machine
end

section
/-! SUPPORT. Streams, collectives, links and hardware events keep what every step keeps (O60). -/

namespace Sys2Proof.Machine

section
variable {s u : State} {w : Who} {a : Word} {n : Nat} {d : Stream} {q : Fin 8}

/-! ### Reads of a stream (R336, R337) -/

theorem State.streamWait_all {P : State → Prop} {p : Place} : (u.streamWait w n p).All P fun _ => True :=
  State.engineWait_all.bind fun _ _ => Res.all_until

theorem Keeps.streamRead (h : Keeps s u) : (u.streamRead w a n).All (Keeps s) fun r => Keeps s r.s := by
  refine Res.All.each (R := fun r : StreamRead => Keeps s r.s) (fun r p hr => ?_) _ h
  dsimp only
  have hfind := hr.placeFind (w := w) (acc := .load) (a := a + wd p.1)
  split
  · exact hr
  · trivial
  · trivial
  · rename_i v pl hv
    have h1 : Keeps s v := hfind _ hv
    refine (Res.all_ofChk h1 Chk.all_true).bind fun _ _ => State.streamWait_all.bind fun _ _ => ?_
    split
    · exact Res.all_ite (fun _ => h1) fun _ => Res.all_ok h1.logLine
    · exact Res.all_ok h1

theorem Keeps.streamReadOnce (h : Keeps s u) : (u.streamReadOnce w a n).All (Keeps s) fun r => Keeps s r.s :=
  h.streamRead.bind fun _ hr => Res.all_ite (fun _ => hr) fun _ => hr

/-! ### Input and operators (R330 to R335) -/

theorem Keeps.streamUnit (h : Keeps s u) : (u.streamUnit w d).All (Keeps s) fun r => Keeps s r.s := by
  refine Res.all_ite (fun _ => h.streamReadOnce.bind fun r hr => (Res.all_need hr).bind fun _ _ => Res.all_ok ?_) fun _ => Res.all_ok h
  exact Keeps.same hr rfl

theorem Keeps.rawInput (h : Keeps s u) : (u.rawInput w d).All (Keeps s) fun r => Keeps s r.s :=
  h.streamReadOnce.bind fun _ hr => Res.all_ok hr

theorem Keeps.attemptFailed (h : Keeps s u) : (u.attemptFailed d).All (Keeps s) fun r => Keeps s r.s :=
  Res.all_ite (fun _ => Res.all_ok h) fun _ => Res.all_fail h

theorem Keeps.chunkDone (h : Keeps s u) {hd : Header} {t bs : List Byte} : (u.chunkDone d hd t bs).All (Keeps s) fun r => Keeps s r.s :=
  (Res.all_need h).bind fun _ _ => Res.all_ok h

theorem Keeps.chunkInput (h : Keeps s u) : (u.chunkInput w d).All (Keeps s) fun r => Keeps s r.s := by
  unfold State.chunkInput
  dsimp only
  refine (Res.all_need h).bind fun _ _ => h.streamRead.bind fun r hr => Res.all_ite (fun _ => hr.attemptFailed) fun _ =>
    Res.All.bind hr.streamRead fun r2 h2 => ?_
  split
  · exact h2.attemptFailed
  · refine (Res.all_need h2).bind fun _ _ => Res.All.bind h2.streamRead fun r3 h3 => ?_
    split
    · exact h3.attemptFailed
    · exact h3.chunkDone

theorem Keeps.setStream (h : Keeps s u) : Keeps s (u.setStream q d) := h.setTask rfl

theorem Keeps.streamFault (h : Keeps s u) {r : Raise} : Keeps s (u.streamFault q d r) := h.logLine.setStream.setTask rfl

theorem Keeps.streamBuild : ∀ (f : Nat) {u : State} {d : Stream}, Keeps s u → Keeps s (u.streamBuild q w f d)
  | 0, _, _, h => h.setStream
  | f + 1, u, d, h => by
    unfold State.streamBuild
    dsimp only
    have h1 := h.streamUnit (w := w) (d := d)
    refine Keeps.ite h.setStream (Keeps.ite (Keeps.streamBuild f (h.setTask rfl)) (Keeps.ite h.setStream (Keeps.ite ?_
      (Keeps.ite h.setStream (Keeps.ite (Keeps.streamBuild f h) h.streamFault)))))
    split
    · rename_i hr
      rw [hr] at h1
      exact Keeps.streamBuild f h1
    · rename_i hr
      rw [hr] at h1
      exact Keeps.streamFault h1
    · exact h.setStream

theorem Keeps.streamStep (h : Keeps s u) : Keeps s (u.streamStep q) := by
  unfold State.streamStep
  split
  · exact h
  · rename_i d _
    dsimp only
    refine Keeps.ite h (Keeps.ite ?_ (Keeps.streamBuild _ h))
    have h1 : (if d.bale then u.chunkInput (u.engine d.sup d.after) d else u.rawInput (u.engine d.sup d.after) d).All (Keeps s)
        fun r => Keeps s r.s := Res.all_ite (fun _ => h.chunkInput) fun _ => h.rawInput
    split
    · rename_i hr
      rw [hr] at h1
      exact Keeps.streamBuild _ h1
    · rename_i hr
      rw [hr] at h1
      exact Keeps.streamFault h1
    · exact h

end

section
variable {s u : State} {w : Who} {c : CollCmd} {g : Group} {peers : List PeerCmd}

/-! ### The issuing task of a collective (R292) -/

theorem State.wf_taskOf (h : u.wf = true) {n : Nat} {t : Task} (ht : u.taskOf n = some t) : t.loft.wf = true := by
  unfold State.taskOf at ht
  split at ht
  · cases ht; exact State.wf_loft h
  · exact State.keptTasks_wf_iff.2 (State.wf_keptWf h) t (List.mem_of_find?_eq_some ht)

theorem Saved.loftWf_onTask {f : Task → Task} (hf : ∀ t, t.loft.wf = true → (f t).loft.wf = true) {e : Saved} (he : e.loftWf) :
    (e.onTask f).loftWf := by
  cases e with
  | task t => exact hf t he
  | again e n => trivial

/-- A kept task takes another's place. -/
theorem Keeps.putKept (h : Keeps s u) {n : Nat} {t : Task} (ht : s.wf = true → t.loft.wf = true) : Keeps s (u.putKept n t) := by
  refine ⟨fun hs => State.wf_withLaunches (h.1 hs) rfl rfl rfl rfl rfl rfl fun L hL => ?_, h.2⟩
  obtain ⟨M, hM, rfl⟩ := List.mem_map.1 hL
  have hswap (k : Task) (hk : k.loft.wf = true) : (if k.id.tid == n then t else k).loft.wf = true := by
    split
    · exact ht hs
    · exact hk
  obtain ⟨hsaved, hqueue, hparked⟩ := Launch.keptWf_iff.1 (State.wf_keptWf (h.1 hs) M hM)
  refine Launch.keptWf_iff.2 ⟨fun e he => ?_, fun e he => ?_, fun p hp => ?_⟩
  · obtain ⟨e', he', rfl⟩ := List.mem_map.1 he
    exact Saved.loftWf_onTask hswap (hsaved e' he')
  · obtain ⟨e', he', rfl⟩ := List.mem_map.1 he
    exact Saved.loftWf_onTask hswap (hqueue e' he')
  · obtain ⟨p', hp', rfl⟩ := List.mem_map.1 hp
    exact hswap _ (hparked p' hp')

theorem Keeps.asTask (h : Keeps s u) {n : Nat} {f : State → State} (hf : ∀ {v}, Keeps s v → Keeps s (f v)) : Keeps s (u.asTask n f) := by
  have hu : s.wf = true → u.task.loft.wf = true := fun hs => State.wf_loft (h.1 hs)
  unfold State.asTask
  split
  · exact hf h
  · split
    · exact h
    · rename_i t ht
      have h1 : Keeps s { u.putKept n u.task with task := t, running := true } :=
        ((h.putKept hu).withLoft (t := t) fun hs => State.wf_taskOf (h.1 hs) ht).same rfl
      have h2 := hf h1
      exact (((h2.putKept (n := u.task.id.tid) fun hs => State.wf_loft (h2.1 hs)).withLoft (t := u.task) hu)).same rfl

theorem Keeps.saveStooks (h : Keeps s u) {n : Nat} : Keeps s (u.saveStooks n) := by
  unfold State.saveStooks
  split
  · exact h
  · split
    · exact h
    · split
      · exact h
      · exact Keeps.ite h.post h

/-! ### One command (R284 to R291) -/

theorem Keeps.readChaff (h : Keeps s u) {r : List Word} : (u.readChaff w r g).All (Keeps s) fun p => Keeps s p.1 :=
  Res.All.each (R := fun p : State × List (Nat × Nat) => Keeps s p.1) (fun _ _ hp => (Keeps.engineRead hp).bind fun _ hr => Res.all_ok hr) _ h

theorem Keeps.collMove (h : Keeps s u) : (u.collMove c g peers).All (Keeps s) (Keeps s) :=
  h.engineRead.bind fun _ ho => ho.readChaff.bind fun _ hc => Keeps.engineDeliver hc

theorem Keeps.collUnknown (h : Keeps s u) {as : List Word} : Keeps s (u.collUnknown w as) := by
  unfold State.collUnknown
  dsimp only
  have hopen : ∀ (as : List Word) {p : Placed}, Keeps s p.s → Keeps s (as.foldl (fun (p : Placed) a => match p.s.engineOpen w a with
      | .ok (s1, pl) => { s := s1, ps := p.ps ++ [(a.toNat, pl)] }
      | _ => p) p).s := by
    intro as
    induction as with
    | nil => exact fun hp => hp
    | cons a as ih =>
      intro p hp
      refine ih ?_
      have h1 := hp.engineOpen (w := w) (a := a)
      dsimp only
      split
      · rename_i hr
        rw [hr] at h1
        exact h1
      · exact hp
  refine Keeps.foldl (fun {v} hv x => Keeps.ite hv ?_) _ (hopen as h)
  exact Keeps.same hv.granuleEvent rfl

theorem Keeps.collSpoil (h : Keeps s u) : Keeps s (u.collSpoil c g) := h.collUnknown

theorem Keeps.dropColl (h : Keeps s u) : Keeps s (u.dropColl c) := h.same rfl

theorem Keeps.collFault (h : Keeps s u) {r : Raise} : Keeps s (u.collFault c r) := by
  have h1 : Keeps s ((u.logLine c.part r.line).setTask fun t =>
      { t with pend := { t.pend with coll := t.pend.coll ++ [⟨if r.cause = .addressRange then .engineTranslation else r.cause, c.addr⟩] } }) :=
    h.logLine.setTask rfl
  exact (h1.dropColl (c := c)).same rfl

theorem Keeps.collComplete (h : Keeps s u) : Keeps s (u.collComplete c) := (h.setTask (Task.recordSignal_loft _)).dropColl

theorem Keeps.setColl (h : Keeps s u) {c1 : CollCmd} : Keeps s (u.setColl c c1) := h.same rfl

theorem Keeps.collMatch (h : Keeps s u) : Keeps s (u.collMatch c g peers) := by
  unfold State.collMatch
  dsimp only
  refine Keeps.ite h (Keeps.ite h.collFault ?_)
  have h1 := h.collMove (c := c) (g := g) (peers := peers)
  split
  · rename_i hr
    rw [hr] at h1
    exact Keeps.collComplete h1
  · rename_i hr
    rw [hr] at h1
    exact (Keeps.collSpoil h1).collFault
  · exact h

theorem Keeps.collExpire (h : Keeps s u) : Keeps s (u.collExpire c) := by
  unfold State.collExpire
  split
  · exact h.collSpoil.collFault
  · exact h

theorem Keeps.collRun (h : Keeps s u) : Keeps s (u.collRun c peers) := by
  unfold State.collRun
  split
  · exact Keeps.ite h.collExpire h.collMatch
  · split
    · exact Keeps.collFault h.collSpoil
    · split
      · exact h.collSpoil.collFault
      · exact h.setColl.collMatch
    · exact h

theorem State.collStep_keeps {k : Nat} {group : BitVec 32} : NextIs (Keeps s) (s.collStep k group peers) := by
  have h := Keeps.refl s
  refine nextIs_next ?_
  split
  · exact (h.asTask fun hv => hv.collRun).saveStooks
  · exact h

theorem execCollectiveTimeout_keeps {group : BitVec 32} : NextIs (Keeps s) (execCollectiveTimeout group s) := by
  have h := Keeps.refl s
  refine nextIs_next ?_
  split
  · exact h.asTask fun hv => hv.collExpire
  · exact h

end

section
variable {s u : State} {j : Fin 32} {k : Nat} {f : Frame}

/-! ### Links (R293 to R296, R412) -/

theorem Keeps.setPort (h : Keeps s u) {p : Port} : Keeps s (u.setPort j p) := h.same rfl
theorem Keeps.wire (h : Keeps s u) {fs : List Sent} : Keeps s (u.wire fs) := h.same rfl
theorem Keeps.storeArea (h : Keeps s u) {a : Nat} {bs : List Byte} : Keeps s (u.storeArea a bs) := Keeps.ite h h.post

theorem Keeps.storeFrame (h : Keeps s u) {p : Packet} : Keeps s (u.storeFrame j p) := by
  have h1 (q : Port) : Keeps s ({ u with fresh := u.fresh + p.wire }.setPort j q) := h.same rfl
  exact Keeps.ite (h1 _).storeArea.storeArea h

theorem Keeps.sendStalled : ∀ (n : Nat) {u : State}, Keeps s u → Keeps s (u.sendStalled n j)
  | 0, _, h => h
  | n + 1, u, h => by
    unfold State.sendStalled
    dsimp only
    split
    · exact h
    · exact Keeps.ite (Keeps.sendStalled n h.setPort.storeFrame.wire) h

theorem Keeps.pump (h : Keeps s u) : Keeps s (u.pump j) := Keeps.sendStalled _ h

theorem Keeps.sendFrame (h : Keeps s u) {bs : List Byte} : Keeps s (u.sendFrame j k bs) := by
  refine Keeps.pump (u := _) (h.same ?_)
  rfl

theorem Keeps.resend (h : Keeps s u) {p : Nat → Bool} : Keeps s (u.resend j p) := h.wire

theorem Keeps.portEvent (h : Keeps s u) : Keeps s (u.portEvent j k) := by
  unfold State.portEvent
  split
  · exact h.logEvent
  · exact h

theorem Keeps.rekey (h : Keeps s u) : Keeps s (u.rekey j) := h.setPort
theorem Keeps.portReset (h : Keeps s u) : Keeps s (u.portReset j) := h.setPort.rekey.resend.portEvent
theorem Keeps.nack (h : Keeps s u) : Keeps s (u.nack j) := h.sendFrame
theorem Keeps.handOver (h : Keeps s u) : Keeps s (u.handOver j k f) := by
  have h1 := h.setPort (j := j) (p := { u.ports[j] with expect := (u.ports[j].expect + 1) % 2 ^ 48 })
  exact Keeps.ite (h1.same rfl) h1

theorem Keeps.handEarly : ∀ (n : Nat) {u : State}, Keeps s u → Keeps s (u.handEarly n j)
  | 0, _, h => h
  | n + 1, u, h => by
    unfold State.handEarly
    dsimp only
    split
    · exact h
    · exact Keeps.handEarly n h.setPort.handOver

theorem Keeps.takeFrame (h : Keeps s u) : Keeps s (u.takeFrame j k f) :=
  Keeps.ite (Keeps.handEarly _ h.handOver) (Keeps.ite (Keeps.ite h h.setPort).nack h)

theorem Keeps.acked (h : Keeps s u) {n : Nat} : Keeps s (u.acked j n) := h.setPort.pump

theorem Keeps.receive (h : Keeps s u) {act : State → State} (ha : ∀ {v}, Keeps s v → Keeps s (act v)) : Keeps s (u.receive j k f act) :=
  Keeps.ite h (Keeps.ite (Keeps.ite h.setPort.portReset h.setPort.nack) (ha h.setPort.acked).takeFrame)

theorem Keeps.badFrame (h : Keeps s u) : Keeps s (u.badFrame j k f) := Keeps.ite (h.receive fun hv => hv) h

theorem execKeyRenewal_keeps : NextIs (Keeps s) (execKeyRenewal j s) := by
  have h := Keeps.refl s
  have h1 : Keeps s { s with fresh := s.fresh + 64 } := h.same rfl
  exact nextIs_next (Keeps.ite h1.sendFrame.rekey h)

/-! The kernel would compare a `match` on `tableFetch` by evaluating it up to the bounds of the partition's range. The next proofs unfold a
definition as an equation of functions, which it checks by looking, and make the matched value a variable. -/

theorem Keeps.tableFetch (h : Keeps s u) {p : Fin 16} {a n : Nat} {r : State × Option (List Word)} (hr : u.tableFetch p a n = r) :
    Keeps s r.1 := by
  have e : State.tableFetch = State.tableFetch := rfl
  conv_rhs at e => delta State.tableFetch
  rw [e] at hr
  beta_reduce at hr
  generalize u.tableRead p a (8 * n) 0 = x at hr
  rw [← hr]
  cases x
  case bad r => exact Keeps.logLine h
  all_goals exact h

theorem Keeps.keepDown (h : Keeps s u) {q : Port} : Keeps s (u.keepDown j q) := h.setPort.portEvent

theorem Keeps.admitPeer (h : Keeps s u) {p : Fin 16} {q : Port} {d : Word} : Keeps s (u.admitPeer p j q d) := by
  unfold State.admitPeer
  refine Keeps.ite ?_ h.keepDown
  split
  · rename_i hr
    have h1 := h.tableFetch hr
    exact Keeps.ite (Keeps.setPort h1) (Keeps.keepDown h1)
  · rename_i hr
    exact Keeps.keepDown (h.tableFetch hr)

theorem Keeps.portEntry (h : Keeps s u) {p : Fin 16} {r : State × Option (List Word)} (hr : u.portEntry p j = r) : Keeps s r.1 := by
  unfold State.portEntry at hr
  exact h.tableFetch hr

theorem Keeps.bringUp (h : Keeps s u) {n : Nat} {d : Word} : Keeps s (u.bringUp j n d) := by
  have hk (p : Fin 16) : Keeps s (u.portEntry p j).1 := h.portEntry rfl
  have e : State.bringUp = State.bringUp := rfl
  conv_rhs at e => delta State.bringUp
  rw [e]
  clear e
  generalize State.portEntry = f at hk ⊢
  beta_reduce
  split
  · exact h
  · rename_i p _
    have h1 := hk p
    split
    · exact h.setPort
    · split
      · rename_i hf
        rw [hf] at h1
        exact Keeps.keepDown h1
      · rename_i hf
        rw [hf] at h1
        exact Keeps.ite (Keeps.setPort h1) (Keeps.ite (Keeps.admitPeer h1) (Keeps.keepDown h1))

end

section
variable {s u : State} {c : Fin 64}

/-! ### The Gleaner and the hardware checks -/

theorem Keeps.setRing (h : Keeps s u) {f : Ring → Ring} : Keeps s (u.setRing c f) := h.same rfl

theorem execLaunchPacket_keeps : NextIs (Keeps s) (execLaunchPacket c s) := by
  have h := Keeps.refl s
  refine nextIs_next (Keeps.ite (Keeps.setRing ?_) h)
  split
  · exact h.submit
  · exact (Keeps.ite h.gleanLog h).countDrop

theorem execPop_keeps : NextIs (Keeps s) (execPop s) := by
  have h := (Keeps.refl s).popOnce
  exact nextIs_next (Keeps.ite (Keeps.ite (h.same rfl) h) (Keeps.refl s))

theorem execLaunchComplete_keeps {id : BitVec 12} : NextIs (Keeps s) (execLaunchComplete id s) := by
  refine nextIs_next ?_
  split
  · exact (Keeps.refl s).completeLaunch
  · exact Keeps.refl s

theorem Keeps.trapDue (h : Keeps s u) : Keeps s u.trapDue := by
  unfold State.trapDue
  cases ht : u.asyncTrap with
  | none => exact h
  | some v => exact h.asyncTrap ht

theorem execWatchdog_keeps : NextIs (Keeps s) (execWatchdog s) := by
  have h := Keeps.refl s
  refine nextIs_next (Keeps.ite (Keeps.trapDue ?_) h)
  exact h.setTask rfl

theorem execCroftDatapathCheck_keeps {q : Option (Fin 8)} : NextIs (Keeps s) (execCroftDatapathCheck q s) := by
  have h := Keeps.refl s
  refine nextIs_next (Keeps.ite h ?_)
  split
  · refine Keeps.trapDue ?_
    exact h.setTask rfl
  · split
    · refine Keeps.ite (Keeps.trapDue ?_) h
      exact h.setTask rfl
    · exact h

theorem execUncorrectableError_keeps {site : ErrorSite} : NextIs (Keeps s) (execUncorrectableError site s) := by
  have h := Keeps.refl s
  refine nextIs_next ?_
  split
  · exact Keeps.ite (h.same rfl) h
  · exact Keeps.ite (h.setTask rfl) h

theorem Keeps.correctedError (h : Keeps s u) {e : EccUnit} : Keeps s (u.correctedError e) := by
  have h1 : Keeps s { u with dev := { u.dev with corrected := u.dev.corrected.add e } } := h.same rfl
  unfold State.correctedError
  dsimp only
  refine Keeps.ite ?_ h1
  split
  · exact h1.logEvent
  · exact h1

theorem Keeps.evict (h : Keeps s u) : Keeps s u.evict :=
  Keeps.ite h.failLaunch (Keeps.ite h.abortRival (Keeps.ite h.failLaunch h.reexecute))

theorem execDieIsolation_keeps {d : Fin 16} : NextIs (Keeps s) (execDieIsolation d s) := by
  have h := Keeps.refl s
  have h1 : Keeps s { s with dev := { s.dev with isolated := s.dev.isolated ++ [d] } } := h.same rfl
  unfold execDieIsolation
  extract_lets dev s1 s2
  have h2 : Keeps s s2 := by
    simp only [s2]
    split
    · exact Keeps.logEvent h1
    · exact h1
  exact nextIs_next (Keeps.ite h (Keeps.ite h2.evict h2))

theorem execCurrentSample_keeps {n : Nat} : NextIs (Keeps s) (execCurrentSample n s) := nextIs_next ((Keeps.refl s).same rfl)

end
end Sys2Proof.Machine
end

section
/-! SUPPORT. The host port, the management commands and the SYS instructions keep what every step keeps (O60). -/

namespace Sys2Proof.Machine

section
variable {s u : State} {part : Fin 16}

/-! ### BAR2 and the registers of BAR0 (R416 to R423) -/

theorem Keeps.report (h : Keeps s u) {e : Aer} : Keeps s (u.report e) := h.same rfl
theorem Keeps.answerRead (h : Keeps s u) {bs : List Byte} : Keeps s (u.answerRead bs) := h.same rfl

theorem Keeps.bar2 (h : Keeps s u) {o n : Nat} {act : State → State} (ha : Keeps s (act u)) : Keeps s (u.bar2 part o n act) := by
  unfold State.bar2
  dsimp only
  exact Keeps.ite h.report (Keeps.ite ha ha.report)

theorem Keeps.hostBytes (h : Keeps s u) {p : Partition} {o n : Nat} : Keeps s (u.hostBytes p o n).1 := h.same rfl

theorem Keeps.bar2Read (h : Keeps s u) {o n : Nat} : Keeps s (u.bar2Read part o n) := h.bar2 h.hostBytes.answerRead

theorem Keeps.hostWrite (h : Keeps s u) {p : Partition} {o : Nat} {bs : List Byte} : Keeps s (u.hostWrite p o bs) := by
  unfold State.hostWrite
  dsimp only
  exact Keeps.ite h.writeRoot h

theorem Keeps.bar2Write (h : Keeps s u) {o : Nat} {bs : List Byte} : Keeps s (u.bar2Write part o bs) := h.bar2 h.hostWrite

theorem Keeps.bar2Atomic (h : Keeps s u) {o : Nat} {op : AtomicKind} {w : Bool} {v c : Word} : Keeps s (u.bar2Atomic part o op w v c) := by
  have hb := h.hostBytes (p := u.parts[part]) (o := o) (n := if w then 8 else 4)
  refine h.bar2 (Keeps.ite h.report (Keeps.answerRead ?_))
  split
  · exact hb.hostWrite
  · exact hb

theorem Keeps.bar2Make (h : Keeps s u) {i : Instr} : Keeps s (u.bar2Make i) := by
  unfold State.bar2Make
  split
  · exact h.bar2Read
  · exact h.bar2Write
  · exact h.bar2Atomic
  · exact h

theorem Keeps.hostAccess (h : Keeps s u) {i : Instr} : Keeps s (u.hostAccess i) := by
  unfold State.hostAccess
  split
  · exact h
  · exact Keeps.ite h (Keeps.ite (h.same rfl) h.bar2Make)

theorem Keeps.deliverPosted (h : Keeps s u) : Keeps s u.deliverPosted :=
  Keeps.foldl (fun hv _ => hv.hostAccess) _ (h.same (t := { u with posted := [] }) rfl)

theorem execTailWrite_keeps {c : Fin 64} {v : BitVec 32} : NextIs (Keeps s) (execTailWrite c v s) := by
  have h := Keeps.refl s
  exact nextIs_next (Keeps.ite h (Keeps.ite h.setRing h.setRing.msix))

theorem execRcfgWrite_keeps {c : Fin 64} {v : Word} : NextIs (Keeps s) (execRcfgWrite c v s) := by
  have h := Keeps.refl s
  exact nextIs_next (Keeps.ite h.setRing h)

theorem execEvcfgWrite_keeps {v : Word} : NextIs (Keeps s) (execEvcfgWrite part v s) := by
  have h := Keeps.refl s
  exact nextIs_next (Keeps.ite (h.setPart_cellar rfl) h)

theorem State.bar0Write_keeps {o : Nat} {v : Word} : NextIs (Keeps s) (s.bar0Write part o v) := by
  have h := Keeps.refl s
  unfold State.bar0Write
  dsimp only
  split
  · exact nextIs_next h
  · split
    · split
      · exact nextIs_next h
      · split
        · exact nextIs_next h.setRing
        · split
          · exact execRcfgWrite_keeps
          · split
            · exact execTailWrite_keeps
            · exact nextIs_next h
    · split
      · exact nextIs_next (h.setPart_cellar rfl)
      · split
        · exact execEvcfgWrite_keeps
        · split
          · exact nextIs_next (h.setPart_cellar rfl)
          · exact nextIs_next h

theorem execRegisterWrite_keeps {r : RegTarget} {v : Word} : NextIs (Keeps s) (execRegisterWrite r v s) := by
  cases r with
  | csr n => exact State.writeStep_keeps
  | bar0 p o => exact State.bar0Write_keeps

theorem Keeps.bar0Read (h : Keeps s u) {fn : Option (Fin 16)} {o : Nat} : Keeps s (u.bar0Read fn o) := by
  unfold State.bar0Read
  split
  · exact Keeps.ite (Keeps.answerRead (h.same (t := { u with fresh := u.fresh + 1 }) rfl)) h
  · exact h

theorem Keeps.configRequest (h : Keeps s u) : Keeps s u.configRequest := Keeps.ite h (h.same rfl)
theorem Keeps.setPcie (h : Keeps s u) {p : Pcie} : Keeps s (u.setPcie p) := Keeps.ite h.configRequest (Keeps.ite (h.same rfl) h)
theorem Keeps.badEcrc (h : Keeps s u) : Keeps s u.badEcrc := Keeps.ite h.report h

theorem execPtpLock_keeps {t : Word} : NextIs (Keeps s) (execPtpLock t s) := by
  have h := Keeps.refl s
  refine nextIs_next (Keeps.ite h ?_)
  split <;> exact h.same rfl

/-! ### Zeroing, Function Level Reset and bring-up (R371, R426, R427) -/

theorem Partition.range_le (p : Partition) : p.range.1 ≤ p.range.2 := Nat.mul_le_mul_right _ (Nat.le_add_right _ _)

theorem Mem.wf_zero {m : Mem} (h : m.wf = true) (p : Partition) : (m.replace p.range.1 p.range.2 []).wf = true :=
  Mem.wf_replace h (r := []) rfl (by simp) p.range_le

theorem Keeps.zeroPartition (h : Keeps s u) {p : Partition} : Keeps s (u.zeroPartition p) := by
  refine ⟨fun hs => ?_, h.2⟩
  obtain ⟨hmem, hhost, hpeer, hloft, hkept, hworlds, hparts⟩ := State.wf_iff.1 (h.1 hs)
  refine State.wf_iff.2 ⟨Mem.wf_zero hmem p, hhost, hpeer, hloft, hkept, fun w hw => ?_, hparts⟩
  obtain ⟨w', hw', rfl⟩ := List.mem_map.1 hw
  split
  · exact Mem.wf_nil
  · exact hworlds w' hw'

theorem Keeps.dropLaunches (h : Keeps s u) : Keeps s (u.dropLaunches part) := Keeps.foldl (fun hv _ => hv.dropLaunch) _ h
theorem Keeps.dropLate (h : Keeps s u) : Keeps s (u.dropLate part) := h.same rfl

theorem State.foldl_setRing_parts {g : Ring → Ring} (l : List (Fin 64)) : (l.foldl (fun s c => s.setRing c g) u).parts = u.parts := by
  induction l generalizing u with
  | nil => rfl
  | cons c l ih => exact ih

theorem Keeps.resetRings (h : Keeps s u) : Keeps s (u.resetRings part) := by
  refine Keeps.setPart_cellar (Keeps.foldl (fun hv _ => hv.setRing) _ h) ?_
  rw [State.foldl_setRing_parts]

theorem execFlr_keeps : NextIs (Keeps s) (execFlr part s) := by
  have h := Keeps.refl s
  exact nextIs_next (Keeps.ite h.dropLaunches.dropLate.resetRings.zeroPartition h)

theorem Keeps.measure (h : Keeps s u) {k : Fin 4} {m : List Byte} : Keeps s (u.measure k m) := h.same rfl
theorem Keeps.measureSet (h : Keeps s u) {k : Fin 4} {x : XSet} : Keeps s (u.measureSet k x) := h.measure.measure

theorem Keeps.configure (h : Keeps s u) {c : PartCfg} : Keeps s (u.configure c) := by
  refine Keeps.measure (Keeps.zeroPartition (h.setPart_cellar ?_))
  rfl

theorem Keeps.configureStored : ∀ (l : List PartCfg) {done : List PartCfg} {u : State}, Keeps s u →
    Keeps s (State.configureStored done l u)
  | [], _, _, h => h
  | _ :: l, _, _, h => Keeps.ite (Keeps.configureStored l h.configure) (Keeps.configureStored l h)

/-- After power-on only device, host and peer memory hold anything. -/
theorem Keeps.cold (h : Keeps s u) : Keeps s u.cold := by
  refine ⟨fun hs => ?_, h.2⟩
  obtain ⟨hmem, hhost, hpeer, -⟩ := State.wf_iff.1 (h.1 hs)
  have hkept : u.cold.keptTasks = [] := rfl
  have hworlds : u.cold.worlds = [] := rfl
  refine State.wf_iff.2 ⟨hmem, hhost, hpeer, Mem.wf_nil, by simp [hkept], by simp [hworlds], fun p hp c hc => ?_⟩
  have hp' : p ∈ (Vector.replicate 16 Partition.absent).toList := hp
  rw [Vector.toList_replicate] at hp'
  rw [List.eq_of_mem_replicate hp'] at hc
  cases hc

theorem Keeps.bring (h : Keeps s u) {b : Boot} : Keeps s (u.bring b) := by
  have h1 : Keeps s { u with dev := { u.dev with slots := u.dev.imageSlots b, isolated := b.badDies } } := h.same rfl
  have h2 := Keeps.configureStored b.parts (done := []) (h1.measureSet (k := 0) (x := b.set0))
  refine Keeps.foldl (fun hv _ => hv.setPort.portEvent) _ (Keeps.foldl (fun hv d => ?_) _ (h2.same rfl))
  split
  · exact hv.logEvent
  · exact hv

theorem Keeps.dark (h : Keeps s u) : Keeps s { u with dev := { u.dev with dark := true } } := h.same rfl

theorem execReset_keeps {b : Boot} : NextIs (Keeps s) (execReset b s) := by
  have h := (Keeps.refl s).cold
  have e : execReset = execReset := rfl
  conv_rhs at e => delta execReset
  rw [e]
  clear e
  generalize State.cold = cold at h ⊢
  have h1 : Keeps s { cold s with out := { (cold s).out with retries := (cold s).out.retries + b.requests } } := h.same rfl
  have h2 := h1.measure (k := 0) (m := b.firmware)
  have h3 := h2.measure (k := 0) (m := b.firmware)
  beta_reduce
  extract_lets s0 dark early measured
  refine nextIs_next ?_
  split
  · exact h1.dark
  · split
    · exact h2.bring
    · split
      · exact h3.bring
      · exact h3.dark

/-! ### Pre-emption and the Cellar (R395, R413 to R415) -/

theorem Keeps.answer (h : Keeps s u) {n : Nat} : Keeps s (u.answer n) := h.same rfl
theorem Keeps.unitWrite (h : Keeps s u) {a : Nat} {bs : List Byte} : Keeps s (u.unitWrite part a bs) := Keeps.ite h.post h

theorem Keeps.servePreempt (h : Keeps s u) : Keeps s u.servePreempt := by
  unfold State.servePreempt
  split
  · split
    · exact h.preemptAt ‹_›
    · exact h.answered
  · exact h

theorem execPreempt_keeps {L : Option (BitVec 12)} : NextIs (Keeps s) (execPreempt part L s) := by
  have h := Keeps.refl s
  refine nextIs_next (Keeps.ite h.answer (Keeps.ite (Keeps.answer (Keeps.servePreempt (h.setPart_cellar ?_))) h.answer))
  rfl

theorem Keeps.cellarEvent (h : Keeps s u) {a : Nat} {b : List Word} : Keeps s (u.cellarEvent part a b) := by
  refine h.setPart fun hs c hc => ?_
  cases hc
  exact Mem.wf_of_wfFrom (Mem.wfFrom_shiftDown (Mem.wfFrom_slice (State.wf_mem (h.1 hs)) _ _) (Nat.le_refl _))

theorem execCellar_keeps {a : Word} : NextIs (Keeps s) (execCellar part a s) := by
  have h := Keeps.refl s
  refine nextIs_next ?_
  split
  · exact h.answer
  · exact Keeps.ite h.answer (Keeps.ite h.unitWrite.answer h.cellarEvent.answer)

theorem Keeps.withPeer (h : Keeps s u) {m : Mem} (hm : s.wf = true → m.wf = true) : Keeps s { u with peer := m } := by
  refine ⟨fun hs => ?_, h.2⟩
  obtain ⟨hmem, hhost, -, hrest⟩ := State.wf_iff.1 (h.1 hs)
  exact State.wf_iff.2 ⟨hmem, hhost, hm hs, hrest⟩

theorem Mem.wf_ite {m r : Mem} {c : Prop} [Decidable c] (hm : m.wf = true) (hr : r.wf = true) : (if c then m else r).wf = true := by
  split
  · exact hm
  · exact hr

/-- A granule of a snapshot moved to the target. -/
theorem Mem.wfFrom_granule {m : Mem} (h : m.wf = true) (off d : Nat) :
    Mem.wfFrom (d + off) (Mem.shiftUp (m.slice off (off + 4096)) d) = true := by
  rw [Nat.add_comm]; exact Mem.wfFrom_shiftUp (Mem.wfFrom_slice h _ _)

theorem Cellar.target_add (c : Cellar) (off : Nat) : c.target off = c.target 0 + off := by
  unfold Cellar.target peerKey; omega

theorem Keeps.drainGranule (h : Keeps s u) {g : Nat} : Keeps s (u.drainGranule part g) := by
  unfold State.drainGranule
  extract_lets p off
  split
  · exact h
  · rename_i c hc
    split
    · extract_lets gone cells s1
      have hsnap : s.wf = true → c.snapshot.wf = true := fun hs => State.wf_cellar (h.1 hs) part hc
      have h1 : Keeps s s1 := h.setPart fun hs k hk => by cases hk; exact hsnap hs
      refine Keeps.foldl (fun hv _ => hv.logLine) _ (h1.withPeer fun hs => ?_)
      have hcells : Mem.wfFrom (c.target off) cells = true ∧ ∀ k ∈ cells, k.1 < c.target (off + 4096) := by
        simp only [cells]
        split
        · exact ⟨rfl, by simp⟩
        · refine ⟨?_, fun k hk => ?_⟩
          · rw [Cellar.target_add]; exact Mem.wfFrom_granule (hsnap hs) off (c.target 0)
          · obtain ⟨d, hd, rfl⟩ := List.mem_map.1 hk
            have := Mem.slice_lt _ _ _ d hd
            rw [Cellar.target_add c (off + 4096)]
            dsimp only
            omega
      refine Mem.wf_replace (State.wf_peer (h1.1 hs)) hcells.1 hcells.2 ?_
      rw [Cellar.target_add, Cellar.target_add c (off + 4096)]
      omega
    · exact h

theorem Mem.wf_foldl_put {d : Nat} : ∀ (l : List Host.Cell) {m : Mem}, m.wf = true → (l.foldl (fun m k => m.put (d + k.1) k.2) m).wf = true
  | [], _, h => h
  | _ :: l, _, h => Mem.wf_foldl_put l (Mem.wf_put h (Nat.zero_le _))

theorem Keeps.drainRest (h : Keeps s u) : Keeps s (u.drainRest part) := by
  have h1 : Keeps s ((u.lossy part).foldl (fun s g => s.drainGranule part g) u) := Keeps.foldl (fun hv _ => hv.drainGranule) _ h
  unfold State.drainRest
  extract_lets s1 p
  change Keeps s s1 at h1
  split
  · exact h1
  · exact h1.withPeer fun hs => Mem.wf_foldl_put _ (Mem.wf_filter (State.wf_peer (h1.1 hs)))

theorem Keeps.cellarEnd (h : Keeps s u) {c : Cellar} {n : Nat} : Keeps s (u.cellarEnd part c n) := by
  refine Keeps.logEvent (Keeps.unitWrite (h.setPart fun _ k hk => ?_))
  cases hk

theorem execCellarDrainEnd_keeps : NextIs (Keeps s) (execCellarDrainEnd part s) := by
  have h := Keeps.refl s
  unfold execCellarDrainEnd
  extract_lets s0 p
  have h0 : Keeps s s0 := Keeps.ite h h.drainRest
  refine nextIs_next ?_
  split
  · exact h0
  · rename_i c _
    extract_lets m at_ s1
    have h1 : Keeps s s1 := h0.withPeer fun hs => Mem.wf_putBytes (State.wf_peer (h0.1 hs)) _ _
    exact (Keeps.unitWrite (h1.setPart fun _ k hk => nomatch (hk : none = some k))).cellarEnd

theorem execTargetUnreachable_keeps : NextIs (Keeps s) (execTargetUnreachable part s) := by
  have h := Keeps.refl s
  refine nextIs_next ?_
  split
  · exact h
  · exact h.cellarEnd

/-! ### Firmware, power, partitions and sets (R83, R370, R373, R375, R424) -/

theorem Keeps.firmware (h : Keeps s u) {pa n : Nat} {bs : Option (List Byte)} : Keeps s (u.firmware part pa n bs) := by
  unfold State.firmware
  dsimp only
  refine Keeps.ite h ?_
  split
  · exact Keeps.ite h (h.same rfl)
  · exact Keeps.ite (h.same rfl) (Keeps.ite h h.writeRoot)

theorem Keeps.lost (h : Keeps s u) : Keeps s u.lost := by
  refine ⟨fun hs => ?_, h.2⟩
  obtain ⟨-, hrest⟩ := State.wf_iff.1 (h.cold.1 hs)
  exact State.wf_iff.2 ⟨Mem.wf_nil, hrest⟩

theorem execPower_keeps {p : PowerState} : NextIs (Keeps s) (execPower p s) := by
  have h := Keeps.refl s
  refine nextIs_next (Keeps.ite h.answer ?_)
  cases p with
  | run => exact h.same rfl
  | idle => exact Keeps.ite h.answer (h.same rfl)
  | nap => exact Keeps.ite (h.same rfl) h.answer
  | off => exact h.lost.answer

theorem Keeps.goIdle (h : Keeps s u) : Keeps s u.goIdle := Keeps.ite (h.same rfl) h
theorem Keeps.dropCached (h : Keeps s u) {f : Fin 64 → Bool} : Keeps s (u.dropCached f) := h.same rfl

theorem execPartition_keeps {cs : List PartCfg} : NextIs (Keeps s) (execPartition cs s) := by
  have h := Keeps.refl s
  exact nextIs_next (Keeps.ite (Keeps.answer (Keeps.foldl (fun hv _ => hv.configure) _ h.dropCached)) h.answer)

theorem execCap_keeps {n : Nat} : NextIs (Keeps s) (execCap n s) := by
  have h := Keeps.refl s
  exact nextIs_next (Keeps.ite (h.same rfl) h.answer)

theorem execAttest_keeps {a : Word} : NextIs (Keeps s) (execAttest part a s) := by
  have h := Keeps.refl s
  refine nextIs_next ?_
  split
  · exact h.answer
  · exact h.attestAsk.answer

theorem Keeps.lanternStep (h : Keeps s u) : Keeps s (u.lanternStep part) := by
  unfold State.lanternStep
  split
  · exact h
  · have h1 : Keeps s (u.setPart part { u.parts[part] with attest := none }) := h.setPart_cellar rfl
    exact Keeps.ite h1.attestWrite.attestWrite h1.attestWrite

theorem Keeps.setSlot (h : Keeps s u) {k : Fin 4} {x : Option XSet} : Keeps s (u.setSlot k x) := h.same rfl

theorem execXunload_keeps {k : Fin 4} : NextIs (Keeps s) (execXunload k s) := by
  have h := Keeps.refl s
  exact nextIs_next (Keeps.ite h.setSlot.dropSlot.answer h.answer)

theorem execExpansionSetLoad_keeps {k : Fin 4} {x : XSet} {b : Bool} : NextIs (Keeps s) (execExpansionSetLoad k x b s) := by
  have h := Keeps.refl s
  exact nextIs_next (Keeps.ite h.setSlot.dropSlot.measureSet h)

/-! ### Lifecycle and debug levels (R376 to R379) -/

theorem Keeps.measure3 (h : Keeps s u) : Keeps s u.measure3 := h.same rfl

theorem Task.zeroised_wf (t : Task) : t.zeroised.loft.wf = true := Mem.wf_nil

theorem Saved.loftWf_zeroised (e : Saved) : (e.onTask Task.zeroised).loftWf := by
  cases e with
  | task t => exact Task.zeroised_wf t
  | again e n => trivial

/-- What RETURN zeroises is in canonical form whatever it was. -/
theorem Keeps.zeroiseAll (h : Keeps s u) : Keeps s u.zeroiseAll := by
  refine ⟨fun hs => ?_, h.2⟩
  obtain ⟨-, hhost, hpeer, -⟩ := State.wf_iff.1 (h.1 hs)
  refine State.wf_iff.2 ⟨Mem.wf_nil, hhost, hpeer, Mem.wf_nil, State.keptTasks_wf_iff.2 fun L hL => ?_, fun w hw => ?_, fun p hp c hc => ?_⟩
  · obtain ⟨M, -, rfl⟩ := List.mem_map.1 hL
    refine Launch.keptWf_iff.2 ⟨fun e he => ?_, fun e he => ?_, fun p hp => ?_⟩
    · obtain ⟨e', -, rfl⟩ := List.mem_map.1 he
      exact Saved.loftWf_zeroised e'
    · obtain ⟨e', -, rfl⟩ := List.mem_map.1 he
      exact Saved.loftWf_zeroised e'
    · obtain ⟨p', -, rfl⟩ := List.mem_map.1 hp
      exact Task.zeroised_wf p'.task
  · obtain ⟨w', -, rfl⟩ := List.mem_map.1 hw
    exact Mem.wf_nil
  · have hp' : p ∈ (u.parts.map fun p => { p with cellar := p.cellar.map fun c => { c with snapshot := [], lost := [] } }).toList := hp
    rw [Vector.toList_map] at hp'
    obtain ⟨q, -, rfl⟩ := List.mem_map.1 hp'
    obtain ⟨k, -, rfl⟩ := Option.map_eq_some_iff.1 hc
    exact Mem.wf_nil

theorem execLifecycleAdvance_keeps {l : Lifecycle} : NextIs (Keeps s) (execLifecycleAdvance l s) := by
  have h := Keeps.refl s
  have h1 : Keeps s { s with dev := s.dev.enter l (s.freeBytes 32), fresh := s.fresh + 32 } := h.same rfl
  exact nextIs_next (Keeps.ite (Keeps.ite h1.measure3.zeroiseAll h1.measure3) h)

theorem Keeps.setDebug (h : Keeps s u) {l : DebugLevel} : Keeps s (u.setDebug part l) := by
  have h1 : Keeps s (u.setPart part { u.parts[part] with debug := l, invasiveOnce := u.parts[part].invasiveOnce || l == .invasive }) :=
    h.setPart_cellar rfl
  exact Keeps.ite h1.measure3 h1

theorem Keeps.issueNonce (h : Keeps s u) {n : Nat} : Keeps s (u.issueNonce n) := Keeps.ite (h.same rfl) h

theorem execDebugToken_keeps {t : DebugToken} : NextIs (Keeps s) (execDebugToken t s) := by
  have h := Keeps.refl s
  have h1 : Keeps s { s with dev := { s.dev with usedNonces := t.nonce :: s.dev.usedNonces } } := h.same rfl
  exact nextIs_next (Keeps.ite h1.zeroPartition.setDebug h)

theorem execDebugLevelChange_keeps {l : DebugLevel} : NextIs (Keeps s) (execDebugLevelChange part l s) := by
  have h := Keeps.refl s
  exact nextIs_next (Keeps.ite h.setDebug h)

end

section
variable {s u : State}

/-! ### SYS and orbits (R247, R248, R368, R369, R387 to R389, R185) -/

theorem execFence_keeps {c : Scope} {e b : Bool} : NextIs (Keeps s) (execFence c e b s) := by
  have h := Keeps.refl s
  exact nextIs_settle h (Res.all_untilVe.bind fun _ _ => Res.all_until.bind fun _ _ => h.advance)

theorem execIflush_keeps {a b : XReg} : NextIs (Keeps s) (execIflush a b s) := by
  have h := Keeps.refl s
  refine nextIs_settle h (Res.all_until.bind fun _ _ => Res.all_ok (Keeps.advance (Keeps.ite (h.same rfl) ?_)))
  exact h.same rfl

theorem State.request_keeps {c : Cause} : NextIs (Keeps s) (s.request c) := nextIs_next (Keeps.refl s).advance.takeTrap

theorem Keeps.privileged (h : Keeps s u) {i : Instr} : (u.privileged i).All (Keeps s) fun _ => True := Res.all_need h

theorem execTret_keeps : NextIs (Keeps s) (execTret s) := by
  have h := Keeps.refl s
  exact nextIs_settle h (h.privileged.bind fun _ _ => h.trapReturn)

theorem execWaiti_keeps : NextIs (Keeps s) (execWaiti s) := by
  have h := Keeps.refl s
  exact nextIs_settle h (h.privileged.bind fun _ _ => Res.all_until.bind fun _ _ => h.advance)

theorem Keeps.harvestCheck (h : Keeps s u) {a : Word} : (u.harvestCheck a).All (Keeps s) fun r => Keeps s r.1 := by
  refine (Res.all_ofChk h Chk.all_true).bind fun _ _ => Res.All.bind (Q := fun _ => True) ?_ fun _ _ => h.openAt
  split
  · exact (Res.all_ofChk h Chk.all_true).bind fun _ _ => Res.all_need h
  · trivial

theorem Keeps.harvestOne (h : Keeps s u) {p : Place} {j : Nat} : Keeps s (u.harvestOne p j) :=
  Keeps.writePlace (h.same (t := u.harvestClear j) rfl)

theorem execHarvest_keeps {a b : XReg} : NextIs (Keeps s) (execHarvest a b s) := by
  have h := Keeps.refl s
  refine nextIs_settle h (h.privileged.bind fun _ _ => (Res.all_need h).bind fun _ _ => (Res.all_need h).bind fun _ _ =>
    (Res.all_need h).bind fun _ _ => Res.all_undo h (Res.All.bind (Q := fun r => Keeps s r.1) ?_ fun r hr =>
      Res.all_until.bind fun _ _ => Res.all_ok ?_))
  · exact Res.All.each (R := fun r : State × List Place => Keeps s r.1) (fun r j hr => (Keeps.harvestCheck hr).bind fun _ hv =>
      Res.all_ok hv) _ h
  · exact Keeps.advance (Keeps.foldl (fun hv _ => hv.harvestOne) _ hr)

theorem execTlbinv_keeps {a b : XReg} : NextIs (Keeps s) (execTlbinv a b s) := by
  have h := Keeps.refl s
  refine nextIs_settle h (h.privileged.bind fun _ _ => Res.all_ok (Keeps.advance ?_))
  exact h.same rfl

theorem State.orbEval_keeps {d a b : XReg} {f : Nat × Int × Nat → Word} : NextIs (Keeps s) (s.orbEval d a b f) := by
  have h := Keeps.refl s
  refine nextIs_settle h (h.readRecord.bind fun r hr => (Res.all_need hr).bind fun _ _ => (Res.all_need hr).bind fun _ _ => Res.all_ok ?_)
  exact Keeps.advance (Keeps.setX hr)

end
end Sys2Proof.Machine
end

section
/-! SUPPORT. Every instruction and every turn keeps the canonical form of every memory; O60. -/

namespace Sys2Proof.Machine

section
variable {s u : State}

theorem execJal_keeps {d : XReg} {i : BitVec 21} : NextIs (Keeps s) (execJal d i s) := nextIs_next (Keeps.refl s).setX.jump
theorem execJalr_keeps {d a : XReg} {i : BitVec 16} : NextIs (Keeps s) (execJalr d a i s) := nextIs_next (Keeps.refl s).setX.jump

theorem execSkset_keeps {a : XReg} {k : Fin 16} : NextIs (Keeps s) (execSkset a k s) := nextIs_next (Keeps.refl s).setStook.advance
theorem execSkadd_keeps {a : XReg} {k : Fin 16} : NextIs (Keeps s) (execSkadd a k s) := nextIs_next (Keeps.refl s).setStook.advance

theorem execGrandmasterLost_keeps : NextIs (Keeps s) (execGrandmasterLost s) := nextIs_next ((Keeps.refl s).same rfl)
theorem execLossOfPower_keeps : NextIs (Keeps s) (execLossOfPower s) := nextIs_next (Keeps.refl s).lost
theorem execTrap_keeps : NextIs (Keeps s) (execTrap s) := nextIs_next (Keeps.refl s).trapDue
theorem execChunkAttempt_keeps {q : Fin 8} : NextIs (Keeps s) (execChunkAttempt q s) := nextIs_next (Keeps.refl s).streamStep

theorem execRekeyFrame_keeps {j : Fin 32} {f : Frame} : NextIs (Keeps s) (execRekeyFrame j f s) :=
  nextIs_next ((Keeps.refl s).receive fun hv => Keeps.ite hv.rekey hv)

theorem execNackFrame_keeps {j : Fin 32} {f : Frame} : NextIs (Keeps s) (execNackFrame j f s) :=
  nextIs_next ((Keeps.refl s).receive fun hv => hv.resend)

theorem execPortBringUp_keeps {j : Fin 32} {n : Nat} {d : Word} : NextIs (Keeps s) (execPortBringUp j n d s) :=
  nextIs_next (Keeps.ite (Keeps.refl s).bringUp (Keeps.refl s))

/-- Every instruction keeps the form: by the families of the model's files. -/
theorem exec_keeps (i : Instr) : NextIs (Keeps s) (exec i s) := by
  have h := Keeps.refl s
  cases i <;> unfold exec
  case add | sub | andR | orR | xorR | sll | srl | sra | slt | sltu | min | max | minu | maxu | mul | mhis | mhiu | div | divu | rem | remu
    | clz | ctz | popc | sel | addi | andi | ori | xori | slti | sltiu | slli | srli | srai | lui | luipc | wid | getshp =>
    exact State.result_keeps
  case lb | lbu | lh | lhu | lw | lwu | ld => exact State.loadInto_keeps
  case sb | sh | sw | sd => exact State.storeFrom_keeps
  case amoswap | amoadd | amoand | amoor | amoxor | amomin | amomax | amominu | amomaxu | amocas => exact State.amo_keeps
  case amofadd => exact execAmofadd_keeps
  case fence => exact execFence_keeps
  case iflush => exact execIflush_keeps
  case svreq | dbgbrk => exact State.request_keeps
  case tret => exact execTret_keeps
  case waiti => exact execWaiti_keeps
  case harvest => exact execHarvest_keeps
  case tlbinv => exact execTlbinv_keeps
  case beq | bne | blt | bge | bltu | bgeu => exact State.branch_keeps
  case jal => exact execJal_keeps
  case jalr => exact execJalr_keeps
  case loop | loopi => exact State.loopSet_keeps
  case pushm => exact execPushm_keeps
  case popm => exact execPopm_keeps
  case spawn => exact execSpawn_keeps
  case join => exact execJoin_keeps
  case jinit => exact execJinit_keeps
  case exit => exact execExit_keeps
  case yield => exact execYield_keeps
  case waitt => exact execWaitt_keeps
  case forkw => exact execForkw_keeps
  case yieldw => exact execYieldw_keeps
  case choose => exact execChoose_keeps
  case abortw => exact execAbortw_keeps
  case setshp => exact execSetshp_keeps
  case mxq => exact execMxq_keeps
  case cpq => exact execCpq_keeps
  case clq => exact execClq_keeps
  case strm => exact execStrm_keeps
  case unstrm => exact execUnstrm_keeps
  case qbind => exact execQbind_keeps
  case engseq => exact execEngseq_keeps
  case skwait => exact execSkwait_keeps
  case skadd => exact execSkadd_keeps
  case skset => exact execSkset_keeps
  case skrd => exact execSkrd_keeps
  case wpwait => exact execWpwait_keeps
  case csrr | csrw | csrs | csrc => exact State.csrAccess_keeps
  case fadd | fsub | fmul | fdiv | fsqrt | fcvtfi | fcvtif | fmadd => exact State.fpsRound_keeps
  case fmin | fmax => exact State.fpsPlain_keeps
  case flt | feq | fle => exact State.fcmp_keeps
  case fcvtff => exact execFcvtff_keeps
  case orboff | orbsgn | orbmul => exact State.orbEval_keeps
  case vext => exact State.dispatchVext_keeps
  case vld | vldb => exact State.loadDense_keeps
  case vldo => exact execVldo_keeps
  case vst => exact execVst_keeps
  case vsto => exact execVsto_keeps
  case mma | dist | topk | drain | loadacc => exact State.thrKindStep_keeps
  case stampOverrun => exact execStampOverrun_keeps
  case copyCmd | fillCmd | gatherCmd | scatterCmd | packoCmd | unpackoCmd => exact State.copyKindStep_keeps
  case allreduce | reducescatter | allgather | broadcast | sendCmd | recvCmd => exact State.collStep_keeps
  case collectiveTimeout => exact execCollectiveTimeout_keeps
  case chunkAttempt => exact execChunkAttempt_keeps
  case launchPacket => exact execLaunchPacket_keeps
  case pop => exact execPop_keeps
  case launchComplete => exact execLaunchComplete_keeps
  case watchdog => exact execWatchdog_keeps
  case trap => exact execTrap_keeps
  case dieIsolation => exact execDieIsolation_keeps
  case dataFrame | ackFrame | idleFrame => exact nextIs_next (h.receive fun hv => hv)
  case nackFrame => exact execNackFrame_keeps
  case rekeyFrame => exact execRekeyFrame_keeps
  case keyRenewal => exact execKeyRenewal_keeps
  case portBringUp => exact execPortBringUp_keeps
  case bar2Read | bar2Write | atomicop => exact nextIs_next h.hostAccess
  case flr => exact execFlr_keeps
  case reset => exact execReset_keeps
  case ptpLock => exact execPtpLock_keeps
  case tailWrite => exact execTailWrite_keeps
  case rcfgWrite => exact execRcfgWrite_keeps
  case evcfgWrite => exact execEvcfgWrite_keeps
  case registerWrite => exact execRegisterWrite_keeps
  case fctlWrite | slipWrite | lcfgWrite | loopRegisterWrite | xsetWrite | dseedWrite | lsubWrite | lendWrite | attreqWrite
    | fwgrantWrite => exact State.writeStep_keeps
  case statusWrite => exact execStatusWrite_keeps
  case preempt => exact execPreempt_keeps
  case cellar => exact execCellar_keeps
  case cellarDrainEnd => exact execCellarDrainEnd_keeps
  case targetUnreachable => exact execTargetUnreachable_keeps
  case power => exact execPower_keeps
  case partition => exact execPartition_keeps
  case cap => exact execCap_keeps
  case attest => exact execAttest_keeps
  case xunload => exact execXunload_keeps
  case currentSample => exact execCurrentSample_keeps
  case lifecycleAdvance => exact execLifecycleAdvance_keeps
  case debugToken => exact execDebugToken_keeps
  case grandmasterLost => exact execGrandmasterLost_keeps
  case lossOfPower => exact execLossOfPower_keeps
  case expansionSetLoad => exact execExpansionSetLoad_keeps
  case uncorrectableError => exact execUncorrectableError_keeps
  case croftDatapathCheck => exact execCroftDatapathCheck_keeps
  case debugLevelChange => exact execDebugLevelChange_keeps
  all_goals exact State.dispatch_keeps

/-! ### The sequencer and the other agents (log 3) -/

theorem Keeps.fillBlock (h : Keeps s u) {sup : Bool} {a : Word} : Keeps s (u.fillBlock sup a) := by
  unfold State.fillBlock
  dsimp only
  refine Keeps.ite h ?_
  split
  · exact h.same rfl
  · exact h

theorem Keeps.beginFrame (h : Keeps s u) : Keeps s u.beginFrame := h.setTask rfl

/-- What an instruction does from a state that keeps the form keeps it. -/
theorem Keeps.exec (h : Keeps s u) (i : Instr) : NextIs (Keeps s) (exec i u) := fun t ht => h.trans (exec_keeps i t ht)

theorem Keeps.fetchRun (h : Keeps s u) : NextIs (Keeps s) u.fetchRun := by
  unfold State.fetchRun
  split
  · exact nextIs_next h.fault
  · exact nextIs_next h
  · exact nextIs_fault
  · dsimp only
    split
    · exact nextIs_next h.fillBlock.beginFrame.fault
    · exact h.fillBlock.beginFrame.exec _

theorem Keeps.raiseWatchdog (h : Keeps s u) : Keeps s u.raiseWatchdog := Keeps.ite (h.setTask rfl) h

theorem Keeps.seqStep (h : Keeps s u) : NextIs (Keeps s) u.seqStep := by
  unfold State.seqStep
  split
  · exact nextIs_next h
  · split
    · exact h.exec _
    · split
      · exact nextIs_next h.servePreempt
      · dsimp only
        split
        · exact nextIs_next (h.raiseWatchdog.asyncTrap ‹_›)
        · exact h.raiseWatchdog.fetchRun

theorem Keeps.fillTlb (h : Keeps s u) {a : Word} : Keeps s (u.fillTlb a) := by
  unfold State.fillTlb
  dsimp only
  refine Keeps.ite h ?_
  split
  · exact h.same rfl
  · exact h

theorem Keeps.dropBlock (h : Keeps s u) {a : Word} : Keeps s (u.dropBlock a) := Keeps.ite h (h.same rfl)
theorem Keeps.dropLine (h : Keeps s u) {a : Word} : Keeps s (u.dropLine a) := Keeps.ite h (h.same rfl)
theorem Keeps.dropTlb (h : Keeps s u) {a : Word} : Keeps s (u.dropTlb a) := h.same rfl
theorem Keeps.slew (h : Keeps s u) {n : Nat} {d : Int} : Keeps s (u.slew n d) := Keeps.ite (h.tick.same rfl) h.tick

theorem Keeps.turn (h : Keeps s u) (t : Turn) : NextIs (Keeps s) (u.turn t) := by
  cases t with
  | sequencer => exact h.seqStep
  | ve => exact nextIs_next h.veStep
  | store => exact nextIs_next h.storeStep
  | thresher => exact nextIs_next h.thrStep
  | copy k => exact nextIs_next h.copyStep
  | stream q => exact nextIs_next h.streamStep
  | lantern p => exact nextIs_next (Keeps.ite h.lanternStep h)
  | event i =>
    change NextIs (Keeps s) (if isStep i then Machine.exec i u else .next u)
    split
    · exact h.exec i
    · exact nextIs_next h
  | corrected e => exact nextIs_next (Keeps.ite h.correctedError h)
  | tlbFill a => exact nextIs_next h.fillTlb
  | opFill a => exact nextIs_next (Keeps.ite h.fillBlock h)
  | tlbDrop a => exact nextIs_next h.dropTlb
  | opDrop a => exact nextIs_next h.dropBlock
  | lineDrop a => exact nextIs_next h.dropLine
  | drain p g => exact nextIs_next h.drainGranule
  | idle => exact nextIs_next h.goIdle
  | nonce n => exact nextIs_next h.issueNonce
  | badFrame j k f => exact nextIs_next h.badFrame
  | firmware p a n bs => exact nextIs_next h.firmware
  | bar0Read p o => exact nextIs_next h.bar0Read
  | pcie p => exact nextIs_next h.setPcie
  | config => exact nextIs_next h.configRequest
  | badEcrc => exact nextIs_next h.badEcrc
  | cycles n => exact nextIs_next h.tick
  | slew n d => exact nextIs_next h.slew

theorem Keeps.engines (h : Keeps s u) : Keeps s u.engines :=
  Keeps.foldl (fun hv _ => hv.streamStep) _ (Keeps.foldl (fun hv _ => hv.copyStep) _ h.veStep.storeStep.thrStep)

theorem State.round_keeps : NextIs (Keeps s) s.round := by
  unfold State.round
  split
  · exact execLaunchPacket_keeps
  · split
    · exact nextIs_next (Keeps.refl s).completeLaunch
    · split
      · exact (Keeps.refl s).engines.seqStep
      · exact execPop_keeps

theorem Keeps.finish (h : Keeps s u) : Keeps s u.finish := h.tick.deliverLate.deliverPosted.mendGroups

theorem nextIs_onNext {f : State → State} {r : Result} (hf : ∀ {v}, Keeps s v → Keeps s (f v)) (hr : NextIs (Keeps s) r) :
    NextIs (Keeps s) (onNext f r) := by
  cases r with
  | next v => exact nextIs_next (hf (hr v rfl))
  | fault f => exact nextIs_fault
  | refused f => exact fun _ e => nomatch e

theorem State.move_keeps : NextIs (Keeps s) s.move := by
  refine nextIs_onNext (fun hv => hv.finish) ?_
  split
  · exact State.round_keeps
  · refine Keeps.turn ?_ _
    exact (Keeps.refl s).same rfl

end

/-- Settles O60: every operation of the model keeps the form, so every instruction and every turn does; no operation writes the column
maxima, and power-on copies them. -/
theorem stepKeepsWf : Obligations.StepKeepsWf := by
  unfold Obligations.StepKeepsWf
  exact fun s t ht => State.move_keeps t ht

end Sys2Proof.Machine
end

section
/-! SUPPORT. The zero word alone decodes to the fault of the zero word (R79), and what a step at a boundary does (O57). -/

namespace Sys2Proof

section
variable {w n : Nat} {sup b : Bool} {k : Decoded}

/-! ### The zero word (R79) -/

@[simp] theorem zeroField_eq_zeroWord : zeroField n k = .fault .zeroWord ↔ n = 0 ∧ k = .fault .zeroWord := by
  unfold zeroField; split <;> simp [*]

@[simp] theorem needField_eq_zeroWord : needField b k = .fault .zeroWord ↔ b = true ∧ k = .fault .zeroWord := by
  unfold needField; split <;> simp [*]

@[simp] theorem superOnly_eq_zeroWord : superOnly sup k = .fault .zeroWord ↔ sup = true ∧ k = .fault .zeroWord := by
  unfold superOnly; split <;> simp [*]

theorem vcheck_ne_zeroWord {cs : List Nat} {d : Nat} (hk : k ≠ .fault .zeroWord) : vcheck cs d k ≠ .fault .zeroWord := by
  unfold vcheck
  split
  · simp
  · split
    · simp
    · exact hk

@[simp] theorem vcheck_instr_ne_zeroWord {cs : List Nat} {d : Nat} {i : Instr} : vcheck cs d (.instr i) ≠ .fault .zeroWord :=
  vcheck_ne_zeroWord (by simp)

/-! The formats, then the families: each answers an instruction, or a fault of its own checks. -/

@[simp] theorem decR3_ne_zeroWord {f} : decR3 w f ≠ .fault .zeroWord := by simp [decR3]
@[simp] theorem decR2_ne_zeroWord {f} : decR2 w f ≠ .fault .zeroWord := by simp [decR2]
@[simp] theorem decRd_ne_zeroWord {f} : decRd w f ≠ .fault .zeroWord := by simp [decRd]
@[simp] theorem decRa_ne_zeroWord {f} : decRa w f ≠ .fault .zeroWord := by simp [decRa]
@[simp] theorem decRab_ne_zeroWord {f} : decRab w f ≠ .fault .zeroWord := by simp [decRab]
@[simp] theorem decI_ne_zeroWord {f} : decI w f ≠ .fault .zeroWord := by simp [decI]
@[simp] theorem decB_ne_zeroWord {f} : decB w f ≠ .fault .zeroWord := by simp [decB]
@[simp] theorem decJ_ne_zeroWord {f} : decJ w f ≠ .fault .zeroWord := by simp [decJ]
@[simp] theorem decV1_ne_zeroWord {f} : decV1 w f ≠ .fault .zeroWord := by simp [decV1]
@[simp] theorem decV2_ne_zeroWord {f} : decV2 w f ≠ .fault .zeroWord := by simp [decV2]
@[simp] theorem decV3_ne_zeroWord {f} : decV3 w f ≠ .fault .zeroWord := by simp [decV3]
@[simp] theorem decXs_ne_zeroWord {f} : decXs w f ≠ .fault .zeroWord := by simp [decXs]
@[simp] theorem decXst_ne_zeroWord {f} : decXst w f ≠ .fault .zeroWord := by simp [decXst]
@[simp] theorem decUs_ne_zeroWord {f} : decUs w f ≠ .fault .zeroWord := by simp [decUs]
@[simp] theorem decUst_ne_zeroWord {f} : decUst w f ≠ .fault .zeroWord := by simp [decUst]
@[simp] theorem decR0_ne_zeroWord {i : Instr} : decR0 w i ≠ .fault .zeroWord := by simp [decR0]

@[simp] theorem decodeSys_ne_zeroWord : decodeSys sup w ≠ .fault .zeroWord := by unfold decodeSys; split <;> simp
@[simp] theorem decodeOpr_ne_zeroWord : decodeOpr w ≠ .fault .zeroWord := by unfold decodeOpr; split <;> simp
@[simp] theorem decodeShi_ne_zeroWord : decodeShi w ≠ .fault .zeroWord := by unfold decodeShi; split <;> simp
@[simp] theorem decodeAmo_ne_zeroWord : decodeAmo w ≠ .fault .zeroWord := by unfold decodeAmo; split <;> simp
@[simp] theorem decodeTask_ne_zeroWord : decodeTask w ≠ .fault .zeroWord := by unfold decodeTask; split <;> simp
@[simp] theorem decodeWorld_ne_zeroWord : decodeWorld w ≠ .fault .zeroWord := by unfold decodeWorld; split <;> simp
@[simp] theorem decodeShape_ne_zeroWord : decodeShape w ≠ .fault .zeroWord := by unfold decodeShape; split <;> simp
@[simp] theorem decodeEng_ne_zeroWord : decodeEng w ≠ .fault .zeroWord := by unfold decodeEng; split <;> simp
@[simp] theorem decodeSync_ne_zeroWord : decodeSync w ≠ .fault .zeroWord := by unfold decodeSync; split <;> simp
@[simp] theorem decodeCsr_ne_zeroWord : decodeCsr w ≠ .fault .zeroWord := by unfold decodeCsr; split <;> simp
@[simp] theorem decodeOrb_ne_zeroWord : decodeOrb w ≠ .fault .zeroWord := by unfold decodeOrb; split <;> simp
@[simp] theorem decodeVar_ne_zeroWord : decodeVar w ≠ .fault .zeroWord := by unfold decodeVar; split <;> simp
@[simp] theorem decodeVfm_ne_zeroWord : decodeVfm w ≠ .fault .zeroWord := by unfold decodeVfm; split <;> simp
@[simp] theorem decodeVbit_ne_zeroWord : decodeVbit w ≠ .fault .zeroWord := by unfold decodeVbit; split <;> simp
@[simp] theorem decodeVsf_ne_zeroWord : decodeVsf w ≠ .fault .zeroWord := by unfold decodeVsf; split <;> simp
@[simp] theorem decodeVax_ne_zeroWord : decodeVax w ≠ .fault .zeroWord := by unfold decodeVax; split <;> simp
@[simp] theorem decodeVrng_ne_zeroWord : decodeVrng w ≠ .fault .zeroWord := by unfold decodeVrng; split <;> simp
@[simp] theorem decodeLoop_ne_zeroWord : decodeLoop w ≠ .fault .zeroWord := by simp [decodeLoop]
@[simp] theorem decodeLoopi_ne_zeroWord : decodeLoopi w ≠ .fault .zeroWord := by simp [decodeLoopi]
@[simp] theorem decodeStk_ne_zeroWord : decodeStk w ≠ .fault .zeroWord := by simp [decodeStk, ite_eq_iff']
@[simp] theorem decodeVcmpg_ne_zeroWord : decodeVcmpg w ≠ .fault .zeroWord := by unfold decodeVcmpg; split <;> simp [ite_eq_iff']
@[simp] theorem decodeVdt_ne_zeroWord : decodeVdt w ≠ .fault .zeroWord := by 
  unfold decodeVdt
  split
  case h_2 => simp +contextual [ite_eq_iff']
  all_goals simp

@[simp] theorem decodeFps_ne_zeroWord : decodeFps w ≠ .fault .zeroWord := by
  unfold decodeFps
  dsimp only
  split
  · simp
  · split <;> simp

theorem format_ne_zeroWord {c : Nat} {f : Fmt → Instr} : (match Fmt.ofCode c with
    | some m => .instr (f m)
    | none => .fault .format) ≠ Decoded.fault .zeroWord := by
  cases Fmt.ofCode c <;> simp

@[simp] theorem decodeVcv_ne_zeroWord : decodeVcv w ≠ .fault .zeroWord := by
  unfold decodeVcv
  split
  · exact mt zeroField_eq_zeroWord.1 fun h => vcheck_ne_zeroWord format_ne_zeroWord h.2
  · simp

@[simp] theorem decodeVxs_ne_zeroWord : decodeVxs w ≠ .fault .zeroWord := by
  unfold decodeVxs
  split
  case h_3 => simp [ite_eq_iff']
  case h_14 =>
    have hk : (if 16 ≤ fA w && fA w < 24 then .instr (.vpeek (.ofCode (fD w)) (Fin.ofNat 8 (fA w - 16))) else .fault .queueRole)
        ≠ Decoded.fault .zeroWord := by split <;> simp
    exact mt zeroField_eq_zeroWord.1 fun h => vcheck_ne_zeroWord hk h.2
  all_goals simp

@[simp] theorem decodeVmem_ne_zeroWord : decodeVmem w ≠ .fault .zeroWord := by
  unfold decodeVmem
  extract_lets vq k
  have hk (f : Fin 8 → Fmt → Instr) : k f ≠ .fault .zeroWord := by
    dsimp only [k]
    split
    · simp
    · split
      · simp
      · exact format_ne_zeroWord
  clear_value k
  split
  case h_5 => exact mt zeroField_eq_zeroWord.1 fun h => hk _ h.2
  case h_6 => simp
  all_goals exact hk _

theorem decode_ne_zeroWord (h : w ≠ 0) : decode sup w ≠ .fault .zeroWord := by
  unfold decode
  rw [if_neg h]
  split <;> simp

end
end Sys2Proof
end

section
/-! SUPPORT. O57: what the fetch reads, and a step at a boundary. -/

namespace Sys2Proof.Machine

variable {s u : State} {a : Word} {w n : Nat} {p : Place}

/-! ### The word of a fetch (R61) -/

theorem leValue_lt : ∀ bs : List Byte, leValue bs < 256 ^ bs.length
  | [] => by simp [leValue, wordOfBytes]
  | b :: bs => by
    have hb := b.isLt
    have hbs := leValue_lt bs
    simp only [leValue, wordOfBytes, List.length_cons, Nat.pow_succ] at hbs ⊢
    omega

theorem leValue_lt_of_length_le {bs : List Byte} (h : bs.length ≤ 4) : leValue bs < 2 ^ 32 :=
  calc leValue bs < 256 ^ bs.length := leValue_lt bs
    _ ≤ 256 ^ 4 := Nat.pow_le_pow_right (by omega) h
    _ = 2 ^ 32 := by norm_num

theorem bytesOfWord_leValue {bs : List Byte} (h : bs.length = 4) : bytesOfWord (leValue bs) = bs := by
  obtain ⟨b0, b1, b2, b3, rfl⟩ := List.length_eq_four.1 h
  have h0 := b0.isLt
  have h1 := b1.isLt
  have h2 := b2.isLt
  have h3 := b3.isLt
  simp only [leValue, wordOfBytes, bytesOfWord, List.cons.injEq, and_true]
  refine ⟨?_, ?_, ?_, ?_⟩ <;> apply BitVec.eq_of_toNat_eq <;> simp only [BitVec.toNat_ofNat] <;> omega

@[simp] theorem State.readPlace_length : (s.readPlace w p n).length = n := by
  cases p <;> exact Mem.getBytes_length ..

/-- What a fetch answers: its address is a multiple of 4, the place passed the checks, and the word is read from the block a cache holds
or from the place. -/
theorem State.fetchWord_eq_ok {sup : Bool} (h : s.fetchWord sup a = .ok w) :
    a.toNat % 4 = 0 ∧ ∃ wr p, s.accessCheck (s.who sup) .fetch a = .ok (wr, p)
      ∧ ((∃ bs, s.heldBlock a.toNat = some bs ∧ w = leValue ((bs.drop (a.toNat % 64)).take 4))
        ∨ s.heldBlock a.toNat = none ∧ w = leValue (s.readPlace s.task.id.world p 4)) := by
  obtain ⟨_, _, h⟩ := Chk.bind_eq_ok.1 h
  obtain ⟨_, hal, h⟩ := Chk.bind_eq_ok.1 h
  have hal := Chk.need_eq_ok.1 hal
  split at h
  · obtain ⟨r, hr, h⟩ := Chk.bind_eq_ok.1 h
    refine ⟨by simpa [bits, bitsN] using hal, r.1, r.2, hr, ?_⟩
    split at h
    · exact .inl ⟨_, ‹_›, (Chk.ok.inj h).symm⟩
    · exact .inr ⟨‹_›, (Chk.ok.inj h).symm⟩
  · cases h

theorem State.fetchWord_spec {sup : Bool} (h : s.fetchWord sup a = .ok w) :
    a.toNat % 4 = 0 ∧ w < 2 ^ 32 ∧ ∃ wr p, s.accessCheck (s.who sup) .fetch a = .ok (wr, p)
      ∧ (s.heldBlock a.toNat = none → bytesOfWord w = s.readPlace s.task.id.world p 4) := by
  obtain ⟨hal, wr, p, hp, ⟨bs, hb, rfl⟩ | ⟨hb, rfl⟩⟩ := State.fetchWord_eq_ok h
  · exact ⟨hal, leValue_lt_of_length_le (by simp), wr, p, hp, fun hn => by simp [hb] at hn⟩
  · exact ⟨hal, leValue_lt_of_length_le (by simp), wr, p, hp, fun _ => bytesOfWord_leValue State.readPlace_length⟩

/-! ### What a fetch keeps, and the end of a step -/

theorem State.fillBlock_eq (sup : Bool) : s.fillBlock sup a = { s with ops := (s.fillBlock sup a).ops, lines := (s.fillBlock sup a).lines } := by
  unfold State.fillBlock
  dsimp only
  split
  · rfl
  · split <;> rfl

/-- With no write under way, a cycle passes and groups are mended. -/
theorem State.finish_eq (hp : u.posted = []) (hl : u.late = []) : u.finish = (u.tick 1).mendGroups := by
  obtain ⟨⟩ := u
  cases hp
  cases hl
  rfl

theorem State.finish_task_pc (hp : u.posted = []) (hl : u.late = []) : u.finish.task.pc = u.task.pc := by
  rw [State.finish_eq hp hl]
  change (if u.running = true then _ else _ : Task).pc = _
  split <;> rfl

/-! ### A step at a boundary -/

theorem decodeTval_of_decode {sup : Bool} {c : Cause} (h : decode sup w = .fault c) : decodeTval c w = if w = 0 then 0 else wd w := by
  unfold decodeTval
  by_cases hw : w = 0
  · subst hw
    cases h
    rfl
  · have hc : c ≠ .zeroWord := by
      rintro rfl
      exact decode_ne_zeroWord hw h
    rw [if_neg hc, if_neg hw]

theorem State.seqStep_eq_fetchRun (hr : u.running = true) (hpart : u.task.part = none) (hc : u.canPreempt = false) (hb : u.overBudget = false)
    (ht : u.asyncTrap = none) : u.seqStep = u.fetchRun := by
  have hw : u.raiseWatchdog = u := by simp [State.raiseWatchdog, hb]
  simp [State.seqStep, hr, hpart, hc, hw, ht]

theorem State.move_of_sequencer {rest : List Turn} (h : s.schedule = .sequencer :: rest) :
    s.move = onNext State.finish ({ s with schedule := rest } : State).seqStep := by
  unfold State.move
  rw [h]
  rfl

theorem State.move_of_round (h : s.schedule = []) : s.move = onNext State.finish s.round := by
  unfold State.move
  rw [h]

theorem State.round_of_running (hr : s.running = true) (hw : s.waitingRing = none) (hl : s.launches.find? s.exhausted = none) :
    s.round = s.engines.seqStep := by
  unfold State.round
  rw [hw, hl, hr]
  exact if_pos rfl

/-- At a boundary the step is the fetch and the run of one instruction, and then the end of the step. -/
theorem step_eq_of_atBoundary (h : AtBoundary s u) : step s = onNext State.finish u.fetchRun := by
  obtain ⟨hs, hr, hpart, hc, hb, ht⟩ := h
  rw [← State.seqStep_eq_fetchRun hr hpart hc hb ht]
  unfold step
  obtain ⟨rest, hs, rfl⟩ | ⟨hs, hrun, hring, hl, hu⟩ := hs
  · rw [State.move_of_sequencer hs]
  · rw [State.move_of_round hs, State.round_of_running hrun hring hl, hu]

theorem State.fetchRun_of_instr {i : Instr} (hw : u.fetchWord u.sup u.task.pc = .ok w) (hi : decode u.sup w = .instr i) :
    u.fetchRun = exec i (u.fillBlock u.sup u.task.pc).beginFrame := by
  simp only [State.fetchRun, hw, hi]

theorem State.fetchRun_of_fault {c : Cause} (hw : u.fetchWord u.sup u.task.pc = .ok w) (hi : decode u.sup w = .fault c) :
    u.fetchRun = .next ((u.fillBlock u.sup u.task.pc).beginFrame.fault ⟨c, if w = 0 then 0 else wd w, none⟩) := by
  simp only [State.fetchRun, hw, hi, decodeTval_of_decode hi]

/-- Settles O57, by the fetch that a step at a boundary comes to. -/
theorem stepRunsDecoded : Obligations.StepRunsDecoded := by
  refine ⟨fun s u h => ?_, fun u a w hw => State.fetchWord_spec hw, fun u sup a => ⟨State.fillBlock_eq sup, rfl⟩, fun u hp hl => ?_⟩
  · rw [step_eq_of_atBoundary h]
    refine ⟨fun w i hw hi => ?_, fun w c hw hi => ?_, fun r hr => ?_, fun hw => ?_, fun f hf => ?_⟩
    · rw [State.fetchRun_of_instr hw hi]
    · rw [State.fetchRun_of_fault hw hi]
      rfl
    · simp only [State.fetchRun, hr]
      rfl
    · simp only [State.fetchRun, hw]
      rfl
    · simp only [State.fetchRun, hf]
      rfl
  · refine ⟨State.finish_task_pc hp hl, ?_, ?_, ?_⟩ <;> rw [State.finish_eq hp hl] <;> rfl

end Sys2Proof.Machine
end

section
/-! SUPPORT. O55 fails: its clauses on a Cellar's status do not ask that partitions be disjoint, as R370 has them. -/

namespace Sys2Proof.Machine

/-- A Cellar without a reserve: its block's doublewords are 0, so that its status goes to address 0. -/
def barrenCellar : Cellar := { block := [], blockAt := 0, snapshot := [], lost := [], sent := [], copied := [], gone := [], owed := [] }

/-- A partition of die 0 whose Cellar has no reserve. -/
def barrenPartition : Partition := { Partition.absent with present := true, dies := 1, cellar := some barrenCellar }

/-- Two partitions of the same die, each with a Cellar in progress. -/
def overlapped : State := { State.reset with parts := ((Vector.replicate 16 Partition.absent).set 0 barrenPartition).set 1 barrenPartition }

theorem overlapped_reserved (w pa n : Nat) (write : Bool) : overlapped.reserved w pa n write = false := rfl

/-- The end of the first partition's Cellar leaves its status waiting: the reserve of the other one has no room for the granule. -/
theorem overlapped_cellarEnd_mem : (overlapped.cellarEnd 0 barrenCellar 2).mem = [] := by rfl

/-- Refutes O55: where another partition's running Cellar covers the same die and its reserve has no room, the status of a Cellar whose
target is unreachable waits, though nothing waited and no vector store had reserved a byte; the statement has it written. -/
theorem not_cellarAndGrants : ¬ Obligations.CellarAndGrants := by
  intro h
  obtain ⟨-, hdrain, -⟩ := h overlapped rfl
  obtain ⟨⟨t, ht, ⟨-, -, -, hstatus⟩, -⟩, -⟩ := (hdrain 0 rfl rfl).2 barrenCellar rfl
  cases ht
  have hwritten := hstatus rfl rfl rfl rfl fun pa n => overlapped_reserved 0 pa n true
  have hmem : (overlapped.cellarEnd 0 barrenCellar 2).mem.getBytes 0 8 = List.replicate 8 0 := by
    rw [overlapped_cellarEnd_mem]
    rfl
  exact absurd (hmem.symm.trans hwritten) (by decide)

end Sys2Proof.Machine
end

section
/-! SUPPORT. What a pre-emption request leaves as it is, and what a save changes (O54). -/

namespace Sys2Proof.Machine

/-! ### A fold that keeps a component -/

theorem foldl_unchanged {σ α β : Type} {f : σ → β} {g : σ → α → σ} (h : ∀ s a, f (g s a) = f s) (l : List α) (s : σ) :
    f (l.foldl g s) = f s := by
  induction l generalizing s with
  | nil => rfl
  | cons a l ih => exact (ih _).trans (h s a)

theorem mem_insertNat {l : List Nat} {n k : Nat} : n ∈ insertNat l k ↔ n ∈ l ∨ n = k := by
  induction l with
  | nil => simp [insertNat]
  | cons a l ih =>
    simp only [insertNat]
    split
    · simp [ih, or_assoc]
    · split
      · rename_i h
        subst h
        exact ⟨Or.inl, fun hn => hn.elim id fun e => e ▸ List.mem_cons_self⟩
      · simp [or_comm]

/-! ### A pre-emption request (R395) -/

section
variable (s : State) (part : Fin 16) (q : List Nat)

/-- The state with another list of pre-emption requests. -/
def State.setPreempt : State := s.setPart part { s.parts[part] with preempt := q }

variable {s part q}

@[simp] theorem State.setPreempt_preempt : (s.setPreempt part q).parts[part].preempt = q := by
  simp [State.setPreempt]

theorem State.setPreempt_parts (i : Fin 16) :
    (s.setPreempt part q).parts[i] = { s.parts[i] with preempt := (s.setPreempt part q).parts[i].preempt } := by
  by_cases hi : part = i
  · subst hi
    simp [State.setPreempt]
  · have hi' : part.val ≠ i.val := fun h => hi (Fin.ext h)
    simp [State.setPreempt, Vector.getElem_set_ne _ _ hi']

@[simp] theorem State.setPreempt_present (i : Fin 16) : (s.setPreempt part q).parts[i].present = s.parts[i].present := by
  rw [State.setPreempt_parts]
@[simp] theorem State.setPreempt_contexts (i : Fin 16) : (s.setPreempt part q).parts[i].contexts = s.parts[i].contexts := by
  rw [State.setPreempt_parts]
@[simp] theorem State.setPreempt_cellar (i : Fin 16) : (s.setPreempt part q).parts[i].cellar = s.parts[i].cellar := by
  rw [State.setPreempt_parts]
@[simp] theorem State.setPreempt_owns (i : Fin 16) : (s.setPreempt part q).parts[i].owns = s.parts[i].owns := by
  rw [State.setPreempt_parts]
  rfl

@[simp] theorem State.setPreempt_partOfCtx : (s.setPreempt part q).partOfCtx = s.partOfCtx := by
  funext c
  simp only [State.partOfCtx, State.setPreempt_present, State.setPreempt_contexts]

@[simp] theorem State.setPreempt_mapsInto : (s.setPreempt part q).mapsInto = s.mapsInto := by
  funext lo hi level
  induction level with
  | zero => rfl
  | succ level ih =>
    funext table
    simp only [State.mapsInto, ih]
    rfl

@[simp] theorem State.setPreempt_pairFor : (s.setPreempt part q).pairFor = s.pairFor := by
  funext t
  simp only [State.pairFor, State.pairConfined, State.setPreempt_partOfCtx, State.setPreempt_owns, State.setPreempt_contexts,
    State.setPreempt_mapsInto]
  rfl

theorem State.cellars_eq_true : s.cellars = true ↔ ∃ i : Fin 16, s.parts[i].present = true ∧ s.parts[i].cellar.isSome = true := by
  simp only [State.cellars, List.any_eq_true, Vector.mem_toList_iff, Vector.mem_iff_getElem, Bool.and_eq_true]
  constructor
  · rintro ⟨_, ⟨i, hi, rfl⟩, h⟩
    exact ⟨⟨i, hi⟩, h⟩
  · rintro ⟨i, h⟩
    exact ⟨_, ⟨i.val, i.isLt, rfl⟩, h⟩

@[simp] theorem State.setPreempt_cellars : (s.setPreempt part q).cellars = s.cellars := by
  rw [Bool.eq_iff_iff, State.cellars_eq_true, State.cellars_eq_true]
  simp only [State.setPreempt_present, State.setPreempt_cellar]

@[simp] theorem State.setPreempt_granRoom : (s.setPreempt part q).granRoom = s.granRoom := by
  funext gs
  simp only [State.granRoom, State.cellarOf, State.setPreempt_present, State.setPreempt_owns, State.setPreempt_cellar]

@[simp] theorem State.setPreempt_task : (s.setPreempt part q).task = s.task := rfl
@[simp] theorem State.setPreempt_running : (s.setPreempt part q).running = s.running := rfl
@[simp] theorem State.setPreempt_launches : (s.setPreempt part q).launches = s.launches := rfl
@[simp] theorem State.setPreempt_out : (s.setPreempt part q).out = s.out := rfl
@[simp] theorem State.setPreempt_sup : (s.setPreempt part q).sup = s.sup := rfl

@[simp] theorem State.setPreempt_saveRoom : (s.setPreempt part q).saveRoom = s.saveRoom := by
  simp only [State.saveRoom, State.setPreempt_pairFor, State.setPreempt_cellars, State.setPreempt_granRoom, State.setPreempt_task]

@[simp] theorem State.setPreempt_myPart : (s.setPreempt part q).myPart = s.myPart := by simp [State.myPart]

@[simp] theorem State.setPreempt_myLaunch : (s.setPreempt part q).myLaunch = s.myLaunch := by
  simp [State.myLaunch, State.launch?]

@[simp] theorem State.setPreempt_deferred : (s.setPreempt part q).deferred = s.deferred := by simp [State.deferred]

@[simp] theorem State.setPreempt_setPreempt (r : List Nat) : (s.setPreempt part q).setPreempt part r = s.setPreempt part r := by
  simp [State.setPreempt, State.setPart]

end

/-! ### A save (R395 to R398) -/

section
variable {s : State}

@[simp] theorem State.keepOld_launches (pa n : Nat) : (s.keepOld pa n).launches = s.launches := by rw [State.keepOld_eq]
@[simp] theorem State.keepOld_out (pa n : Nat) : (s.keepOld pa n).out = s.out := by rw [State.keepOld_eq]
@[simp] theorem State.writeRoot_launches (pa : Nat) (bs : List Byte) : (s.writeRoot pa bs).launches = s.launches := by simp [State.writeRoot]
@[simp] theorem State.writeRoot_out (pa : Nat) (bs : List Byte) : (s.writeRoot pa bs).out = s.out := by simp [State.writeRoot]

@[simp] theorem State.writeFrame_launches (t : Task) (pc : Word) (slot : Nat) : (s.writeFrame t pc slot).launches = s.launches := by
  unfold State.writeFrame
  dsimp only
  rw [foldl_unchanged (f := State.launches), foldl_unchanged (f := State.launches), State.writeRoot_launches]
  · simp
  · intro u p
    split
    · exact State.keepOld_launches ..
    · rfl

@[simp] theorem State.writeFrame_out (t : Task) (pc : Word) (slot : Nat) : (s.writeFrame t pc slot).out = s.out := by
  unfold State.writeFrame
  dsimp only
  rw [foldl_unchanged (f := State.out), foldl_unchanged (f := State.out), State.writeRoot_out]
  · simp
  · intro u p
    split
    · exact State.keepOld_out ..
    · rfl

theorem State.answered_preempt {part : Fin 16} {tid : Nat} : tid ∉ (s.answered part tid).parts[part].preempt := by
  simp [State.answered]

/-- Without a pair there is no save. -/
theorem State.preemptAt_eq_none {y : Bool} {pc : Word} (h : s.pairFor s.task = none) : s.preemptAt y pc = none := by
  have hs : s.saveFrame { s.task with veQ := withoutVext s.task.veQ } pc = none := by
    unfold State.saveFrame
    rw [show s.pairFor { s.task with veQ := withoutVext s.task.veQ } = none from h]
    rfl
  unfold State.preemptAt
  dsimp only
  rw [hs]
  split
  · rename_i h2
    cases h2
  · rfl

/-- A task that is saved stands at the tail of its launch's queue, its registers as they were. -/
theorem State.preemptAt_eq_some {pc : Word} {L : Launch} (hL : s.myLaunch = some L) (h : (s.pairFor s.task).isSome = true) :
    ∃ u t1, s.preemptAt false pc = some u ∧ u.running = false ∧ u.out = s.out ∧ s.task.id.tid ∉ u.parts[s.myPart].preempt
      ∧ OnlyLaunch s u L { L with queue := L.queue ++ [.task t1] }
      ∧ t1.pc = pc ∧ t1.x = s.task.x ∧ t1.csr = s.task.csr ∧ t1.v = s.task.v ∧ t1.id.tid = s.task.id.tid := by
  obtain ⟨p, hp⟩ := Option.isSome_iff_exists.1 h
  have hs : s.saveFrame { s.task with veQ := withoutVext s.task.veQ } pc = some
      ((s.takePair s.task.id.cid p.1).writeFrame { s.task with veQ := withoutVext s.task.veQ } pc p.2,
        Task.unpinned { s.task with veQ := withoutVext s.task.veQ } pc s.dev.cycle p) := by
    unfold State.saveFrame
    rw [show s.pairFor { s.task with veQ := withoutVext s.task.veQ } = some p from hp]
    rfl
  unfold State.preemptAt
  dsimp only
  rw [hL, hs]
  refine ⟨_, Task.unpinned { s.task with veQ := withoutVext s.task.veQ } pc s.dev.cycle p, rfl, rfl, ?_, State.answered_preempt, ?_, rfl, rfl, rfl, rfl, rfl⟩
  · exact State.writeFrame_out ..
  · simp [OnlyLaunch, State.answered, Launch.keep]

end
end Sys2Proof.Machine
end

section
/-! SUPPORT. The management commands (O54). -/

namespace Sys2Proof.Machine

/-! ### Blocks as doublewords (R7) -/

theorem leBytes_leValue : ∀ {bs : List Byte} {n : Nat}, bs.length = n → leBytes n (leValue bs) = bs
  | [], _, rfl => rfl
  | b :: bs, _, rfl => by
    have hb := b.isLt
    have hv : leValue (b :: bs) = b.toNat + 256 * leValue bs := rfl
    have hlow : BitVec.ofNat 8 (leValue (b :: bs)) = b := by
      apply BitVec.eq_of_toNat_eq
      rw [BitVec.toNat_ofNat, hv]
      omega
    have hhigh : leValue (b :: bs) / 256 = leValue bs := by omega
    rw [List.length_cons, leBytes, hlow, hhigh, leBytes_leValue rfl]

theorem Mem.drop_getBytes {m : Mem} : ∀ {n a k : Nat}, (m.getBytes a n).drop k = m.getBytes (a + k) (n - k)
  | 0, _, k => by simp [Mem.getBytes]
  | n + 1, a, 0 => rfl
  | n + 1, a, k + 1 => by
    rw [Mem.getBytes, List.drop_succ_cons, Mem.drop_getBytes, Nat.add_sub_add_right, Nat.add_assoc, Nat.add_comm 1 k]

theorem Mem.take_getBytes {m : Mem} : ∀ {n a k : Nat}, k ≤ n → (m.getBytes a n).take k = m.getBytes a k
  | _, _, 0, _ => by simp [Mem.getBytes]
  | n + 1, a, k + 1, h => by
    rw [Mem.getBytes, List.take_succ_cons, Mem.take_getBytes (by omega), Mem.getBytes]

theorem Mem.getBytes_append {m : Mem} {a k n : Nat} : m.getBytes a k ++ m.getBytes (a + k) n = m.getBytes a (k + n) := by
  have h := List.take_append_drop k (m.getBytes a (k + n))
  rwa [Mem.take_getBytes (by omega), Mem.drop_getBytes, Nat.add_sub_cancel_left] at h

theorem leValue_getBytes_lt {m : Mem} {a : Nat} : leValue (m.getBytes a 8) < 2 ^ 64 := by
  have h := leValue_lt (m.getBytes a 8)
  rw [Mem.getBytes_length] at h
  exact lt_of_lt_of_eq h (by norm_num)

theorem toNat_wd_leValue {m : Mem} {a : Nat} : (wd (leValue (m.getBytes a 8))).toNat = leValue (m.getBytes a 8) := by
  rw [wd, BitVec.toNat_ofNat]
  exact Nat.mod_eq_of_lt leValue_getBytes_lt

/-- The doublewords of a block in memory. -/
theorem State.tableDwords_eq {s : State} {pa n : Nat} :
    s.tableDwords pa n = (List.range n).map fun k => wd (leValue (s.mem.getBytes (pa + 8 * k) 8)) := by
  rw [State.tableDwords, dwords, Mem.getBytes_length, Nat.mul_div_cancel_left _ (by omega)]
  refine List.map_congr_left fun k hk => ?_
  have hk := List.mem_range.1 hk
  rw [Mem.drop_getBytes, Mem.take_getBytes (by omega)]

theorem State.dw_tableDwords {s : State} {pa n k : Nat} (hk : k < n) : dw (s.tableDwords pa n) k = wd (leValue (s.mem.getBytes (pa + 8 * k) 8)) := by
  simp [dw, State.tableDwords_eq, hk]

/-- The first doublewords of a block, as bytes, are its first bytes. -/
theorem State.dwBytes_take_tableDwords {s : State} {pa n : Nat} : ∀ {k : Nat}, k ≤ n →
    dwBytes ((s.tableDwords pa n).take k) = s.mem.getBytes pa (8 * k)
  | 0, _ => rfl
  | k + 1, hk => by
    have hget : (s.tableDwords pa n)[k]? = some (wd (leValue (s.mem.getBytes (pa + 8 * k) 8))) := by
      simp [State.tableDwords_eq, Nat.lt_of_succ_le hk]
    have hbytes : dwBytes [wd (leValue (s.mem.getBytes (pa + 8 * k) 8))] = s.mem.getBytes (pa + 8 * k) 8 := by
      simp only [dwBytes, List.flatMap_cons, List.flatMap_nil, List.append_nil, toNat_wd_leValue]
      exact leBytes_leValue (Mem.getBytes_length ..)
    have hsplit (l : List Word) (w : Word) : dwBytes (l ++ [w]) = dwBytes l ++ dwBytes [w] := by simp [dwBytes]
    rw [List.take_add_one, hget, Option.toList_some, hsplit, State.dwBytes_take_tableDwords (by omega), hbytes, Mem.getBytes_append]
    rfl

/-! ### Limits, sets and power (R84, R307, R378, R422) -/

section
variable {s : State}

theorem execCap_accepted {amps : Nat} (hu : s.up = true) (h : 6000 ≤ amps) :
    execCap amps s = .next (answered { s with dev := { s.dev with cap := amps } } 0) := by
  simp only [execCap, hu, h]
  rfl

theorem execCap_refused {amps : Nat} (h : amps < 6000) : execCap amps s = .next (answered s 1) := by
  simp only [execCap, Nat.not_le.2 h]
  simp
  rfl

theorem State.setSlot_under {k : Fin 4} {x : Option XSet} : (s.setSlot k x).under = s.under := by
  funext w fuel
  induction fuel with
  | zero => rfl
  | succ fuel ih =>
    funext n
    simp only [State.under, ih]
    rfl

/-- What the byte cache keeps for the block being passed does not depend on the slots. -/
theorem State.setSlot_keepPassing_lines {k : Fin 4} {x : Option XSet} : (s.setSlot k x).keepPassing.lines = s.keepPassing.lines := by
  have hserves : (s.setSlot k x).servesWorld = s.servesWorld := by
    funext b w
    exact congrArg (fun f => f b 6 w) State.setSlot_under
  have hblock : (s.setSlot k x).cachedBlock = s.cachedBlock := by
    funext c a
    simp only [State.cachedBlock, hserves]
    rfl
  have hline : (s.setSlot k x).cachedLine = s.cachedLine := by
    funext c a
    simp only [State.cachedLine, hserves]
    rfl
  unfold State.keepPassing
  simp only [hblock, hline, State.setSlot_running, State.setSlot_task]
  split <;> rfl

theorem execXunload_held {k : Fin 4} (hu : s.up = true) (h : s.dev.slots[k].isSome = true) :
    execXunload k s = .next (answered { s with dev := { s.dev with slots := s.dev.slots.set k none }, ops := s.ops.filter fun b => b.slot != k,
                                               lines := s.keepPassing.lines } 0) := by
  simp only [execXunload, hu, h, State.dropSlot_eq, State.setSlot_keepPassing_lines]
  rfl

theorem execXunload_empty {k : Fin 4} (h : s.dev.slots[k] = none) : execXunload k s = .next (answered s 1) := by
  simp only [execXunload, h]
  simp
  rfl

theorem State.mayNap_iff : s.mayNap = true ↔ s.launches = [] ∧ s.running = false ∧ ∀ p : Fin 16, s.parts[p].debug ≠ .invasive := by
  simp only [State.mayNap, Bool.and_eq_true, List.isEmpty_iff, Bool.not_eq_true', List.all_eq_true, Vector.mem_toList_iff,
    Vector.mem_iff_getElem, bne_iff_ne, and_assoc]
  refine and_congr_right fun _ => and_congr_right fun _ => ⟨fun h p => h _ ⟨p.val, p.isLt, rfl⟩, ?_⟩
  rintro h _ ⟨i, hi, rfl⟩
  exact h ⟨i, hi⟩

theorem execPower_run (hu : s.up = true) : execPower .run s = .next (answered { s with dev := { s.dev with power := .run } } 0) := by
  unfold execPower
  rw [hu]
  rfl

theorem execPower_idle (hu : s.up = true) (h : s.running = false) :
    execPower .idle s = .next (answered { s with dev := { s.dev with power := .idle } } 0) := by
  unfold execPower
  rw [hu]
  exact congrArg Host.Outcome.next (if_neg (Bool.eq_false_iff.1 h))

theorem execPower_idle_refused (hu : s.up = true) (h : s.running = true) : execPower .idle s = .next (answered s 1) := by
  unfold execPower
  rw [hu]
  exact congrArg Host.Outcome.next (if_pos h)

theorem execPower_nap (hu : s.up = true) (h : s.mayNap = true) :
    execPower .nap s = .next (answered { s with dev := { s.dev with power := .nap }, tlb := [], ops := [], lines := [] } 0) := by
  unfold execPower
  rw [hu, h]
  rfl

theorem execPower_nap_refused (hu : s.up = true) (h : ¬ s.mayNap = true) : execPower .nap s = .next (answered s 1) := by
  unfold execPower
  rw [hu, Bool.eq_false_iff.2 h]
  rfl

theorem execPower_off (hu : s.up = true) : execPower .off s = .next (answered s.lost 0) := by
  unfold execPower
  rw [hu]
  rfl

end
end Sys2Proof.Machine
end

section
/-! SUPPORT. Pre-emption, attestation and partitions by command, and the statement on management (O54). -/

namespace Sys2Proof.Machine

section
variable {s : State} {part : Fin 16} {id : Option (BitVec 12)}

/-! ### PREEMPT (R395) -/

/-- A pre-emption by command names the running task. -/
def State.Named (s : State) (part : Fin 16) (id : Option (BitVec 12)) : Prop :=
  s.running = true ∧ s.myPart = part ∧ (id = none ∨ id = some s.task.id.launch)

theorem State.asksFor_iff : s.asksFor part id = true ↔ s.Named part id := by
  cases id <;> simp [State.asksFor, State.Named, and_assoc]

/-- The state with the running task's pre-emption asked for. -/
def State.asked (s : State) (part : Fin 16) : State := s.setPreempt part (insertNat s.parts[part].preempt s.task.id.tid)

theorem State.asked_canPreempt (h : s.myPart = part) :
    (s.asked part).canPreempt = (s.running && s.task.part.isNone && !s.sup && !s.deferred) := by
  have hasked : (s.asked part).preemptAsked = true := by
    subst h
    simp only [State.preemptAsked, State.asked, State.setPreempt_myPart, State.setPreempt_preempt, State.setPreempt_task]
    exact List.contains_iff_mem.2 (mem_insertNat.2 (.inr rfl))
  unfold State.canPreempt
  rw [hasked]
  simp [State.asked]

theorem execPreempt_absent (h : s.parts[part].present = false) : execPreempt part id s = .next (answered s 1) := by
  simp only [execPreempt, h]
  simp
  rfl

theorem execPreempt_unnamed (hu : s.up = true) (h : s.parts[part].present = true) (hn : ¬ s.Named part id) :
    execPreempt part id s = .next (answered s 0) := by
  have hn : s.asksFor part id = false := Bool.eq_false_iff.2 (mt State.asksFor_iff.1 hn)
  simp only [execPreempt, h, hu, hn]
  rfl

theorem execPreempt_named (hu : s.up = true) (h : s.parts[part].present = true) (hn : s.Named part id) :
    execPreempt part id s = .next ((s.asked part).servePreempt.answer
      (if (s.asked part).canPreempt && (s.asked part).saveRoom && (s.asked part).servePreempt.running then 1 else 0)) := by
  unfold execPreempt
  rw [hu, h, if_neg (by decide), if_pos (State.asksFor_iff.2 hn)]
  rfl

/-- A named task that cannot be saved now is asked for. -/
theorem execPreempt_waits (hu : s.up = true) (h : s.parts[part].present = true) (hn : s.Named part id)
    (hw : s.sup = true ∨ s.deferred = true ∨ s.task.part ≠ none ∨ s.saveRoom = false) :
    execPreempt part id s = .next (answered (s.asked part) 0) := by
  have hc : ((s.asked part).canPreempt && (s.asked part).saveRoom) = false := by
    rw [State.asked_canPreempt hn.2.1, State.asked, State.setPreempt_saveRoom]
    obtain hw | hw | hw | hw := hw
    · simp [hw]
    · simp [hw]
    · simp [Option.isNone_eq_false_iff.2 (Option.isSome_iff_ne_none.2 hw)]
    · simp [hw]
  rw [execPreempt_named hu h hn, State.servePreempt, hc]
  rfl

section
variable (hn : s.Named part id) (hs : s.sup = false) (hd : s.deferred = false) (hp : s.task.part = none)
include hn hs hd hp

theorem State.asked_canPreempt_of_named : (s.asked part).canPreempt = true := by
  rw [State.asked_canPreempt hn.2.1, hn.1, hp, hs, hd]
  rfl

variable (hu : s.up = true) (h : s.parts[part].present = true)
include hu h

/-- A named task without a frame slot stays. -/
theorem execPreempt_stays (hr : s.pairFor s.task = none) :
    execPreempt part id s = .next (answered ((s.asked part).answered part s.task.id.tid) 1) := by
  have hc := State.asked_canPreempt_of_named hn hs hd hp
  have hroom : (s.asked part).saveRoom = true := by
    rw [State.asked, State.setPreempt_saveRoom, State.saveRoom, hr]
  have hnone : (s.asked part).preemptAt false (s.asked part).task.pc = none := by
    refine State.preemptAt_eq_none ?_
    rw [State.asked, State.setPreempt_pairFor]
    exact hr
  have hserve : (s.asked part).servePreempt = (s.asked part).answered part s.task.id.tid := by
    rw [State.servePreempt, hc, hroom, hnone, State.asked, State.setPreempt_myPart, hn.2.1]
    rfl
  have hrun : ((s.asked part).answered part s.task.id.tid).running = true := hn.1
  rw [execPreempt_named hu h hn, hserve, hc, hroom, hrun]
  rfl

/-- A named task with a frame slot is saved. -/
theorem execPreempt_saves (hr : (s.pairFor s.task).isSome = true) (hroom : s.saveRoom = true) {L : Launch} (hL : s.myLaunch = some L) :
    ∃ u t1, execPreempt part id s = .next (answered u 0) ∧ u.running = false ∧ u.out = s.out ∧ s.task.id.tid ∉ u.parts[part].preempt
      ∧ OnlyLaunch s u L { L with queue := L.queue ++ [.task t1] }
      ∧ t1.pc = s.task.pc ∧ t1.x = s.task.x ∧ t1.csr = s.task.csr ∧ t1.v = s.task.v ∧ t1.id.tid = s.task.id.tid := by
  have hc := State.asked_canPreempt_of_named hn hs hd hp
  have hroom : (s.asked part).saveRoom = true := by rwa [State.asked, State.setPreempt_saveRoom]
  have hL : (s.asked part).myLaunch = some L := by rwa [State.asked, State.setPreempt_myLaunch]
  have hr : ((s.asked part).pairFor (s.asked part).task).isSome = true := by
    rw [State.asked, State.setPreempt_pairFor]
    exact hr
  obtain ⟨u, t1, hu1, hrun, hout, htid, hlaunch, hregs⟩ := State.preemptAt_eq_some (pc := s.task.pc) hL hr
  have hserve : (s.asked part).servePreempt = u := by
    rw [State.servePreempt, hc, hroom]
    change (match (s.asked part).preemptAt false s.task.pc with
      | some s1 => s1
      | none => _) = u
    rw [hu1]
  refine ⟨u, t1, ?_, hrun, hout, ?_, hlaunch, hregs⟩
  · rw [execPreempt_named hu h hn, hserve, hc, hroom, hrun]
    rfl
  · have hm : (s.asked part).myPart = part := by rw [State.asked, State.setPreempt_myPart, hn.2.1]
    simp only [hm] at htid
    exact htid

end

/-! ### ATTEST (R373) -/

/-- A block of a management command can be read. -/
def State.BlockReads (s : State) (part : Fin 16) (a : Word) : Prop :=
  s.parts[part].present = true ∧ a.toNat % 64 = 0 ∧ s.parts[part].owns a.toNat 64 = true ∧ s.isolatedAt a.toNat = false
    ∧ s.badLines.contains a.toNat = false

theorem State.blockAt_of_reads {a : Word} (h : s.BlockReads part a) : s.blockAt part a.toNat = some (s.tableDwords a.toNat 8) := by
  obtain ⟨h1, h2, h3, h4, h5⟩ := h
  simp only [State.blockAt, h1, h2, h3, h4, h5]
  rfl

theorem State.blockAt_of_not_reads {a : Word} (h : ¬ s.BlockReads part a) : s.blockAt part a.toNat = none := by
  refine if_neg fun hc => h ?_
  simpa [State.BlockReads, and_assoc] using hc

theorem execAttest_unread {a : Word} (hw : s.awake = true) (h : ¬ s.BlockReads part a) : execAttest part a s = .next (answered s 1) := by
  unfold execAttest
  rw [hw, State.blockAt_of_not_reads h]
  rfl

theorem execAttest_kept {a : Word} (hw : s.awake = true) (h : s.BlockReads part a) (hl : s.launchesAllowed = true)
    (hn : s.parts[part].attest = none) : execAttest part a s = .next (answered { s with parts := s.parts.set part { s.parts[part] with
      attest := some ⟨s.mem.getBytes a.toNat 32, wd (leValue (s.mem.getBytes (a.toNat + 8 * 4) 8)),
        wd (leValue (s.mem.getBytes (a.toNat + 8 * 5) 8)), none⟩ } } 0) := by
  unfold execAttest
  rw [hw, State.blockAt_of_reads h, ← State.dw_tableDwords (n := 8) (by omega), ← State.dw_tableDwords (n := 8) (by omega),
    ← State.dwBytes_take_tableDwords (n := 8) (k := 4) (by omega)]
  simp only [if_true, State.attestAsk, hl, hn]
  rfl

/-! ### PARTITION (R370, R371) -/

theorem execPartition_refused {cs : List PartCfg} (h : s.mayConfigure cs = false) : execPartition cs s = .next (answered s 1) := by
  simp only [execPartition, h]
  simp
  rfl

/-- A range of 1, 2, 4, 8 or 16 aligned dies. -/
def WellShaped (c : PartCfg) : Prop := [1, 2, 4, 8, 16].contains c.dies = true ∧ c.firstDie.val % c.dies = 0 ∧ c.firstDie.val + c.dies ≤ 16

theorem cfgShape_iff {c : PartCfg} : cfgShape c = true ↔ WellShaped c := by
  simp only [cfgShape, WellShaped, Bool.and_eq_true, decide_eq_true_eq, and_assoc]

/-- A partition shares no die, context or port with another that is present. -/
def State.Apart (s : State) (c : PartCfg) : Prop :=
  ∀ p : Fin 16, p ≠ c.num → s.parts[p].present = true →
    (s.parts[p].firstDie % 16 + s.parts[p].dies ≤ c.firstDie.val ∨ c.firstDie.val + c.dies ≤ s.parts[p].firstDie % 16)
      ∧ (∀ x ∈ c.contexts, x ∉ s.parts[p].contexts) ∧ ∀ x ∈ c.ports, x ∉ s.parts[p].ports

theorem State.mayConfigure_one {c : PartCfg} (hc : WellShaped c) (hl : ∀ L ∈ s.launches, L.part ≠ c.num) (ha : s.Apart c) :
    s.mayConfigure [c] = true := by
  have hapart (i : Fin 16) (hi : i ≠ c.num) (hp : s.parts[i].present = true) : cfgApart c (s.parts[i].cfg i) = true := by
    obtain ⟨hdies, hctx, hport⟩ := ha i hi hp
    simp only [cfgApart, Partition.cfg, Bool.and_eq_true, Bool.or_eq_true, List.all_eq_true, Bool.not_eq_true',
      List.contains_eq_mem, decide_eq_false_iff_not]
    exact ⟨⟨hdies.symm.imp decide_eq_true decide_eq_true, hctx⟩, hport⟩
  have hlaunch : (!s.launches.any (·.part == c.num)) = true := by simpa using hl
  simp only [State.mayConfigure, List.all_cons, List.all_nil, cfgShape_iff.2 hc, hlaunch, List.pairwise_singleton, Bool.and_true, decide_true,
    List.any_cons, List.any_nil, Bool.or_false, Bool.true_and, List.all_eq_true, List.mem_ofFn, id, Bool.or_eq_true, Bool.not_eq_true',
    beq_iff_eq]
  rintro i -
  by_cases hi : c.num = i
  · exact .inl (.inr hi)
  · by_cases hp : s.parts[i].present = true
    · exact .inr (hapart i (Ne.symm hi) hp)
    · exact .inl (.inl (Bool.eq_false_iff.2 hp))

/-- The partition that a configuration leaves. -/
theorem State.configure_parts {c : PartCfg} : (s.configure c).parts[c.num] = { s.parts[c.num] with
    present := true, firstDie := c.firstDie.val, dies := c.dies, contexts := c.contexts, ports := c.ports, digest := c.digest
    ptr := Vector.replicate 4 4095, ctr := Vector.replicate 4 0, invasiveOnce := false, preempt := [] } := by
  simp [State.configure, State.zeroPartition, State.measure, State.setPart]

theorem State.configure_parts_ne {c : PartCfg} {p : Fin 16} (h : p ≠ c.num) : (s.configure c).parts[p] = s.parts[p] := by
  have h' : c.num.val ≠ p.val := fun e => h (Fin.ext e.symm)
  simp [State.configure, State.zeroPartition, State.measure, State.setPart, Vector.getElem_set_ne _ _ h']

/-- A partition's range is zeroed, and no other byte changes. -/
theorem Mem.get_zero {m : Mem} (h : m.wf = true) {p : Partition} (pa : Nat) :
    (m.replace p.range.1 p.range.2 []).get pa = open Classical in if inRange p pa then 0 else m.get pa := by
  rw [Mem.get_replace h (r := []) rfl (by simp) p.range_le]
  classical exact if_congr Iff.rfl rfl rfl

end
end Sys2Proof.Machine
end

section
/-! SUPPORT. The statement on management (O54). -/

namespace Sys2Proof.Machine

variable {s : State}

/-- The contexts whose cached translations and blocks a configuration drops. -/
def State.reconfigured (s : State) (c : PartCfg) : State :=
  s.dropCached fun k => !([c].flatMap fun c => c.contexts ++ s.parts[c.num].contexts).contains k

theorem execPartition_one {c : PartCfg} (hu : s.up = true) (h : s.mayConfigure [c] = true) :
    execPartition [c] s = .next (answered ((s.reconfigured c).configure c) 0) := by
  unfold execPartition
  rw [hu, h]
  rfl

theorem Management.cap (hu : s.up = true) (amps : Nat) :
    (6000 ≤ amps → exec (.cap amps) s = .next (answered { s with dev := { s.dev with cap := amps } } 0))
      ∧ (amps < 6000 → AnswersOnly s (.cap amps) 1) :=
  ⟨execCap_accepted hu, execCap_refused⟩

theorem Management.xunload (hu : s.up = true) (k : Fin 4) :
    (s.dev.slots[k].isSome = true → exec (.xunload k) s = .next (answered { s with
        dev := { s.dev with slots := s.dev.slots.set k none }, ops := s.ops.filter fun b => b.slot != k, lines := s.keepPassing.lines } 0))
      ∧ (s.dev.slots[k] = none → AnswersOnly s (.xunload k) 1) :=
  ⟨execXunload_held hu, execXunload_empty⟩

/-- What a loss of power leaves. -/
def PoweredOff (s t : State) : Prop :=
  t.dev.power = .off ∧ t.mem = [] ∧ t.launches = [] ∧ t.worlds = [] ∧ t.running = false ∧ t.tlb = []
    ∧ t.dev.zeroised = s.dev.zeroised + 1 ∧ t.dev.lifecycle = s.dev.lifecycle ∧ ∀ p : Fin 16, t.parts[p].present = false

theorem State.poweredOff_lost : PoweredOff s s.lost := by
  refine ⟨rfl, rfl, rfl, rfl, rfl, rfl, rfl, rfl, fun p => ?_⟩
  have hp : s.lost.parts = Vector.replicate 16 Partition.absent := rfl
  rw [hp]
  simp [Partition.absent]

theorem Management.power (hu : s.up = true) :
    let dest (p : PowerState) : State := { s with dev := { s.dev with power := p } }
    exec (.power .run) s = .next (answered (dest .run) 0)
      ∧ (s.running = false → exec (.power .idle) s = .next (answered (dest .idle) 0))
      ∧ (s.running = true → AnswersOnly s (.power .idle) 1)
      ∧ (s.launches = [] → s.running = false → (∀ p : Fin 16, s.parts[p].debug ≠ .invasive) →
          exec (.power .nap) s = .next (answered { dest .nap with tlb := [], ops := [], lines := [] } 0))
      ∧ (s.launches ≠ [] ∨ s.running = true ∨ (∃ p : Fin 16, s.parts[p].debug = .invasive) → AnswersOnly s (.power .nap) 1)
      ∧ ∀ i ∈ [Instr.power .off, .lossOfPower], Completes i s (PoweredOff s) := by
  refine ⟨execPower_run hu, execPower_idle hu, execPower_idle_refused hu,
    fun hl hr hd => execPower_nap hu (State.mayNap_iff.2 ⟨hl, hr, hd⟩), fun h => ?_, ?_⟩
  · refine execPower_nap_refused hu fun hn => ?_
    obtain ⟨hl, hr, hd⟩ := State.mayNap_iff.1 hn
    obtain h | h | ⟨p, h⟩ := h
    · exact h hl
    · exact Bool.false_ne_true (hr.symm.trans h)
    · exact hd p h
  · intro i hi
    obtain rfl | rfl : i = .power .off ∨ i = .lossOfPower := by simpa using hi
    · exact ⟨_, execPower_off hu, State.poweredOff_lost⟩
    · exact ⟨_, rfl, State.poweredOff_lost⟩

theorem Management.preempt (hu : s.up = true) (part : Fin 16) (id : Option (BitVec 12)) :
    let P := s.parts[part]
    let named := s.running = true ∧ s.myPart = part ∧ (id = none ∨ id = some s.task.id.launch)
    (P.present = false → AnswersOnly s (.preempt part id) 1)
      ∧ (P.present = true → ¬ named → AnswersOnly s (.preempt part id) 0)
      ∧ (P.present = true → named → (s.sup = true ∨ s.deferred = true ∨ s.task.part ≠ none ∨ s.saveRoom = false) → Completes (.preempt part id) s fun t =>
          t = answered { s with parts := s.parts.set part { P with preempt := t.parts[part].preempt } } 0
            ∧ ∀ n, n ∈ t.parts[part].preempt ↔ n ∈ P.preempt ∨ n = s.task.id.tid)
      ∧ (P.present = true → named → s.sup = false → s.deferred = false → s.task.part = none → s.pairFor s.task = none →
          Completes (.preempt part id) s fun t => s.task.id.tid ∉ t.parts[part].preempt
            ∧ t = answered { s with parts := s.parts.set part { P with preempt := t.parts[part].preempt } } 1)
      ∧ (P.present = true → named → s.sup = false → s.deferred = false → s.task.part = none → (s.pairFor s.task).isSome = true →
          s.saveRoom = true → ∀ L, s.myLaunch = some L → Completes (.preempt part id) s fun t => t.running = false ∧ s.task.id.tid ∉ t.parts[part].preempt
            ∧ t.out.answers = s.out.answers ++ [0] ∧ ∃ t1, OnlyLaunch s t L { L with queue := L.queue ++ [.task t1] }
              ∧ t1.pc = s.task.pc ∧ t1.x = s.task.x ∧ t1.csr = s.task.csr ∧ t1.v = s.task.v ∧ t1.id.tid = s.task.id.tid) := by
  have heq (q : List Nat) (n : Nat) : answered (s.setPreempt part q) n
      = answered { s with parts := s.parts.set part { s.parts[part] with preempt := (answered (s.setPreempt part q) n).parts[part].preempt } } n := by
    change _ = answered (s.setPreempt part (s.setPreempt part q).parts[part].preempt) n
    rw [State.setPreempt_preempt]
  refine ⟨execPreempt_absent, execPreempt_unnamed hu, fun hp hn hw => ⟨_, execPreempt_waits hu hp hn hw, heq _ _, fun n => ?_⟩,
    fun hp hn hs hd ht hr => ?_, fun hp hn hs hd ht hr hroom L hL => ?_⟩
  · change n ∈ (s.setPreempt part _).parts[part].preempt ↔ _
    rw [State.setPreempt_preempt]
    exact mem_insertNat
  · have hset : (s.asked part).answered part s.task.id.tid
        = s.setPreempt part ((s.asked part).parts[part].preempt.filter (· != s.task.id.tid)) := by
      change (s.asked part).setPreempt part _ = _
      rw [State.asked, State.setPreempt_setPreempt]
    refine ⟨_, execPreempt_stays hn hs hd ht hu hp hr, State.answered_preempt, ?_⟩
    rw [hset]
    exact heq _ _
  · obtain ⟨u, t1, he, hrun, hout, htid, hregs⟩ := execPreempt_saves hn hs hd ht hu hp hr hroom hL
    refine ⟨_, he, hrun, htid, ?_, t1, hregs⟩
    exact congrArg (fun o : Outside => o.answers ++ [0]) hout

theorem Management.attest (part : Fin 16) (a : Word) :
    let P := s.parts[part]
    let ok := P.present = true ∧ a.toNat % 64 = 0 ∧ P.owns a.toNat 64 = true ∧ s.isolatedAt a.toNat = false
      ∧ s.badLines.contains a.toNat = false
    let w (k : Nat) : Nat := leValue (s.mem.getBytes (a.toNat + 8 * k) 8)
    (¬ ok → s.awake = true → AnswersOnly s (.attest part a) 1)
      ∧ (ok → s.awake = true → s.launchesAllowed = true → P.attest = none → exec (.attest part a) s = .next (answered { s with
          parts := s.parts.set part { P with attest := some ⟨s.mem.getBytes a.toNat 32, wd (w 4), wd (w 5), none⟩ } } 0)) :=
  ⟨fun h hw => execAttest_unread hw h, fun h hw hl hn => execAttest_kept hw h hl hn⟩

theorem Management.partition (hu : s.up = true) (cfgs : List PartCfg) :
    (s.mayConfigure cfgs = false → AnswersOnly s (.partition cfgs) 1)
      ∧ ∀ c : PartCfg, cfgs = [c] → WellShaped c → (∀ L ∈ s.launches, L.part ≠ c.num) → s.wf = true → s.Apart c →
        Completes (.partition cfgs) s fun t =>
          let Q := t.parts[c.num]
          Q.present = true ∧ Q.firstDie = c.firstDie.val ∧ Q.dies = c.dies ∧ Q.contexts = c.contexts ∧ Q.ports = c.ports
            ∧ Q.digest = c.digest ∧ (∀ l : Fin 4, Q.ptr[l] = 4095 ∧ Q.ctr[l] = 0) ∧ (∀ p : Fin 16, p ≠ c.num → t.parts[p] = s.parts[p])
            ∧ (∀ pa, t.mem.get pa = open Classical in if inRange Q pa then 0 else s.mem.get pa)
            ∧ t.out.answers = s.out.answers ++ [0] ∧ t.dev.zeroised = s.dev.zeroised + 1 := by
  refine ⟨execPartition_refused, ?_⟩
  rintro c rfl hc hl hwf ha
  have hQ : (answered ((s.reconfigured c).configure c) 0).parts[c.num] = _ := State.configure_parts
  refine ⟨_, execPartition_one hu (State.mayConfigure_one hc hl ha), ?_⟩
  dsimp only
  rw [hQ]
  refine ⟨rfl, rfl, rfl, rfl, rfl, rfl, fun l => ⟨?_, ?_⟩, fun p hp => State.configure_parts_ne hp, fun pa => ?_, rfl, rfl⟩
  · simp
  · simp
  · exact Mem.get_zero (State.wf_iff.1 hwf).1 pa

/-- Settles O54, command by command. -/
theorem management : Obligations.Management := by
  intro s hu
  refine ⟨Management.cap hu, Management.xunload hu, Management.power hu, Management.preempt hu, Management.attest, fun cfgs => ?_⟩
  obtain ⟨hno, hone⟩ := Management.partition hu cfgs
  exact ⟨hno, fun c h h1 h2 h3 hl hwf ha => hone c h ⟨h1, h2, h3⟩ hl hwf ha⟩

end Sys2Proof.Machine
end

section
/-! SUPPORT. The registers of BAR0 (O53). -/

namespace Sys2Proof.Machine

/-! ### Fields of a register -/

theorem bit_eq_true {x : Word} {n : Nat} : bit x n = true ↔ x.toNat / 2 ^ n % 2 = 1 := by
  rw [bit, BitVec.getLsbD, Nat.testBit_eq_decide_div_mod_eq, decide_eq_true_eq]

theorem bits_four_zero {x : Word} : bits x 4 0 = x.toNat % 32 := by simp [bits, bitsN]

theorem ite_bit_eight {x : Word} : (if bit x 8 then 0x100 else 0) = x.toNat / 2 ^ 8 % 2 * 2 ^ 8 := by
  obtain h | h := Nat.mod_two_eq_zero_or_one (x.toNat / 2 ^ 8)
  · rw [if_neg (by rw [bit_eq_true]; omega), h]
    rfl
  · rw [if_pos (bit_eq_true.2 h), h]
    rfl

theorem lognWritten_eq {old new : Word} {hi : Nat} : lognWritten old new 4 hi
    = if 4 ≤ new.toNat % 32 ∧ new.toNat % 32 ≤ hi then new.toNat % 32 else old.toNat % 32 := by
  simp only [lognWritten, bits_four_zero, Bool.and_eq_true, decide_eq_true_eq]

theorem rcfgWritten_eq {old new : Word} : rcfgWritten old new =
    wd ((if old.toNat / 2 ^ 9 % 2 = 1 ∧ new.toNat / 2 ^ 9 % 2 = 0 then 0x200 else 0) + new.toNat / 2 ^ 8 % 2 * 2 ^ 8
      + if 4 ≤ new.toNat % 32 ∧ new.toNat % 32 ≤ 20 then new.toNat % 32 else old.toNat % 32) := by
  have herr : (bit old 9 && !bit new 9) = true ↔ old.toNat / 2 ^ 9 % 2 = 1 ∧ new.toNat / 2 ^ 9 % 2 = 0 := by
    rw [Bool.and_eq_true, Bool.not_eq_true', ← Bool.not_eq_true, bit_eq_true, bit_eq_true]
    omega
  unfold rcfgWritten
  rw [ite_bit_eight, lognWritten_eq]
  simp only [herr]

theorem evcfgWritten_eq {old new : Word} : evcfgWritten old new =
    wd (new.toNat / 2 ^ 8 % 2 * 2 ^ 8 + if 4 ≤ new.toNat % 32 ∧ new.toNat % 32 ≤ 16 then new.toNat % 32 else old.toNat % 32) := by
  unfold evcfgWritten
  rw [ite_bit_eight, lognWritten_eq]

theorem Ring.accepts_iff {r : Ring} {v : BitVec 32} : r.accepts v = true ↔ r.cfg.toNat / 2 ^ 8 % 2 = 1 ∧ r.cfg.toNat % 32 ≠ 0
    ∧ (v.toNat + 2 ^ 32 - r.head.toNat) % 2 ^ 32 ≤ 2 ^ (r.cfg.toNat % 32) := by
  have hsub : (v - r.head).toNat = (v.toNat + 2 ^ 32 - r.head.toNat) % 2 ^ 32 := by
    have := r.head.isLt
    rw [BitVec.toNat_sub]
    congr 1
    omega
  simp only [Ring.accepts, Ring.slots, Bool.and_eq_true, bit_eq_true, bits_four_zero, bne_iff_ne, decide_eq_true_eq, hsub, and_assoc]

/-! ### Writes -/

section
variable {s : State} {c : Fin 64} {part : Fin 16} {w : Word}

theorem State.ringLive_of_mem (hp : s.parts[part].present = true) (hc : c ∈ s.parts[part].contexts) : s.ringLive c = true := by
  simp only [State.ringLive, List.any_eq_true, List.mem_ofFn]
  refine ⟨part, ⟨part, rfl⟩, ?_⟩
  rw [Bool.and_eq_true]
  exact ⟨hp, List.contains_iff_mem.2 hc⟩

theorem State.ringServed_of_serves (hu : s.up = true) (hp : s.parts[part].present = true) (hs : s.dev.pcie.serves part = true)
    (hc : c ∈ s.parts[part].contexts) (hpart : s.partOfCtx c = part) : s.ringServed c = true := by
  rw [State.ringServed, hu, State.ringLive_of_mem hp hc, hpart, hs]
  rfl

theorem State.ringServed_of_not_serves (h : s.dev.pcie.serves (s.partOfCtx c) = false) : s.ringServed c = false := by
  rw [State.ringServed, h, Bool.and_false]

theorem execTailWrite_unserved {v : BitVec 32} (h : s.ringServed c = false) : execTailWrite c v s = .next s := by
  rw [execTailWrite, h]
  rfl

theorem execTailWrite_accepted {v : BitVec 32} (h : s.ringServed c = true) (ha : s.ctxs[c].ring.accepts v = true) :
    execTailWrite c v s = .next (s.setRing c fun r => { r with tail := v }) := by
  rw [execTailWrite, h, ha]
  rfl

theorem execTailWrite_refused {v : BitVec 32} (h : s.ringServed c = true) (ha : ¬ s.ctxs[c].ring.accepts v = true) :
    execTailWrite c v s = .next ((s.setRing c fun r => { r with cfg := r.cfg ||| 0x200 }).msix (s.partOfCtx c) 1) := by
  rw [execTailWrite, h, Bool.eq_false_iff.2 ha]
  rfl

theorem execRcfgWrite_unserved (h : s.ringServed c = false) : execRcfgWrite c w s = .next s := by
  rw [execRcfgWrite, h]
  rfl

theorem execRcfgWrite_served (h : s.ringServed c = true) :
    execRcfgWrite c w s = .next (s.setRing c fun r => { r with cfg := rcfgWritten r.cfg w }) := by
  rw [execRcfgWrite, h]
  rfl

theorem execEvcfgWrite_unserved (h : s.dev.pcie.serves part = false) : execEvcfgWrite part w s = .next s := by
  rw [execEvcfgWrite, h, Bool.and_false]
  rfl

theorem execEvcfgWrite_served (hu : s.up = true) (hp : s.parts[part].present = true) (hs : s.dev.pcie.serves part = true) :
    execEvcfgWrite part w s = .next (s.setPart part { s.parts[part] with evCfg := evcfgWritten s.parts[part].evCfg w }) := by
  have hopen : (s.up && s.parts[part].present && s.dev.pcie.serves part) = true := by
    rw [hu, hp, hs]
    rfl
  rw [execEvcfgWrite, hopen]
  rfl

/-! ### Offsets in BAR0 (R417) -/

/-- The offset of a register of a context's launch ring. -/
def ringReg (c : Fin 64) (k : Nat) : Nat := 0x100000 + 0x1000 * c.val + k

theorem ringOffset_ringReg {k : Nat} (hk : k < 0x1000) : ringOffset (ringReg c k) = some (c, k) := by
  have hc := c.isLt
  have hlo : 0x100000 ≤ ringReg c k ∧ ringReg c k < 0x140000 := by
    unfold ringReg
    omega
  have hin : (0x100000 ≤ ringReg c k && ringReg c k < 0x140000) = true := by
    simpa only [Bool.and_eq_true, decide_eq_true_eq] using hlo
  have hctx : (ringReg c k - 0x100000) / 0x1000 % 64 = c.val := by
    unfold ringReg
    omega
  have hreg : ringReg c k % 0x1000 = k := by
    unfold ringReg
    omega
  rw [ringOffset, hin]
  simp only [if_true, hreg, hctx]

/-- A write to a register of a launch ring. -/
theorem State.bar0Write_ringReg (hu : s.up = true) (hp : s.parts[part].present = true) (hs : s.dev.pcie.serves part = true)
    (hc : c ∈ s.parts[part].contexts) {k : Nat} (hk : k < 0x1000) : s.bar0Write part (ringReg c k) w =
      if k = 0 then .next (s.setRing c fun r => { r with base := w })
      else if k = 8 then execRcfgWrite c w s
      else if k = 0x10 then execTailWrite c (BitVec.ofNat 32 w.toNat) s
      else .next s := by
  have hc : s.parts[part].contexts.contains c = true := List.contains_iff_mem.2 hc
  have hopen : (!s.up || !s.parts[part].present || !s.dev.pcie.serves part) = false := by
    rw [hu, hp, hs]
    rfl
  unfold State.bar0Write
  dsimp only
  rw [hopen, ringOffset_ringReg hk]
  dsimp only
  rw [hc]
  rfl

/-- A write elsewhere in BAR0: to the partition's event ring, or to nothing. -/
theorem State.bar0Write_eventReg (hu : s.up = true) (hp : s.parts[part].present = true) (hs : s.dev.pcie.serves part = true)
    {offset : Nat} (ho : ringOffset offset = none) : s.bar0Write part offset w =
      if offset = 0x200000 then .next (s.setPart part { s.parts[part] with evBase := w })
      else if offset = 0x200008 then execEvcfgWrite part w s
      else if offset = 0x200018 then .next (s.setPart part { s.parts[part] with evHead := w.toNat })
      else .next s := by
  have hopen : (!s.up || !s.parts[part].present || !s.dev.pcie.serves part) = false := by
    rw [hu, hp, hs]
    rfl
  unfold State.bar0Write
  dsimp only
  rw [hopen, ho]
  rfl

/-! ### Reads -/

/-- What a host read of one register leaves: its value answered. -/
def State.hostRead (s : State) (v : Word) : State :=
  { s with fresh := s.fresh + 1, out := { s.out with reads := s.out.reads ++ [leBytes 8 v.toNat] } }

theorem State.bar0Read_of_value {fn : Option (Fin 16)} {offset : Nat} {v : Word} (hu : s.up = true) (h : s.functionValue fn offset = some v) :
    s.bar0Read fn offset = s.hostRead v := by
  unfold State.bar0Read
  rw [h, hu]
  rfl

/-- The function that serves a partition. -/
def State.functionOf (s : State) (part : Fin 16) : Option (Fin 16) := if s.dev.pcie.vfs = 0 then none else some part

theorem State.functionValue_functionOf (hs : s.dev.pcie.serves part = true) {offset : Nat} (ho : isMailbox offset = false) :
    s.functionValue (s.functionOf part) offset = some (s.bar0Value part offset) := by
  unfold Pcie.serves at hs
  unfold State.functionOf
  split
  · rename_i h
    rw [if_pos h, decide_eq_true_eq] at hs
    subst hs
    simp only [State.functionValue, ho, h]
    rfl
  · rename_i h
    rw [if_neg h, decide_eq_true_eq] at hs
    exact if_pos hs

theorem State.bar0Value_ringReg (hc : c ∈ s.parts[part].contexts) {k : Nat} (hk : k < 0x1000) :
    s.bar0Value part (ringReg c k) = s.ctxs[c].ring.register k := by
  have hc : s.parts[part].contexts.contains c = true := List.contains_iff_mem.2 hc
  have hne : ringReg c k ≠ 0 := by
    unfold ringReg
    omega
  unfold State.bar0Value
  dsimp only
  rw [if_neg hne, ringOffset_ringReg hk]
  exact if_pos hc

theorem isMailbox_ringReg {k : Nat} (hk : k < 0x1000) : isMailbox (ringReg c k) = false := by
  have hlt : ringReg c k < 0x300000 := by
    have := c.isLt
    unfold ringReg
    omega
  simp only [isMailbox, Bool.and_eq_false_iff, decide_eq_false_iff_not]
  exact .inl (Nat.not_le.2 hlt)

/-- What the registers of a partition's function read as. -/
theorem State.bar0Value_register (hc : c ∈ s.parts[part].contexts) :
    let ring := s.ctxs[c].ring
    let P := s.parts[part]
    ∀ x ∈ [(0, wd (0xB7000000 + (if s.dev.ptpLocked = true then 2 else 0) + if s.dev.ready = true then 1 else 0)),
        (ringReg c 0, ring.base), (ringReg c 8, ring.cfg), (ringReg c 0x10, wd ring.tail.toNat), (ringReg c 0x18, wd ring.head.toNat),
        (ringReg c 0x20, wd ring.drops.toNat), (ringReg c 0x28, 0), (0x200000, P.evBase), (0x200008, P.evCfg), (0x200010, wd P.evTail),
        (0x200018, wd P.evHead), (0x200020, wd P.evLost), (0x200028, 0), (8, 0), (0x300000 + 0x1000, 0)],
      isMailbox x.1 = false ∧ s.bar0Value part x.1 = x.2 := by
  have hring {k : Nat} (hk : k < 0x1000) : isMailbox (ringReg c k) = false ∧ s.bar0Value part (ringReg c k) = s.ctxs[c].ring.register k :=
    ⟨isMailbox_ringReg hk, State.bar0Value_ringReg hc hk⟩
  simp only [List.forall_mem_cons, List.not_mem_nil, false_implies, implies_true, and_true]
  exact ⟨⟨rfl, rfl⟩, hring (by omega), hring (by omega), hring (by omega), hring (by omega), hring (by omega), hring (by omega),
    ⟨rfl, rfl⟩, ⟨rfl, rfl⟩, ⟨rfl, rfl⟩, ⟨rfl, rfl⟩, ⟨rfl, rfl⟩, ⟨rfl, rfl⟩, ⟨rfl, rfl⟩, rfl, rfl⟩

end
end Sys2Proof.Machine
end

section
/-! SUPPORT. Time, Function Level Reset and bring-up (O53). -/

namespace Sys2Proof.Machine

section
variable {s : State} {part : Fin 16}

/-! ### Time (R305, R425) -/

theorem execPtpLock_first {time : Word} (hu : s.up = true) (he : s.dev.everLocked = false) (hl : s.dev.launched = false) :
    execPtpLock time s = .next { s with dev := { s.dev.setTime time.toNat with ptpLocked := true, everLocked := true } } := by
  unfold execPtpLock
  rw [hu, he, hl]
  rfl

theorem execPtpLock_later {time : Word} (hu : s.up = true) (h : s.dev.everLocked = true ∨ s.dev.launched = true) :
    execPtpLock time s = .next { s with dev := { s.dev with ptpLocked := true, everLocked := true } } := by
  unfold execPtpLock
  rw [hu, Bool.or_eq_true_iff.2 h]
  rfl

/-- TIME after it was set. -/
theorem time_setTime {time : Word} {t : State} (hb : t.dev.timeBase = (s.dev.setTime time.toNat).timeBase) (hc : t.dev.cycle = s.dev.cycle) :
    wd t.time = time := by
  have ht : t.time = time.toNat := by
    unfold State.time
    rw [hb, hc]
    simp [Device.setTime]
  rw [ht, wd, BitVec.ofNat_toNat, BitVec.setWidth_eq]

/-! ### What ends with a launch (R227, R320) -/

theorem State.releasePair_eq (t : Task) : s.releasePair t = { s with ctxs := (s.releasePair t).ctxs } := by
  unfold State.releasePair
  split <;> rfl

/-- What dropping a launch does not change. -/
def State.unlaunched (s : State) : Mem × Mem × Mem × Vector Partition 16 × Device × List LateWrite :=
  (s.mem, s.host, s.peer, s.parts, s.dev, s.late)

theorem State.releasePair_unlaunched (t : Task) : (s.releasePair t).unlaunched = s.unlaunched := by
  rw [State.releasePair_eq]
  rfl

theorem State.releasePair_launches (t : Task) : (s.releasePair t).launches = s.launches := by rw [State.releasePair_eq]

/-- A component that no release of a pair changes is the same after a launch's kept tasks are released. -/
theorem State.releaseKept_unchanged {β : Type} {f : State → β} (hf : ∀ (u : State) t, f (u.releasePair t) = f u) (L : Launch) :
    f (s.releaseKept L) = f s := by
  unfold State.releaseKept
  dsimp only
  rw [foldl_unchanged (f := f) fun u p => hf u _, foldl_unchanged (f := f) fun u e => ?_]
  split
  · exact hf u _
  · rfl

theorem State.dropLaunch_unlaunched (L : Launch) : (s.dropLaunch L).unlaunched = s.unlaunched := by
  have h : ((if s.runs L then s.stopTask else s).releaseKept L).unlaunched = s.unlaunched := by
    rw [State.releaseKept_unchanged fun u t => State.releasePair_unlaunched t]
    split
    · exact State.releasePair_unlaunched s.task
    · rfl
  exact h

theorem State.dropLaunch_launches (L : Launch) :
    (s.dropLaunch L).launches = s.launches.filter fun k => !(k.part == L.part && k.id == L.id) := by
  have h : ((if s.runs L then s.stopTask else s).releaseKept L).launches = s.launches := by
    rw [State.releaseKept_unchanged fun u t => State.releasePair_launches t]
    split
    · exact State.releasePair_launches s.task
    · rfl
  exact congrArg (List.filter _) h

theorem State.foldl_dropLaunch_launches {l : List Launch} {k : Launch} : k ∈ (l.foldl (fun s L => s.dropLaunch L) s).launches ↔
    k ∈ s.launches ∧ ∀ L ∈ l, ¬ (k.part = L.part ∧ k.id = L.id) := by
  induction l generalizing s with
  | nil => simp
  | cons L l ih =>
    rw [List.foldl_cons, ih, State.dropLaunch_launches, List.mem_filter, List.forall_mem_cons, and_assoc]
    simp only [Bool.not_eq_true', Bool.and_eq_false_iff, beq_eq_false_iff_ne, ne_eq, not_and_or]

/-- Dropping a partition's launches leaves those of the others. -/
theorem State.mem_dropLaunches {k : Launch} : k ∈ (s.dropLaunches part).launches ↔ k ∈ s.launches ∧ k.part ≠ part := by
  rw [State.dropLaunches, State.foldl_dropLaunch_launches]
  refine and_congr_right fun hk => ⟨fun h hp => ?_, fun h L hL hkL => ?_⟩
  · exact h k (List.mem_filter.2 ⟨hk, beq_iff_eq.2 hp⟩) ⟨rfl, rfl⟩
  · exact h (hkL.1.trans (beq_iff_eq.1 (List.mem_filter.1 hL).2))

theorem State.dropLaunches_unlaunched : (s.dropLaunches part).unlaunched = s.unlaunched :=
  foldl_unchanged (fun _ L => State.dropLaunch_unlaunched L) _ s

/-! ### Function Level Reset (R427) -/

theorem State.foldl_setRing_ring {r : Ring} {l : List (Fin 64)} {c : Fin 64} (h : c ∈ l ∨ s.ctxs[c].ring = r) :
    (l.foldl (fun s c => s.setRing c fun _ => r) s).ctxs[c].ring = r := by
  induction l generalizing s with
  | nil => exact h.resolve_left (by simp)
  | cons k l ih =>
    refine ih ?_
    by_cases hk : k = c
    · subst hk
      exact .inr (by simp)
    · have hk' : k.val ≠ c.val := fun e => hk (Fin.ext e)
      obtain h | h := h
      · exact .inl ((List.mem_cons.1 h).resolve_left (Ne.symm hk))
      · exact .inr (by simpa [Vector.getElem_set_ne _ _ hk'] using h)

theorem State.dropLate_late_mem {w : LateWrite} (h : w ∈ (s.dropLate part).late) : w ∈ s.late ∧ ∀ bs, w ≠ .event part bs := by
  obtain ⟨hw, hk⟩ := List.mem_filter.1 h
  refine ⟨hw, ?_⟩
  rintro bs rfl
  simp at hk

/-- The state after a Function Level Reset. -/
def State.flrDone (s : State) (part : Fin 16) : State :=
  (((s.dropLaunches part).dropLate part).resetRings part).zeroPartition s.parts[part]

theorem execFlr_eq (hu : s.up = true) (hp : s.parts[part].present = true) : execFlr part s = .next (s.flrDone part) := by
  have hopen : (s.up && s.parts[part].present) = true := by
    rw [hu, hp]
    rfl
  rw [execFlr, hopen]
  rfl

theorem State.resetRings_unchanged {β : Type} {f : State → β} (hr : ∀ (u : State) c g, f (u.setRing c g) = f u)
    (hp : ∀ (u : State) i p, f (u.setPart i p) = f u) : f (s.resetRings part) = f s := by
  unfold State.resetRings
  dsimp only
  rw [hp, foldl_unchanged (f := f) fun u c => hr u c _]

theorem State.flrDone_launches : (s.flrDone part).launches = (s.dropLaunches part).launches :=
  State.resetRings_unchanged (f := State.launches) (fun _ _ _ => rfl) fun _ _ _ => rfl

theorem State.flrDone_late : (s.flrDone part).late = ((s.dropLaunches part).dropLate part).late :=
  State.resetRings_unchanged (f := State.late) (fun _ _ _ => rfl) fun _ _ _ => rfl

theorem State.flrDone_mem : (s.flrDone part).mem = s.mem.replace s.parts[part].range.1 s.parts[part].range.2 [] := by
  have h : (((s.dropLaunches part).dropLate part).resetRings part).mem = s.mem :=
    (State.resetRings_unchanged (f := State.mem) (fun _ _ _ => rfl) fun _ _ _ => rfl).trans
      (congrArg Prod.fst (State.dropLaunches_unlaunched (s := s) (part := part)))
  exact congrArg (fun m : Mem => m.replace s.parts[part].range.1 s.parts[part].range.2 []) h

theorem State.flrDone_host : (s.flrDone part).host = s.host :=
  (State.resetRings_unchanged (f := State.host) (fun _ _ _ => rfl) fun _ _ _ => rfl).trans
    (congrArg (·.2.1) (State.dropLaunches_unlaunched (s := s) (part := part)))

theorem State.flrDone_peer : (s.flrDone part).peer = s.peer :=
  (State.resetRings_unchanged (f := State.peer) (fun _ _ _ => rfl) fun _ _ _ => rfl).trans
    (congrArg (·.2.2.1) (State.dropLaunches_unlaunched (s := s) (part := part)))

theorem State.flrDone_zeroised : (s.flrDone part).dev.zeroised = s.dev.zeroised + 1 := by
  have h : (((s.dropLaunches part).dropLate part).resetRings part).dev = s.dev :=
    (State.resetRings_unchanged (f := State.dev) (fun _ _ _ => rfl) fun _ _ _ => rfl).trans
      (congrArg (·.2.2.2.2.1) (State.dropLaunches_unlaunched (s := s) (part := part)))
  exact congrArg (fun d : Device => d.zeroised + 1) h

theorem State.dropLate_dropLaunches_parts : ((s.dropLaunches part).dropLate part).parts = s.parts :=
  congrArg (·.2.2.2.1) (State.dropLaunches_unlaunched (s := s) (part := part))

theorem State.dropLaunches_late : (s.dropLaunches part).late = s.late :=
  congrArg (·.2.2.2.2.2) (State.dropLaunches_unlaunched (s := s) (part := part))

theorem State.flrDone_part : (s.flrDone part).parts[part] =
    { s.parts[part] with evBase := 0, evCfg := 0, evTail := 0, evHead := 0, evLost := 0 } := by
  have h : (s.flrDone part).parts[part] = { ((s.dropLaunches part).dropLate part).parts[part] with
      evBase := 0, evCfg := 0, evTail := 0, evHead := 0, evLost := 0 } := by
    simp [State.flrDone, State.zeroPartition, State.resetRings]
  rw [h, State.dropLate_dropLaunches_parts]

theorem State.flrDone_ring {c : Fin 64} (hc : c ∈ s.parts[part].contexts) : (s.flrDone part).ctxs[c].ring = Ring.reset := by
  refine State.foldl_setRing_ring (.inl ?_)
  rw [State.dropLate_dropLaunches_parts]
  exact hc

end
end Sys2Proof.Machine
end

section
/-! SUPPORT. Bring-up, and the statement on the host's registers (O53). -/

namespace Sys2Proof.Machine

section
variable {s u : State} {b : Boot}

/-! ### Bring-up (R426) -/

/-- The configuration requests that come before step 6 are answered with Request Retry Status. -/
def State.retried (s : State) (b : Boot) : State := { s with out := { s.out with retries := s.out.retries + b.requests } }

/-- A dark module. -/
def State.darkened (s : State) : State := { s with dev := { s.dev with dark := true } }

theorem execReset_eq : execReset b s = .next (
    if !b.firmwareOk then (s.cold.retried b).darkened
    else if b.managementOk then ((s.cold.retried b).measure 0 b.firmware).bring b
    else if b.managementRetry then (((s.cold.retried b).measure 0 b.firmware).measure 0 b.firmware).bring b
    else (((s.cold.retried b).measure 0 b.firmware).measure 0 b.firmware).darkened) := by
  unfold execReset
  generalize s.cold = v
  rfl

/-- What a state of bring-up before step 6 has in common with the state it started from. -/
def BringingUp (s : State) (b : Boot) (u : State) : Prop :=
  u.running = false ∧ u.launches = [] ∧ u.worlds = [] ∧ u.tlb = [] ∧ u.ops = [] ∧ u.task.x = State.reset.task.x ∧ u.mem = s.mem
    ∧ u.dev.dark = false ∧ u.dev.power = .run ∧ u.dev.lifecycle = s.dev.lifecycle ∧ u.dev.slots = s.dev.slots
    ∧ u.out.retries = s.out.retries + b.requests

theorem State.bringingUp_cold : BringingUp s b (s.cold.retried b) := ⟨rfl, rfl, rfl, rfl, rfl, rfl, rfl, rfl, rfl, rfl, rfl, rfl⟩

theorem BringingUp.measure (h : BringingUp s b u) {k : Fin 4} {m : List Byte} : BringingUp s b (u.measure k m) := h

/-- What a dark module shows. -/
def Dark (s : State) (b : Boot) (t : State) : Prop :=
  t.dev.dark = true ∧ t.out.retries = s.out.retries + b.requests ∧ t.dev.ready = false ∧ t.running = false ∧ t.launches = []
    ∧ ∀ p : Fin 16, t.parts[p].present = false

theorem State.cold_parts (p : Fin 16) : (s.cold.retried b).parts[p].present = false := by
  have hp : (s.cold.retried b).parts = Vector.replicate 16 Partition.absent := rfl
  rw [hp]
  simp [Partition.absent]

theorem execReset_dark (h : b.firmwareOk = false ∨ (b.managementOk = false ∧ b.managementRetry = false)) :
    ∃ t, execReset b s = .next t ∧ Dark s b t := by
  rw [execReset_eq]
  cases hf : b.firmwareOk with
  | false => exact ⟨_, rfl, rfl, rfl, rfl, rfl, rfl, State.cold_parts (s := s) (b := b)⟩
  | true =>
    obtain ⟨hm, hr⟩ := h.resolve_left (by simp [hf])
    rw [hm, hr]
    exact ⟨_, rfl, rfl, rfl, rfl, rfl, rfl, State.cold_parts (s := s) (b := b)⟩

theorem execReset_brings (hf : b.firmwareOk = true) (h : b.managementOk = true ∨ b.managementRetry = true) :
    ∃ u, BringingUp s b u ∧ execReset b s = .next (u.bring b) := by
  rw [execReset_eq, hf]
  cases hm : b.managementOk with
  | true => exact ⟨_, State.bringingUp_cold.measure, rfl⟩
  | false =>
    rw [h.resolve_left (by simp [hm])]
    exact ⟨_, State.bringingUp_cold.measure.measure, rfl⟩

theorem State.configureStored_unchanged {β : Type} {f : State → β} (hf : ∀ (u : State) c, f (u.configure c) = f u) :
    ∀ (l : List PartCfg) {done : List PartCfg} {u : State}, f (State.configureStored done l u) = f u
  | [], _, _ => rfl
  | c :: l, done, u => by
    unfold State.configureStored
    split
    · rw [State.configureStored_unchanged hf l, hf]
    · rw [State.configureStored_unchanged hf l]

/-- The state in which bring-up configures the stored partitions. -/
def State.loaded (u : State) (b : Boot) : State :=
  ({ u with dev := { u.dev with slots := u.dev.imageSlots b, isolated := b.badDies } } : State).measureSet 0 b.set0

/-- Without a bad die or a port that stays down, bring-up ends with the partitions. -/
theorem State.bring_eq (hd : b.badDies = []) (hp : b.downPorts = []) : u.bring b =
    let v := State.configureStored [] b.parts (u.loaded b)
    { v with dev := { v.dev with ready := true } } := by
  unfold State.bring State.loaded
  rw [hp, hd]
  rfl

/-- A brought-up module, apart from its partitions. -/
def BroughtUp (s : State) (b : Boot) (t : State) : Prop :=
  t.dev.dark = false ∧ t.dev.ready = true ∧ t.dev.power = .run ∧ t.running = false ∧ t.launches = [] ∧ t.worlds = []
    ∧ t.tlb = [] ∧ t.ops = [] ∧ t.task.x = State.reset.task.x ∧ t.dev.slots[(0 : Fin 4)] = some b.set0
    ∧ t.dev.lifecycle = s.dev.lifecycle ∧ t.out.retries = s.out.retries + b.requests
    ∧ ∀ k : Fin 4, k ≠ 0 → t.dev.slots[k] = if k ∈ b.held then s.dev.slots[k] else none

theorem Device.imageSlots_zero {d : Device} : (d.imageSlots b)[(0 : Fin 4)] = some b.set0 := by simp [Device.imageSlots]

theorem Device.imageSlots_ne {d : Device} {k : Fin 4} (hk : k ≠ 0) : (d.imageSlots b)[k] = if k ∈ b.held then d.slots[k] else none := by
  simp [Device.imageSlots, hk]

theorem State.configure_worlds_length (u : State) (c : PartCfg) : (u.configure c).worlds.length = u.worlds.length := List.length_map ..

theorem BringingUp.broughtUp (h : BringingUp s b u) (hd : b.badDies = []) (hp : b.downPorts = []) : BroughtUp s b (u.bring b) := by
  obtain ⟨hrun, hl, hw, htlb, hops, hx, -, hdark, hpow, hlife, hslots, hret⟩ := h
  rw [State.bring_eq hd hp]
  have same {β : Type} (f : State → β) (hf : ∀ (u : State) c, f (u.configure c) = f u) :
      f (State.configureStored [] b.parts (u.loaded b)) = f (u.loaded b) := State.configureStored_unchanged hf _
  have hslots' : (State.configureStored [] b.parts (u.loaded b)).dev.slots = u.dev.imageSlots b := same (fun u => u.dev.slots) fun _ _ => rfl
  refine ⟨(same (fun u => u.dev.dark) fun _ _ => rfl).trans hdark, rfl, (same (fun u => u.dev.power) fun _ _ => rfl).trans hpow,
    (same State.running fun _ _ => rfl).trans hrun, (same State.launches fun _ _ => rfl).trans hl, ?_,
    (same State.tlb fun _ _ => rfl).trans htlb, (same State.ops fun _ _ => rfl).trans hops,
    (same (fun u => u.task.x) fun _ _ => rfl).trans hx, ?_, (same (fun u => u.dev.lifecycle) fun _ _ => rfl).trans hlife,
    (same (fun u => u.out.retries) fun _ _ => rfl).trans hret, fun k hk => ?_⟩
  · exact List.eq_nil_of_length_eq_zero ((same (fun u => u.worlds.length) State.configure_worlds_length).trans (congrArg List.length hw))
  · dsimp only
    rw [hslots', Device.imageSlots_zero]
  · dsimp only
    rw [hslots', Device.imageSlots_ne hk, hslots]

/-- The one stored partition, when it is well-shaped, is configured over zeroed memory. -/
theorem BringingUp.configured (h : BringingUp s b u) (hd : b.badDies = []) (hp : b.downPorts = []) {cfg : PartCfg} (hb : b.parts = [cfg])
    (hc : WellShaped cfg) :
    (u.bring b).parts[cfg.num].present = true ∧ (u.bring b).parts[cfg.num].dies = cfg.dies ∧ (u.bring b).parts[cfg.num].contexts = cfg.contexts
      ∧ (s.wf = true → ∀ pa, inRange (u.bring b).parts[cfg.num] pa → (u.bring b).mem.get pa = 0) := by
  obtain ⟨-, -, -, -, -, -, hmem, -⟩ := h
  have hv : State.configureStored [] b.parts (u.loaded b) = (u.loaded b).configure cfg := by
    rw [hb, State.configureStored, cfgShape_iff.2 hc]
    rfl
  have hparts : (u.bring b).parts = ((u.loaded b).configure cfg).parts := by rw [State.bring_eq hd hp, hv]
  have hpart := (congrArg (·[cfg.num]) hparts).trans State.configure_parts
  have hzero : (u.bring b).mem = s.mem.replace (u.bring b).parts[cfg.num].range.1 (u.bring b).parts[cfg.num].range.2 [] := by
    rw [hpart, State.bring_eq hd hp, hv, ← hmem]
    rfl
  refine ⟨by rw [hpart], by rw [hpart], by rw [hpart], fun hs pa hpa => ?_⟩
  rw [hzero, Mem.get_zero (State.wf_iff.1 hs).1]
  exact if_pos hpa

end
end Sys2Proof.Machine
end

section
/-! SUPPORT. The statement on the host's registers (O53). -/

namespace Sys2Proof.Machine

variable {s : State}

theorem HostRegisters.served {c : Fin 64} {part : Fin 16} {v : BitVec 32} {w : Word} (hu : s.up = true) (hp : s.parts[part].present = true)
    (hs : s.dev.pcie.serves part = true) (hc : c ∈ s.parts[part].contexts) (hpart : s.partOfCtx c = part) :
    let ring := s.ctxs[c].ring
    let P := s.parts[part]
    let put (r : Ring) : State := { s with ctxs := s.ctxs.set c { s.ctxs[c] with ring := r } }
    let part_ (p : Partition) : State := { s with parts := s.parts.set part p }
    let logn (old : Word) (hi : Nat) : Nat := if 4 ≤ w.toNat % 32 ∧ w.toNat % 32 ≤ hi then w.toNat % 32 else old.toNat % 32
    let fits := ring.cfg.toNat / 2 ^ 8 % 2 = 1 ∧ ring.cfg.toNat % 32 ≠ 0
      ∧ (v.toNat + 2 ^ 32 - ring.head.toNat) % 2 ^ 32 ≤ 2 ^ (ring.cfg.toNat % 32)
    let rcfg := put { ring with cfg := wd ((if ring.cfg.toNat / 2 ^ 9 % 2 = 1 ∧ w.toNat / 2 ^ 9 % 2 = 0 then 0x200 else 0)
      + w.toNat / 2 ^ 8 % 2 * 2 ^ 8 + logn ring.cfg 20) }
    let evcfg := part_ { P with evCfg := wd (w.toNat / 2 ^ 8 % 2 * 2 ^ 8 + logn P.evCfg 16) }
    let err := put { ring with cfg := ring.cfg ||| 0x200 }
    let at_ (k : Nat) : Nat := 0x100000 + 0x1000 * c.val + k
    let reg (offset : Nat) : Instr := .registerWrite (.bar0 part offset) w
    (fits → exec (.tailWrite c v) s = .next (put { ring with tail := v }))
      ∧ (¬ fits → exec (.tailWrite c v) s = .next { err with out := { s.out with msix := s.out.msix ++ [(part, 1)] } })
      ∧ exec (.rcfgWrite c w) s = .next rcfg ∧ exec (.evcfgWrite part w) s = .next evcfg
      ∧ exec (reg (at_ 0)) s = .next (put { ring with base := w }) ∧ exec (reg (at_ 8)) s = .next rcfg
      ∧ exec (reg (at_ 0x10)) s = exec (.tailWrite c (BitVec.ofNat 32 w.toNat)) s
      ∧ exec (reg 0x200000) s = .next (part_ { P with evBase := w }) ∧ exec (reg 0x200008) s = .next evcfg
      ∧ exec (reg 0x200018) s = .next (part_ { P with evHead := w.toNat })
      ∧ (∀ k, k ∉ [0, 8, 0x10] → k < 0x1000 → exec (reg (at_ k)) s = .next s)
      ∧ ∀ x ∈ [(0, wd (0xB7000000 + (if s.dev.ptpLocked = true then 2 else 0) + if s.dev.ready = true then 1 else 0)),
            (at_ 0, ring.base), (at_ 8, ring.cfg), (at_ 0x10, wd ring.tail.toNat), (at_ 0x18, wd ring.head.toNat),
            (at_ 0x20, wd ring.drops.toNat), (at_ 0x28, 0), (0x200000, P.evBase), (0x200008, P.evCfg), (0x200010, wd P.evTail),
            (0x200018, wd P.evHead), (0x200020, wd P.evLost), (0x200028, 0), (8, 0), (0x300000 + 0x1000, 0)],
          s.bar0Read (if s.dev.pcie.vfs = 0 then none else some part) x.1
            = { s with fresh := s.fresh + 1, out := { s.out with reads := s.out.reads ++ [leBytes 8 x.2.toNat] } } := by
  intro ring P put part_ logn fits rcfg evcfg err at_ reg
  have hserved := State.ringServed_of_serves hu hp hs hc hpart
  have hrcfg : execRcfgWrite c w s = .next rcfg := by
    rw [execRcfgWrite_served hserved]
    exact congrArg (fun x => Host.Outcome.next (put { ring with cfg := x })) rcfgWritten_eq
  have hevcfg : execEvcfgWrite part w s = .next evcfg := by
    rw [execEvcfgWrite_served hu hp hs]
    exact congrArg (fun x => Host.Outcome.next (part_ { P with evCfg := x })) evcfgWritten_eq
  have hring {k : Nat} (hk : k < 0x1000) := State.bar0Write_ringReg (w := w) hu hp hs hc hk
  have hevent {offset : Nat} (ho : ringOffset offset = none) := State.bar0Write_eventReg (w := w) hu hp hs ho
  refine ⟨fun h => execTailWrite_accepted hserved (Ring.accepts_iff.2 h), fun h => ?_, hrcfg, hevcfg, hring (k := 0) (by omega),
    (hring (k := 8) (by omega)).trans hrcfg, hring (k := 0x10) (by omega), hevent (offset := 0x200000) rfl,
    (hevent (offset := 0x200008) rfl).trans hevcfg, hevent (offset := 0x200018) rfl, fun k hk hlt => ?_, fun x hx => ?_⟩
  · refine (execTailWrite_refused hserved (mt Ring.accepts_iff.1 h)).trans ?_
    rw [hpart]
    rfl
  · obtain ⟨h0, h8, h16⟩ : k ≠ 0 ∧ k ≠ 8 ∧ k ≠ 0x10 := by simpa using hk
    refine (hring hlt).trans ?_
    rw [if_neg h0, if_neg h8, if_neg h16]
  · obtain ⟨hmail, hvalue⟩ := State.bar0Value_register hc x hx
    have hread := State.bar0Read_of_value hu (State.functionValue_functionOf hs hmail)
    rw [hvalue] at hread
    exact hread

theorem HostRegisters.unserved (c : Fin 64) (part : Fin 16) (v : BitVec 32) (w : Word) :
    (s.dev.pcie.serves (s.partOfCtx c) = false → exec (.tailWrite c v) s = .next s ∧ exec (.rcfgWrite c w) s = .next s)
      ∧ (s.dev.pcie.serves part = false → exec (.evcfgWrite part w) s = .next s) :=
  ⟨fun h => ⟨execTailWrite_unserved (State.ringServed_of_not_serves h), execRcfgWrite_unserved (State.ringServed_of_not_serves h)⟩,
    execEvcfgWrite_unserved⟩

theorem isMailbox_add {k : Nat} (hk : k < 0x1000) : isMailbox (0x300000 + k) = true := by
  simp only [isMailbox, Bool.and_eq_true, decide_eq_true_eq]
  omega

theorem HostRegisters.functions (hu : s.up = true) :
    (∀ k, k < 0x1000 → s.bar0Read none (0x300000 + k) = s.hostRead (Config.freeBits s.fresh))
      ∧ ∀ n : Fin 16, n.val < s.dev.pcie.vfs → s.bar0Read (some n) 0
          = s.hostRead (wd (0xB7000000 + (if s.dev.ptpLocked = true then 2 else 0) + if s.dev.ready = true then 1 else 0)) :=
  ⟨fun _ hk => State.bar0Read_of_value hu (if_pos (isMailbox_add hk)), fun _ hn => State.bar0Read_of_value hu (if_pos hn)⟩

theorem HostRegisters.ptpLock (time : Word) (hu : s.up = true) : Completes (.ptpLock time) s fun t =>
    t = { s with dev := { s.dev with ptpLocked := true, everLocked := true, timeBase := t.dev.timeBase } }
      ∧ (s.dev.everLocked = false → s.dev.launched = false → wd t.time = time)
      ∧ (s.dev.everLocked = true ∨ s.dev.launched = true → t.time = s.time) := by
  by_cases h : s.dev.everLocked = true ∨ s.dev.launched = true
  · refine ⟨_, execPtpLock_later hu h, rfl, fun he hl => ?_, fun _ => rfl⟩
    rw [he, hl] at h
    simp at h
  · obtain ⟨he, hl⟩ := not_or.1 h
    exact ⟨_, execPtpLock_first hu (Bool.eq_false_iff.2 he) (Bool.eq_false_iff.2 hl), rfl, fun _ _ => time_setTime rfl rfl, fun h' => absurd h' h⟩

theorem HostRegisters.flr (part : Fin 16) (hu : s.up = true) (hp : s.parts[part].present = true) (hwf : s.wf = true) :
    let P := s.parts[part]
    Completes (.flr part) s fun t => (∀ L ∈ t.launches, L.part ≠ part)
      ∧ (∀ L ∈ s.launches, L.part ≠ part → L ∈ t.launches) ∧ (∀ w ∈ t.late, w ∈ s.late ∧ ∀ bs, w ≠ .event part bs)
      ∧ (∀ pa, t.mem.get pa = open Classical in if inRange P pa then 0 else s.mem.get pa)
      ∧ (∀ c ∈ P.contexts, t.ctxs[c].ring = Ring.reset)
      ∧ t.parts[part].evBase = 0 ∧ t.parts[part].evCfg = 0 ∧ t.parts[part].evTail = 0 ∧ t.parts[part].evHead = 0
      ∧ t.parts[part].evLost = 0 ∧ t.dev.zeroised = s.dev.zeroised + 1 ∧ t.host = s.host ∧ t.peer = s.peer := by
  refine ⟨s.flrDone part, execFlr_eq hu hp, fun L hL => ?_, fun L hL hne => ?_, fun w hw => ?_, fun pa => ?_, fun c hc => State.flrDone_ring hc,
    ?_, ?_, ?_, ?_, ?_, State.flrDone_zeroised, State.flrDone_host, State.flrDone_peer⟩
  · rw [State.flrDone_launches] at hL
    exact (State.mem_dropLaunches.1 hL).2
  · rw [State.flrDone_launches]
    exact State.mem_dropLaunches.2 ⟨hL, hne⟩
  · rw [State.flrDone_late] at hw
    obtain ⟨hw, hne⟩ := State.dropLate_late_mem hw
    exact ⟨State.dropLaunches_late ▸ hw, hne⟩
  · rw [State.flrDone_mem]
    exact Mem.get_zero (State.wf_iff.1 hwf).1 pa
  all_goals rw [State.flrDone_part]

theorem HostRegisters.reset (b : Boot) :
    (b.firmwareOk = false ∨ (b.managementOk = false ∧ b.managementRetry = false) → Completes (.reset b) s (Dark s b))
      ∧ (b.firmwareOk = true → (b.managementOk = true ∨ b.managementRetry = true) → b.badDies = [] → b.downPorts = [] →
          Completes (.reset b) s fun t => BroughtUp s b t ∧ ∀ cfg, b.parts = [cfg] → WellShaped cfg →
            t.parts[cfg.num].present = true ∧ t.parts[cfg.num].dies = cfg.dies ∧ t.parts[cfg.num].contexts = cfg.contexts
              ∧ (s.wf = true → ∀ pa, inRange t.parts[cfg.num] pa → t.mem.get pa = 0)) := by
  refine ⟨execReset_dark, fun hf hm hd hp => ?_⟩
  obtain ⟨u, hb, hu⟩ := execReset_brings (s := s) hf hm
  exact ⟨u.bring b, hu, hb.broughtUp hd hp, fun cfg hc hw => hb.configured hd hp hc hw⟩

/-- Settles O53, by what each register holds, what a reset of a function drops, and the two ends of bring-up. -/
theorem hostRegisters : Obligations.HostRegisters := by
  refine ⟨fun s c part v w hu hp hs hc hpart => HostRegisters.served hu hp hs hc hpart, fun s => HostRegisters.unserved,
    fun s hu => HostRegisters.functions hu, fun s time hu => HostRegisters.ptpLock time hu, fun s => rfl,
    fun s part hu hp hwf => HostRegisters.flr part hu hp hwf, fun s b => ?_⟩
  obtain ⟨hdark, hbring⟩ := HostRegisters.reset (s := s) b
  refine ⟨hdark, fun hf hm hd hp => ?_⟩
  obtain ⟨t, ht, ⟨h1, h2, h3, h4, h5, h6, h7, h8, h9, h10, h11, h12, h13⟩, hparts⟩ := hbring hf hm hd hp
  exact ⟨t, ht, h1, h2, h3, h4, h5, h6, h7, h8, h9, h10, h11, h12, h13, fun cfg hc w1 w2 w3 => hparts cfg hc ⟨w1, w2, w3⟩⟩

end Sys2Proof.Machine
end

section
/-! SUPPORT. Scalar floating point (R131 to R133): what an FPS instruction leaves, said once for the instructions that round and once
for those that do not. -/

namespace Sys2Proof.Machine

variable {s : State} {d : XReg}

/-- What an FPS instruction with a result and its flags leaves behind under an effective mode (R100, R131, R133). -/
def FpsLeaves (s : State) (d : XReg) (m : RM) (v : Nat × Flags) (t : State) : Prop :=
  t = { s with task := { s.task with
          x := t.task.x, csr := t.task.csr, pc := t.task.pc
          id := { s.task.id with stoch := if m = .stoch then s.task.id.stoch + 1 else s.task.id.stoch } } }
    ∧ Wrote s t d (wd v.1) ∧ Retired s t (withFlags s.task.csr v.2) ∧ SameBytes s t

theorem Csrs.addFlags_eq_withFlags (c : Csrs) (f : Flags) : c.addFlags f = withFlags c f := by
  have h : (BitVec.zeroExtend 64 f <<< 3 : Word) = wd (8 * f.toNat) := by
    apply BitVec.eq_of_toNat_eq
    simp [wd, Nat.shiftLeft_eq, Nat.mul_comm]
  simp only [Csrs.addFlags, withFlags, h]

theorem State.fpsMode_eq_effMode (s : State) (r : FRnd) : s.fpsMode r = effMode s r := by
  cases r <;> simp [State.fpsMode, effMode, State.rm, bits, bitsN]

theorem stochT_zero_eq_fpsDraw (s : State) : stochT s.seed s.task.pc s.task.id.launch s.task.id.stoch 0 = fpsDraw s := by
  simp [stochT, fpsDraw, bits, bitsN, Nat.mul_comm]

/-- Flags, a result and the end of the instruction on a state that differs from s in its stochastic count alone. -/
theorem fpsLeaves_setX_advance {u : State} {m : RM} {v : Nat × Flags}
    (hu : u = { s with task := { s.task with
      id := { s.task.id with stoch := if m = .stoch then s.task.id.stoch + 1 else s.task.id.stoch } } }) :
    FpsLeaves s d m v ((u.setCsr (u.task.csr.addFlags v.2)).setX d (wd v.1)).advance := by
  subst hu
  rw [Csrs.addFlags_eq_withFlags, State.setX_eq]
  refine ⟨rfl, fun r => ?_, ⟨rfl, rfl⟩, fun w p => State.readPlace_congr rfl rfl rfl rfl rfl w p 1⟩
  exact Task.setX_x _ d r (wd v.1)

theorem completes_of_fpsRound {i : Instr} {r : FRnd} {f : RM → Nat → Nat × Flags} (he : exec i s = s.fpsRound d r f) :
    Completes i s (FpsLeaves s d (effMode s r) (f (effMode s r) (if effMode s r = .stoch then fpsDraw s else 0))) := by
  refine ⟨_, he, ?_⟩
  simp only [State.fpsMode_eq_effMode, stochT_zero_eq_fpsDraw, beq_iff_eq]
  refine fpsLeaves_setX_advance ?_
  split <;> rfl

theorem completes_of_fpsPlain {i : Instr} {v : Nat × Flags} (he : exec i s = s.fpsPlain d v) : Completes i s (FpsLeaves s d .rne v) :=
  ⟨_, he, fpsLeaves_setX_advance rfl⟩

/-- A comparison is a plain result: 0 on a NaN with the flag of R132, else whether it holds. -/
theorem State.fcmp_eq (s : State) (quiet : Bool) (d a b : XReg) (f : FFmt) (holds : Ordering → Bool) :
    s.fcmp quiet d a b f holds = s.fpsPlain d (if (s.fnum f a).isNaN ∨ (s.fnum f b).isNaN then
        (0, if !quiet || (s.fnum f a).isSignalling || (s.fnum f b).isSignalling then fNV else 0)
      else (if holds ((s.fnum f a).cmp (s.fnum f b)) then 1 else 0, 0)) := by
  simp only [State.fcmp, Bool.or_eq_true]
  split <;> rfl

/-- What an FPS instruction is: a rounding result or a plain one, with the bits and flags of `fpsSpec`. -/
theorem exec_of_fpsSpec {i : Instr} {r : Option FRnd} {f : RM → Nat → Nat × Flags} (h : fpsSpec s i = some (d, r, f)) :
    exec i s = match r with
      | some r => s.fpsRound d r f
      | none => s.fpsPlain d (f .rne 0) := by
  unfold fpsSpec at h
  split at h
  case h_13 _ a b f' =>
    cases h
    show execFlt d a b f' s = _
    rw [execFlt, State.fcmp_eq]
    simp
  case h_14 _ a b f' =>
    cases h
    show execFeq d a b f' s = _
    rw [execFeq, State.fcmp_eq]
    simp
  case h_15 _ a b f' =>
    cases h
    show execFle d a b f' s = _
    rw [execFle, State.fcmp_eq]
    simp
  case h_16 => cases h
  all_goals
    cases h
    rfl

/-- Every FPS instruction leaves the result of `fpsSpec`, in its effective mode with its draw. -/
theorem fpsSpec_leaves {i : Instr} {r : Option FRnd} {f : RM → Nat → Nat × Flags} (h : fpsSpec s i = some (d, r, f)) :
    Completes i s (FpsLeaves s d ((r.map (effMode s)).getD .rne)
      (f ((r.map (effMode s)).getD .rne) (if (r.map (effMode s)).getD .rne = .stoch then fpsDraw s else 0))) := by
  have he := exec_of_fpsSpec h
  cases r with
  | some r => exact completes_of_fpsRound he
  | none => exact completes_of_fpsPlain he

/-- Settles O3: each instruction is one of two shared endings, with or without a rounding. -/
theorem fpsResults : Obligations.FpsResults := by
  intro i s d r f h
  exact fpsSpec_leaves h

end Sys2Proof.Machine
end

section
/-! SUPPORT. Rounding a magnitude to whole units (R97, R98): the powers of two, the comparison of magnitudes and `roundAt`, each tied to the
rational value it is about. -/

namespace Sys2Proof.Machine

/-! ### Powers of two -/

theorem scaled_eq (v e : Int) : scaled v e = (v : Rat) * 2 ^ e := by
  unfold scaled
  split
  case isTrue h =>
    obtain ⟨n, rfl⟩ := Int.eq_ofNat_of_zero_le h
    push_cast
    simp
  case isFalse h =>
    obtain ⟨n, hn⟩ := Int.eq_ofNat_of_zero_le (Int.le_of_lt (Int.neg_pos_of_neg (Int.not_le.1 h)))
    obtain rfl : e = -(n : Int) := by omega
    simp [div_eq_mul_inv]

theorem two_zpow_pos (e : Int) : (0 : Rat) < 2 ^ e := zpow_pos two_pos e

theorem two_zpow_le {a b : Int} (h : a ≤ b) : (2 : Rat) ^ a ≤ 2 ^ b := zpow_le_zpow_right₀ one_le_two h

theorem two_zpow_lt {a b : Int} (h : a < b) : (2 : Rat) ^ a < 2 ^ b := zpow_lt_zpow_right₀ one_lt_two h

theorem lt_of_two_zpow_lt {a b : Int} (h : (2 : Rat) ^ a < 2 ^ b) : a < b := (zpow_lt_zpow_iff_right₀ one_lt_two).1 h

theorem two_zpow_add (a b : Int) : (2 : Rat) ^ (a + b) = 2 ^ a * 2 ^ b := zpow_add₀ two_ne_zero a b

/-- A power with a whole exponent, as a natural number. -/
theorem two_zpow_toNat {a : Int} (h : 0 ≤ a) : ((2 ^ a.toNat : Nat) : Rat) = 2 ^ a := by
  obtain ⟨n, rfl⟩ := Int.eq_ofNat_of_zero_le h
  simp

/-- A power taken apart at a smaller exponent. -/
theorem two_zpow_split {a b : Int} (h : a ≤ b) : (2 : Rat) ^ b = ((2 ^ (b - a).toNat : Nat) : Rat) * 2 ^ a := by
  rw [two_zpow_toNat (by omega), ← two_zpow_add]
  congr 1
  omega

theorem two_pow_log2_le {m : Nat} (h : m ≠ 0) : (2 : Rat) ^ (m.log2 : Int) ≤ m := by
  rw [zpow_natCast]
  exact_mod_cast Nat.log2_self_le h

theorem add_one_le_two_pow_log2 (m : Nat) : (m : Rat) + 1 ≤ 2 ^ ((m.log2 : Int) + 1) := by
  have h : m + 1 ≤ 2 ^ (m.log2 + 1) := Nat.lt_log2_self
  have h' : ((m.log2 : Int) + 1) = ((m.log2 + 1 : Nat) : Int) := by push_cast; rfl
  rw [h', zpow_natCast]
  exact_mod_cast h

/-- The exponent of a positive value is the only one whose binade holds it. -/
theorem binade_unique {a b : Int} {v : Rat} (ha : 2 ^ a ≤ v ∧ v < 2 ^ (a + 1)) (hb : 2 ^ b ≤ v ∧ v < 2 ^ (b + 1)) : a = b := by
  have h1 := lt_of_two_zpow_lt (ha.1.trans_lt hb.2)
  have h2 := lt_of_two_zpow_lt (hb.1.trans_lt ha.2)
  omega

/-! ### Comparing magnitudes -/

theorem compare_natCast (a b : Nat) : compare (a : Rat) (b : Rat) = compare a b := by
  rcases lt_trichotomy a b with h | h | h
  · rw [compare_lt_iff_lt.2 h, compare_lt_iff_lt.2 (by exact_mod_cast h)]
  · simp [h]
  · rw [compare_gt_iff_gt.2 h, compare_gt_iff_gt.2 (by exact_mod_cast h)]

theorem compare_mul_right {a b c : Rat} (hc : 0 < c) : compare (a * c) (b * c) = compare a b := by
  rcases lt_trichotomy a b with h | h | h
  · rw [compare_lt_iff_lt.2 h, compare_lt_iff_lt.2 (mul_lt_mul_of_pos_right h hc)]
  · simp [h]
  · rw [compare_gt_iff_gt.2 h, compare_gt_iff_gt.2 (mul_lt_mul_of_pos_right h hc)]

/-- The two magnitudes brought to a common exponent. -/
theorem compare_at_common (m1 m2 : Nat) {e1 e2 : Int} (h : e1 ≤ e2) :
    compare ((m1 : Rat) * 2 ^ e1) (m2 * 2 ^ e2) = compare m1 (m2 * 2 ^ (e2 - e1).toNat) := by
  rw [two_zpow_split h, ← mul_assoc, compare_mul_right (two_zpow_pos e1), ← compare_natCast]
  push_cast
  rfl

theorem compare_at_common' (m1 m2 : Nat) {e1 e2 : Int} (h : e2 ≤ e1) :
    compare ((m1 : Rat) * 2 ^ e1) (m2 * 2 ^ e2) = compare (m1 * 2 ^ (e1 - e2).toNat) m2 := by
  rw [two_zpow_split h, ← mul_assoc, compare_mul_right (two_zpow_pos e2), ← compare_natCast]
  push_cast
  rfl

theorem magnitude_binade {m : Nat} (h : m ≠ 0) (e : Int) :
    2 ^ (e + m.log2) ≤ (m : Rat) * 2 ^ e ∧ ((m : Rat) + 1) * 2 ^ e ≤ 2 ^ (e + m.log2 + 1) := by
  have hp := two_zpow_pos e
  constructor
  · rw [two_zpow_add, mul_comm]
    exact mul_le_mul_of_nonneg_right (two_pow_log2_le h) hp.le
  · rw [add_assoc, two_zpow_add, mul_comm (2 ^ e : Rat)]
    exact mul_le_mul_of_nonneg_right (add_one_le_two_pow_log2 m) hp.le

/-- `cmpMag` is the order of the two values. -/
theorem cmpMag_eq (m1 : Nat) (e1 : Int) (m2 : Nat) (e2 : Int) :
    cmpMag m1 e1 m2 e2 = compare ((m1 : Rat) * 2 ^ e1) (m2 * 2 ^ e2) := by
  have below : ∀ {m : Nat} (e : Int), m ≠ 0 → (m : Rat) * 2 ^ e < 2 ^ (e + m.log2 + 1) := fun e h =>
    lt_of_lt_of_le (mul_lt_mul_of_pos_right (lt_add_one _) (two_zpow_pos e)) (magnitude_binade h e).2
  unfold cmpMag
  simp only [Bool.or_eq_true, decide_eq_true_eq]
  by_cases h0 : m1 = 0 ∨ m2 = 0
  · rw [if_pos h0]
    rcases h0 with rfl | rfl
    · rw [Nat.cast_zero, zero_mul, ← zero_mul ((2 : Rat) ^ e2), compare_mul_right (two_zpow_pos e2)]
      exact (compare_natCast 0 m2).symm
    · rw [Nat.cast_zero, zero_mul, ← zero_mul ((2 : Rat) ^ e1), compare_mul_right (two_zpow_pos e1)]
      exact (compare_natCast m1 0).symm
  obtain ⟨h1, h2⟩ := not_or.1 h0
  rw [if_neg h0]
  split
  case isTrue h =>
    refine (compare_lt_iff_lt.2 ?_).symm
    exact (below e1 h1).trans_le ((two_zpow_le (by omega)).trans (magnitude_binade h2 e2).1)
  split
  case isTrue h =>
    refine (compare_gt_iff_gt.2 ?_).symm
    exact (below e2 h2).trans_le ((two_zpow_le (by omega)).trans (magnitude_binade h1 e1).1)
  split
  case isTrue h => exact (compare_at_common m1 m2 h).symm
  case isFalse h => exact (compare_at_common' m1 m2 (by omega)).symm

/-! ### A magnitude with its tail -/

/-- v is the magnitude m × 2^e, or with `tail` lies strictly between m × 2^e and (m + 1) × 2^e. -/
def Within (m : Nat) (e : Int) (tail : Bool) (v : Rat) : Prop :=
  if tail then (m : Rat) * 2 ^ e < v ∧ v < (m + 1) * 2 ^ e else v = m * 2 ^ e

variable {m : Nat} {e u : Int} {tail : Bool} {v : Rat}

theorem within_false : Within m e false v ↔ v = m * 2 ^ e := by simp [Within]

theorem within_true : Within m e true v ↔ (m : Rat) * 2 ^ e < v ∧ v < (m + 1) * 2 ^ e := by simp [Within]

theorem Within.le (h : Within m e tail v) : (m : Rat) * 2 ^ e ≤ v := by
  cases tail
  · exact (within_false.1 h).ge
  · exact (within_true.1 h).1.le

theorem Within.lt (h : Within m e tail v) : v < (m + 1) * 2 ^ e := by
  cases tail
  · rw [within_false.1 h]
    exact mul_lt_mul_of_pos_right (lt_add_one _) (two_zpow_pos e)
  · exact (within_true.1 h).2

/-- The value in units of 2^e: m whole ones, and more only with a tail. -/
theorem Within.units (h : Within m e tail v) :
    ∃ a : Rat, v = a * 2 ^ e ∧ ⌊a⌋₊ = m ∧ (m : Rat) ≤ a ∧ (a = m ↔ tail = false) := by
  have hp := two_zpow_pos e
  have hv : v = v / 2 ^ e * 2 ^ e := (div_mul_cancel₀ v hp.ne').symm
  have hle : (m : Rat) ≤ v / 2 ^ e := (le_div_iff₀ hp).2 h.le
  have hlt : v / 2 ^ e < m + 1 := (div_lt_iff₀ hp).2 h.lt
  refine ⟨v / 2 ^ e, hv, (Nat.floor_eq_iff ((Nat.cast_nonneg m).trans hle)).2 ⟨hle, hlt⟩, hle, ?_⟩
  cases tail
  · simp [within_false.1 h, hp.ne']
  · have := (lt_div_iff₀ hp).2 (within_true.1 h).1
    simp [this.ne']

theorem Within.pos (h : Within m e tail v) (hm : m ≠ 0) : 0 < v :=
  (mul_pos (by exact_mod_cast Nat.pos_of_ne_zero hm) (two_zpow_pos e)).trans_le h.le

theorem Within.binade (h : Within m e tail v) (hm : m ≠ 0) : 2 ^ (e + m.log2) ≤ v ∧ v < 2 ^ (e + m.log2 + 1) :=
  ⟨(magnitude_binade hm e).1.trans h.le, h.lt.trans_le (magnitude_binade hm e).2⟩

/-- A magnitude with its tail against a bound that no tail reaches over: a multiple of 2^e, or a power of two. -/
theorem Within.compare_bound (h : Within m e tail v) (hm : m ≠ 0) {a : Nat} {j : Int} (ha : tail = true → e ≤ j ∨ a = 1) :
    (cmpMag m e a j = .lt → v < a * 2 ^ j) ∧ (cmpMag m e a j = .gt → a * 2 ^ j < v)
      ∧ (cmpMag m e a j = .eq → if tail then a * 2 ^ j < v else v = a * 2 ^ j) := by
  rw [cmpMag_eq m e a j]
  refine ⟨fun hc => ?_, fun hc => (compare_gt_iff_gt.1 hc).trans_le h.le, fun hc => ?_⟩
  · have hlt := compare_lt_iff_lt.1 hc
    cases tail with
    | false => rwa [within_false.1 h]
    | true =>
      by_cases hj : e ≤ j
      · refine h.lt.trans_le ?_
        rw [two_zpow_split hj, ← mul_assoc] at hlt ⊢
        have := lt_of_mul_lt_mul_right hlt (two_zpow_pos e).le
        refine mul_le_mul_of_nonneg_right ?_ (two_zpow_pos e).le
        exact_mod_cast Nat.succ_le_of_lt (by exact_mod_cast this)
      · obtain rfl := (ha rfl).resolve_left hj
        have h1 : (1 : Rat) * 2 ^ j ≤ m * 2 ^ e :=
          mul_le_mul (by exact_mod_cast Nat.one_le_iff_ne_zero.2 hm) (two_zpow_le (by omega)) (two_zpow_pos j).le (Nat.cast_nonneg m)
        rw [Nat.cast_one] at hlt
        exact absurd hlt (not_lt.2 h1)
  · have heq := compare_eq_iff_eq.1 hc
    cases tail
    · simpa [← heq] using within_false.1 h
    · simpa [← heq] using (within_true.1 h).1

end Sys2Proof.Machine
end

section
/-! SUPPORT. Rounding a magnitude to whole units (R97, R98): `roundAt` gives the whole number of units that the spec names. -/

namespace Sys2Proof.Machine

variable {m : Nat} {e u : Int} {tail : Bool} {v : Rat}

/-! ### The spec's units, from whole units and a fraction -/

/-- Whether a magnitude of q whole units and a fraction f ≠ 0 of one is rounded up (R97, R98). -/
def roundsUp (mode : RM) (neg : Bool) (t q : Nat) (f : Rat) : Prop :=
  match mode with
  | .rne => 1 / 2 < f ∨ f = 1 / 2 ∧ q % 2 = 1
  | .rtz => False
  | .rup => neg = false
  | .rdn => neg = true
  | .rna => 1 / 2 ≤ f
  | .stoch => t < ⌊f * 2 ^ 24⌋₊

theorem floor_add_fraction (q : Nat) {f : Rat} (h0 : 0 ≤ f) (h1 : f < 1) : Rat.floor (q + f) = q := by
  show ⌊(q : Rat) + f⌋ = q
  rw [Int.floor_natCast_add, Int.floor_eq_zero_iff.2 ⟨h0, h1⟩, add_zero]

theorem unitsSpec_whole (mode : RM) (neg : Bool) (t q : Nat) : unitsSpec mode neg t q = q := by
  have h := floor_add_fraction q le_rfl one_pos
  rw [add_zero] at h
  simp [unitsSpec, h]

section
variable {mode : RM} {neg : Bool} {t q : Nat} {f : Rat} (h0 : 0 < f) (h1 : f < 1)
include h0 h1

/-- The spec's rounding of q whole units and a fraction f ≠ 0, with whole units and fraction taken apart. -/
theorem unitsSpec_add_fraction : unitsSpec mode neg t (q + f) = match mode with
    | .rne => if f < 1 / 2 then (q : Int) else if 1 / 2 < f then (q : Int) + 1 else q + (q : Int) % 2
    | .rtz => q
    | .rup => if neg then (q : Int) else q + 1
    | .rdn => if neg then (q : Int) + 1 else q
    | .rna => if f < 1 / 2 then (q : Int) else q + 1
    | .stoch => if (t : Int) < (f * 2 ^ 24).floor then (q : Int) + 1 else q := by
  have hq := floor_add_fraction q h0.le h1
  have hf : (q : Rat) + f - ((q : Int) : Rat) = f := by push_cast; ring
  cases mode <;> simp only [unitsSpec, hq, hf, h0.ne', if_false]

theorem unitsSpec_of_roundsUp (h : roundsUp mode neg t q f) : unitsSpec mode neg t (q + f) = (q : Int) + 1 := by
  rw [unitsSpec_add_fraction h0 h1]
  cases mode <;> dsimp only [roundsUp] at h ⊢
  case rne =>
    rcases h with h | ⟨h, hodd⟩
    · rw [if_neg (not_lt.2 h.le), if_pos h]
    · rw [if_neg (not_lt.2 h.ge), if_neg (not_lt.2 h.le)]
      omega
  case rup => simp [h]
  case rdn => simp [h]
  case rna => rw [if_neg (not_lt.2 h)]
  case stoch =>
    refine if_pos ?_
    show (t : Int) < ⌊f * 2 ^ 24⌋
    rw [← Int.natCast_floor_eq_floor (by positivity)]
    exact_mod_cast h

theorem unitsSpec_of_not_roundsUp (h : ¬ roundsUp mode neg t q f) : unitsSpec mode neg t (q + f) = (q : Int) := by
  rw [unitsSpec_add_fraction h0 h1]
  cases mode <;> dsimp only [roundsUp] at h ⊢
  case rne =>
    obtain ⟨hle, hodd⟩ := not_or.1 h
    by_cases hlt : f < 1 / 2
    · rw [if_pos hlt]
    · have : ¬ q % 2 = 1 := fun h' => hodd ⟨le_antisymm (not_lt.1 hle) (not_lt.1 hlt), h'⟩
      rw [if_neg hlt, if_neg hle]
      omega
  case rup => simp [h]
  case rdn => simp [h]
  case rna => rw [if_pos (not_le.1 h)]
  case stoch =>
    refine if_neg ?_
    show ¬ (t : Int) < ⌊f * 2 ^ 24⌋
    rw [← Int.natCast_floor_eq_floor (by positivity)]
    exact_mod_cast h

end

/-! ### A magnitude cut at a coarser unit -/

/-- The fraction of one unit of 2^k that a value of a smaller units leaves over. -/
def overCut (a : Rat) (k : Nat) : Rat := (a - ((⌊a⌋₊ / 2 ^ k * 2 ^ k : Nat) : Rat)) / 2 ^ k

/-- A remainder against half a unit of 2^k, a tail above an equal one. -/
def halfOrder (m k : Nat) (tail : Bool) : Ordering :=
  match compare (2 * (m % 2 ^ k)) (2 ^ k) with
  | .eq => if tail then .gt else .eq
  | o => o

section
variable {a : Rat} {k : Nat} (hm : ⌊a⌋₊ = m)
include hm

theorem overCut_eq : overCut a k = ((m % 2 ^ k : Nat) + (a - m)) / 2 ^ k := by
  have h : ((m / 2 ^ k * 2 ^ k : Nat) : Rat) + (m % 2 ^ k : Nat) = m := by
    exact_mod_cast Nat.div_add_mod' m (2 ^ k)
  rw [overCut, hm]
  congr 1
  linarith

theorem cut_add_overCut : a / 2 ^ k = (m / 2 ^ k : Nat) + overCut a k := by
  rw [overCut, hm]
  push_cast
  field_simp
  ring

theorem sub_floor_lt : a - m < 1 := by
  have := Nat.lt_floor_add_one a
  rw [hm] at this
  linarith

variable (ha : (m : Rat) ≤ a)
include ha

theorem overCut_nonneg : 0 ≤ overCut a k := by
  rw [overCut_eq hm]
  have : (0 : Rat) ≤ a - m := sub_nonneg.2 ha
  positivity

omit ha in
theorem overCut_lt_one : overCut a k < 1 := by
  rw [overCut_eq hm, div_lt_one (by positivity)]
  have h : ((m % 2 ^ k : Nat) : Rat) + 1 ≤ 2 ^ k := by exact_mod_cast Nat.succ_le_of_lt (Nat.mod_lt m (by positivity))
  linarith [sub_floor_lt hm]

variable (ht : a = m ↔ tail = false)
include ht

theorem overCut_eq_zero_iff : overCut a k = 0 ↔ m % 2 ^ k = 0 ∧ tail = false := by
  have hnn : (0 : Rat) ≤ a - m := sub_nonneg.2 ha
  rw [overCut_eq hm, div_eq_zero_iff, or_iff_left (by positivity : (2 : Rat) ^ k ≠ 0),
    add_eq_zero_iff_of_nonneg (Nat.cast_nonneg _) hnn, Nat.cast_eq_zero, sub_eq_zero, ht]

theorem compare_overCut_half (hk : k ≠ 0) : compare (overCut a k) (1 / 2) = halfOrder m k tail := by
  have hnn : (0 : Rat) ≤ a - m := sub_nonneg.2 ha
  have hp : (0 : Rat) < 2 ^ k := by positivity
  obtain ⟨j, rfl⟩ := Nat.exists_eq_add_one_of_ne_zero hk
  have hpow : 2 ^ (j + 1) = 2 * 2 ^ j := by ring
  have hpow' : (2 : Rat) ^ (j + 1) = 2 * 2 ^ j := by ring
  rw [overCut_eq hm, halfOrder]
  generalize hr : m % 2 ^ (j + 1) = r
  rcases lt_trichotomy (2 * r) (2 ^ (j + 1)) with h | h | h
  · rw [compare_lt_iff_lt.2 h]
    refine compare_lt_iff_lt.2 ((div_lt_iff₀ hp).2 ?_)
    have h2 : r + 1 ≤ 2 ^ j := by omega
    have h2' : (r : Rat) + 1 ≤ 2 ^ j := by exact_mod_cast h2
    have h1 := sub_floor_lt hm
    rw [hpow']
    linarith
  · rw [compare_eq_iff_eq.2 h]
    have h2 : (r : Rat) = 2 ^ j := by exact_mod_cast (by omega : r = 2 ^ j)
    rw [hpow', h2]
    cases tail
    · refine compare_eq_iff_eq.2 ?_
      rw [ht.2 rfl]
      field_simp
      ring
    · have hne : a ≠ m := fun h => by simpa using ht.1 h
      refine compare_gt_iff_gt.2 ((lt_div_iff₀ (by positivity)).2 ?_)
      have : 0 < a - m := lt_of_le_of_ne hnn (sub_ne_zero.2 hne).symm
      linarith
  · rw [compare_gt_iff_gt.2 h]
    refine compare_gt_iff_gt.2 ((lt_div_iff₀ hp).2 ?_)
    have h' : (2 : Rat) ^ (j + 1) < 2 * r := by exact_mod_cast h
    linarith

/-- The first 24 bits of the fraction: a tail does not reach them where the unit is 2^24 or more. -/
theorem floor_overCut_draw (hk : tail = true → 24 ≤ k) : ⌊overCut a k * 2 ^ 24⌋₊ = m % 2 ^ k * 2 ^ 24 / 2 ^ k := by
  rw [overCut_eq hm]
  cases tail with
  | false =>
    rw [ht.2 rfl, sub_self, add_zero, div_mul_eq_mul_div]
    exact_mod_cast Nat.floor_div_eq_div (K := Rat) (m % 2 ^ k * 2 ^ 24) (2 ^ k)
  | true =>
    obtain ⟨j, rfl⟩ := Nat.exists_eq_add_of_le (hk rfl)
    generalize hr : m % 2 ^ (24 + j) = r
    have hfl : ⌊(r : Rat) + (a - m)⌋₊ = r := by
      refine (Nat.floor_eq_iff (by have := sub_nonneg.2 ha; positivity)).2 ⟨by linarith, ?_⟩
      linarith [sub_floor_lt hm]
    have hdiv : ((r : Rat) + (a - m)) / 2 ^ (24 + j) * 2 ^ 24 = ((r : Rat) + (a - m)) / ((2 ^ j : Nat) : Rat) := by
      push_cast
      rw [pow_add]
      field_simp
    rw [hdiv, Nat.floor_div_natCast, hfl, pow_add, mul_comm _ (2 ^ 24), Nat.mul_div_mul_left _ _ (by positivity)]

end

/-! ### `roundAt` -/

/-- Far above the magnitude everything is remainder. -/
theorem roundAt_far {k : Nat} (h : m.log2 + 64 < k) : m / 2 ^ k = 0 ∧ m % 2 ^ k = m ∧ 2 * m < 2 ^ k ∧ m * 2 ^ 24 / 2 ^ k = 0 := by
  have hm : m < 2 ^ (m.log2 + 1) := Nat.lt_log2_self
  have hk : 2 ^ (m.log2 + 1) * 2 ^ 24 ≤ 2 ^ k := by
    rw [← pow_add]
    exact Nat.pow_le_pow_right (by norm_num) (by omega)
  have h24 : m * 2 ^ 24 < 2 ^ k := lt_of_lt_of_le (Nat.mul_lt_mul_of_pos_right hm (by norm_num)) hk
  have hlt : m < 2 ^ k := by omega
  exact ⟨Nat.div_eq_of_lt hlt, Nat.mod_eq_of_lt hlt, by omega, Nat.div_eq_of_lt h24⟩

/-- The choice of `roundAt` between the two neighbours, from the order to one half, the first 24 bits and the draw. -/
def goesUp (mode : RM) (neg : Bool) (half : Ordering) (bits24 draw q : Nat) : Bool :=
  match mode with
  | .rne => half == .gt || half == .eq && q % 2 == 1
  | .rtz => false
  | .rup => !neg
  | .rdn => neg
  | .rna => half != .lt
  | .stoch => decide (bits24 > draw)

/-- At a coarser unit `roundAt` cuts, and goes up where the mode says so; far above the magnitude too. -/
theorem roundAt_of_lt (mode : RM) (neg : Bool) (t m : Nat) (tail : Bool) {e u : Int} (h : e < u) :
    let k := (u - e).toNat
    roundAt mode neg t m e tail u = if m % 2 ^ k = 0 ∧ tail = false then (m / 2 ^ k, true)
      else (if goesUp mode neg (halfOrder m k tail) (m % 2 ^ k * 2 ^ 24 / 2 ^ k) t (m / 2 ^ k) then m / 2 ^ k + 1 else m / 2 ^ k, false) := by
  intro k
  have hk : (u - e).toNat = k := rfl
  unfold roundAt
  rw [if_neg (not_le.2 h), hk]
  by_cases hfar : m.log2 + 64 < k
  · obtain ⟨hq, hr, hlt, hd⟩ := roundAt_far hfar
    have hhalf : halfOrder m k tail = .lt := by rw [halfOrder, hr, compare_lt_iff_lt.2 hlt]
    simp only [hfar, hq, hr, hd, hhalf]
    cases mode <;> simp [goesUp]
  · rcases hc : compare (2 * (m % 2 ^ k)) (2 ^ k) <;> cases mode <;> cases tail <;> cases neg <;>
      simp [hfar, goesUp, halfOrder, hc]

section
variable {mode : RM} {neg : Bool} {t k : Nat} {a : Rat} (hm : ⌊a⌋₊ = m) (ha : (m : Rat) ≤ a) (ht : a = m ↔ tail = false)
include hm ha ht

theorem goesUp_iff (hk : k ≠ 0) (h24 : tail = true → 24 ≤ k) :
    goesUp mode neg (halfOrder m k tail) (m % 2 ^ k * 2 ^ 24 / 2 ^ k) t (m / 2 ^ k) = true
      ↔ roundsUp mode neg t (m / 2 ^ k) (overCut a k) := by
  rw [← compare_overCut_half hm ha ht hk, ← floor_overCut_draw hm ha ht h24]
  cases mode <;> simp [goesUp, roundsUp, compare_gt_iff_gt, compare_lt_iff_lt]

end

/-- `roundAt` gives the number of units that the spec names for the value, and whether that is the value itself. -/
theorem roundAt_units (h : Within m e tail v) (hu : tail = true → e + 24 ≤ u) (mode : RM) (neg : Bool) (t : Nat) :
    (((roundAt mode neg t m e tail u).1 : Nat) : Int) = unitsSpec mode neg t (v / 2 ^ u)
      ∧ ((roundAt mode neg t m e tail u).2 = true ↔ (((roundAt mode neg t m e tail u).1 : Nat) : Rat) * 2 ^ u = v) := by
  by_cases hle : u ≤ e
  · obtain rfl : tail = false := by
      cases tail
      · rfl
      · have := hu rfl
        omega
    have hv : v = ((m * 2 ^ (e - u).toNat : Nat) : Rat) * 2 ^ u := by
      rw [within_false.1 h, two_zpow_split hle]
      push_cast
      ring
    have hr : roundAt mode neg t m e false u = (m * 2 ^ (e - u).toNat, true) := by simp [roundAt, hle]
    rw [hr, hv, mul_div_cancel_right₀ _ (two_zpow_pos u).ne', unitsSpec_whole]
    simp
  · obtain ⟨a, rfl, hm, ha, ht⟩ := h.units
    have heq := roundAt_of_lt mode neg t m tail (not_le.1 hle)
    set k := (u - e).toNat with hk
    have hsplit : a * 2 ^ e / 2 ^ u = (m / 2 ^ k : Nat) + overCut a k := by
      rw [two_zpow_split (not_le.1 hle).le, ← hk, mul_div_mul_right _ _ (two_zpow_pos e).ne', ← cut_add_overCut hm]
      push_cast
      rfl
    have hval : a * 2 ^ e = ((m / 2 ^ k : Nat) + overCut a k) * 2 ^ u := by
      rw [← hsplit, div_mul_cancel₀ _ (two_zpow_pos u).ne']
    have hzero := overCut_eq_zero_iff hm ha ht (k := k)
    have hup := goesUp_iff (mode := mode) (neg := neg) (t := t) hm ha ht (k := k) (by omega) fun htl => by
      have := hu htl
      omega
    have h1 := overCut_lt_one hm (k := k)
    by_cases h0 : overCut a k = 0
    · rw [heq, if_pos (hzero.1 h0), hsplit, hval, h0, add_zero, unitsSpec_whole]
      simp
    · have hpos : 0 < overCut a k := lt_of_le_of_ne (overCut_nonneg hm ha) (Ne.symm h0)
      rw [heq, if_neg (mt hzero.2 h0), hsplit, hval]
      split
      case isTrue hg =>
        rw [unitsSpec_of_roundsUp hpos h1 (hup.1 hg)]
        refine ⟨by push_cast; rfl, by simp, fun he => ?_⟩
        have := mul_right_cancel₀ (two_zpow_pos u).ne' he
        push_cast at this
        linarith
      case isFalse hg =>
        rw [unitsSpec_of_not_roundsUp hpos h1 (mt hup.2 hg)]
        refine ⟨rfl, by simp, fun he => ?_⟩
        have := mul_right_cancel₀ (two_zpow_pos u).ne' he
        linarith

end Sys2Proof.Machine
end

section
/-! SUPPORT. The binary floating formats (R90): the value of a finite code, and the code of a rounded value. -/

namespace Sys2Proof.Machine

/-! ### The spec's units between two whole numbers -/

section
variable {mode : RM} {neg : Bool} {t n : Nat} {w : Rat} (h0 : 0 ≤ w)
include h0

theorem unitsSpec_near : ∃ q : Nat, (w = q ∧ unitsSpec mode neg t w = q)
    ∨ ((q : Rat) < w ∧ w < q + 1 ∧ (unitsSpec mode neg t w = q ∨ unitsSpec mode neg t w = (q : Int) + 1)) := by
  refine ⟨⌊w⌋₊, ?_⟩
  have hw : (⌊w⌋₊ : Rat) + (w - ⌊w⌋₊) = w := by ring
  have h1 : w - ⌊w⌋₊ < 1 := by linarith [Nat.lt_floor_add_one w]
  rcases (Nat.floor_le h0).eq_or_lt with heq | hlt
  · have := unitsSpec_whole mode neg t ⌊w⌋₊
    rw [heq] at this
    exact .inl ⟨heq.symm, this⟩
  · have hpos : 0 < w - ⌊w⌋₊ := sub_pos.2 hlt
    refine .inr ⟨hlt, Nat.lt_floor_add_one w, ?_⟩
    by_cases hup : roundsUp mode neg t ⌊w⌋₊ (w - ⌊w⌋₊)
    · exact .inr (by have := unitsSpec_of_roundsUp hpos h1 hup; rwa [hw] at this)
    · exact .inl (by have := unitsSpec_of_not_roundsUp hpos h1 hup; rwa [hw] at this)

theorem unitsSpec_le (h : w ≤ n) : unitsSpec mode neg t w ≤ n := by
  obtain ⟨q, ⟨hq, hs⟩ | ⟨hlo, -, hs⟩⟩ := unitsSpec_near (mode := mode) (neg := neg) (t := t) h0
  · rw [hs]
    exact_mod_cast hq.symm.trans_le h
  · have : q < n := by exact_mod_cast hlo.trans_le h
    omega

theorem le_unitsSpec (h : (n : Rat) ≤ w) : (n : Int) ≤ unitsSpec mode neg t w := by
  obtain ⟨q, ⟨hq, hs⟩ | ⟨-, hhi, hs⟩⟩ := unitsSpec_near (mode := mode) (neg := neg) (t := t) h0
  · rw [hs]
    exact_mod_cast h.trans_eq hq
  · have : n < q + 1 := by exact_mod_cast h.trans_lt hhi
    omega

end

/-! ### Codes and values -/

/-- A binary floating format with at least one fraction bit and two exponent bits, and no more than 80 fraction bits. -/
abbrev FloatFmt.Sized (F : FloatFmt) : Prop := 1 ≤ F.mb ∧ 2 ≤ F.eb ∧ F.mb ≤ 80

/-- The significand of a finite code, in units of its last place. -/
def FloatFmt.mant (F : FloatFmt) (b : Nat) : Nat := if b / 2 ^ F.mb = 0 then b % 2 ^ F.mb else 2 ^ F.mb + b % 2 ^ F.mb

/-- The exponent of the last place of a finite code. -/
def FloatFmt.expo (F : FloatFmt) (b : Nat) : Int := if b / 2 ^ F.mb = 0 then F.emin - F.mb else (b / 2 ^ F.mb : Nat) - F.bias - F.mb

/-- The magnitude that a code without its sign stands for. -/
def FloatFmt.valueOf (F : FloatFmt) (b : Nat) : Rat := F.mant b * 2 ^ F.expo b

variable {F : FloatFmt}

theorem succ_div_mod_of_eq {b P : Nat} (h : b % P + 1 = P) : (b + 1) / P = b / P + 1 ∧ (b + 1) % P = 0 := by
  have hP : 0 < P := by omega
  have hb := Nat.mod_add_div b P
  exact (Nat.div_mod_unique hP).2 ⟨by rw [mul_add]; omega, hP⟩

theorem succ_div_mod_of_ne {b P : Nat} (hP : 0 < P) (h : b % P + 1 ≠ P) : (b + 1) / P = b / P ∧ (b + 1) % P = b % P + 1 := by
  have hb := Nat.mod_add_div b P
  have hlt := Nat.mod_lt b hP
  exact (Nat.div_mod_unique hP).2 ⟨by omega, by omega⟩

/-- The next code is one unit of the last place above, over the end of a binade too. -/
theorem FloatFmt.valueOf_succ (F : FloatFmt) (b : Nat) : F.valueOf (b + 1) = (F.mant b + 1) * 2 ^ F.expo b := by
  have hP : 0 < 2 ^ F.mb := by positivity
  unfold valueOf mant expo
  by_cases h : b % 2 ^ F.mb + 1 = 2 ^ F.mb
  · obtain ⟨hd, hm⟩ := succ_div_mod_of_eq h
    have h' : ((b % 2 ^ F.mb : Nat) : Rat) + 1 = 2 ^ F.mb := by exact_mod_cast h
    simp only [hd, hm, Nat.add_one_ne_zero, if_false]
    by_cases h0 : b / 2 ^ F.mb = 0
    · rw [if_pos h0, if_pos h0, h', h0, emin]
      push_cast
      ring_nf
    · have he : ((b / 2 ^ F.mb + 1 : Nat) : Int) - F.bias - F.mb = 1 + ((b / 2 ^ F.mb : Nat) - F.bias - F.mb) := by push_cast; ring
      rw [if_neg h0, if_neg h0, he, two_zpow_add]
      push_cast
      rw [add_assoc, h']
      ring
  · obtain ⟨hd, hm⟩ := succ_div_mod_of_ne hP h
    rw [hd, hm]
    split <;> (push_cast; ring)

theorem FloatFmt.valueOf_strictMono (F : FloatFmt) : StrictMono F.valueOf := by
  refine strictMono_nat_of_lt_succ fun b => ?_
  rw [F.valueOf_succ]
  exact mul_lt_mul_of_pos_right (lt_add_one _) (two_zpow_pos _)

theorem FloatFmt.valueOf_zero (F : FloatFmt) : F.valueOf 0 = 0 := by simp [valueOf, mant]

/-- The code of M units of 2^u: for M below 2^mb only at the finest unit, else with the leading one in the exponent field. -/
theorem FloatFmt.valueOf_code {M : Nat} {u : Int} (hu : F.emin - F.mb ≤ u) (hlow : M < 2 ^ F.mb → u = F.emin - F.mb)
    (hhigh : M ≤ 2 ^ (F.mb + 1)) :
    F.valueOf ((u + F.mb + F.bias).toNat * 2 ^ F.mb + M - 2 ^ F.mb) = M * 2 ^ u := by
  have hP : 0 < 2 ^ F.mb := by positivity
  obtain ⟨k, hk⟩ := Int.eq_ofNat_of_zero_le (a := u + F.mb + F.bias - 1) (by unfold emin at hu; omega)
  obtain rfl : u = (k + 1 : Nat) - F.bias - F.mb := by push_cast; omega
  have hE : ((k + 1 : Nat) - (F.bias : Int) - F.mb + F.mb + F.bias).toNat = k + 1 := by omega
  have hcode : (k + 1) * 2 ^ F.mb + M - 2 ^ F.mb = 2 ^ F.mb * k + M := by rw [add_mul, mul_comm k]; omega
  rw [hE, hcode]
  rcases lt_or_ge M (2 ^ F.mb) with h | h
  · have hk0 : k = 0 := by have := hlow h; unfold emin at this; omega
    subst hk0
    obtain ⟨hd, hm⟩ := (Nat.div_mod_unique hP (a := 2 ^ F.mb * 0 + M) (c := M) (d := 0)).2 ⟨by omega, h⟩
    simp only [valueOf, mant, expo, hd, hm, if_true, emin]
    norm_num
  · rcases hhigh.lt_or_eq with h2 | h2
    · rw [pow_succ] at h2
      obtain ⟨hd, hm⟩ := (Nat.div_mod_unique hP (a := 2 ^ F.mb * k + M) (c := M - 2 ^ F.mb) (d := k + 1)).2
        ⟨by rw [mul_add]; omega, by omega⟩
      rw [valueOf, mant, expo, hd, hm, if_neg (by omega), if_neg (by omega), Nat.add_sub_cancel' h]
    · obtain ⟨hd, hm⟩ := (Nat.div_mod_unique hP (a := 2 ^ F.mb * k + M) (c := 0) (d := k + 2)).2
        ⟨by rw [h2, mul_add, pow_succ]; omega, hP⟩
      have he : ((k + 2 : Nat) : Int) - F.bias - F.mb = 1 + ((k + 1 : Nat) - F.bias - F.mb) := by push_cast; ring
      rw [valueOf, mant, expo, hd, hm, if_neg (by omega), if_neg (by omega), he, two_zpow_add, h2, pow_succ]
      push_cast
      ring

/-! ### Reading a code (R90) -/

theorem FloatFmt.maxBits_lt : F.maxBits < 2 ^ (F.eb + F.mb) := by
  unfold maxBits
  have h1 : 2 ^ (F.eb + F.mb) = 2 ^ F.eb * 2 ^ F.mb := pow_add 2 F.eb F.mb
  have h2 : 0 < 2 ^ F.eb * 2 ^ F.mb := by positivity
  split
  · rw [h1, Nat.sub_mul]; omega
  · omega

/-- The exponent field and the fraction of a code under a sign. -/
theorem FloatFmt.signBit_fields {b : Nat} (neg : Bool) (hb : b < 2 ^ (F.eb + F.mb)) :
    (F.signBit neg + b) / 2 ^ (F.eb + F.mb) % 2 = neg.toNat ∧ (F.signBit neg + b) / 2 ^ F.mb % 2 ^ F.eb = b / 2 ^ F.mb
      ∧ (F.signBit neg + b) % 2 ^ F.mb = b % 2 ^ F.mb ∧ (F.signBit neg + b) % 2 ^ (F.eb + F.mb) = b := by
  have hs : F.signBit neg = 2 ^ (F.eb + F.mb) * neg.toNat := by cases neg <;> simp [signBit]
  have hP : 0 < 2 ^ F.mb := by positivity
  have hbq : b / 2 ^ F.mb < 2 ^ F.eb := Nat.div_lt_of_lt_mul (by rwa [mul_comm, ← pow_add])
  have hn : neg.toNat < 2 := by cases neg <;> decide
  have hs' : F.signBit neg = 2 ^ F.mb * (2 ^ F.eb * neg.toNat) := by rw [hs, pow_add]; ring
  refine ⟨?_, ?_, ?_, ?_⟩
  · rw [hs, Nat.mul_add_div (by positivity), Nat.div_eq_of_lt hb, add_zero, Nat.mod_eq_of_lt hn]
  · rw [hs', Nat.mul_add_div hP, Nat.mul_add_mod, Nat.mod_eq_of_lt hbq]
  · rw [hs', Nat.mul_add_mod]
  · rw [hs, Nat.mul_add_mod, Nat.mod_eq_of_lt hb]

/-- A finite code under a sign is read as its significand and exponent. -/
theorem FloatFmt.decode_signBit_add {b : Nat} (hF : F.Sized) (neg : Bool) (hb : b ≤ F.maxBits) :
    F.decode (F.signBit neg + b) = .fin neg (F.mant b) (F.expo b) false := by
  have hlt := hb.trans_lt maxBits_lt
  obtain ⟨hs, he, hf, hm⟩ := signBit_fields neg hlt
  have htop : ¬ (F.ieeeTop = true ∧ b / 2 ^ F.mb = 2 ^ F.eb - 1) := by
    rintro ⟨ht, hx⟩
    rw [maxBits, if_pos ht] at hb
    have hle := Nat.div_mul_le_self b (2 ^ F.mb)
    rw [hx] at hle
    have : 0 < (2 ^ F.eb - 1) * 2 ^ F.mb := Nat.mul_pos (Nat.sub_pos_of_lt (Nat.one_lt_two_pow (by have := hF.2.1; omega))) (by positivity)
    omega
  have hbody : ¬ (F.ieeeTop = false ∧ b = 2 ^ (F.eb + F.mb) - 1) := by
    rintro ⟨ht, hx⟩
    rw [maxBits, if_neg (by simp [ht])] at hb
    have : 2 ^ 1 ≤ 2 ^ (F.eb + F.mb) := Nat.pow_le_pow_right (by norm_num) (by have := hF.1; omega)
    omega
  have hneg : (neg.toNat == 1) = neg := by cases neg <;> rfl
  simp only [decode, hs, he, hf, hm, hneg, Bool.and_eq_true, beq_iff_eq, Bool.not_eq_true', htop, hbody, if_false, mant, expo]
  split <;> rfl

theorem FloatFmt.rat_decode_signBit_add {b : Nat} (hF : F.Sized) (neg : Bool) (hb : b ≤ F.maxBits) :
    (F.decode (F.signBit neg + b)).rat = some (if neg then -F.valueOf b else F.valueOf b) := by
  rw [decode_signBit_add hF neg hb, Num.rat, scaled_eq, valueOf]
  cases neg <;> simp

end Sys2Proof.Machine
end

section
/-! SUPPORT. Rounding into a binary floating format (R97, R102, R105): `FloatFmt.round` is the rounding of the spec. -/

namespace Sys2Proof.Machine

variable {F : FloatFmt} {m : Nat} {e : Int} {tail : Bool} {v : Rat}

/-- A format sees no more of a magnitude than that it has a tail: the magnitude has its bits and 24 more, or lies far below its smallest
normal value. -/
def FloatFmt.Sees (F : FloatFmt) (m : Nat) (e : Int) (tail : Bool) : Prop :=
  tail = true → F.mb + 24 ≤ m.log2 ∨ (e + m.log2 + 1 < F.emin ∧ e + 24 ≤ F.emin - F.mb)

/-- The unit of the last place for a magnitude. -/
def FloatFmt.unit (F : FloatFmt) (m : Nat) (e : Int) : Int := max (e + m.log2 - F.mb) (F.emin - F.mb)

theorem FloatFmt.le_unit (F : FloatFmt) (m : Nat) (e : Int) : F.emin - F.mb ≤ F.unit m e := le_max_right _ _

theorem FloatFmt.Sees.unit (h : F.Sees m e tail) : tail = true → e + 24 ≤ F.unit m e := by
  intro ht
  unfold FloatFmt.unit
  rcases h ht with h | h <;> omega

/-- The rounded magnitude at the unit of the last place, and the rounding that would be without a smallest exponent. -/
theorem FloatFmt.round_fin (mode : RM) (neg : Bool) (t : Nat) (hF : F.Sized) (hm : m ≠ 0) :
    F.round mode t (.fin neg m e tail) =
      let r := roundAt mode neg t m e tail (F.unit m e)
      let r0 := (roundAt mode neg t m e tail (e + m.log2 - F.mb)).1
      if F.valueOf F.maxBits < r.1 * 2 ^ F.unit m e then (F.overflowBits mode neg, fOF ||| fNX)
      else (F.signBit neg + (if r.1 = 0 then 0 else (F.unit m e + F.mb + F.bias).toNat * 2 ^ F.mb + r.1 - 2 ^ F.mb),
        if r.2 then 0 else if (r0 : Rat) * 2 ^ (e + m.log2 - F.mb) < 2 ^ F.emin ∧ r0 ≠ 0 then fUF ||| fNX else fNX) := by
  dsimp only
  have hu : (if e + (m.log2 : Int) - F.mb < F.emin - F.mb then F.emin - F.mb else e + m.log2 - F.mb) = F.unit m e := by
    unfold FloatFmt.unit
    split <;> omega
  have hmax : F.magnitude F.maxBits = (F.mant F.maxBits, F.expo F.maxBits) := by
    have := FloatFmt.decode_signBit_add hF false le_rfl
    rw [FloatFmt.signBit, if_neg (by simp), zero_add] at this
    rw [FloatFmt.magnitude, this]
  generalize hr : roundAt mode neg t m e tail (F.unit m e) = r
  generalize hr0 : roundAt mode neg t m e tail (e + m.log2 - F.mb) = r0
  have h1 : cmpMag r.1 (F.unit m e) (F.mant F.maxBits) (F.expo F.maxBits) = .gt ↔ F.valueOf F.maxBits < r.1 * 2 ^ F.unit m e := by
    rw [cmpMag_eq, compare_gt_iff_gt, FloatFmt.valueOf]
  have h2 : cmpMag r0.1 (e + m.log2 - F.mb) 1 F.emin = .lt ↔ (r0.1 : Rat) * 2 ^ (e + m.log2 - F.mb) < 2 ^ F.emin := by
    rw [cmpMag_eq, compare_lt_iff_lt, Nat.cast_one, one_mul]
  have hz : (decide (m = 0) && !tail) = false := by simp [hm]
  simp only [FloatFmt.round, hz, hu, hmax, hr, hr0, beq_iff_eq, ← h1, ← h2, Bool.and_eq_true, bne_iff_ne]
  rfl

/-- Rounded at the place of its own last bit, a magnitude keeps its bits, or gains one. -/
theorem roundAt_free_bounds (hm : m ≠ 0) (p : Nat) (mode : RM) (neg : Bool) (t : Nat) :
    2 ^ p ≤ (roundAt mode neg t m e tail (e + m.log2 - p)).1 ∧ (roundAt mode neg t m e tail (e + m.log2 - p)).1 ≤ 2 ^ (p + 1) := by
  have hlo : 2 ^ m.log2 ≤ m := Nat.log2_self_le hm
  have hhi : m < 2 ^ (m.log2 + 1) := Nat.lt_log2_self
  by_cases hle : m.log2 ≤ p
  · obtain ⟨j, rfl⟩ := Nat.exists_eq_add_of_le hle
    have hr : (roundAt mode neg t m e tail (e + m.log2 - (m.log2 + j : Nat))).1 = m * 2 ^ j := by
      have hj : (e - (e + (m.log2 : Int) - (m.log2 + j : Nat))).toNat = j := by push_cast; omega
      rw [roundAt, if_pos (by push_cast; omega), hj]
    rw [hr, pow_add, add_right_comm, pow_add]
    exact ⟨Nat.mul_le_mul_right _ hlo, Nat.mul_le_mul_right _ hhi.le⟩
  · have hlt : e < e + m.log2 - p := by omega
    have hq1 : 2 ^ p ≤ m / 2 ^ (m.log2 - p) := by
      rw [Nat.le_div_iff_mul_le (by positivity), ← pow_add, Nat.add_sub_cancel' (by omega)]
      exact hlo
    have hq2 : m / 2 ^ (m.log2 - p) < 2 ^ (p + 1) := by
      rw [Nat.div_lt_iff_lt_mul (by positivity), ← pow_add]
      exact hhi.trans_eq (by congr 1; omega)
    have hk : (e + (m.log2 : Int) - p - e).toNat = m.log2 - p := by omega
    rw [roundAt_of_lt mode neg t m tail hlt, hk]
    split
    · exact ⟨hq1, hq2.le⟩
    · dsimp only
      split <;> omega

section
variable (h : Within m e tail v) (hm : m ≠ 0)
include h hm

theorem Within.scaled_le {u : Int} {n : Nat} (hu : (n : Rat) * 2 ^ u ≤ 2 ^ (e + m.log2)) : (n : Rat) ≤ v / 2 ^ u :=
  (le_div_iff₀ (two_zpow_pos u)).2 (hu.trans (h.binade hm).1)

theorem Within.le_scaled {u : Int} {n : Nat} (hu : 2 ^ (e + m.log2 + 1) ≤ (n : Rat) * 2 ^ u) : v / 2 ^ u ≤ n :=
  (div_le_iff₀ (two_zpow_pos u)).2 ((h.binade hm).2.le.trans hu)

/-- At the unit of the last place a rounded magnitude has at most one bit more than a significand, and is below a full one only at the
finest unit. -/
theorem FloatFmt.roundAt_unit (hs : F.Sees m e tail) (mode : RM) (neg : Bool) (t : Nat) :
    let M := (roundAt mode neg t m e tail (F.unit m e)).1
    M ≤ 2 ^ (F.mb + 1) ∧ (M < 2 ^ F.mb → F.unit m e = F.emin - F.mb) := by
  intro M
  have hM : (M : Int) = unitsSpec mode neg t (v / 2 ^ F.unit m e) := (roundAt_units h hs.unit mode neg t).1
  have hw0 : 0 ≤ v / 2 ^ F.unit m e := (div_pos (h.pos hm) (two_zpow_pos _)).le
  constructor
  · have hle : v / 2 ^ F.unit m e ≤ ((2 ^ (F.mb + 1) : Nat) : Rat) := by
      refine h.le_scaled hm ?_
      push_cast
      rw [← zpow_natCast, ← two_zpow_add]
      refine two_zpow_le ?_
      unfold FloatFmt.unit
      push_cast
      omega
    have := unitsSpec_le (mode := mode) (neg := neg) (t := t) hw0 hle
    omega
  · intro hlt
    by_contra hne
    have hu : F.unit m e = e + m.log2 - F.mb := by
      unfold FloatFmt.unit at hne ⊢
      omega
    have hle : ((2 ^ F.mb : Nat) : Rat) ≤ v / 2 ^ F.unit m e := by
      refine h.scaled_le hm ?_
      push_cast
      rw [← zpow_natCast, ← two_zpow_add, hu]
      exact two_zpow_le (by omega)
    have := le_unitsSpec (mode := mode) (neg := neg) (t := t) hw0 hle
    omega

/-- The rounding that would be without a smallest exponent is never 0, and it lies below the smallest normal value as the spec's does. -/
theorem FloatFmt.roundAt_free (hs : F.Sees m e tail) (mode : RM) (neg : Bool) (t : Nat) :
    let u := e + m.log2 - F.mb
    let M := (roundAt mode neg t m e tail u).1
    M ≠ 0 ∧ ((M : Rat) * 2 ^ u < 2 ^ F.emin ↔ (unitsSpec mode neg t (v / 2 ^ u) : Rat) * 2 ^ u < 2 ^ F.emin) := by
  intro u M
  obtain ⟨hM1, hM2⟩ := roundAt_free_bounds (e := e) (tail := tail) hm F.mb mode neg t
  have hM0 : M ≠ 0 := (lt_of_lt_of_le (by positivity) hM1).ne'
  refine ⟨hM0, ?_⟩
  by_cases hp : tail = true → F.mb + 24 ≤ m.log2
  · have heq := (roundAt_units h (u := u) (fun ht => by have := hp ht; omega) mode neg t).1
    rw [← heq]
    push_cast
    rfl
  · obtain ⟨ht, hn⟩ := not_forall.1 hp
    have hlow := (hs ht).resolve_left hn
    have hunits : unitsSpec mode neg t (v / 2 ^ u) ≤ (2 ^ (F.mb + 1) : Nat) := by
      refine unitsSpec_le (div_pos (h.pos hm) (two_zpow_pos _)).le (h.le_scaled hm ?_)
      push_cast
      rw [← zpow_natCast, ← two_zpow_add]
      exact two_zpow_le (by push_cast; omega)
    have small : ∀ n : Int, n ≤ (2 ^ (F.mb + 1) : Nat) → (n : Rat) * 2 ^ u < 2 ^ F.emin := by
      intro n hn
      have hn' : (n : Rat) ≤ ((2 ^ (F.mb + 1) : Nat) : Rat) := by exact_mod_cast hn
      refine (mul_le_mul_of_nonneg_right hn' (two_zpow_pos u).le).trans_lt ?_
      push_cast
      rw [← zpow_natCast, ← two_zpow_add]
      exact two_zpow_lt (by push_cast; omega)
    exact iff_of_true (small M (by exact_mod_cast hM2)) (small _ hunits)

end

theorem FloatFmt.overflowBits_eq (F : FloatFmt) (mode : RM) (neg : Bool) : F.overflowBits mode neg = F.signBit neg +
    (if F.mb < 7 ∨ mode = .rtz ∨ (mode = .rup ∧ neg = true) ∨ (mode = .rdn ∧ neg = false) then F.maxBits else F.infBits) := by
  unfold FloatFmt.overflowBits
  by_cases hmb : F.mb < 7
  · simp [hmb]
  · cases mode <;> cases neg <;> simp [hmb]

/-- The two outcomes of rounding a magnitude, by the rounded value y: the overflow, or the code of y with the flags of R102. -/
theorem FloatFmt.round_cases (hF : F.Sized) (hm : m ≠ 0) (h : Within m e tail v) (hs : F.Sees m e tail) (mode : RM) (neg : Bool) (t : Nat) :
    let y := (unitsSpec mode neg t (v / 2 ^ F.unit m e) : Rat) * 2 ^ F.unit m e
    let u := e + m.log2 - F.mb
    (F.valueOf F.maxBits < y → F.round mode t (.fin neg m e tail) = (F.overflowBits mode neg, fOF ||| fNX))
      ∧ (y ≤ F.valueOf F.maxBits → ∃ b, b ≤ F.maxBits ∧ F.valueOf b = y ∧ F.round mode t (.fin neg m e tail) = (F.signBit neg + b,
          if y = v then 0 else if (unitsSpec mode neg t (v / 2 ^ u) : Rat) * 2 ^ u < 2 ^ F.emin then fUF ||| fNX else fNX)) := by
  obtain ⟨hM, hexact⟩ := roundAt_units h hs.unit mode neg t
  obtain ⟨hM1, hM2⟩ := FloatFmt.roundAt_unit h hm hs mode neg t
  obtain ⟨h0, hfree⟩ := FloatFmt.roundAt_free h hm hs mode neg t
  rw [FloatFmt.round_fin mode neg t hF hm, ← hM]
  generalize roundAt mode neg t m e tail (F.unit m e) = r at *
  generalize roundAt mode neg t m e tail (e + m.log2 - F.mb) = r0 at *
  have hcode := FloatFmt.valueOf_code (F.le_unit m e) hM2 hM1
  dsimp only at hcode ⊢
  push_cast
  refine ⟨fun hlt => if_pos hlt, fun hle => ⟨_, F.valueOf_strictMono.le_iff_le.1 (hcode.trans_le hle), hcode, ?_⟩⟩
  have hzero : (if r.1 = 0 then 0 else (F.unit m e + F.mb + F.bias).toNat * 2 ^ F.mb + r.1 - 2 ^ F.mb)
      = (F.unit m e + F.mb + F.bias).toNat * 2 ^ F.mb + r.1 - 2 ^ F.mb := by
    split
    case isTrue hz =>
      refine F.valueOf_strictMono.injective ?_
      rw [hcode, FloatFmt.valueOf_zero, hz]
      simp
    case isFalse => rfl
  rw [if_neg (not_lt.2 hle), hzero]
  simp only [hexact, hfree, h0, ne_eq, not_false_eq_true, and_true]

/-- A magnitude with its tail is rounded into a binary floating format as the spec rounds each value it may stand for. -/
theorem FloatFmt.round_rounded (hF : F.Sized) (hm : m ≠ 0) (h : Within m e tail v) (hs : F.Sees m e tail) (mode : RM) (neg : Bool)
    (t : Nat) : FloatRounded F mode t (if neg then -v else v) (F.round mode t (.fin neg m e tail)).1
      (F.round mode t (.fin neg m e tail)).2 := by
  have hv := h.pos hm
  have hneg : decide ((if neg = true then -v else v) < 0) = neg := by
    cases neg
    · simpa using hv.le
    · simpa using hv
  have hmag : ratMag (if neg = true then -v else v) = v := by
    cases neg
    · simp [ratMag, hv.le]
    · simp [ratMag, hv]
  have hbig : ((F.decode F.maxBits).rat.getD 0) = F.valueOf F.maxBits := by
    have := FloatFmt.rat_decode_signBit_add hF false le_rfl
    rw [FloatFmt.signBit, if_neg (by simp), zero_add] at this
    rw [this]
    rfl
  have hsign : (if neg = true then 2 ^ (F.eb + F.mb) else 0) = F.signBit neg := rfl
  obtain ⟨hover, hfits⟩ := FloatFmt.round_cases hF hm h hs mode neg t
  unfold FloatRounded
  simp only [hneg, hmag, scaled_eq, Int.cast_one, one_mul, hbig, hsign]
  intro top htop
  obtain rfl : top = e + m.log2 := binade_unique htop (h.binade hm)
  constructor
  · intro hlt
    rw [hover hlt, FloatFmt.overflowBits_eq]
    exact ⟨rfl, rfl⟩
  · intro hle
    obtain ⟨b, hb, hval, heq⟩ := hfits hle
    rw [heq, FloatFmt.rat_decode_signBit_add hF neg hb, hval, Nat.add_sub_cancel_left]
    exact ⟨Nat.le_add_right _ _, hb.trans_lt FloatFmt.maxBits_lt, rfl, rfl⟩

end Sys2Proof.Machine
end

section
/-! SUPPORT. Rounding to an integer and saturating (R104, R105), and the values that a number stands for. -/

namespace Sys2Proof.Machine

variable {m : Nat} {e : Int} {tail : Bool} {v x : Rat}

/-- A value x ≠ 0 that a number stands for; a number with a tail has bits enough that every format sees the same. -/
def Num.Holds : Num → Rat → Prop
  | .fin neg m e tail, x => m ≠ 0 ∧ (tail = true → 104 ≤ m.log2) ∧ ∃ v, Within m e tail v ∧ x = if neg then -v else v
  | _, _ => False

theorem Num.rat_eq_some {n : Num} (h : n.rat = some x) : ∃ neg m e, n = .fin neg m e false ∧ x = if neg then -((m : Rat) * 2 ^ e) else m * 2 ^ e := by
  match n with
  | .fin neg m e false =>
    refine ⟨neg, m, e, rfl, ?_⟩
    rw [Num.rat, Option.some_inj, scaled_eq] at h
    rw [← h]
    cases neg <;> simp
  | .fin _ _ _ true | .inf _ | .nan _ => simp [Num.rat] at h

theorem Num.rat_fin (neg : Bool) (m : Nat) (e : Int) :
    (Num.fin neg m e false).rat = some (if neg then -((m : Rat) * 2 ^ e) else m * 2 ^ e) := by
  rw [Num.rat, scaled_eq]
  cases neg <;> simp

/-- An exact value ≠ 0 is held. -/
theorem Num.holds_of_rat {n : Num} (h : n.rat = some x) (hx : x ≠ 0) : n.Holds x := by
  obtain ⟨neg, m, e, rfl, hxv⟩ := Num.rat_eq_some h
  refine ⟨?_, by simp, _, within_false.2 rfl, hxv⟩
  rintro rfl
  simp [hxv] at hx

/-- A magnitude under a sign: whether it is negative, and the magnitude back. -/
theorem sign_of_pos (neg : Bool) (hv : 0 < v) : ((if neg = true then -v else v) < 0 ↔ neg = true) ∧ ratMag (if neg = true then -v else v) = v := by
  cases neg
  · simp [ratMag, hv.le]
  · simp [ratMag, hv]

/-! ### Integers -/

theorem roundAt_zero (mode : RM) (neg : Bool) (t : Nat) (e u : Int) : roundAt mode neg t 0 e false u = (0, true) := by
  simp [roundAt]

section
variable {mode : RM} {t : Nat} {lo hi : Int} (hl0 : lo ≤ 0) (h0h : 0 ≤ hi)
include hl0 h0h

theorem roundInt_zero (neg : Bool) (e : Int) : roundInt mode t lo hi (.fin neg 0 e false) = (0, 0) := by
  simp [roundInt, roundAt_zero, not_lt.2 hl0, not_lt.2 h0h]

variable (hlo : -(2 ^ 80) < lo) (hhi : hi < 2 ^ 80)
include hlo hhi

/-- A value above 2^80 is past every integer range, and any other is rounded at the unit 1. -/
theorem roundInt_rounded {n : Num} (h : n.Holds x) : IntRounded mode t lo hi x (roundInt mode t lo hi n).1 (roundInt mode t lo hi n).2 := by
  match n, h with
  | .fin neg m e tail, ⟨hm, htail, v, hw, hx⟩ =>
    subst hx
    have hv := hw.pos hm
    obtain ⟨hneg, hmag⟩ := sign_of_pos neg hv
    unfold IntRounded
    simp only [hneg, hmag, Bool.decide_eq_true, roundInt, Bool.and_eq_true, decide_eq_true_eq, bne_iff_ne, ne_eq, hm, not_false_eq_true, and_true]
    by_cases hbig : 80 < e + m.log2
    · have hn : ((2 ^ 80 : Nat) : Int) ≤ unitsSpec mode neg t v := by
        refine le_unitsSpec hv.le ((hw.binade hm).1.trans' ?_)
        have h80 : ((2 ^ 80 : Nat) : Rat) = 2 ^ (80 : Int) := by norm_num
        exact h80.trans_le (two_zpow_le hbig.le)
      push_cast at hn
      rw [if_pos hbig]
      cases neg
      · simp only [Bool.false_eq_true, if_false]
        rw [if_pos (by omega)]
        exact ⟨by omega, rfl⟩
      · simp only [if_true]
        rw [if_pos (by omega)]
        exact ⟨by omega, rfl⟩
    · obtain ⟨hM, hexact⟩ := roundAt_units hw (u := 0) (fun ht => by have := htail ht; omega) mode neg t
      rw [zpow_zero, div_one] at hM
      rw [zpow_zero, mul_one] at hexact
      rw [if_neg hbig, ← hM]
      generalize roundAt mode neg t m e tail 0 = r at *
      have hval : (((if neg = true then -(r.1 : Int) else r.1 : Int)) : Rat) = (if neg = true then -v else v) ↔ r.2 = true := by
        rw [hexact]
        cases neg <;> simp
      simp only [hval]
      generalize (if neg = true then -(r.1 : Int) else r.1 : Int) = w
      by_cases h1 : w < lo
      · rw [if_pos h1, if_pos (.inl h1)]
        exact ⟨by omega, rfl⟩
      by_cases h2 : hi < w
      · rw [if_neg h1, if_pos h2, if_pos (.inr h2)]
        exact ⟨by omega, rfl⟩
      · rw [if_neg h1, if_neg h2, if_neg (not_or.2 ⟨h1, h2⟩)]
        exact ⟨by omega, rfl⟩

end

end Sys2Proof.Machine
end

section
/-! SUPPORT. Rounding into D8 (R93, R94): the codes are the canonical pairs of an exponent and a significand, so no value lies between two
neighbours, and `d8Round` takes the nearer. -/

namespace Sys2Proof.Machine

variable {m : Nat} {e : Int} {tail : Bool} {v x : Rat}

/-! ### The codes and their values -/

/-- An exponent of D8 with a significand of its length, the leading one included (R93). -/
def D8Pair (T : Int) (q : Nat) : Prop := (-15 ≤ T ∧ T ≤ 15) ∧ 2 ^ d8Bits T ≤ q ∧ q < 2 ^ (d8Bits T + 1)

/-- The code of a pair, without a sign. -/
def d8PairCode (T : Int) (q : Nat) : Nat := d8Code T (q - 2 ^ d8Bits T)

/-- The value of a pair. -/
def d8PairValue (T : Int) (q : Nat) : Rat := q * 2 ^ (T - d8Bits T)

theorem d8Decode_pair_table : ∀ i : Fin 31, ∀ j : Fin 16, j.val < 2 ^ d8Bits (i.val - 15 : Int) →
    d8Decode (d8Code (i.val - 15 : Int) j) = .fin false (2 ^ d8Bits (i.val - 15 : Int) + j) ((i.val - 15 : Int) - d8Bits (i.val - 15 : Int)) false
      ∧ d8Code (i.val - 15 : Int) j < 128 ∧ d8Code (i.val - 15 : Int) j ≠ 0 := by
  decide +kernel

theorem d8Code_surjective_table : ∀ c : Fin 127, ∃ i : Fin 31, ∃ j : Fin 16, j.val < 2 ^ d8Bits (i.val - 15 : Int)
    ∧ d8Code (i.val - 15 : Int) j = c.val + 1 := by
  decide +kernel

theorem d8Decode_sign_table : ∀ c : Fin 127, d8Decode (c.val + 1 + 128) = (d8Decode (c.val + 1)).negate := by
  decide +kernel

theorem d8Bits_le (T : Int) : d8Bits T ≤ 4 := by
  unfold d8Bits
  split
  · omega
  split
  · omega
  split <;> omega

variable {T T' : Int} {q q' : Nat}

theorem d8Decode_pair (h : D8Pair T q) :
    d8Decode (d8PairCode T q) = .fin false q (T - d8Bits T) false ∧ d8PairCode T q < 128 ∧ d8PairCode T q ≠ 0 := by
  obtain ⟨⟨h1, h2⟩, h3, h4⟩ := h
  obtain ⟨i, hi⟩ := Int.eq_ofNat_of_zero_le (a := T + 15) (by omega)
  obtain rfl : T = (i : Int) - 15 := by omega
  have hj : q - 2 ^ d8Bits ((i : Int) - 15) < 2 ^ d8Bits ((i : Int) - 15) := by rw [pow_succ] at h4; omega
  have h16 : 2 ^ d8Bits ((i : Int) - 15) ≤ 2 ^ 4 := Nat.pow_le_pow_right (by norm_num) (d8Bits_le _)
  have := d8Decode_pair_table ⟨i, by omega⟩ ⟨q - 2 ^ d8Bits ((i : Int) - 15), by omega⟩ hj
  dsimp only at this
  rwa [Nat.add_sub_cancel' h3] at this

theorem exists_d8Pair {c : Nat} (h0 : c ≠ 0) (hc : c < 128) : ∃ T q, D8Pair T q ∧ d8PairCode T q = c := by
  obtain ⟨i, j, hj, hcode⟩ := d8Code_surjective_table ⟨c - 1, by omega⟩
  have hi := i.isLt
  refine ⟨i.val - 15, 2 ^ d8Bits (i.val - 15 : Int) + j, ⟨by omega, by omega, by rw [pow_succ]; omega⟩, ?_⟩
  rw [d8PairCode, Nat.add_sub_cancel_left, hcode]
  dsimp only
  omega

theorem d8PairValue_binade (h : D8Pair T q) : 2 ^ T ≤ d8PairValue T q ∧ d8PairValue T q < 2 ^ (T + 1) := by
  obtain ⟨-, h3, h4⟩ := h
  have hp := two_zpow_pos (T - d8Bits T)
  have e1 : (2 : Rat) ^ T = ((2 ^ d8Bits T : Nat) : Rat) * 2 ^ (T - d8Bits T) := by
    push_cast
    rw [← zpow_natCast, ← two_zpow_add]
    congr 1
    omega
  have e2 : (2 : Rat) ^ (T + 1) = ((2 ^ (d8Bits T + 1) : Nat) : Rat) * 2 ^ (T - d8Bits T) := by
    push_cast
    rw [← zpow_natCast, ← two_zpow_add]
    congr 1
    push_cast
    omega
  rw [e1, e2]
  exact ⟨mul_le_mul_of_nonneg_right (by exact_mod_cast h3) hp.le, mul_lt_mul_of_pos_right (by exact_mod_cast h4) hp⟩

theorem d8PairValue_pos (h : D8Pair T q) : 0 < d8PairValue T q := (two_zpow_pos T).trans_le (d8PairValue_binade h).1

/-- A pair is one unit above the other or not between: equal exponents, or a whole binade apart. -/
theorem d8PairValue_gap (h : D8Pair T q) (h' : D8Pair T' q') :
    d8PairValue T' q' ≤ d8PairValue T q ∧ (d8PairValue T' q' = d8PairValue T q → T' = T ∧ q' = q)
      ∨ (q + 1) * 2 ^ (T - d8Bits T) ≤ d8PairValue T' q' := by
  obtain ⟨b1, b2⟩ := d8PairValue_binade h
  obtain ⟨b1', b2'⟩ := d8PairValue_binade h'
  have hp := two_zpow_pos (T - d8Bits T)
  rcases lt_trichotomy T' T with hT | rfl | hT
  · have : d8PairValue T' q' < d8PairValue T q := b2'.trans_le ((two_zpow_le (by omega)).trans b1)
    exact .inl ⟨this.le, fun he => absurd he this.ne⟩
  · by_cases hq : q' ≤ q
    · refine .inl ⟨mul_le_mul_of_nonneg_right (by exact_mod_cast hq) hp.le, fun he => ⟨rfl, ?_⟩⟩
      exact_mod_cast mul_right_cancel₀ hp.ne' he
    · exact .inr (mul_le_mul_of_nonneg_right (by exact_mod_cast Nat.lt_of_not_le hq) hp.le)
  · refine .inr (le_trans ?_ ((two_zpow_le (by omega : T + 1 ≤ T')).trans b1'))
    have e2 : (2 : Rat) ^ (T + 1) = ((2 ^ (d8Bits T + 1) : Nat) : Rat) * 2 ^ (T - d8Bits T) := by
      push_cast
      rw [← zpow_natCast, ← two_zpow_add]
      congr 1
      push_cast
      omega
    rw [e2]
    exact mul_le_mul_of_nonneg_right (by exact_mod_cast h.2.2) hp.le

theorem d8PairValue_injective (h : D8Pair T q) (h' : D8Pair T' q') (he : d8PairValue T' q' = d8PairValue T q) : T' = T ∧ q' = q := by
  rcases d8PairValue_gap h h' with ⟨-, hi⟩ | hle
  · exact hi he
  · rw [he, d8PairValue, add_mul, one_mul] at hle
    linarith [two_zpow_pos (T - d8Bits T)]

/-- What a byte reads as: nothing, 0, or a pair under a sign. -/
theorem d8Decode_cases {c : Nat} (hc : c < 256) {z : Rat} (h : (d8Decode c).rat = some z) :
    (c = 0 ∧ z = 0) ∨ ∃ T q, D8Pair T q ∧ ((c = d8PairCode T q ∧ z = d8PairValue T q) ∨ (c = d8PairCode T q + 128 ∧ z = -d8PairValue T q)) := by
  by_cases h0 : c = 0
  · subst h0
    refine .inl ⟨rfl, ?_⟩
    have : d8Decode 0 = .zero := by decide
    rw [this, Num.zero, Num.rat_fin] at h
    simpa using h.symm
  by_cases hlow : c < 128
  · obtain ⟨T, q, hp, rfl⟩ := exists_d8Pair h0 hlow
    refine .inr ⟨T, q, hp, .inl ⟨rfl, ?_⟩⟩
    rw [(d8Decode_pair hp).1, Num.rat_fin] at h
    simpa [d8PairValue] using h.symm
  by_cases h128 : c = 128
  · subst h128
    have : d8Decode 128 = .nan false := by decide
    rw [this] at h
    simp [Num.rat] at h
  · obtain ⟨T, q, hp, hcode⟩ := exists_d8Pair (c := c - 128) (by omega) (by omega)
    refine .inr ⟨T, q, hp, .inr ⟨by omega, ?_⟩⟩
    have hs := d8Decode_sign_table ⟨c - 129, by omega⟩
    dsimp only at hs
    rw [show c - 129 + 1 = d8PairCode T q by omega, (d8Decode_pair hp).1, show d8PairCode T q + 128 = c by omega] at hs
    rw [hs, Num.negate, Num.rat_fin] at h
    simpa [d8PairValue] using h.symm

theorem d8Decode_pair_neg (h : D8Pair T q) : (d8Decode (d8PairCode T q + 128)).rat = some (-d8PairValue T q) := by
  obtain ⟨hd, hlt, h0⟩ := d8Decode_pair h
  have hs := d8Decode_sign_table ⟨d8PairCode T q - 1, by omega⟩
  dsimp only at hs
  rw [show d8PairCode T q - 1 + 1 = d8PairCode T q by omega, hd] at hs
  rw [hs, Num.negate, Num.rat_fin]
  simp [d8PairValue]

theorem d8Decode_pair_pos (h : D8Pair T q) : (d8Decode (d8PairCode T q)).rat = some (d8PairValue T q) := by
  rw [(d8Decode_pair h).1, Num.rat_fin]
  simp [d8PairValue]

/-- The byte of the opposite value has the same parity. -/
theorem d8_mirror {c : Nat} (hc : c < 256) {z : Rat} (h : (d8Decode c).rat = some z) :
    ∃ c', c' < 256 ∧ (d8Decode c').rat = some (-z) ∧ c' % 2 = c % 2 := by
  rcases d8Decode_cases hc h with ⟨rfl, rfl⟩ | ⟨T, q, hp, ⟨rfl, rfl⟩ | ⟨rfl, rfl⟩⟩
  · exact ⟨0, hc, by simpa using h, rfl⟩
  · have := (d8Decode_pair hp).2.1
    exact ⟨d8PairCode T q + 128, by omega, d8Decode_pair_neg hp, by omega⟩
  · have := (d8Decode_pair hp).2.1
    exact ⟨d8PairCode T q, by omega, by rw [neg_neg]; exact d8Decode_pair_pos hp, by omega⟩

/-! ### The nearer neighbour (R94) -/

/-- Two neighbouring values of D8 that are not negative, with their bytes: no byte reads as a value between them. -/
def D8Neighbours (a b : Rat) (ca cb : Nat) : Prop :=
  (0 ≤ a ∧ a < b) ∧ ∀ c z, c < 256 → (d8Decode c).rat = some z → (z ≤ a ∧ (z = a → c = ca)) ∨ (b ≤ z ∧ (z = b → c = cb))

/-- y with its byte is the nearest value to x, of two equally near the one with the even byte, else that of smaller magnitude (R94). -/
def D8Nearest (x y : Rat) (cy : Nat) : Prop :=
  ∀ c z, c < 256 → (d8Decode c).rat = some z → ratMag (y - x) ≤ ratMag (z - x)
    ∧ (ratMag (y - x) = ratMag (z - x) → z ≠ y → (cy % 2 = 0 ∧ c % 2 = 1) ∨ (cy % 2 = c % 2 ∧ ratMag y ≤ ratMag z))

theorem ratMag_eq_abs (x : Rat) : ratMag x = |x| := by
  unfold ratMag
  split
  case isTrue h => rw [abs_of_neg h]
  case isFalse h => rw [abs_of_nonneg (not_lt.1 h)]

theorem D8Nearest.neg {y : Rat} {cy cy' : Nat} (h : D8Nearest x y cy) (hc : cy' % 2 = cy % 2) : D8Nearest (-x) (-y) cy' := by
  intro c z hlt hz
  obtain ⟨c', hlt', hz', hp⟩ := d8_mirror hlt hz
  have hd : ∀ w : Rat, ratMag (-w - -x) = ratMag (w - x) := fun w => by
    rw [ratMag_eq_abs, ratMag_eq_abs, ← abs_neg]
    ring_nf
  have hm : ∀ w : Rat, ratMag (-w) = ratMag w := fun w => by rw [ratMag_eq_abs, ratMag_eq_abs, abs_neg]
  obtain ⟨h1, h2⟩ := h c' (-z) hlt' hz'
  have hz2 := hd (-z)
  rw [neg_neg] at hz2
  rw [hd y, hz2, hm y, hc, ← hp, ← hm z]
  exact ⟨h1, fun he hne => h2 he fun h' => hne (by rw [← h', neg_neg])⟩

/-- The lower neighbour is the nearest up to the midpoint, and at it unless its byte is odd and the upper one even. -/
theorem D8Neighbours.lower {a b : Rat} {ca cb : Nat} (h : D8Neighbours a b ca cb) (ha : a ≤ v) (hmid : 2 * v ≤ a + b)
    (htie : 2 * v = a + b → ¬ (ca % 2 = 1 ∧ cb % 2 = 0)) : D8Nearest v a ca := by
  obtain ⟨⟨h0, hab⟩, hgap⟩ := h
  intro c z hc hz
  rw [ratMag_eq_abs, ratMag_eq_abs, ratMag_eq_abs, ratMag_eq_abs, abs_of_nonpos (sub_nonpos.2 ha)]
  rcases hgap c z hc hz with ⟨hle, heq⟩ | ⟨hle, heq⟩
  · rw [abs_of_nonpos (by linarith : z - v ≤ 0)]
    exact ⟨by linarith, fun he hne => absurd (by linarith) hne⟩
  · rw [abs_of_nonneg (by linarith : 0 ≤ z - v)]
    refine ⟨by linarith, fun he _ => ?_⟩
    obtain rfl := heq (by linarith)
    rw [abs_of_nonneg h0, abs_of_nonneg (by linarith : 0 ≤ z)]
    have := htie (by linarith)
    by_cases hpar : ca % 2 = 0 ∧ c % 2 = 1
    · exact .inl hpar
    · exact .inr ⟨by omega, by linarith⟩

/-- The upper neighbour is the nearest from the midpoint on, and at it if its byte is even and the lower one odd. -/
theorem D8Neighbours.upper {a b : Rat} {ca cb : Nat} (h : D8Neighbours a b ca cb) (hb : v ≤ b) (hmid : a + b ≤ 2 * v)
    (htie : a + b = 2 * v → ca % 2 = 1 ∧ cb % 2 = 0) : D8Nearest v b cb := by
  obtain ⟨⟨h0, hab⟩, hgap⟩ := h
  intro c z hc hz
  rw [ratMag_eq_abs, ratMag_eq_abs, ratMag_eq_abs, ratMag_eq_abs, abs_of_nonneg (sub_nonneg.2 hb)]
  rcases hgap c z hc hz with ⟨hle, heq⟩ | ⟨hle, heq⟩
  · rw [abs_of_nonpos (by linarith : z - v ≤ 0)]
    refine ⟨by linarith, fun he _ => ?_⟩
    obtain rfl := heq (by linarith)
    have := htie (by linarith)
    exact .inl ⟨this.2, this.1⟩
  · rw [abs_of_nonneg (by linarith : 0 ≤ z - v)]
    exact ⟨by linarith, fun he hne => absurd (by linarith) hne⟩

end Sys2Proof.Machine
end

section
/-! SUPPORT. Rounding into D8 (R93, R94): the neighbours of a value, and `d8Round`. -/

namespace Sys2Proof.Machine

variable {m : Nat} {e : Int} {tail : Bool} {v x : Rat} {T T' : Int} {q q' : Nat}

/-! ### Neighbours -/

theorem d8Pair_least : D8Pair (-15) 1 ∧ d8PairCode (-15) 1 = 2 ∧ d8PairValue (-15) 1 = 2 ^ (-15 : Int) := by
  have hbits : d8Bits (-15) = 0 := by decide
  exact ⟨by simp [D8Pair, hbits], by decide, by simp [d8PairValue, hbits]⟩

theorem d8Pair_greatest : D8Pair 15 1 ∧ d8PairCode 15 1 = 1 ∧ d8PairValue 15 1 = 2 ^ (15 : Int) := by
  have hbits : d8Bits 15 = 0 := by decide
  exact ⟨by simp [D8Pair, hbits], by decide, by simp [d8PairValue, hbits]⟩

theorem d8Neighbours_zero : D8Neighbours 0 (2 ^ (-15 : Int)) 0 2 := by
  obtain ⟨hone, hcode, hval⟩ := d8Pair_least
  refine ⟨⟨le_rfl, two_zpow_pos _⟩, fun c z hc hz => ?_⟩
  rcases d8Decode_cases hc hz with ⟨rfl, rfl⟩ | ⟨T, q, hp, ⟨rfl, rfl⟩ | ⟨rfl, rfl⟩⟩
  · exact .inl ⟨le_rfl, fun _ => rfl⟩
  · refine .inr ⟨(two_zpow_le hp.1.1).trans (d8PairValue_binade hp).1, fun he => ?_⟩
    obtain ⟨rfl, rfl⟩ := d8PairValue_injective hone hp (he.trans hval.symm)
    exact hcode
  · have := d8PairValue_pos hp
    exact .inl ⟨by linarith, fun he => by linarith⟩

/-- Two pairs one unit apart are neighbours. -/
theorem d8Neighbours_of_pairs (h : D8Pair T q) (h' : D8Pair T' q') (hv : d8PairValue T' q' = (q + 1) * 2 ^ (T - d8Bits T)) :
    D8Neighbours (d8PairValue T q) ((q + 1) * 2 ^ (T - d8Bits T)) (d8PairCode T q) (d8PairCode T' q') := by
  have hpos := d8PairValue_pos h
  refine ⟨⟨hpos.le, mul_lt_mul_of_pos_right (lt_add_one _) (two_zpow_pos _)⟩, fun c z hc hz => ?_⟩
  rcases d8Decode_cases hc hz with ⟨rfl, rfl⟩ | ⟨T₁, q₁, hp, ⟨rfl, rfl⟩ | ⟨rfl, rfl⟩⟩
  · exact .inl ⟨hpos.le, fun he => absurd he hpos.ne⟩
  · rcases d8PairValue_gap h hp with ⟨hle, heq⟩ | hle
    · exact .inl ⟨hle, fun he => by obtain ⟨rfl, rfl⟩ := heq he; rfl⟩
    · exact .inr ⟨hle, fun he => by obtain ⟨rfl, rfl⟩ := d8PairValue_injective h' hp (he.trans hv.symm); rfl⟩
  · have := d8PairValue_pos hp
    exact .inl ⟨by linarith, fun he => by linarith⟩

/-- Nothing lies above 2^15. -/
theorem d8Neighbours_top (c : Nat) : D8Neighbours (2 ^ (15 : Int)) (2 ^ (16 : Int)) 1 c := by
  obtain ⟨htop, hcode, hval⟩ := d8Pair_greatest
  have hpos : (0 : Rat) < 2 ^ (15 : Int) := two_zpow_pos _
  refine ⟨⟨hpos.le, two_zpow_lt (by norm_num)⟩, fun c z hc hz => .inl ?_⟩
  rcases d8Decode_cases hc hz with ⟨rfl, rfl⟩ | ⟨T₁, q₁, hp, ⟨rfl, rfl⟩ | ⟨rfl, rfl⟩⟩
  · exact ⟨hpos.le, fun he => absurd he hpos.ne⟩
  · rcases d8PairValue_gap htop hp with ⟨hle, heq⟩ | hle
    · rw [hval] at hle heq
      exact ⟨hle, fun he => by obtain ⟨rfl, rfl⟩ := heq he; exact hcode⟩
    · have h1 := (d8PairValue_binade hp).2.trans_le (two_zpow_le (by have := hp.1.2; omega : T₁ + 1 ≤ 16))
      rw [show d8Bits 15 = 0 by decide] at hle
      norm_num at hle h1
      linarith
  · have := d8PairValue_pos hp
    exact ⟨by linarith, fun he => by linarith⟩

/-- The pair above a pair: the next significand, or the first of the next exponent. -/
theorem d8_next (h : D8Pair T q) (hT : T ≤ 14) :
    let code := if q + 1 = 2 ^ (d8Bits T + 1) then d8Code (T + 1) 0 else d8Code T (q + 1 - 2 ^ d8Bits T)
    ∃ T' q', D8Pair T' q' ∧ d8PairCode T' q' = code ∧ d8PairValue T' q' = (q + 1) * 2 ^ (T - d8Bits T) := by
  obtain ⟨⟨h1, h2⟩, h3, h4⟩ := h
  intro code
  by_cases hq : q + 1 = 2 ^ (d8Bits T + 1)
  · refine ⟨T + 1, 2 ^ d8Bits (T + 1), ⟨by omega, le_rfl, Nat.pow_lt_pow_right (by norm_num) (Nat.lt_succ_self _)⟩, ?_, ?_⟩
    · simp [code, hq, d8PairCode]
    · have hq' : (q : Rat) + 1 = 2 ^ (d8Bits T + 1) := by exact_mod_cast hq
      rw [d8PairValue, hq']
      push_cast
      rw [← zpow_natCast, ← zpow_natCast, ← two_zpow_add, ← two_zpow_add]
      congr 1
      push_cast
      omega
  · refine ⟨T, q + 1, ⟨⟨h1, h2⟩, by omega, by omega⟩, ?_, ?_⟩
    · simp [code, hq, d8PairCode]
    · rw [d8PairValue]
      push_cast
      rfl

/-- The byte of the upper neighbour as `d8Round` names it. -/
def d8Upper (T : Int) (q : Nat) : Nat := if q + 1 = 2 ^ (d8Bits T + 1) then d8Code (T + 1) 0 else d8Code T (q + 1 - 2 ^ d8Bits T)

theorem D8Pair.neighbours (h : D8Pair T q) (hT : T ≤ 14) :
    D8Neighbours (d8PairValue T q) ((q + 1) * 2 ^ (T - d8Bits T)) (d8PairCode T q) (d8Upper T q)
      ∧ ∃ T' q', D8Pair T' q' ∧ d8PairCode T' q' = d8Upper T q ∧ d8PairValue T' q' = (q + 1) * 2 ^ (T - d8Bits T) := by
  obtain ⟨T', q', hp, hcode, hval⟩ := d8_next h hT
  exact ⟨by rw [d8Upper, ← hcode]; exact d8Neighbours_of_pairs h hp hval, T', q', hp, hcode, hval⟩

/-- A pair is nearest to its own value. -/
theorem D8Pair.nearest_self (h : D8Pair T q) : D8Nearest (d8PairValue T q) (d8PairValue T q) (d8PairCode T q) := by
  by_cases hT : T ≤ 14
  · obtain ⟨hn, -⟩ := h.neighbours hT
    exact hn.lower le_rfl (by linarith [hn.1.2]) (fun he => by linarith [hn.1.2])
  · obtain ⟨⟨-, h15⟩, hlo, hhi⟩ := h
    obtain rfl : T = 15 := by omega
    rw [show d8Bits 15 = 0 by decide] at hlo hhi
    obtain rfl : q = 1 := by omega
    obtain ⟨-, hcode, hval⟩ := d8Pair_greatest
    have hlt : (2 : Rat) ^ (15 : Int) < 2 ^ (16 : Int) := two_zpow_lt (by norm_num)
    rw [hcode, hval]
    exact (d8Neighbours_top 0).lower le_rfl (by linarith) (fun he => by linarith)

theorem unitsSpec_rtz (neg : Bool) (t : Nat) (w : Rat) : unitsSpec .rtz neg t w = ⌊w⌋ := by
  simp [unitsSpec, Int.floor]
  rfl

/-! ### `d8Round` -/

/-- What D8 takes for a value of at most 2^15, with its flags (R94, R102). -/
def D8Takes (x : Rat) (b : Nat) (fl : Flags) : Prop :=
  b < 256 ∧ ∃ y, (d8Decode b).rat = some y ∧ (y = 0 → b = 0) ∧ D8Nearest x y b
    ∧ fl = if y = x then 0 else if ratMag x < 2 ^ (-15 : Int) then fUF ||| fNX else fNX

theorem d8Rounded_iff {b : Nat} {fl : Flags} : D8Rounded x b fl ↔
    (2 ^ (15 : Int) < ratMag x → b = (if x < 0 then 0x81 else 0x01) ∧ fl = fOF ||| fNX) ∧ (ratMag x ≤ 2 ^ (15 : Int) → D8Takes x b fl) := by
  simp only [D8Rounded, D8Takes, D8Nearest, scaled_eq, Int.cast_one, one_mul]

/-- A nearest pair, under the sign of the value. -/
theorem D8Nearest.takes_pair (hv : 0 < v) (neg : Bool) (hp : D8Pair T q) (h : D8Nearest v (d8PairValue T q) (d8PairCode T q)) :
    D8Takes (if neg then -v else v) ((if neg then 0x80 else 0) + d8PairCode T q)
      (if d8PairValue T q = v then 0 else if v < 2 ^ (-15 : Int) then fUF ||| fNX else fNX) := by
  obtain ⟨-, hlt, hne⟩ := d8Decode_pair hp
  have hpos := d8PairValue_pos hp
  cases neg
  · refine ⟨by simp; omega, d8PairValue T q, by simpa using d8Decode_pair_pos hp, fun h0 => absurd h0 hpos.ne', by simpa using h, ?_⟩
    simp [ratMag_eq_abs, abs_of_pos hv]
  · refine ⟨by simp; omega, -d8PairValue T q, by simpa [add_comm] using d8Decode_pair_neg hp, fun h0 => absurd h0 (by simpa using hpos.ne'), ?_, ?_⟩
    · exact h.neg (by simp; omega)
    · simp [ratMag_eq_abs, abs_of_pos hv]

theorem D8Nearest.takes_inexact (hlow : 2 ^ (-15 : Int) ≤ v) (neg : Bool) (hp : D8Pair T q) (hne : d8PairValue T q ≠ v)
    (h : D8Nearest v (d8PairValue T q) (d8PairCode T q)) :
    D8Takes (if neg then -v else v) ((if neg then 0x80 else 0) + d8PairCode T q) fNX := by
  have := h.takes_pair ((two_zpow_pos _).trans_le hlow) neg hp
  simp only [hne, if_false, not_lt.2 hlow] at this
  exact this

/-- A nearest 0, whatever the sign of the value. -/
theorem D8Nearest.takes_zero (hv : 0 < v) (hlow : v < 2 ^ (-15 : Int)) (neg : Bool) (h : D8Nearest v 0 0) :
    D8Takes (if neg then -v else v) 0 (fUF ||| fNX) := by
  have hz : (d8Decode 0).rat = some 0 := by
    have : d8Decode 0 = .zero := by decide
    rw [this, Num.zero, Num.rat_fin]
    simp
  refine ⟨by norm_num, 0, hz, fun _ => rfl, ?_, ?_⟩
  · cases neg
    · exact h
    · simpa using h.neg (cy' := 0) rfl
  · cases neg
    · simp only [Bool.false_eq_true, if_false]
      rw [if_neg hv.ne, ratMag_eq_abs, abs_of_pos hv, if_pos hlow]
    · rw [if_pos rfl, if_neg (by simpa using hv.ne'), ratMag_eq_abs, abs_neg, abs_of_pos hv, if_pos hlow]

section
variable (hm : m ≠ 0) (h : Within m e tail v)
include hm h

theorem Within.isAbove_iff {a : Nat} {j : Int} (ha : tail = true → e ≤ j ∨ a = 1) : isAbove (cmpMag m e a j) tail = true ↔ a * 2 ^ j < v := by
  obtain ⟨hlt, hgt, heq⟩ := h.compare_bound hm ha
  rcases hc : cmpMag m e a j with _ | _ | _
  · simpa [isAbove] using (hlt hc).le
  · have := heq hc
    cases tail
    · simpa [isAbove] using le_of_eq this
    · simpa [isAbove] using this
  · simpa [isAbove] using hgt hc

/-- Below 2^-15 the midpoint 2^-16 decides between 0 and 2^-15. -/
theorem d8Takes_low (neg : Bool) (hlow : v < 2 ^ (-15 : Int)) :
    D8Takes (if neg then -v else v) (if isAbove (cmpMag m e 1 (-16)) tail then (if neg then 0x80 else 0) + 0x02 else 0) (fUF ||| fNX) := by
  have hv := h.pos hm
  obtain ⟨hone, hcode, hval⟩ := d8Pair_least
  have hhalf : (2 : Rat) ^ (-15 : Int) = 2 * 2 ^ (-16 : Int) := by norm_num
  have habove := h.isAbove_iff hm (a := 1) (j := -16) fun _ => .inr rfl
  rw [Nat.cast_one, one_mul] at habove
  by_cases hup : isAbove (cmpMag m e 1 (-16)) tail = true
  · have hlt := habove.1 hup
    rw [if_pos hup]
    have hn : D8Nearest v (d8PairValue (-15) 1) (d8PairCode (-15) 1) := by
      rw [hval, hcode]
      exact d8Neighbours_zero.upper hlow.le (by linarith) (fun he => by linarith)
    have := hn.takes_pair hv neg hone
    rwa [hval, hcode, if_neg hlow.ne', if_pos hlow] at this
  · have hle := not_lt.1 (mt habove.2 hup)
    rw [if_neg hup]
    exact (d8Neighbours_zero.lower hv.le (by linarith) (fun _ => by norm_num)).takes_zero hv hlow neg

/-- Cut at the last place of its exponent, a value from 2^-15 to 2^15 leaves a pair and less than one unit. -/
theorem d8_cut (htail : tail = true → 104 ≤ m.log2) (neg : Bool) (hlo : 2 ^ (-15 : Int) ≤ v) (hhi : v ≤ 2 ^ (15 : Int)) :
    let T := e + m.log2
    let r := roundAt .rtz neg 0 m e tail (T - d8Bits T)
    D8Pair T r.1 ∧ d8PairValue T r.1 ≤ v ∧ v < (r.1 + 1) * 2 ^ (T - d8Bits T) ∧ (r.2 = true ↔ d8PairValue T r.1 = v) := by
  intro T r
  have hmb := d8Bits_le T
  obtain ⟨hb1, hb2⟩ := h.binade hm
  have hT1 : -15 ≤ T := by have := lt_of_two_zpow_lt (hlo.trans_lt hb2); omega
  have hT2 : T ≤ 15 := by
    by_contra hT
    exact absurd (hb1.trans hhi) (not_le.2 (two_zpow_lt (not_le.1 hT)))
  set u := T - d8Bits T with hu
  have hpu := two_zpow_pos u
  obtain ⟨hq, hexact⟩ := roundAt_units h (u := u) (fun ht => by have := htail ht; omega) .rtz neg 0
  rw [unitsSpec_rtz] at hq
  obtain ⟨hle, hlt⟩ := Int.floor_eq_iff.1 hq.symm
  rw [Int.cast_natCast, le_div_iff₀ hpu] at hle
  rw [Int.cast_natCast, div_lt_iff₀ hpu] at hlt
  have hsplit : ∀ j : Nat, (2 : Rat) ^ (u + j) = ((2 ^ j : Nat) : Rat) * 2 ^ u := by
    intro j
    rw [two_zpow_add, mul_comm]
    push_cast
    rw [zpow_natCast]
  have h1 : (2 : Rat) ^ T = ((2 ^ d8Bits T : Nat) : Rat) * 2 ^ u := by rw [← hsplit, hu, sub_add_cancel]
  have h2 : (2 : Rat) ^ (T + 1) = ((2 ^ (d8Bits T + 1) : Nat) : Rat) * 2 ^ u := by
    rw [← hsplit, hu, Nat.cast_succ, ← add_assoc, sub_add_cancel]
  refine ⟨⟨⟨hT1, hT2⟩, ?_, ?_⟩, hle, hlt, hexact⟩
  · have := lt_of_mul_lt_mul_right ((h1.symm.trans_le hb1).trans_lt hlt) hpu.le
    exact Nat.lt_succ_iff.1 (by exact_mod_cast this)
  · have := lt_of_mul_lt_mul_right (hle.trans_lt (hb2.trans_eq h2)) hpu.le
    exact_mod_cast this

/-- The midpoint of the two neighbours decides, and at it their bytes. -/
theorem d8Takes_inexact (htail : tail = true → e + 5 ≤ T) (hlo : 2 ^ (-15 : Int) ≤ v) (neg : Bool) (hp : D8Pair T q) (hT : T ≤ 14)
    (h1 : d8PairValue T q < v) (h2 : v < (q + 1) * 2 ^ (T - d8Bits T)) :
    D8Takes (if neg then -v else v) ((if neg then 0x80 else 0)
      + if d8Up (cmpMag m e (2 * q + 1) (T - d8Bits T - 1)) tail (d8PairCode T q) (d8Upper T q) then d8Upper T q else d8PairCode T q) fNX := by
  have hmb := d8Bits_le T
  obtain ⟨hnb, T', q', hp', hcode', hval'⟩ := hp.neighbours hT
  obtain ⟨clt, cgt, ceq⟩ := h.compare_bound hm (a := 2 * q + 1) (j := T - d8Bits T - 1) fun ht => .inl (by have := htail ht; omega)
  have hmid : ((2 * q + 1 : Nat) : Rat) * 2 ^ (T - d8Bits T - 1) = (d8PairValue T q + (q + 1) * 2 ^ (T - d8Bits T)) / 2 := by
    rw [d8PairValue, sub_eq_add_neg _ (1 : Int), two_zpow_add]
    push_cast
    ring
  rw [hmid] at clt cgt ceq
  have goUp : d8PairValue T q + (q + 1) * 2 ^ (T - d8Bits T) ≤ 2 * v →
      (d8PairValue T q + (q + 1) * 2 ^ (T - d8Bits T) = 2 * v → d8PairCode T q % 2 = 1 ∧ d8Upper T q % 2 = 0) →
      D8Takes (if neg then -v else v) ((if neg then 0x80 else 0) + d8Upper T q) fNX := fun h3 h4 => by
    have := hnb.upper h2.le h3 h4
    rw [← hcode', ← hval'] at this
    rw [← hcode']
    exact this.takes_inexact hlo neg hp' (hval' ▸ h2.ne')
  have goDown : 2 * v ≤ d8PairValue T q + (q + 1) * 2 ^ (T - d8Bits T) →
      (2 * v = d8PairValue T q + (q + 1) * 2 ^ (T - d8Bits T) → ¬ (d8PairCode T q % 2 = 1 ∧ d8Upper T q % 2 = 0)) →
      D8Takes (if neg then -v else v) ((if neg then 0x80 else 0) + d8PairCode T q) fNX := fun h3 h4 =>
    (hnb.lower h1.le h3 h4).takes_inexact hlo neg hp h1.ne
  rcases hc : cmpMag m e (2 * q + 1) (T - d8Bits T - 1) with _ | _ | _
  · have := clt hc
    exact goDown (by linarith) fun he => by linarith
  · have hv := ceq hc
    cases tail
    · simp only [Bool.false_eq_true, if_false] at hv
      by_cases hpar : d8PairCode T q % 2 = 1 ∧ d8Upper T q % 2 = 0
      · have hup : d8Up .eq false (d8PairCode T q) (d8Upper T q) = true := by simp [d8Up, hpar]
        rw [if_pos hup]
        exact goUp (by linarith) fun _ => hpar
      · have hup : ¬ d8Up .eq false (d8PairCode T q) (d8Upper T q) = true := by simpa [d8Up] using hpar
        rw [if_neg hup]
        exact goDown (by linarith) fun _ => hpar
    · simp only [if_true] at hv
      exact goUp (by linarith) fun he => by linarith
  · have := cgt hc
    exact goUp (by linarith) fun he => by linarith

/-- D8 rounds every value a number stands for as the spec does. -/
theorem d8Round_magnitude (htail : tail = true → 104 ≤ m.log2) (neg : Bool) :
    D8Rounded (if neg then -v else v) (d8Round (.fin neg m e tail)).1 (d8Round (.fin neg m e tail)).2 := by
  have hv := h.pos hm
  obtain ⟨hneg, hmag⟩ := sign_of_pos neg hv
  have habove := h.isAbove_iff hm (a := 1) (j := 15) fun _ => .inr rfl
  rw [Nat.cast_one, one_mul] at habove
  obtain ⟨hb1, hb2⟩ := h.binade hm
  rw [d8Rounded_iff, hmag]
  simp only [d8Round, hm, decide_false, Bool.false_and, Bool.false_eq_true, if_false, habove]
  constructor
  · intro hbig
    simp only [if_pos hbig, hneg]
    cases neg <;> simp
  intro hle
  simp only [if_neg (not_lt.2 hle)]
  by_cases htop : e + (m.log2 : Int) < -15
  · simp only [if_pos htop]
    exact d8Takes_low hm h neg (hb2.trans_le (two_zpow_le (by omega)))
  · have hlo : 2 ^ (-15 : Int) ≤ v := (two_zpow_le (not_lt.1 htop)).trans hb1
    obtain ⟨hp, hle', hlt, hexact⟩ := d8_cut hm h htail neg hlo hle
    simp only [if_neg htop]
    generalize roundAt .rtz neg 0 m e tail (e + m.log2 - d8Bits (e + m.log2)) = r at *
    by_cases hex : r.2 = true
    · have heq := hexact.1 hex
      have hself := hp.nearest_self
      simp only [if_pos hex]
      have := D8Nearest.takes_pair hv neg hp (by rw [heq] at hself ⊢; exact hself)
      rwa [if_pos heq] at this
    · have hne := mt hexact.2 hex
      have hT : e + (m.log2 : Int) ≤ 14 := by
        have h15 := hp.1.2
        by_contra hT
        have h15 : e + (m.log2 : Int) = 15 := by omega
        have := (d8PairValue_binade hp).1
        rw [h15] at this
        exact hne (le_antisymm hle' (hle.trans (h15 ▸ this)))
      simp only [if_neg hex]
      exact d8Takes_inexact hm h (fun ht => by have := htail ht; omega) hlo neg hp hT (lt_of_le_of_ne hle' hne) hlt

end

end Sys2Proof.Machine
end

section
/-! SUPPORT. Rounding into any format (R91, R94, R95, R97, R102 to R105): `roundTo` gives what the spec names for every number, and a value
that a format holds comes back unchanged. -/

namespace Sys2Proof.Machine

variable {F : FloatFmt} {mode : RM} {t : Nat} {n : Num} {x : Rat}

/-- A number with no tail, or with bits enough that every format sees the same. -/
def Num.Clear : Num → Prop
  | .fin _ m _ tail => tail = true → 104 ≤ m.log2
  | _ => True

theorem FloatFmt.Sized.sees (hF : F.Sized) {m : Nat} {e : Int} {tail : Bool} (h : tail = true → 104 ≤ m.log2) : F.Sees m e tail := by
  intro ht
  have h1 := hF.2.2
  have h2 := h ht
  exact .inl (by omega)

/-! ### Binary floating formats -/

theorem FloatFmt.sized_of_mem (h : F ∈ [ff64, ff32, ffBf16, ff16, ffE4m3, ffE5m2]) : F.Sized := by
  simp only [List.mem_cons, List.not_mem_nil, or_false] at h
  rcases h with rfl | rfl | rfl | rfl | rfl | rfl <;> decide

theorem FloatFmt.sized_of_floatOf {f : Fmt} (h : floatOf f = some F) : F.Sized := by
  refine FloatFmt.sized_of_mem ?_
  cases f <;> simp [floatOf] at h <;> simp [← h]

theorem FloatFmt.sized_float (f : FFmt) : (FFmt.float f).Sized := by cases f <;> decide

theorem FloatFmt.round_holds (hF : F.Sized) (h : n.Holds x) : FloatRounded F mode t x (F.round mode t n).1 (F.round mode t n).2 := by
  match n, h with
  | .fin neg m e tail, ⟨hm, htail, v, hw, hx⟩ =>
    subst hx
    exact FloatFmt.round_rounded hF hm hw (hF.sees htail) mode neg t

theorem FloatFmt.round_zero (neg : Bool) (e : Int) : F.round mode t (.fin neg 0 e false) = (F.signBit neg, 0) := by
  simp [FloatFmt.round]

theorem FloatFmt.round_special (F : FloatFmt) (mode : RM) (t : Nat) (n : Num) :
    FloatSpecial F n (F.round mode t n).1 (F.round mode t n).2 := by
  match n with
  | .nan s => exact ⟨rfl, rfl⟩
  | .inf neg =>
    simp only [FloatSpecial, FloatFmt.round]
    split <;> exact ⟨rfl, rfl⟩
  | .fin neg m e tail =>
    rintro rfl rfl
    rw [FloatFmt.round_zero]
    exact ⟨rfl, rfl⟩

/-- A number that comes with flags, delivered: the flags ORed with those of its rounding. -/
theorem FloatFmt.round_delivers (hF : F.Sized) (mode : RM) (t : Nat) (n : Num) (g : Flags) :
    Delivers F mode t n g (F.round mode t n).1 (g ||| (F.round mode t n).2) :=
  ⟨_, rfl, fun _ hr hx => FloatFmt.round_holds hF (Num.holds_of_rat hr hx), F.round_special mode t n⟩

/-! ### A held value comes back unchanged (R97) -/

/-- Above the largest finite magnitude a code reads as no value. -/
theorem FloatFmt.decode_above {b : Nat} (neg : Bool) (hb : b < 2 ^ (F.eb + F.mb)) (hmax : F.maxBits < b) :
    (F.decode (F.signBit neg + b)).rat = none := by
  obtain ⟨hs, he, hf, hm⟩ := FloatFmt.signBit_fields (F := F) neg hb
  unfold FloatFmt.decode
  simp only [hs, he, hf, hm]
  by_cases ht : F.ieeeTop = true
  · have htop : b / 2 ^ F.mb = 2 ^ F.eb - 1 := by
      rw [FloatFmt.maxBits, if_pos ht] at hmax
      refine le_antisymm (Nat.le_sub_one_of_lt (Nat.div_lt_of_lt_mul (by rwa [mul_comm, ← pow_add]))) ?_
      rw [Nat.le_div_iff_mul_le (by positivity)]
      omega
    rw [if_pos (by simp [ht, htop])]
    split <;> rfl
  · have hbody : b = 2 ^ (F.eb + F.mb) - 1 := by
      rw [FloatFmt.maxBits, if_neg ht] at hmax
      omega
    rw [if_neg (by simp [ht]), if_pos (by simp [ht, hbody])]
    rfl

/-- The bits of a format are a sign and a code. -/
theorem FloatFmt.exists_code {b : Nat} (hb : b < 2 ^ F.width) : ∃ neg c, c < 2 ^ (F.eb + F.mb) ∧ b = F.signBit neg + c := by
  have hw : 2 ^ F.width = 2 * 2 ^ (F.eb + F.mb) := by rw [FloatFmt.width, add_assoc, pow_add]; ring
  by_cases h : b < 2 ^ (F.eb + F.mb)
  · exact ⟨false, b, h, by simp [FloatFmt.signBit]⟩
  · exact ⟨true, b - 2 ^ (F.eb + F.mb), by omega, by simp only [FloatFmt.signBit, if_true]; omega⟩

/-- The unit of a code's last place is that of its magnitude. -/
theorem FloatFmt.unit_mant_le (b : Nat) : F.unit (F.mant b) (F.expo b) ≤ F.expo b := by
  have hlt : b % 2 ^ F.mb < 2 ^ F.mb := Nat.mod_lt b (by positivity)
  unfold FloatFmt.unit FloatFmt.mant FloatFmt.expo
  split
  case isTrue h =>
    have : (b % 2 ^ F.mb).log2 ≤ F.mb := by
      by_cases h0 : b % 2 ^ F.mb = 0
      · simp [h0]
      · exact ((Nat.log2_lt h0).2 hlt).le
    omega
  case isFalse h =>
    have : (2 ^ F.mb + b % 2 ^ F.mb).log2 ≤ F.mb :=
      Nat.lt_succ_iff.1 ((Nat.log2_lt (by have : 0 < 2 ^ F.mb := by positivity
                                          omega)).2 (by rw [pow_succ]; omega))
    have h1 : 1 ≤ b / 2 ^ F.mb := Nat.one_le_iff_ne_zero.2 h
    generalize b / 2 ^ F.mb = E at *
    unfold FloatFmt.emin
    omega

theorem FloatFmt.round_decode (hF : F.Sized) {b : Nat} (hb : b < 2 ^ F.width) (h : (F.decode b).rat.isSome = true) :
    F.round mode t (F.decode b) = (b, 0) := by
  obtain ⟨neg, c, hc, rfl⟩ := FloatFmt.exists_code hb
  by_cases hmax : F.maxBits < c
  · rw [FloatFmt.decode_above neg hc hmax] at h
    simp at h
  rw [FloatFmt.decode_signBit_add hF neg (not_lt.1 hmax)]
  by_cases hm : F.mant c = 0
  · have h0 : c = 0 := F.valueOf_strictMono.injective (by rw [F.valueOf_zero, FloatFmt.valueOf, hm, Nat.cast_zero, zero_mul])
    rw [hm, h0, FloatFmt.round_zero, add_zero]
  · have hw : Within (F.mant c) (F.expo c) false (F.valueOf c) := within_false.2 rfl
    obtain ⟨-, hfits⟩ := FloatFmt.round_cases hF hm hw (by simp [FloatFmt.Sees]) mode neg t
    have hy : (unitsSpec mode neg t (F.valueOf c / 2 ^ F.unit (F.mant c) (F.expo c)) : Rat) * 2 ^ F.unit (F.mant c) (F.expo c) = F.valueOf c := by
      have hval : F.valueOf c = ((F.mant c * 2 ^ (F.expo c - F.unit (F.mant c) (F.expo c)).toNat : Nat) : Rat)
          * 2 ^ F.unit (F.mant c) (F.expo c) := by
        rw [FloatFmt.valueOf, two_zpow_split (FloatFmt.unit_mant_le c)]
        push_cast
        ring
      rw [hval, mul_div_cancel_right₀ _ (two_zpow_pos _).ne', unitsSpec_whole]
      push_cast
      rfl
    rw [hy] at hfits
    obtain ⟨b, hb', hval, heq⟩ := hfits (F.valueOf_strictMono.monotone (not_lt.1 hmax))
    rw [heq, F.valueOf_strictMono.injective hval, if_pos rfl]

/-! ### The results fit the format -/

theorem FloatFmt.infBits_lt (F : FloatFmt) : F.infBits < 2 ^ (F.eb + F.mb) := by
  rw [FloatFmt.infBits, pow_add]
  exact Nat.mul_lt_mul_of_pos_right (Nat.sub_lt (by positivity) one_pos) (by positivity)

theorem FloatFmt.nanBits_lt (hF : F.Sized) : F.nanBits < 2 ^ (F.eb + F.mb) := by
  unfold FloatFmt.nanBits
  have hpos : 0 < 2 ^ (F.eb + F.mb) := by positivity
  split
  · have h1 : 2 ^ (F.mb - 1) < 2 ^ F.mb := Nat.pow_lt_pow_right (by norm_num) (by have := hF.1; omega)
    have h2 : 1 ≤ 2 ^ F.eb := Nat.one_le_two_pow
    rw [pow_add, Nat.sub_mul]
    have h3 : 2 ^ F.mb ≤ 2 ^ F.eb * 2 ^ F.mb := Nat.le_mul_of_pos_left _ (by positivity)
    omega
  · omega

theorem FloatFmt.signBit_add_lt {b : Nat} (neg : Bool) (hb : b < 2 ^ (F.eb + F.mb)) : F.signBit neg + b < 2 ^ F.width := by
  have hw : 2 ^ F.width = 2 * 2 ^ (F.eb + F.mb) := by rw [FloatFmt.width, add_assoc, pow_add]; ring
  unfold FloatFmt.signBit
  split <;> omega

/-- The bits of a rounded magnitude. -/
theorem FloatFmt.round_fin_lt (hF : F.Sized) {neg : Bool} {m : Nat} {e : Int} {tail : Bool} (hm : m ≠ 0) (hs : F.Sees m e tail) :
    (F.round mode t (.fin neg m e tail)).1 < 2 ^ F.width := by
  obtain ⟨v, hw⟩ : ∃ v, Within m e tail v := by
    cases tail
    · exact ⟨_, within_false.2 rfl⟩
    · exact ⟨(m + 1 / 2) * 2 ^ e, within_true.2 ⟨mul_lt_mul_of_pos_right (by linarith) (two_zpow_pos e),
        mul_lt_mul_of_pos_right (by linarith) (two_zpow_pos e)⟩⟩
  obtain ⟨hover, hfits⟩ := FloatFmt.round_cases hF hm hw hs mode neg t
  rcases lt_or_ge (F.valueOf F.maxBits) ((unitsSpec mode neg t (v / 2 ^ F.unit m e) : Rat) * 2 ^ F.unit m e) with h | h
  · rw [hover h, FloatFmt.overflowBits_eq]
    refine FloatFmt.signBit_add_lt neg ?_
    split
    · exact FloatFmt.maxBits_lt
    · exact F.infBits_lt
  · obtain ⟨b, hb, -, heq⟩ := hfits h
    rw [heq]
    exact FloatFmt.signBit_add_lt neg (hb.trans_lt FloatFmt.maxBits_lt)

theorem FloatFmt.round_lt (hF : F.Sized) (hn : n.Clear) : (F.round mode t n).1 < 2 ^ F.width := by
  have hpos : 0 < 2 ^ (F.eb + F.mb) := by positivity
  match n, hn with
  | .nan s, _ => simpa [FloatFmt.round, FloatFmt.signBit] using FloatFmt.signBit_add_lt false (FloatFmt.nanBits_lt hF)
  | .inf neg, _ =>
    unfold FloatFmt.round
    dsimp only
    split
    · exact FloatFmt.signBit_add_lt neg F.infBits_lt
    · simpa [FloatFmt.signBit] using FloatFmt.signBit_add_lt false (FloatFmt.nanBits_lt hF)
  | .fin neg m e tail, hn =>
    by_cases hm : m = 0
    · subst hm
      obtain rfl : tail = false := by
        cases tail
        · rfl
        · exact absurd (hn rfl) (by simp)
      rw [FloatFmt.round_zero]
      simpa using FloatFmt.signBit_add_lt neg hpos
    · exact FloatFmt.round_fin_lt hF hm (hF.sees hn)

end Sys2Proof.Machine
end

section
/-! SUPPORT. Rounding into any format, integers and D8 among them (R91, R94, R95, R97, R104, R105). -/

namespace Sys2Proof.Machine

variable {F : FloatFmt} {f : Fmt} {mode : RM} {t : Nat} {n : Num} {x : Rat}

/-! ### The three kinds of formats -/

theorem Fmt.kind (f : Fmt) : (∃ F, floatOf f = some F ∧ f.isInt = false ∧ f ≠ .d8 ∧ F.width = f.width)
    ∨ f = .d8 ∨ (floatOf f = none ∧ f.isInt = true ∧ f ≠ .d8) := by
  cases f <;> simp [floatOf, Fmt.isInt, Fmt.width, FloatFmt.width, ff32, ffBf16, ff16, ffE4m3, ffE5m2]

theorem Fmt.width_le (f : Fmt) : f.width ≤ 32 := by cases f <;> decide

theorem intMin_nonpos (f : Fmt) : intMin f ≤ 0 := by
  unfold intMin
  split
  · exact Int.neg_nonpos_of_nonneg (Int.natCast_nonneg _)
  · exact le_rfl

theorem intMax_nonneg (f : Fmt) : 0 ≤ intMax f := by
  unfold intMax
  have : 1 ≤ 2 ^ (f.width - 1) := Nat.one_le_two_pow
  have : 1 ≤ 2 ^ f.width := Nat.one_le_two_pow
  split <;> omega

theorem intMin_gt (f : Fmt) : -(2 ^ 80) < intMin f := by cases f <;> decide

theorem intMax_lt (f : Fmt) : intMax f < 2 ^ 80 := by cases f <;> decide

theorem roundTo_float (h : floatOf f = some F) : roundTo f mode t n = F.round mode t n := by
  rw [roundTo, h]

theorem roundTo_d8 : roundTo .d8 mode t n = d8Round n := rfl

theorem roundTo_int (h : floatOf f = none) (h8 : f ≠ .d8) : roundTo f mode t n =
    (wrapN f.width (roundInt mode t (intMin f) (intMax f) n).1, (roundInt mode t (intMin f) (intMax f) n).2) := by
  rw [roundTo, h]
  simp [h8]

/-! ### Rounded values and special values -/

theorem d8Round_holds (h : n.Holds x) : D8Rounded x (d8Round n).1 (d8Round n).2 := by
  match n, h with
  | .fin neg m e tail, ⟨hm, htail, v, hw, hx⟩ =>
    subst hx
    exact d8Round_magnitude hm hw htail neg

theorem roundTo_holds (f : Fmt) (mode : RM) (t : Nat) (h : n.Holds x) : RoundedTo f mode t x (roundTo f mode t n).1 (roundTo f mode t n).2 := by
  rcases Fmt.kind f with ⟨F, hF, -, -, -⟩ | rfl | ⟨hF, -, h8⟩
  · rw [RoundedTo, hF, roundTo_float hF]
    exact FloatFmt.round_holds (FloatFmt.sized_of_floatOf hF) h
  · exact d8Round_holds h
  · rw [RoundedTo, hF, roundTo_int hF h8]
    simp only [h8, if_false]
    exact ⟨_, roundInt_rounded (intMin_nonpos f) (intMax_nonneg f) (intMin_gt f) (intMax_lt f) h, rfl⟩

theorem roundTo_special (f : Fmt) (mode : RM) (t : Nat) (n : Num) : SpecialTo f n (roundTo f mode t n).1 (roundTo f mode t n).2 := by
  rcases Fmt.kind f with ⟨F, hF, hint, h8, -⟩ | rfl | ⟨hF, hint, h8⟩
  · have hs := F.round_special mode t n
    rw [roundTo_float hF]
    cases n <;> simp only [SpecialTo, FloatSpecial, hF, hint] at hs ⊢
    case nan => simpa using hs
    case inf neg =>
      by_cases ht : F.ieeeTop = true
      · simpa [ht] using hs
      · simpa [ht] using hs
    case fin => exact fun h0 h1 => (hs h0 h1).symm
  · rw [roundTo_d8]
    cases n
    case nan => simp [SpecialTo, d8Round, floatOf, Fmt.isInt]
    case inf => simp [SpecialTo, d8Round, floatOf, Fmt.isInt]
    case fin =>
      rintro rfl rfl
      simp [d8Round, floatOf]
  · rw [roundTo_int hF h8]
    cases n <;> simp only [SpecialTo, hF, hint, h8]
    case nan => simp [roundInt, wrapN]
    case inf neg => simp [roundInt, wrapN]
    case fin neg m e tail =>
      rintro rfl rfl
      simp [roundInt_zero (intMin_nonpos f) (intMax_nonneg f), wrapN]

/-- A number that comes with flags, rounded: the flags ORed with those of its rounding. -/
theorem roundTo_rounds (f : Fmt) (mode : RM) (t : Nat) (n : Num) (g : Flags) :
    Rounds f mode t n g (roundTo f mode t n).1 (g ||| (roundTo f mode t n).2) :=
  ⟨_, rfl, fun _ hr hx => roundTo_holds f mode t (Num.holds_of_rat hr hx), roundTo_special f mode t n⟩

/-! ### The results fit the format -/

theorem wrapN_lt (w : Nat) (v : Int) : wrapN w v < 2 ^ w := by
  have hpos : (0 : Int) < ((2 ^ w : Nat) : Int) := by positivity
  have h := Int.emod_lt_of_pos v hpos
  have h0 := Int.emod_nonneg v hpos.ne'
  unfold wrapN
  omega

/-- A number with bits enough is exact, or some value ≠ 0 is held by it. -/
theorem Num.Clear.exists_holds {neg : Bool} {m : Nat} {e : Int} {tail : Bool} (hn : (Num.fin neg m e tail).Clear) :
    (m = 0 ∧ tail = false) ∨ ∃ x, (Num.fin neg m e tail).Holds x := by
  by_cases hm : m = 0
  · subst hm
    refine .inl ⟨rfl, ?_⟩
    cases tail
    · rfl
    · exact absurd (hn rfl) (by simp)
  · refine .inr ?_
    cases tail
    · exact ⟨_, hm, hn, _, within_false.2 rfl, rfl⟩
    · have hp := two_zpow_pos e
      exact ⟨_, hm, hn, (m + 1 / 2) * 2 ^ e, within_true.2 ⟨mul_lt_mul_of_pos_right (by linarith) hp,
        mul_lt_mul_of_pos_right (by linarith) hp⟩, rfl⟩

theorem d8Round_lt (hn : n.Clear) : (d8Round n).1 < 256 := by
  match n, hn with
  | .nan s, _ | .inf s, _ => exact (by decide : 0x80 < 256)
  | .fin neg m e tail, hn =>
    rcases hn.exists_holds with ⟨rfl, rfl⟩ | ⟨x, hx⟩
    · simp [d8Round]
    · obtain ⟨hbig, hsmall⟩ := d8Rounded_iff.1 (d8Round_holds hx)
      rcases lt_or_ge (2 ^ (15 : Int)) (ratMag x) with h | h
      · rw [(hbig h).1]
        split <;> decide
      · exact (hsmall h).1

theorem roundTo_lt_width (f : Fmt) (mode : RM) (t : Nat) (hn : n.Clear) : (roundTo f mode t n).1 < 2 ^ f.width := by
  rcases Fmt.kind f with ⟨F, hF, -, -, hw⟩ | rfl | ⟨hF, -, h8⟩
  · rw [roundTo_float hF, ← hw]
    exact FloatFmt.round_lt (FloatFmt.sized_of_floatOf hF) hn
  · exact d8Round_lt hn
  · rw [roundTo_int hF h8]
    exact wrapN_lt _ _

theorem Fmt.lt_of_lt_width {b : Nat} (h : b < 2 ^ f.width) : b < 2 ^ 32 := h.trans_le (Nat.pow_le_pow_right (by norm_num) (Fmt.width_le f))

theorem roundTo_lt (f : Fmt) (mode : RM) (t : Nat) (hn : n.Clear) : (roundTo f mode t n).1 < 2 ^ 32 :=
  Fmt.lt_of_lt_width (roundTo_lt_width f mode t hn)

end Sys2Proof.Machine
end

section
/-! SUPPORT. Exact sums and products (R91, R92, R107, R108). -/

namespace Sys2Proof.Machine

variable {a b n : Num} {x y : Rat}

/-! ### Numbers without a tail -/

/-- A number that carries no tail, as every number read from a format. -/
def Num.Exact : Num → Prop
  | .fin _ _ _ tail => tail = false
  | _ => True

theorem Num.Exact.clear (h : n.Exact) : n.Clear := by
  match n, h with
  | .nan _, _ | .inf _, _ => trivial
  | .fin _ _ _ _, h => exact fun ht => absurd (h.symm.trans ht) (by simp)

theorem Num.exact_negate : n.negate.Exact ↔ n.Exact := by cases n <;> rfl

/-- What a number without a tail is: a NaN, an infinity, or a value. -/
theorem Num.Exact.cases (h : n.Exact) : (∃ s, n = .nan s) ∨ (∃ neg, n = .inf neg) ∨ ∃ neg m e, n = .fin neg m e false := by
  match n, h with
  | .nan s, _ => exact .inl ⟨s, rfl⟩
  | .inf s, _ => exact .inr (.inl ⟨s, rfl⟩)
  | .fin neg m e tail, h => exact .inr (.inr ⟨neg, m, e, by rw [show tail = false from h]⟩)

theorem FloatFmt.decode_exact (F : FloatFmt) (b : Nat) : (F.decode b).Exact := by
  unfold FloatFmt.decode
  dsimp only
  split
  · split <;> trivial
  split
  · trivial
  split <;> rfl

theorem d8Decode_exact (b : Nat) : (d8Decode b).Exact := by
  unfold d8Decode
  dsimp only
  split
  · split <;> trivial
  split <;> rfl

theorem readNum_exact (f : Fmt) (b : Nat) : (readNum f b).Exact := by
  unfold readNum
  split
  · exact FloatFmt.decode_exact ..
  split
  · exact d8Decode_exact _
  · rfl

theorem Num.exact_scale {k : Int} (h : n.Exact) : (n.scale k).Exact := by
  match n, h with
  | .nan _, _ | .inf _, _ => trivial
  | .fin _ _ _ _, h => exact h

/-! ### The value of a number -/

/-- The value of a number, 0 where it has none. -/
def Num.value (n : Num) : Rat := n.rat.getD 0

theorem Num.value_fin (neg : Bool) (m : Nat) (e : Int) :
    (Num.fin neg m e false).value = ((if neg then -1 else 1 : Int) * (m : Int) : Int) * 2 ^ e := by
  rw [Num.value, Num.rat_fin]
  cases neg <;> simp

/-- The least exponent of the terms other than zeros. -/
def sumExp (ts : List Num) : Int :=
  ts.foldl (fun acc t => match t with
    | .fin _ m e _ => if m != 0 && e < acc then e else acc
    | _ => acc) (ts.foldl (fun acc t => match t with
      | .fin _ m e _ => if m != 0 then e else acc
      | _ => acc) 0)

/-- The sum of the terms in units of 2^E. -/
def sumUnits (E : Int) (ts : List Num) : Int :=
  ts.foldl (fun acc t => match t with
    | .fin n m e _ => if m = 0 then acc else acc + (if n then -1 else 1) * ((m * 2 ^ (e - E).toNat : Nat) : Int)
    | _ => acc) 0

/-- Every term has a value, in units of 2^E. -/
def AllAbove (E : Int) (ts : List Num) : Prop := ∀ t ∈ ts, ∃ neg m e, t = .fin neg m e false ∧ (m ≠ 0 → E ≤ e)

theorem sumUnits_value {E : Int} {ts : List Num} (h : AllAbove E ts) : (sumUnits E ts : Rat) * 2 ^ E = (ts.map Num.value).sum := by
  have hgen : ∀ acc : Int, ((ts.foldl (fun acc t => match t with
      | .fin n m e _ => if m = 0 then acc else acc + (if n then -1 else 1) * ((m * 2 ^ (e - E).toNat : Nat) : Int)
      | _ => acc) acc : Int) : Rat) * 2 ^ E = acc * 2 ^ E + (ts.map Num.value).sum := by
    induction ts with
    | nil => simp
    | cons t ts ih =>
      intro acc
      obtain ⟨neg, m, e, rfl, he⟩ := h t (by simp)
      rw [List.foldl_cons, ih (fun u hu => h u (by simp [hu])), List.map_cons, List.sum_cons, Num.value_fin, ← add_assoc]
      congr 1
      by_cases hm : m = 0
      · simp [hm]
      · rw [two_zpow_split (he hm)]
        simp only [hm, if_false]
        push_cast
        ring
  have := hgen 0
  rwa [Int.cast_zero, zero_mul, zero_add] at this

theorem sumExp_le {ts : List Num} (h : ∀ t ∈ ts, ∃ neg m e, t = .fin neg m e false) : AllAbove (sumExp ts) ts := by
  have hgen : ∀ (l : List Num) (acc : Int), l.foldl (fun acc t => match t with
        | .fin _ m e _ => if m != 0 && e < acc then e else acc
        | _ => acc) acc ≤ acc
      ∧ ∀ neg m e tail, Num.fin neg m e tail ∈ l → m ≠ 0 → l.foldl (fun acc t => match t with
        | .fin _ m e _ => if m != 0 && e < acc then e else acc
        | _ => acc) acc ≤ e := by
    intro l
    induction l with
    | nil => simp
    | cons t l ih =>
      intro acc
      rw [List.foldl_cons]
      obtain ⟨h1, h2⟩ := ih (match t with
        | .fin _ m e _ => if m != 0 && e < acc then e else acc
        | _ => acc)
      refine ⟨h1.trans ?_, fun neg m e tail hmem hm => ?_⟩
      · split
        · split
          · rename_i hc
            simp only [Bool.and_eq_true, decide_eq_true_eq] at hc
            exact hc.2.le
          · exact le_rfl
        · exact le_rfl
      · rcases List.mem_cons.1 hmem with rfl | hmem
        · refine h1.trans ?_
          dsimp only
          split
          · exact le_rfl
          · rename_i hc
            simpa [hm] using hc
        · exact h2 neg m e tail hmem hm
  intro t ht
  obtain ⟨neg, m, e, rfl⟩ := h t ht
  exact ⟨neg, m, e, rfl, (hgen ts _).2 neg m e false ht⟩

/-- Whether a number is the infinity of a sign. -/
def Num.isInf (neg : Bool) : Num → Bool
  | .inf k => k == neg
  | _ => false

/-- The sum of values: exact, in units of the least exponent; the sign of a zero is that of R108. -/
def valueSum (mode : RM) (ts : List Num) : Num :=
  if sumUnits (sumExp ts) ts = 0 then .exact (!ts.isEmpty && ((ts.all fun t => t.isZero && t.neg?) || mode == .rdn)) 0 0
  else .exact (sumUnits (sumExp ts) ts < 0) (sumUnits (sumExp ts) ts).natAbs (sumExp ts)

/-- The branches of `sumNum`: a NaN, both infinities, one, or values alone. -/
theorem sumNum_eq (mode : RM) (ts : List Num) : sumNum mode ts =
    if ts.any Num.isNaN then (.nan false, if ts.any Num.isSignalling then fNV else 0)
    else if ts.any (Num.isInf false) && ts.any (Num.isInf true) then (.nan false, fNV)
    else if ts.any (Num.isInf false) then (.inf false, 0)
    else if ts.any (Num.isInf true) then (.inf true, 0)
    else (valueSum mode ts, 0) := by
  unfold valueSum
  rw [apply_ite (fun n => (n, (0 : Flags)))]
  rfl

theorem any_isNaN_iff {ts : List Num} : ts.any Num.isNaN = true ↔ .nan false ∈ ts ∨ .nan true ∈ ts := by
  rw [List.any_eq_true]
  constructor
  · rintro ⟨t, ht, hn⟩
    cases t with
    | nan s => cases s <;> simp [ht]
    | inf => cases hn
    | fin => cases hn
  · rintro (h | h) <;> exact ⟨_, h, rfl⟩

theorem any_isSignalling_iff {ts : List Num} : ts.any Num.isSignalling = true ↔ .nan true ∈ ts := by
  rw [List.any_eq_true]
  constructor
  · rintro ⟨t, ht, hn⟩
    cases t with
    | nan s => exact (show s = true from hn) ▸ ht
    | inf => cases hn
    | fin => cases hn
  · exact fun h => ⟨_, h, rfl⟩

theorem any_isInf_iff {ts : List Num} {neg : Bool} : ts.any (Num.isInf neg) = true ↔ .inf neg ∈ ts := by
  rw [List.any_eq_true]
  constructor
  · rintro ⟨t, ht, hn⟩
    cases t with
    | nan => cases hn
    | inf k => exact (show k = neg by simpa [Num.isInf] using hn) ▸ ht
    | fin => cases hn
  · exact fun h => ⟨_, h, by simp [Num.isInf]⟩

theorem Num.rat_exact_units (neg : Bool) (z : Int) (e : Int) (h : neg = decide (z < 0)) : (Num.exact neg z.natAbs e).rat = some ((z : Rat) * 2 ^ e) := by
  rw [Num.exact, Num.rat_fin, h]
  by_cases hz : z < 0
  · have : ((z.natAbs : Nat) : Rat) = -(z : Rat) := by
      rw [← Int.cast_natCast, Int.ofNat_natAbs_of_nonpos hz.le, Int.cast_neg]
    simp [hz, this]
  · have : ((z.natAbs : Nat) : Rat) = (z : Rat) := by
      rw [← Int.cast_natCast, Int.natAbs_of_nonneg (not_lt.1 hz)]
    simp [hz, this]

/-- The sum of values has the value of the exact sum; a zero is negative when rounding down or when every term is −0. -/
theorem valueSum_spec (mode : RM) {ts : List Num} (hne : ts ≠ []) (h : ∀ t ∈ ts, ∃ neg m e, t = .fin neg m e false) :
    (valueSum mode ts).rat = some (ts.map Num.value).sum
      ∧ ((ts.map Num.value).sum = 0 → (valueSum mode ts).neg? = decide (mode = .rdn ∨ ∀ t ∈ ts, t.isZero = true ∧ t.neg? = true)) := by
  have hsum := sumUnits_value (sumExp_le h)
  unfold valueSum
  by_cases h0 : sumUnits (sumExp ts) ts = 0
  · rw [if_pos h0, ← hsum, h0]
    refine ⟨by simp [Num.exact, Num.rat_fin], fun _ => ?_⟩
    have he : ts.isEmpty = false := by simpa using hne
    have hall : (ts.all fun t => t.isZero && t.neg?) = decide (∀ t ∈ ts, t.isZero = true ∧ t.neg? = true) := by
      rw [Bool.eq_iff_iff, List.all_eq_true, decide_eq_true_eq]
      simp
    have hr : (mode == RM.rdn) = decide (mode = .rdn) := by cases mode <;> rfl
    rw [he, hall, hr, Num.exact, Num.neg?, Bool.decide_or, Bool.or_comm]
    rfl
  · rw [if_neg h0, ← hsum]
    refine ⟨Num.rat_exact_units _ _ _ rfl, fun hz => absurd hz ?_⟩
    exact mul_ne_zero (by exact_mod_cast h0) (two_zpow_pos _).ne'

/-- What `sumNum` answers is the exact sum of the spec with its special values. -/
theorem sumNum_spec (mode : RM) {ts : List Num} (hne : ts ≠ []) (h : ∀ t ∈ ts, t.Exact) :
    SumSpec mode ts (sumNum mode ts).1 (sumNum mode ts).2 := by
  rw [sumNum_eq, SumSpec]
  simp only [any_isNaN_iff, any_isSignalling_iff, any_isInf_iff, Bool.and_eq_true]
  by_cases h1 : Num.nan false ∈ ts ∨ Num.nan true ∈ ts
  · simp only [if_pos h1]
    exact ⟨trivial, trivial⟩
  by_cases h2 : Num.inf false ∈ ts ∧ Num.inf true ∈ ts
  · simp only [if_neg h1, if_pos h2]
    exact ⟨trivial, trivial⟩
  by_cases h3 : Num.inf false ∈ ts
  · simp only [if_neg h1, if_neg h2, if_pos h3]
    exact ⟨trivial, trivial⟩
  by_cases h4 : Num.inf true ∈ ts
  · simp only [if_neg h1, if_neg h2, if_neg h3, if_pos h4]
    exact ⟨trivial, trivial⟩
  simp only [if_neg h1, if_neg h2, if_neg h3, if_neg h4]
  have hval : ∀ t ∈ ts, ∃ neg m e, t = .fin neg m e false := by
    intro t ht
    rcases (h t ht).cases with ⟨s, rfl⟩ | ⟨s, rfl⟩ | hf
    · cases s
      · exact absurd (.inl ht) h1
      · exact absurd (.inr ht) h1
    · cases s
      · exact absurd ht h3
      · exact absurd ht h4
    · exact hf
  refine ⟨trivial, ts.map Num.value, ?_, valueSum_spec mode hne hval⟩
  rw [List.map_map]
  refine List.map_congr_left fun t ht => ?_
  obtain ⟨neg, m, e, rfl⟩ := hval t ht
  rw [Function.comp_apply, Num.value, Num.rat_fin]
  rfl

theorem sumNum_exact (mode : RM) (ts : List Num) : (sumNum mode ts).1.Exact := by
  rw [sumNum_eq]
  split
  · trivial
  split
  · trivial
  split
  · trivial
  split
  · trivial
  · unfold valueSum
    split <;> rfl

/-! ### Products -/

theorem Num.rat_mul {neg neg' : Bool} {m m' : Nat} {e e' : Int} (hx : (Num.fin neg m e false).rat = some x)
    (hy : (Num.fin neg' m' e' false).rat = some y) : (Num.exact (neg != neg') (m * m') (e + e')).rat = some (x * y) := by
  rw [Num.rat_fin, Option.some_inj] at hx hy
  rw [Num.exact, Num.rat_fin, ← hx, ← hy, two_zpow_add]
  cases neg <;> cases neg' <;> simp <;> ring

theorem Num.rat_eq_zero_iff {neg : Bool} {m : Nat} {e : Int} (hx : (Num.fin neg m e false).rat = some x) : x = 0 ↔ m = 0 := by
  rw [Num.rat_fin, Option.some_inj] at hx
  rw [← hx]
  cases neg <;> simp [(two_zpow_pos e).ne']

theorem Num.isZero_iff {neg : Bool} {m : Nat} {e : Int} : (Num.fin neg m e false).isZero = true ↔ m = 0 := by
  cases m <;> simp [Num.isZero]

/-- What `mulNum` answers is the exact product of the spec with its special values. -/
theorem mulNum_spec (ha : a.Exact) (hb : b.Exact) : ProdSpec a b (mulNum a b).1 (mulNum a b).2 := by
  unfold ProdSpec
  rcases ha.cases with ⟨s, rfl⟩ | ⟨k, rfl⟩ | ⟨k, m, e, rfl⟩
  · exact ⟨rfl, rfl⟩
  · rcases hb.cases with ⟨s, rfl⟩ | ⟨k', rfl⟩ | ⟨k', m', e', rfl⟩
    · exact ⟨rfl, rfl⟩
    · exact ⟨rfl, rfl⟩
    · obtain ⟨y, hy⟩ : ∃ y, (Num.fin k' m' e' false).rat = some y := ⟨_, Num.rat_fin k' m' e'⟩
      have hy0 := Num.rat_eq_zero_iff hy
      simp only [hy, mulNum, Num.isZero_iff]
      by_cases h0 : m' = 0
      · simp [hy0.2 h0, h0, Num.isNaN, Num.rat]
      · simp [mt hy0.1 h0, h0, Num.isNaN, Num.rat, Num.neg?]
  · rcases hb.cases with ⟨s, rfl⟩ | ⟨k', rfl⟩ | ⟨k', m', e', rfl⟩
    · exact ⟨rfl, rfl⟩
    · obtain ⟨x, hx⟩ : ∃ x, (Num.fin k m e false).rat = some x := ⟨_, Num.rat_fin k m e⟩
      have hx0 := Num.rat_eq_zero_iff hx
      simp only [hx, mulNum, Num.isZero_iff]
      by_cases h0 : m = 0
      · simp [hx0.2 h0, h0, Num.isNaN, Num.rat]
      · simp [mt hx0.1 h0, h0, Num.isNaN, Num.rat, Num.neg?]
    · obtain ⟨x, hx⟩ : ∃ x, (Num.fin k m e false).rat = some x := ⟨_, Num.rat_fin k m e⟩
      obtain ⟨y, hy⟩ : ∃ y, (Num.fin k' m' e' false).rat = some y := ⟨_, Num.rat_fin k' m' e'⟩
      simp only [hx, hy, mulNum, Num.rat_mul hx hy]
      simp [Num.isNaN, Num.exact, Num.neg?]

theorem mulNum_exact (a b : Num) : (mulNum a b).1.Exact := by
  unfold mulNum
  dsimp only
  split
  case h_4 | h_5 => split <;> trivial
  all_goals trivial

end Sys2Proof.Machine
end

section
/-! SUPPORT. Quotients and square roots (R91, R92): the integer part with its tail holds the exact value. -/

namespace Sys2Proof.Machine

variable {a b n : Num} {x y : Rat} {F : FloatFmt} {f : Fmt} {mode : RM} {t : Nat}

theorem Num.Holds.clear (h : n.Holds x) : n.Clear := by
  match n, h with
  | .fin _ _ _ _, ⟨_, htail, _⟩ => exact htail

/-! ### Special results with their flags -/

theorem flags_zero_or (g : Flags) : 0 ||| g = g := BitVec.zero_or

theorem flags_or_zero (g : Flags) : g ||| 0 = g := BitVec.or_zero

/-- A special result as the arithmetic answers it: a NaN is quiet, and a signalling one sets NV (R91). -/
def specialNum : Num → Num × Flags
  | .nan s => (.nan false, if s then fNV else 0)
  | n => (n, 0)

theorem specialNum_of_not_nan (h : n.isNaN = false) : specialNum n = (n, 0) := by
  cases n with
  | nan => cases h
  | inf => rfl
  | fin => rfl

theorem specialNum_clear (h : n.Exact) : (specialNum n).1.Clear := by
  cases n with
  | nan => trivial
  | inf => trivial
  | fin => exact h.clear

theorem FloatFmt.round_specialNum (F : FloatFmt) (mode : RM) (t : Nat) (n : Num) :
    FloatSpecial F n (F.round mode t (specialNum n).1).1 ((specialNum n).2 ||| (F.round mode t (specialNum n).1).2) := by
  match n with
  | .nan s =>
    exact ⟨rfl, flags_or_zero _⟩
  | .inf _ | .fin _ _ _ _ =>
    rw [specialNum_of_not_nan rfl, flags_zero_or]
    exact F.round_special mode t _

theorem roundTo_specialNum (hf : f.isInt = false) (mode : RM) (t : Nat) (n : Num) :
    SpecialTo f n (roundTo f mode t (specialNum n).1).1 ((specialNum n).2 ||| (roundTo f mode t (specialNum n).1).2) := by
  match n with
  | .nan s =>
    obtain ⟨h1, h2⟩ := roundTo_special f mode t (.nan false)
    refine ⟨h1, ?_⟩
    rw [specialNum, h2, hf]
    cases s <;> rfl
  | .inf _ | .fin _ _ _ _ =>
    rw [specialNum_of_not_nan rfl, flags_zero_or]
    exact roundTo_special f mode t _

/-! ### Quotients -/

/-- The cases of a quotient (R91, R92): a special result, the exact quotient, or the pole. -/
def QuotientShape (special : Num → Prop) (value : Rat → Prop) (pole : Bool → Prop) (a b : Num) : Prop :=
  let neg := a.neg? != b.neg?
  if a.isNaN = true ∨ b.isNaN = true then special (.nan (a.isSignalling || b.isSignalling))
  else match a.rat, b.rat with
    | some x, some y =>
      if y ≠ 0 then if x = 0 then special (.exact neg 0 0) else value (x / y)
      else if x = 0 then special (.nan true) else pole neg
    | some _, none => special (.exact neg 0 0)
    | none, some _ => special (.inf neg)
    | none, none => special (.nan true)

theorem QuotientShape.imp {S S' : Num → Prop} {V V' : Rat → Prop} {P P' : Bool → Prop} (h : QuotientShape S V P a b)
    (hS : ∀ n, n.Exact → S n → S' n) (hV : ∀ q, V q → V' q) (hP : ∀ neg, P neg → P' neg) : QuotientShape S' V' P' a b := by
  unfold QuotientShape at h ⊢
  dsimp only at h ⊢
  by_cases hn : a.isNaN = true ∨ b.isNaN = true
  · rw [if_pos hn] at h ⊢
    exact hS _ trivial h
  rw [if_neg hn] at h ⊢
  generalize a.rat = ra at h ⊢
  generalize b.rat = rb at h ⊢
  rcases ra with _ | x <;> rcases rb with _ | y <;> dsimp only at h ⊢
  · exact hS _ trivial h
  · exact hS _ trivial h
  · exact hS _ rfl h
  by_cases hy : y ≠ 0
  · rw [if_pos hy] at h ⊢
    by_cases hx : x = 0
    · rw [if_pos hx] at h ⊢
      exact hS _ rfl h
    · rw [if_neg hx] at h ⊢
      exact hV _ h
  · rw [if_neg hy] at h ⊢
    by_cases hx : x = 0
    · rw [if_pos hx] at h ⊢
      exact hS _ trivial h
    · rw [if_neg hx] at h ⊢
      exact hP _ h

theorem QuotientShape.const {C : Prop} (h : QuotientShape (fun _ => C) (fun _ => C) (fun _ => C) a b) : C := by
  unfold QuotientShape at h
  dsimp only at h
  split at h
  · exact h
  split at h
  · split at h <;> split at h <;> exact h
  all_goals exact h

theorem divSpec_iff {v : Nat} {fl : Flags} : DivSpec f mode t a b v fl ↔
    QuotientShape (fun n => SpecialTo f n v fl) (fun q => RoundedTo f mode t q v fl) (fun neg => v = endBits f neg ∧ fl = fDZ) a b := Iff.rfl

theorem quotientSpec_iff {v : Nat} {fl : Flags} : QuotientSpec F mode t a b v fl ↔
    QuotientShape (fun n => FloatSpecial F n v fl) (fun q => FloatRounded F mode t q v fl)
      (fun neg => v = F.signBit neg + F.infBits ∧ fl = fDZ) a b := Iff.rfl

/-- A whole quotient with a tail where it does not end holds the exact quotient. -/
theorem within_div (m : Nat) {m' : Nat} (h0 : m' ≠ 0) (e : Int) : Within (m / m') e (m % m' != 0) ((m : Rat) / m' * 2 ^ e) := by
  have hp := two_zpow_pos e
  have hm' : (0 : Rat) < m' := by exact_mod_cast Nat.pos_of_ne_zero h0
  have hdiv : (m : Rat) = (m / m' : Nat) * m' + (m % m' : Nat) := by exact_mod_cast (Nat.div_add_mod' m m').symm
  by_cases hr : m % m' = 0
  · rw [hr, bne_self_eq_false, within_false, hdiv, hr, Nat.cast_zero, add_zero, mul_div_cancel_right₀ _ hm'.ne']
  · have hb : (m % m' != 0) = true := by simpa using hr
    have hlt : ((m % m' : Nat) : Rat) < m' := by exact_mod_cast Nat.mod_lt m (Nat.pos_of_ne_zero h0)
    have hpos : (0 : Rat) < (m % m' : Nat) := by exact_mod_cast Nat.pos_of_ne_zero hr
    rw [hb, within_true]
    exact ⟨mul_lt_mul_of_pos_right ((lt_div_iff₀ hm').2 (by linarith)) hp,
      mul_lt_mul_of_pos_right ((div_lt_iff₀ hm').2 (by linarith)) hp⟩

/-- The shift of `divNum` gives the quotient 191 bits or more. -/
theorem log2_quotient {m m' : Nat} (hm : m ≠ 0) (hm' : m' ≠ 0) : 191 ≤ (m * 2 ^ (192 + m'.log2 - m.log2) / m').log2 := by
  have h1 : 2 ^ m.log2 ≤ m := Nat.log2_self_le hm
  have h2 : m' < 2 ^ (m'.log2 + 1) := Nat.lt_log2_self
  have h3 : 2 ^ (192 + m'.log2) ≤ m * 2 ^ (192 + m'.log2 - m.log2) :=
    calc 2 ^ (192 + m'.log2) ≤ 2 ^ (m.log2 + (192 + m'.log2 - m.log2)) := Nat.pow_le_pow_right (by norm_num) (by omega)
      _ = 2 ^ m.log2 * 2 ^ (192 + m'.log2 - m.log2) := pow_add ..
      _ ≤ _ := Nat.mul_le_mul_right _ h1
  have h4 : 2 ^ 191 ≤ m * 2 ^ (192 + m'.log2 - m.log2) / m' := by
    rw [Nat.le_div_iff_mul_le (Nat.pos_of_ne_zero hm')]
    calc 2 ^ 191 * m' ≤ 2 ^ 191 * 2 ^ (m'.log2 + 1) := Nat.mul_le_mul_left _ h2.le
      _ = 2 ^ (192 + m'.log2) := by rw [← pow_add]; congr 1; omega
      _ ≤ _ := h3
  exact (Nat.le_log2 (by have : 0 < 2 ^ 191 := by positivity
                         omega)).2 h4

theorem divNum_values {neg neg' : Bool} {m m' : Nat} {e e' : Int} (hm : m ≠ 0) (hm' : m' ≠ 0)
    (hx : (Num.fin neg m e false).rat = some x) (hy : (Num.fin neg' m' e' false).rat = some y) :
    (divNum (.fin neg m e false) (.fin neg' m' e' false)).2 = 0
      ∧ (divNum (.fin neg m e false) (.fin neg' m' e' false)).1.Holds (x / y) := by
  rw [Num.rat_fin, Option.some_inj] at hx hy
  have hq := log2_quotient hm hm'
  set sh := 192 + m'.log2 - m.log2 with hsh
  have hdiv : divNum (.fin neg m e false) (.fin neg' m' e' false)
      = (.fin (neg != neg') (m * 2 ^ sh / m') (e - e' - sh) (m * 2 ^ sh % m' != 0), 0) := by
    simp [divNum, hm, hm', hsh]
  have hw := within_div (m * 2 ^ sh) hm' (e - e' - sh)
  have hval : ((m * 2 ^ sh : Nat) : Rat) / m' * 2 ^ (e - e' - sh) = (m * 2 ^ e) / (m' * 2 ^ e') := by
    have h1 : (2 : Rat) ^ e = 2 ^ (e - e' - sh) * 2 ^ (sh : Int) * 2 ^ e' := by
      rw [← two_zpow_add, ← two_zpow_add]
      congr 1
      omega
    have hm'' : (m' : Rat) ≠ 0 := by exact_mod_cast hm'
    have he' := (two_zpow_pos e').ne'
    rw [h1, zpow_natCast]
    push_cast
    field_simp
  rw [hdiv]
  refine ⟨rfl, ?_, fun _ => by omega, _, hw, ?_⟩
  · intro h0
    rw [h0] at hq
    simp at hq
  · rw [hval, ← hx, ← hy]
    cases neg <;> cases neg' <;> simp [neg_div, div_neg]

/-- What `divNum` answers in each case of a quotient. -/
theorem divNum_shape (ha : a.Exact) (hb : b.Exact) : QuotientShape (fun n => divNum a b = specialNum n)
    (fun q => (divNum a b).2 = 0 ∧ (divNum a b).1.Holds q) (fun neg => divNum a b = (.inf neg, fDZ)) a b := by
  unfold QuotientShape
  rcases ha.cases with ⟨s, rfl⟩ | ⟨k, rfl⟩ | ⟨k, m, e, rfl⟩
  · rfl
  · rcases hb.cases with ⟨s, rfl⟩ | ⟨k', rfl⟩ | ⟨k', m', e', rfl⟩ <;> rfl
  · rcases hb.cases with ⟨s, rfl⟩ | ⟨k', rfl⟩ | ⟨k', m', e', rfl⟩
    · rfl
    · rfl
    · obtain ⟨x, hx⟩ : ∃ x, (Num.fin k m e false).rat = some x := ⟨_, Num.rat_fin k m e⟩
      obtain ⟨y, hy⟩ : ∃ y, (Num.fin k' m' e' false).rat = some y := ⟨_, Num.rat_fin k' m' e'⟩
      have hx0 := Num.rat_eq_zero_iff hx
      have hy0 := Num.rat_eq_zero_iff hy
      rw [if_neg (by simp [Num.isNaN])]
      simp only [hx, hy, ne_eq, hx0, hy0]
      by_cases h1 : m' = 0
      · by_cases h2 : m = 0 <;> simp [h1, h2, divNum, specialNum, Num.neg?]
      · by_cases h2 : m = 0
        · simp [h1, h2, divNum, specialNum, Num.neg?, Num.exact]
        · simp only [h1, h2, not_false_eq_true, if_true, if_false]
          exact divNum_values h2 h1 hx hy

/-! ### Square roots -/

/-- Bit by bit, the integer root: its square is not above n, the next one is. -/
theorem isqrtBits_spec (n : Nat) : ∀ k r, r * r ≤ n → n < (r + 2 ^ k) * (r + 2 ^ k) →
    isqrtBits n k r * isqrtBits n k r ≤ n ∧ n < (isqrtBits n k r + 1) * (isqrtBits n k r + 1) := by
  intro k
  induction k with
  | zero => exact fun r h1 h2 => ⟨h1, h2⟩
  | succ k ih =>
    intro r h1 h2
    rw [isqrtBits]
    split
    case isTrue h => exact ih _ h (by rw [pow_succ] at h2; rwa [add_assoc, ← mul_two])
    case isFalse h => exact ih _ h1 (not_le.1 h)

/-- A rational between r and r + 1 has its square on either side of W, where W lies between the two squares. -/
theorem exists_root_bounds {r W : Rat} (h0 : 0 ≤ r) (h1 : r * r < W) (h2 : W < (r + 1) * (r + 1)) :
    ∃ p q, (r < p ∧ p < r + 1 ∧ p * p ≤ W) ∧ (r < q ∧ q < r + 1 ∧ W ≤ q * q) := by
  have hd : 0 < 2 * r + 2 := add_pos_of_nonneg_of_pos (mul_nonneg two_pos.le h0) two_pos
  have hp : 0 < (W - r * r) / (2 * r + 2) := div_pos (by linarith) hd
  have hp1 : (W - r * r) / (2 * r + 2) < 1 := (div_lt_one hd).2 (by nlinarith)
  have hpe : (W - r * r) / (2 * r + 2) * (2 * r + 2) = W - r * r := div_mul_cancel₀ _ hd.ne'
  have hq : 0 < ((r + 1) * (r + 1) - W) / (2 * r + 2) := div_pos (by linarith) hd
  have hq1 : ((r + 1) * (r + 1) - W) / (2 * r + 2) < 1 := (div_lt_one hd).2 (by nlinarith)
  have hqe : ((r + 1) * (r + 1) - W) / (2 * r + 2) * (2 * r + 2) = (r + 1) * (r + 1) - W := div_mul_cancel₀ _ hd.ne'
  generalize (W - r * r) / (2 * r + 2) = d at *
  generalize ((r + 1) * (r + 1) - W) / (2 * r + 2) = d' at *
  exact ⟨r + d, r + 1 - d', ⟨by linarith, by linarith, by nlinarith⟩, ⟨by linarith, by linarith, by nlinarith⟩⟩

/-- n holds the root of X: every rational root, and two values ≠ 0 whose squares enclose X. -/
def Num.HoldsRoot (n : Num) (X : Rat) : Prop :=
  (∀ y, 0 < y → y * y = X → n.Holds y) ∧ ∃ p q, 0 < p ∧ 0 < q ∧ p * p ≤ X ∧ X ≤ q * q ∧ n.Holds p ∧ n.Holds q

/-- The integer root r of W, with a tail where it is not exact, holds the root of W × 2^2E. -/
theorem holdsRoot_of_floor {r : Nat} {E : Int} {W : Rat} {tail : Bool} (hr : 104 ≤ r.log2) (h1 : (r : Rat) * r ≤ W)
    (h2 : W < (r + 1) * (r + 1)) (ht : tail = true ↔ (r : Rat) * r ≠ W) : (Num.fin false r E tail).HoldsRoot (W * (2 ^ E * 2 ^ E)) := by
  have hE := two_zpow_pos E
  have hr0 : r ≠ 0 := by rintro rfl; simp at hr
  have hrpos : (0 : Rat) < r := by exact_mod_cast Nat.pos_of_ne_zero hr0
  have hholds : ∀ w : Rat, (tail = true → (r : Rat) < w ∧ w < r + 1) → (tail = false → w = r) → (Num.fin false r E tail).Holds (w * 2 ^ E) := by
    intro w hw1 hw2
    refine ⟨hr0, fun _ => hr, w * 2 ^ E, ?_, by simp⟩
    cases tail
    · rw [within_false, hw2 rfl]
    · obtain ⟨ha, hb⟩ := hw1 rfl
      exact within_true.2 ⟨mul_lt_mul_of_pos_right ha hE, mul_lt_mul_of_pos_right hb hE⟩
  constructor
  · intro y hy hyy
    have hw : y / 2 ^ E * (y / 2 ^ E) = W := by
      rw [div_mul_div_comm, hyy, mul_div_cancel_right₀ _ (mul_pos hE hE).ne']
    have hwpos : 0 < y / 2 ^ E := div_pos hy hE
    have := hholds (y / 2 ^ E) (fun htl => ?_) (fun htl => ?_)
    · rwa [div_mul_cancel₀ _ hE.ne'] at this
    · have hne := ht.1 htl
      exact ⟨lt_of_mul_self_lt_mul_self₀ hwpos.le (hw ▸ lt_of_le_of_ne h1 hne),
        lt_of_mul_self_lt_mul_self₀ (by positivity) (hw.symm ▸ h2)⟩
    · have heq : (r : Rat) * r = W := by
        by_contra hne
        exact absurd (ht.2 hne) (by simp [htl])
      exact (mul_self_inj hwpos.le hrpos.le).1 (hw.trans heq.symm)
  · have hsq : ∀ w : Rat, w * 2 ^ E * (w * 2 ^ E) = w * w * (2 ^ E * 2 ^ E) := fun w => by ring
    by_cases heq : (r : Rat) * r = W
    · have htl : tail = false := by
        cases htl : tail
        · rfl
        · exact absurd heq (ht.1 htl)
      have hh := hholds r (fun h => by simp [htl] at h) fun _ => rfl
      exact ⟨r * 2 ^ E, r * 2 ^ E, mul_pos hrpos hE, mul_pos hrpos hE, by rw [hsq, heq], by rw [hsq, heq], hh, hh⟩
    · have htl : tail = true := ht.2 heq
      obtain ⟨p, q, ⟨hp1, hp2, hp3⟩, hq1, hq2, hq3⟩ := exists_root_bounds hrpos.le (lt_of_le_of_ne h1 heq) h2
      refine ⟨p * 2 ^ E, q * 2 ^ E, mul_pos (hrpos.trans hp1) hE, mul_pos (hrpos.trans hq1) hE, ?_, ?_,
        hholds p (fun _ => ⟨hp1, hp2⟩) fun h => by simp [htl] at h, hholds q (fun _ => ⟨hq1, hq2⟩) fun h => by simp [htl] at h⟩
      · rw [hsq]
        exact mul_le_mul_of_nonneg_right hp3 (mul_pos hE hE).le
      · rw [hsq]
        exact mul_le_mul_of_nonneg_right hq3 (mul_pos hE hE).le

theorem log2_root {r N : Nat} (h : N < (r + 1) * (r + 1)) (hN : 2 ^ 208 ≤ N) : 104 ≤ r.log2 := by
  have h1 : 2 ^ 104 ≤ r := by
    by_contra hlt
    have : (r + 1) * (r + 1) ≤ 2 ^ 104 * 2 ^ 104 := Nat.mul_le_mul (by omega) (by omega)
    rw [← pow_add] at this
    omega
  have h2 : r ≠ 0 := by
    rintro rfl
    norm_num at h1
  exact (Nat.le_log2 h2).2 h1

/-- The shifted significand of `sqrtNum`, with an even exponent left. -/
def rootShift (m : Nat) (e : Int) : Nat := (400 - m.log2) + (if (e - ((400 - m.log2 : Nat) : Int)) % 2 = 0 then 0 else 1)

theorem rootShift_even (m : Nat) (e : Int) : (e - rootShift m e) / 2 + (e - rootShift m e) / 2 = e - rootShift m e := by
  unfold rootShift
  split <;> push_cast <;> omega

theorem le_rootShift {m : Nat} (hm : m ≠ 0) (e : Int) : 2 ^ 208 ≤ m * 2 ^ rootShift m e :=
  calc 2 ^ 208 ≤ 2 ^ (m.log2 + rootShift m e) := Nat.pow_le_pow_right (by norm_num) (by unfold rootShift; omega)
    _ = 2 ^ m.log2 * 2 ^ rootShift m e := pow_add ..
    _ ≤ _ := Nat.mul_le_mul_right _ (Nat.log2_self_le hm)

/-- The root of a value holds the exact one. -/
theorem sqrtNum_root {m : Nat} {e : Int} (hm : m ≠ 0) : (sqrtNum (.fin false m e false)).2 = 0
    ∧ (sqrtNum (.fin false m e false)).1.HoldsRoot (m * 2 ^ e) := by
  have hsq : sqrtNum (.fin false m e false) = (.fin false (isqrtBits (m * 2 ^ rootShift m e) ((m * 2 ^ rootShift m e).log2 / 2 + 1) 0)
      ((e - rootShift m e) / 2) (isqrtBits (m * 2 ^ rootShift m e) ((m * 2 ^ rootShift m e).log2 / 2 + 1) 0
        * isqrtBits (m * 2 ^ rootShift m e) ((m * 2 ^ rootShift m e).log2 / 2 + 1) 0 != m * 2 ^ rootShift m e), 0) := by
    simp [sqrtNum, hm, rootShift]
  have hN := le_rootShift hm e
  have heven := rootShift_even m e
  have hX : (m : Rat) * 2 ^ e = ((m * 2 ^ rootShift m e : Nat) : Rat) * (2 ^ ((e - rootShift m e) / 2) * 2 ^ ((e - rootShift m e) / 2)) := by
    rw [← two_zpow_add, heven]
    push_cast
    rw [mul_assoc, ← zpow_natCast, ← two_zpow_add]
    congr 2
    omega
  rw [hsq, hX]
  generalize m * 2 ^ rootShift m e = N at *
  have hlt : N < (0 + 2 ^ (N.log2 / 2 + 1)) * (0 + 2 ^ (N.log2 / 2 + 1)) := by
    rw [zero_add, ← pow_add]
    exact Nat.lt_log2_self.trans_le (Nat.pow_le_pow_right (by norm_num) (by omega))
  obtain ⟨h1, h2⟩ := isqrtBits_spec N _ 0 (by omega) hlt
  generalize isqrtBits N (N.log2 / 2 + 1) 0 = r at *
  refine ⟨rfl, holdsRoot_of_floor (log2_root h2 hN) (by exact_mod_cast h1) (by exact_mod_cast h2) ?_⟩
  rw [bne_iff_ne, ne_eq, ne_eq, not_iff_not]
  exact_mod_cast Iff.rfl

/-- The shift of `rsqNum`, with an even exponent left. -/
def rsqShift (m : Nat) (e : Int) : Nat := 400 + m.log2 + (if (e + (400 + m.log2 : Nat)) % 2 = 0 then 0 else 1)

theorem rsqShift_even (m : Nat) (e : Int) : -((rsqShift m e + e) / 2) + -((rsqShift m e + e) / 2) = -(rsqShift m e + e) := by
  unfold rsqShift
  split <;> push_cast <;> omega

theorem rsqShift_bounds {m : Nat} (hm : m ≠ 0) (e : Int) : 2 ^ 208 ≤ 2 ^ rsqShift m e / m ∧ 2 ^ rsqShift m e / m < 2 ^ 256 * 2 ^ 256 := by
  have hs : 400 + m.log2 ≤ rsqShift m e ∧ rsqShift m e ≤ 401 + m.log2 := by
    unfold rsqShift
    split <;> omega
  constructor
  · rw [Nat.le_div_iff_mul_le (Nat.pos_of_ne_zero hm)]
    calc 2 ^ 208 * m ≤ 2 ^ 208 * 2 ^ (m.log2 + 1) := Nat.mul_le_mul_left _ Nat.lt_log2_self.le
      _ = 2 ^ (208 + (m.log2 + 1)) := (pow_add ..).symm
      _ ≤ _ := Nat.pow_le_pow_right (by norm_num) (by omega)
  · rw [Nat.div_lt_iff_lt_mul (Nat.pos_of_ne_zero hm)]
    calc 2 ^ rsqShift m e < 2 ^ (256 + 256 + m.log2) := Nat.pow_lt_pow_right (by norm_num) (by omega)
      _ = 2 ^ 256 * 2 ^ 256 * 2 ^ m.log2 := by rw [pow_add, pow_add]
      _ ≤ _ := Nat.mul_le_mul_left _ (Nat.log2_self_le hm)

/-- The reciprocal root of a value holds the exact one. -/
theorem rsqNum_root {m : Nat} {e : Int} (hm : m ≠ 0) : (rsqNum m e).HoldsRoot (1 / (m * 2 ^ e)) := by
  have hrsq : rsqNum m e = .fin false (isqrtBits (2 ^ rsqShift m e / m) 256 0) (-((rsqShift m e + e) / 2))
      (m * (isqrtBits (2 ^ rsqShift m e / m) 256 0 * isqrtBits (2 ^ rsqShift m e / m) 256 0) != 2 ^ rsqShift m e) := rfl
  obtain ⟨hN1, hN2⟩ := rsqShift_bounds hm e
  have hm0 : (0 : Rat) < m := by exact_mod_cast Nat.pos_of_ne_zero hm
  have hX : (1 : Rat) / (m * 2 ^ e) = ((2 ^ rsqShift m e : Nat) : Rat) / m
      * (2 ^ (-((rsqShift m e + e) / 2)) * 2 ^ (-((rsqShift m e + e) / 2))) := by
    rw [← two_zpow_add, rsqShift_even, neg_add, two_zpow_add, zpow_neg, zpow_neg, zpow_natCast]
    push_cast
    have := (two_zpow_pos e).ne'
    field_simp
  obtain ⟨h1, h2⟩ := isqrtBits_spec (2 ^ rsqShift m e / m) 256 0 (by omega) (by rw [zero_add]; exact hN2)
  rw [hrsq, hX]
  generalize isqrtBits (2 ^ rsqShift m e / m) 256 0 = r at *
  have h1' : r * r * m ≤ 2 ^ rsqShift m e := (Nat.le_div_iff_mul_le (Nat.pos_of_ne_zero hm)).1 h1
  have h2' : 2 ^ rsqShift m e < (r + 1) * (r + 1) * m := (Nat.div_lt_iff_lt_mul (Nat.pos_of_ne_zero hm)).1 h2
  refine holdsRoot_of_floor (log2_root h2 hN1) ((le_div_iff₀ hm0).2 (by exact_mod_cast h1')) ((div_lt_iff₀ hm0).2 (by exact_mod_cast h2')) ?_
  rw [bne_iff_ne, ne_eq, ne_eq, not_iff_not, eq_div_iff hm0.ne', mul_comm m]
  exact_mod_cast Iff.rfl

end Sys2Proof.Machine
end

section
/-! SUPPORT. The order of numbers that are no NaN (R132, R148, R153): `Num.cmp`, and the lesser and the greater operand. -/

namespace Sys2Proof.Machine

variable {a b c : Num} {x y : Rat}

/-- A number as a point of the line with both ends. -/
def Num.point : Num → WithBot (WithTop Rat)
  | .inf true => ⊥
  | .inf false => ((⊤ : WithTop Rat) : WithBot (WithTop Rat))
  | n => ((n.value : WithTop Rat) : WithBot (WithTop Rat))

/-- A number without a tail that is no NaN. -/
def Num.Ordered (n : Num) : Prop := n.Exact ∧ n.isNaN = false

theorem Num.Ordered.cases (h : a.Ordered) : (∃ neg, a = .inf neg) ∨ ∃ neg m e, a = .fin neg m e false := by
  obtain ⟨h1, h2⟩ := h
  rcases h1.cases with ⟨s, rfl⟩ | h | h
  · cases h2
  · exact .inl h
  · exact .inr h

theorem Num.point_fin (neg : Bool) (m : Nat) (e : Int) :
    (Num.fin neg m e false).point = (((Num.fin neg m e false).value : WithTop Rat) : WithBot (WithTop Rat)) := rfl

theorem Num.rat_value (neg : Bool) (m : Nat) (e : Int) : (Num.fin neg m e false).rat = some (Num.fin neg m e false).value := by
  rw [Num.value, Num.rat_fin]
  rfl

theorem numBelow_iff (ha : a.Ordered) (hb : b.Ordered) : numBelow a b ↔ a.point < b.point := by
  rcases ha.cases with ⟨k, rfl⟩ | ⟨k, m, e, rfl⟩ <;> rcases hb.cases with ⟨k', rfl⟩ | ⟨k', m', e', rfl⟩
  · cases k <;> cases k' <;> simp [numBelow, Num.point, Num.rat]
  · cases k <;> simp [numBelow, Num.point, Num.rat]
  · cases k'
    · exact iff_of_true (.inr (.inl ⟨rfl, by simp⟩)) (WithBot.coe_lt_coe.2 (WithTop.coe_lt_top _))
    · simp [numBelow, Num.point, Num.rat]
  · rw [Num.point_fin, Num.point_fin, WithBot.coe_lt_coe, WithTop.coe_lt_coe]
    simp [numBelow, Num.rat_value]

theorem numSame_iff (ha : a.Ordered) (hb : b.Ordered) : numSame a b ↔ a.point = b.point := by
  rcases ha.cases with ⟨k, rfl⟩ | ⟨k, m, e, rfl⟩ <;> rcases hb.cases with ⟨k', rfl⟩ | ⟨k', m', e', rfl⟩
  · cases k <;> cases k' <;> simp [numSame, Num.point, Num.rat]
  · cases k <;> simp [numSame, Num.point, Num.rat]
  · cases k' <;> simp [numSame, Num.point, Num.rat]
  · rw [Num.point_fin, Num.point_fin, WithBot.coe_inj, WithTop.coe_inj]
    simp [numSame, Num.rat_value, eq_comm]

theorem compare_neg (x y : Rat) : compare (-x) (-y) = (compare x y).swap := by
  rcases lt_trichotomy x y with h | h | h
  · rw [compare_lt_iff_lt.2 h, compare_gt_iff_gt.2 (neg_lt_neg h)]
    rfl
  · rw [h, compare_eq_iff_eq.2 rfl, compare_eq_iff_eq.2 rfl]
    rfl
  · rw [compare_gt_iff_gt.2 h, compare_lt_iff_lt.2 (neg_lt_neg h)]
    rfl

theorem compare_coe (x y : Rat) : compare ((x : WithTop Rat) : WithBot (WithTop Rat)) ((y : WithTop Rat) : WithBot (WithTop Rat)) = compare x y := by
  rcases lt_trichotomy x y with h | h | h
  · rw [compare_lt_iff_lt.2 h, compare_lt_iff_lt.2 (by exact_mod_cast h)]
  · rw [h, compare_eq_iff_eq.2 rfl, compare_eq_iff_eq.2 rfl]
  · rw [compare_gt_iff_gt.2 h, compare_gt_iff_gt.2 (by exact_mod_cast h)]

/-- Two values are ordered by their signs, then by their magnitudes. -/
theorem Num.cmp_signs (neg neg' : Bool) (m m' : Nat) (e e' : Int) : (Num.fin neg m e false).cmp (.fin neg' m' e' false)
    = if m = 0 ∧ m' = 0 then .eq else if neg && !neg' then .lt else if !neg && neg' then .gt
      else if neg then (cmpMag m e m' e').swap else cmpMag m e m' e' := by
  unfold Num.cmp
  rcases hc : cmpMag m e m' e' <;> simp [hc]

/-- The order of two values, from their signs and magnitudes. -/
theorem Num.cmp_fin (neg neg' : Bool) (m m' : Nat) (e e' : Int) : (Num.fin neg m e false).cmp (.fin neg' m' e' false)
    = compare (Num.fin neg m e false).value (Num.fin neg' m' e' false).value := by
  have hval : ∀ (neg : Bool) (m : Nat) (e : Int), (Num.fin neg m e false).value = if neg then -((m : Rat) * 2 ^ e) else m * 2 ^ e := by
    intro neg m e
    rw [Num.value, Num.rat_fin]
    rfl
  have hpos : ∀ (m : Nat) (e : Int), 0 ≤ (m : Rat) * 2 ^ e ∧ (m ≠ 0 → 0 < (m : Rat) * 2 ^ e) := fun m e =>
    ⟨mul_nonneg (Nat.cast_nonneg m) (two_zpow_pos e).le, fun h => mul_pos (by exact_mod_cast Nat.pos_of_ne_zero h) (two_zpow_pos e)⟩
  rw [hval, hval]
  rw [Num.cmp_signs, cmpMag_eq]
  by_cases h0 : m = 0 ∧ m' = 0
  · obtain ⟨rfl, rfl⟩ := h0
    cases neg <;> cases neg' <;> simp
  rw [if_neg h0]
  obtain ⟨ha, ha'⟩ := hpos m e
  obtain ⟨hb, hb'⟩ := hpos m' e'
  have hsum : 0 < (m : Rat) * 2 ^ e + m' * 2 ^ e' := by
    rcases not_and_or.1 h0 with h | h
    · exact add_pos_of_pos_of_nonneg (ha' h) hb
    · exact add_pos_of_nonneg_of_pos ha (hb' h)
  cases neg <;> cases neg'
  · simp
  · exact (compare_gt_iff_gt.2 (show -((m' : Rat) * 2 ^ e') < m * 2 ^ e by linarith)).symm
  · exact (compare_lt_iff_lt.2 (show -((m : Rat) * 2 ^ e) < m' * 2 ^ e' by linarith)).symm
  · simp [compare_neg]

/-- `Num.cmp` is the order of the line. -/
theorem Num.cmp_eq (ha : a.Ordered) (hb : b.Ordered) : a.cmp b = compare a.point b.point := by
  rcases ha.cases with ⟨k, rfl⟩ | ⟨k, m, e, rfl⟩ <;> rcases hb.cases with ⟨k', rfl⟩ | ⟨k', m', e', rfl⟩
  · cases k <;> cases k' <;> rfl
  · cases k <;> rfl
  · cases k' <;> rfl
  · rw [Num.cmp_fin, Num.point_fin, Num.point_fin, compare_coe]

section
variable (ha : a.Ordered) (hb : b.Ordered)
include ha hb

theorem Num.cmp_eq_lt : a.cmp b = .lt ↔ numBelow a b := by rw [Num.cmp_eq ha hb, numBelow_iff ha hb, compare_lt_iff_lt]

theorem Num.cmp_eq_eq : a.cmp b = .eq ↔ numSame a b := by rw [Num.cmp_eq ha hb, numSame_iff ha hb, compare_eq_iff_eq]

theorem Num.cmp_eq_gt : a.cmp b = .gt ↔ numBelow b a := by rw [Num.cmp_eq ha hb, numBelow_iff hb ha, compare_gt_iff_gt]

theorem Num.cmp_ne_gt : a.cmp b ≠ .gt ↔ numBelow a b ∨ numSame a b := by
  rw [ne_eq, Num.cmp_eq_gt ha hb, numBelow_iff ha hb, numBelow_iff hb ha, numSame_iff ha hb, not_lt, le_iff_lt_or_eq]

end

/-! ### −0 below +0 -/

/-- a is at most b, with −0 below +0 (R132, R148). -/
def UpTo (a b : Num) : Prop := numBelow a b ∨ numSame a b ∧ (a.rat = some 0 → b.neg? = true → a.neg? = true)

theorem numSame_sign (ha : a.Ordered) (hb : b.Ordered) (h : numSame a b) (h0 : a.rat ≠ some 0) : a.neg? = b.neg? := by
  rcases h with ⟨rfl, -⟩ | ⟨x, hx, hy⟩
  · rfl
  · obtain ⟨neg, m, e, rfl, hxv⟩ := Num.rat_eq_some hx
    obtain ⟨neg', m', e', rfl, hyv⟩ := Num.rat_eq_some hy
    have hx0 : x ≠ 0 := fun h => h0 (h ▸ hx)
    have h1 : (0 : Rat) ≤ m * 2 ^ e := mul_nonneg (Nat.cast_nonneg m) (two_zpow_pos e).le
    have h2 : (0 : Rat) ≤ m' * 2 ^ e' := mul_nonneg (Nat.cast_nonneg m') (two_zpow_pos e').le
    cases neg <;> cases neg'
    · rfl
    · exact absurd (by simp at hxv hyv; linarith) hx0
    · exact absurd (by simp at hxv hyv; linarith) hx0
    · rfl

theorem leqSigned_iff (ha : a.Ordered) (hb : b.Ordered) : leqSigned a b = true ↔ UpTo a b := by
  have hlt := Num.cmp_eq_lt ha hb
  have heq := Num.cmp_eq_eq ha hb
  have hgt := Num.cmp_eq_gt ha hb
  unfold leqSigned UpTo
  rcases hc : a.cmp b with _ | _ | _
  · exact iff_of_true rfl (.inl (hlt.1 hc))
  · have hs := heq.1 hc
    have hnb : ¬ numBelow a b := fun h => by simpa [hc] using hlt.2 h
    simp only [hnb, hs, false_or, true_and]
    by_cases h0 : a.rat = some 0
    · cases a.neg? <;> cases b.neg? <;> simp [h0]
    · simp only [numSame_sign ha hb hs h0, h0, false_implies, iff_true]
      cases b.neg? <;> rfl
  · have hnb : ¬ numBelow a b := fun h => by simpa [hc] using hlt.2 h
    have hns : ¬ numSame a b := fun h => by simpa [hc] using heq.2 h
    simp [hnb, hns]

theorem upTo_refl (ha : a.Ordered) : UpTo a a := .inr ⟨(numSame_iff ha ha).2 rfl, fun _ h => h⟩

theorem upTo_total (ha : a.Ordered) (hb : b.Ordered) : UpTo a b ∨ UpTo b a := by
  unfold UpTo
  rw [numBelow_iff ha hb, numBelow_iff hb ha, numSame_iff ha hb, numSame_iff hb ha]
  rcases lt_trichotomy a.point b.point with h | h | h
  · exact .inl (.inl h)
  · cases hs : b.neg?
    · exact .inl (.inr ⟨h, fun _ h' => by cases h'⟩)
    · exact .inr (.inr ⟨h.symm, fun _ _ => rfl⟩)
  · exact .inr (.inl h)

theorem numSame_rat_zero (h : numSame a b) (h0 : a.rat = some 0) : b.rat = some 0 := by
  rcases h with ⟨rfl, -⟩ | ⟨x, hx, hy⟩
  · exact h0
  · exact hy.trans (hx.symm.trans h0)

theorem upTo_trans (ha : a.Ordered) (hb : b.Ordered) (hc : c.Ordered) (h1 : UpTo a b) (h2 : UpTo b c) : UpTo a c := by
  unfold UpTo at *
  rcases h1 with h1 | ⟨h1, s1⟩
  · refine .inl ?_
    rw [numBelow_iff ha hb] at h1
    rw [numBelow_iff ha hc]
    rcases h2 with h2 | ⟨h2, -⟩
    · exact h1.trans ((numBelow_iff hb hc).1 h2)
    · exact h1.trans_eq ((numSame_iff hb hc).1 h2)
  · rcases h2 with h2 | ⟨h2, s2⟩
    · refine .inl ((numBelow_iff ha hc).2 ?_)
      exact ((numSame_iff ha hb).1 h1).trans_lt ((numBelow_iff hb hc).1 h2)
    · refine .inr ⟨(numSame_iff ha hc).2 (((numSame_iff ha hb).1 h1).trans ((numSame_iff hb hc).1 h2)), fun h0 h => ?_⟩
      exact s1 h0 (s2 (numSame_rat_zero h1 h0) h)

end Sys2Proof.Machine
end

section
/-! SUPPORT. The scalar floating-point instructions (R92, R105, R107, R108, R131, R132), from the exact arithmetic and the one rounding. -/

namespace Sys2Proof.Machine

variable {s : State} {d : XReg} {F : FloatFmt} {mode : RM} {t : Nat} {a b c n : Num} {x y z : Rat}

/-! ### Sums and products of values -/

theorem sumSpec_values {ts : List Num} {xs : List Rat} {fl : Flags} (h : SumSpec mode ts n fl) (hr : ts.map Num.rat = xs.map some) :
    n.rat = some xs.sum ∧ fl = 0 := by
  have hsome : ∀ u ∈ ts, u.rat ≠ none := by
    intro u hu hn
    have : u.rat ∈ xs.map some := hr ▸ List.mem_map_of_mem hu
    rw [hn] at this
    simp at this
  unfold SumSpec at h
  rw [if_neg (by rintro (h | h) <;> exact hsome _ h rfl), if_neg (fun h => hsome _ h.1 rfl), if_neg (fun h => hsome _ h rfl),
    if_neg (fun h => hsome _ h rfl)] at h
  obtain ⟨hfl, xs', hr', hrat, -⟩ := h
  have hxs : xs' = xs := List.map_injective_iff.2 (Option.some_injective _) (hr'.symm.trans hr)
  exact ⟨hxs ▸ hrat, hfl⟩

theorem isNaN_eq_false_of_rat (h : a.rat = some x) : a.isNaN = false := by
  obtain ⟨_, _, _, rfl, -⟩ := Num.rat_eq_some h
  rfl

theorem prodSpec_values {fl : Flags} (h : ProdSpec a b n fl) (ha : a.rat = some x) (hb : b.rat = some y) : n.rat = some (x * y) ∧ fl = 0 := by
  unfold ProdSpec at h
  rw [if_neg (by simp [isNaN_eq_false_of_rat ha, isNaN_eq_false_of_rat hb])] at h
  simp only [ha, hb] at h
  exact ⟨h.1, h.2.2⟩

theorem Num.rat_negate (h : a.rat = some x) : a.negate.rat = some (-x) := by
  obtain ⟨neg, m, e, rfl, rfl⟩ := Num.rat_eq_some h
  rw [Num.negate, Num.rat_fin]
  cases neg <;> simp

theorem State.fnum_exact (s : State) (f : FFmt) (r : XReg) : (s.fnum f r).Exact := FloatFmt.decode_exact ..

/-- a × b + c, exact: the spec's product, then the spec's sum. -/
theorem fmaNum_spec (mode : RM) (ha : a.Exact) (hb : b.Exact) (hc : c.Exact) :
    ∃ p g h, ProdSpec a b p g ∧ SumSpec mode [p, c] (fmaNum mode a b c).1 h ∧ (fmaNum mode a b c).2 = g ||| h := by
  refine ⟨(mulNum a b).1, (mulNum a b).2, (sumNum mode [(mulNum a b).1, c]).2, mulNum_spec ha hb, ?_, rfl⟩
  refine sumNum_spec mode (by simp) fun u hu => ?_
  simp only [List.mem_cons, List.not_mem_nil, or_false] at hu
  rcases hu with rfl | rfl
  · exact mulNum_exact a b
  · exact hc

theorem sumNum_pair_spec (mode : RM) (ha : a.Exact) (hb : b.Exact) : SumSpec mode [a, b] (sumNum mode [a, b]).1 (sumNum mode [a, b]).2 := by
  refine sumNum_spec mode (by simp) fun u hu => ?_
  simp only [List.mem_cons, List.not_mem_nil, or_false] at hu
  rcases hu with rfl | rfl
  · exact ha
  · exact hb

/-! ### What an instruction gives -/

/-- The draw of an instruction in an effective mode (R98, R100). -/
def modeDraw (s : State) (r : FRnd) : Nat := if effMode s r = .stoch then fpsDraw s else 0

/-- An instruction gives a result and flags with a property. -/
def Gives (s : State) (d : XReg) (i : Instr) (P : Nat → Flags → Prop) : Prop :=
  Completes i s fun t => ∃ v fl, P v fl ∧ Wrote s t d (wd v) ∧ Retired s t (withFlags s.task.csr fl)

variable {i : Instr} {r : FRnd} {f : RM → Nat → Nat × Flags} {P : Nat → Flags → Prop}

theorem gives_of_rounding (h : fpsSpec s i = some (d, some r, f))
    (hP : P (f (effMode s r) (modeDraw s r)).1 (f (effMode s r) (modeDraw s r)).2) : Gives s d i P := by
  obtain ⟨t, ht, -, hw, hr, -⟩ := fpsSpec_leaves h
  exact ⟨t, ht, _, _, hP, hw, hr⟩

theorem gives_of_plain (h : fpsSpec s i = some (d, none, f)) (hP : P (f .rne 0).1 (f .rne 0).2) : Gives s d i P := by
  obtain ⟨t, ht, -, hw, hr, -⟩ := fpsSpec_leaves h
  exact ⟨t, ht, _, _, hP, hw, hr⟩

/-- An instruction rounds one number: the exact value q, with no flag of its own (R107, R132). -/
theorem once_of_fpsInto {ff : FFmt} {q : Rat} {w : RM → Num × Flags} (h : fpsSpec s i = some (d, some r, fun m t => fpsInto ff m t (w m)))
    (hq : (w (effMode s r)).1.rat = some q ∧ (w (effMode s r)).2 = 0) :
    ∃ n, Num.rat n = some q ∧ Completes i s fun t => Wrote s t d (wd ((FFmt.float ff).round (effMode s r) (modeDraw s r) n).1)
      ∧ Retired s t (withFlags s.task.csr ((FFmt.float ff).round (effMode s r) (modeDraw s r) n).2) := by
  obtain ⟨t, ht, -, hw, hr, -⟩ := fpsSpec_leaves h
  refine ⟨_, hq.1, t, ht, hw, ?_⟩
  have hfl : (fpsInto ff (effMode s r) (modeDraw s r) (w (effMode s r))).2
      = ((FFmt.float ff).round (effMode s r) (modeDraw s r) (w (effMode s r)).1).2 := by
    rw [fpsInto, hq.2]
    exact flags_zero_or _
  rw [← hfl]
  exact hr

theorem fpsInto_delivers (ff : FFmt) (m : RM) (t : Nat) (w : Num × Flags) :
    Delivers (FFmt.float ff) m t w.1 w.2 (fpsInto ff m t w).1 (fpsInto ff m t w).2 := FloatFmt.round_delivers (FloatFmt.sized_float ff) m t w.1 w.2

/-- FADD, FSUB, FMUL and FMADD of values round the exact result once. -/
theorem FpsExact.once (s : State) (d a b : XReg) (f : FFmt) (r : FRnd) (hx : (s.fnum f a).rat = some x) (hy : (s.fnum f b).rat = some y) :
    let once (i : Instr) (q : Rat) : Prop := ∃ n, Num.rat n = some q ∧ Completes i s fun t =>
      Wrote s t d (wd ((FFmt.float f).round (effMode s r) (modeDraw s r) n).1)
        ∧ Retired s t (withFlags s.task.csr ((FFmt.float f).round (effMode s r) (modeDraw s r) n).2)
    once (.fadd d a b f r) (x + y) ∧ once (.fsub d a b f r) (x - y) ∧ once (.fmul d a b f r) (x * y)
      ∧ ((s.fnum f d).rat = some z → once (.fmadd d a b f r) (x * y + z)) := by
  have ha := s.fnum_exact f a
  have hb := s.fnum_exact f b
  refine ⟨once_of_fpsInto rfl ?_, once_of_fpsInto rfl ?_, once_of_fpsInto rfl ?_, fun hz => once_of_fpsInto rfl ?_⟩
  · simpa using sumSpec_values (xs := [x, y]) (sumNum_pair_spec _ ha hb) (by simp [hx, hy])
  · simpa [sub_eq_add_neg] using
      sumSpec_values (xs := [x, -y]) (sumNum_pair_spec _ ha (Num.exact_negate.2 hb)) (by simp [hx, Num.rat_negate hy])
  · exact prodSpec_values (mulNum_spec ha hb) hx hy
  · obtain ⟨p, g, h, hp, hsum, hfl⟩ := fmaNum_spec (effMode s r) ha hb (s.fnum_exact f d)
    obtain ⟨hp1, rfl⟩ := prodSpec_values hp hx hy
    obtain ⟨hs1, rfl⟩ := sumSpec_values (xs := [x * y, z]) hsum (by simp [hp1, hz])
    exact ⟨by simpa using hs1, hfl⟩

end Sys2Proof.Machine
end

section
/-! SUPPORT. Scalar floating point (R132): division, root, conversions, extremes and comparisons, and the statement on exactness (O4). -/

namespace Sys2Proof.Machine

variable {s : State} {d a b : XReg} {F : FloatFmt} {mode : RM} {t : Nat} {x y : Num}

/-! ### Results of each kind -/

theorem fpsInto_eq (f : FFmt) (m : RM) (t : Nat) (w : Num × Flags) :
    fpsInto f m t w = (((FFmt.float f).round m t w.1).1, w.2 ||| ((FFmt.float f).round m t w.1).2) := rfl

/-- A quotient delivered: what `divNum` answers, rounded with its flags. -/
theorem fpsInto_div (f : FFmt) (m : RM) (t : Nat) (hx : x.Exact) (hy : y.Exact) :
    QuotientSpec (FFmt.float f) m t x y (fpsInto f m t (divNum x y)).1 (fpsInto f m t (divNum x y)).2 := by
  have hF := FloatFmt.sized_float f
  refine quotientSpec_iff.2 ((divNum_shape hx hy).imp (fun n _ h => ?_) (fun q h => ?_) fun neg h => ?_)
  · rw [h]
    exact FloatFmt.round_specialNum ..
  · rw [fpsInto_eq, h.1, flags_zero_or]
    exact FloatFmt.round_holds hF h.2
  · rw [h]
    cases f <;> exact ⟨rfl, flags_or_zero _⟩

/-- A root delivered: what `sqrtNum` answers, rounded with its flags. -/
theorem fpsInto_root (f : FFmt) (m : RM) (t : Nat) (hx : x.Exact) :
    RootSpec (FFmt.float f) m t x (fpsInto f m t (sqrtNum x)).1 (fpsInto f m t (sqrtNum x)).2 := by
  have hF := FloatFmt.sized_float f
  have hspecial : ∀ n, sqrtNum x = specialNum n →
      FloatSpecial (FFmt.float f) n (fpsInto f m t (sqrtNum x)).1 (fpsInto f m t (sqrtNum x)).2 := by
    intro n h
    rw [h]
    exact FloatFmt.round_specialNum ..
  rcases hx.cases with ⟨sig, rfl⟩ | ⟨neg, rfl⟩ | ⟨neg, k, e, rfl⟩
  · exact hspecial (.nan sig) rfl
  · exact hspecial _ (by cases neg <;> rfl)
  · intro x hr
    have hx0 := Num.rat_eq_zero_iff hr
    rw [Num.rat_fin, Option.some_inj] at hr
    have hnn : (0 : Rat) ≤ k * 2 ^ e := mul_nonneg (Nat.cast_nonneg k) (two_zpow_pos e).le
    refine ⟨fun h => hspecial _ ?_, fun h => hspecial _ ?_, fun h => ?_⟩
    · simp [sqrtNum, hx0.1 h, specialNum, Num.exact]
    · have hk : k ≠ 0 := fun h' => h.ne (hx0.2 h')
      obtain rfl : neg = true := by
        cases neg
        · rw [← hr, if_neg (by simp)] at h
          exact absurd h (not_lt.2 hnn)
        · rfl
      simp [sqrtNum, hk, specialNum]
    · have hk : k ≠ 0 := fun h' => h.ne' (hx0.2 h')
      obtain rfl : neg = false := by
        cases neg
        · rfl
        · rw [← hr, if_pos rfl] at h
          linarith
      obtain ⟨h0, hroot, p, q, hp, hq, hpx, hxq, hhp, hhq⟩ := sqrtNum_root (e := e) hk
      rw [if_neg (by simp)] at hr
      rw [← hr, fpsInto_eq, h0, flags_zero_or]
      exact ⟨fun y hy hyy => FloatFmt.round_holds hF (hroot y hy hyy), p, q, hp, hq, hpx, hxq, FloatFmt.round_holds hF hhp,
        FloatFmt.round_holds hF hhq⟩

/-- A value rounded to an integer of 64 bits. -/
theorem roundInt_toIntSpec (m : RM) (t : Nat) (hx : x.Exact) :
    ToIntSpec m t x (roundInt m t (-(2 ^ 63)) (2 ^ 63 - 1) x).1 (roundInt m t (-(2 ^ 63)) (2 ^ 63 - 1) x).2 := by
  rcases hx.cases with ⟨sig, rfl⟩ | ⟨neg, rfl⟩ | ⟨neg, k, e, rfl⟩
  · exact ⟨rfl, rfl⟩
  · exact ⟨rfl, rfl⟩
  · intro x hr
    by_cases h0 : x = 0
    · rw [(Num.rat_eq_zero_iff hr).1 h0, roundInt_zero (by norm_num) (by norm_num), h0]
      have := unitsSpec_whole m false t 0
      rw [Nat.cast_zero] at this
      simp [IntRounded, ratMag, this]
    · exact roundInt_rounded (by norm_num) (by norm_num) (by norm_num) (by norm_num) (Num.holds_of_rat hr h0)

theorem Num.rat_ofInt (v : Int) : (Num.ofInt v).rat = some (v : Rat) := by
  have := Num.rat_exact_units (decide (v < 0)) v 0 rfl
  rwa [zpow_zero, mul_one] at this

/-- An integer rounded into a floating format; 0 is +0. -/
theorem round_ofInt (hF : F.Sized) (v : BitVec 64) : if v = 0 then (F.round mode t (.ofInt v.toInt)).1 = 0 ∧ (F.round mode t (.ofInt v.toInt)).2 = 0
    else FloatRounded F mode t ((v.toInt : Int) : Rat) (F.round mode t (.ofInt v.toInt)).1 (F.round mode t (.ofInt v.toInt)).2 := by
  split
  case isTrue h =>
    subst h
    exact FloatFmt.round_special F mode t (.fin false 0 0 false) rfl rfl
  case isFalse h =>
    refine FloatFmt.round_holds hF (Num.holds_of_rat (Num.rat_ofInt _) ?_)
    intro h0
    exact h (BitVec.toInt_inj.1 (by simpa using h0))

/-- The extreme of two operands. -/
theorem minMaxBits_extremeOf (F : FloatFmt) (big : Bool) (p q : Nat) (hx : x.Exact) (hy : y.Exact) :
    ExtremeOf F big x y p q (minMaxBits F.nanBits big x y p q).1 (minMaxBits F.nanBits big x y p q).2 := by
  unfold ExtremeOf minMaxBits
  by_cases hn : x.isNaN = true ∨ y.isNaN = true
  · rw [if_pos hn, if_pos (by simpa using hn)]
    exact ⟨rfl, rfl⟩
  have hxo : x.Ordered := ⟨hx, by simpa using (not_or.1 hn).1⟩
  have hyo : y.Ordered := ⟨hy, by simpa using (not_or.1 hn).2⟩
  rw [if_neg hn, if_neg (by simpa using hn)]
  by_cases hl : leqSigned x y = true
  · have hup := (leqSigned_iff hxo hyo).1 hl
    rw [if_pos hl]
    refine ⟨rfl, ?_⟩
    cases big
    · exact .inl ⟨rfl, hup⟩
    · exact .inr ⟨rfl, hup⟩
  · have hup := (upTo_total hxo hyo).resolve_left (mt (leqSigned_iff hxo hyo).2 hl)
    rw [if_neg hl]
    refine ⟨rfl, ?_⟩
    cases big
    · exact .inr ⟨rfl, hup⟩
    · exact .inl ⟨rfl, hup⟩

/-- A comparison gives 0 on a NaN, with NV if it is invalid, else whether it holds, with no flag (R132). -/
def ComparesAs (x y : Num) (holds : Prop) (invalid : Bool) (v : Nat) (fl : Flags) : Prop :=
  (x.isNaN = true ∨ y.isNaN = true → v = 0 ∧ fl = if invalid then fNV else 0)
    ∧ (¬ (x.isNaN = true ∨ y.isNaN = true) → fl = 0 ∧ (holds → v = 1) ∧ (¬ holds → v = 0))

theorem comparesAs_ite {holds c : Prop} [Decidable c] {invalid : Bool} (h : ¬ (x.isNaN = true ∨ y.isNaN = true) → (c ↔ holds)) :
    ComparesAs x y holds invalid
      (if x.isNaN = true ∨ y.isNaN = true then ((0 : Nat), (if invalid then fNV else 0 : Flags)) else (if c then 1 else 0, 0)).1
      (if x.isNaN = true ∨ y.isNaN = true then ((0 : Nat), (if invalid then fNV else 0 : Flags)) else (if c then 1 else 0, 0)).2 := by
  refine ⟨fun hn => ?_, fun hn => ?_⟩
  · rw [if_pos hn]
    exact ⟨rfl, rfl⟩
  · rw [if_neg hn]
    exact ⟨rfl, fun hh => if_pos ((h hn).2 hh), fun hh => if_neg (mt (h hn).1 hh)⟩

/-! ### The instructions -/

section
variable (s d a b) (f : FFmt) (r : FRnd)

theorem fnum_ordered {ra rb : XReg} (hn : ¬ ((s.fnum f ra).isNaN = true ∨ (s.fnum f rb).isNaN = true)) :
    (s.fnum f ra).Ordered ∧ (s.fnum f rb).Ordered :=
  ⟨⟨s.fnum_exact f ra, by simpa using (not_or.1 hn).1⟩, ⟨s.fnum_exact f rb, by simpa using (not_or.1 hn).2⟩⟩

theorem gives_fmadd : Gives s d (.fmadd d a b f r) fun v fl => ∃ n g w h, ProdSpec (s.fnum f a) (s.fnum f b) n g
    ∧ SumSpec (effMode s r) [n, s.fnum f d] w h ∧ Delivers (FFmt.float f) (effMode s r) (modeDraw s r) w (g ||| h) v fl := by
  obtain ⟨p, g, h, hp, hsum, hfl⟩ := fmaNum_spec (effMode s r) (s.fnum_exact f a) (s.fnum_exact f b) (s.fnum_exact f d)
  exact gives_of_rounding rfl ⟨p, g, _, h, hp, hsum, hfl ▸ fpsInto_delivers f _ _ _⟩

theorem gives_fcvtif : Gives s d (.fcvtif d a f r) fun v fl => ∃ i : Int, v = (i % 2 ^ 64).toNat
    ∧ ToIntSpec (effMode s r) (modeDraw s r) (s.fnum f a) i fl :=
  gives_of_rounding rfl ⟨_, rfl, roundInt_toIntSpec _ _ (s.fnum_exact f a)⟩

theorem gives_flt : Gives s d (.flt d a b f) (ComparesAs (s.fnum f a) (s.fnum f b) (numBelow (s.fnum f a) (s.fnum f b)) true) := by
  refine gives_of_plain rfl (comparesAs_ite fun hn => ?_)
  obtain ⟨ha, hb⟩ := fnum_ordered s f hn
  exact Num.cmp_eq_lt ha hb

theorem gives_feq : Gives s d (.feq d a b f) (ComparesAs (s.fnum f a) (s.fnum f b) (numSame (s.fnum f a) (s.fnum f b))
    ((s.fnum f a).isSignalling || (s.fnum f b).isSignalling)) := by
  refine gives_of_plain rfl ?_
  simp only [← Bool.or_eq_true (s.fnum f a).isSignalling]
  refine comparesAs_ite fun hn => ?_
  obtain ⟨ha, hb⟩ := fnum_ordered s f hn
  exact Num.cmp_eq_eq ha hb

theorem gives_fle : Gives s d (.fle d a b f) (ComparesAs (s.fnum f a) (s.fnum f b)
    (numBelow (s.fnum f a) (s.fnum f b) ∨ numSame (s.fnum f a) (s.fnum f b)) true) := by
  refine gives_of_plain rfl ?_
  simp only [← ite_not (p := (s.fnum f a).cmp (s.fnum f b) = .gt)]
  refine comparesAs_ite fun hn => ?_
  obtain ⟨ha, hb⟩ := fnum_ordered s f hn
  exact Num.cmp_ne_gt ha hb

end

/-- Settles O4: each instruction's exact arithmetic meets the spec's, and one rounding delivers it. -/
theorem fpsExact : Obligations.FpsExact := by
  refine ⟨fun s d a b f r x y z hx hy => FpsExact.once s d a b f r hx hy,
    fun F m t b hF hb h => FloatFmt.round_decode (FloatFmt.sized_of_mem hF) hb h,
    fun F m t n x hF hr hx => FloatFmt.round_holds (FloatFmt.sized_of_mem hF) (Num.holds_of_rat hr hx),
    fun f m t n => ⟨fun x hr hx => roundTo_holds f m t (Num.holds_of_rat hr hx), roundTo_special f m t n⟩,
    fun s d a b f r => ?_⟩
  have ha := s.fnum_exact f a
  have hb := s.fnum_exact f b
  refine ⟨gives_of_rounding rfl ⟨_, _, sumNum_pair_spec _ ha hb, fpsInto_delivers f _ _ _⟩,
    gives_of_rounding rfl ⟨_, _, sumNum_pair_spec _ ha (Num.exact_negate.2 hb), fpsInto_delivers f _ _ _⟩,
    gives_of_rounding rfl ⟨_, _, mulNum_spec ha hb, fpsInto_delivers f _ _ _⟩,
    gives_fmadd s d a b f r,
    gives_of_rounding rfl (fpsInto_div f _ _ ha hb),
    gives_of_rounding rfl (fpsInto_root f _ _ ha),
    gives_of_rounding rfl (round_ofInt (FloatFmt.sized_float f) (s.x a)),
    gives_fcvtif s d a f r,
    gives_of_plain rfl (minMaxBits_extremeOf _ false _ _ ha hb),
    gives_of_plain rfl (minMaxBits_extremeOf _ true _ _ ha hb),
    gives_flt s d a b f, gives_feq s d a b f, gives_fle s d a b f⟩

end Sys2Proof.Machine
end

section
/-! SUPPORT. The lanes of a VE instruction (R141, R142): what `each` leaves, and the elements it works from. -/

namespace Sys2Proof.Machine

variable {c : VeCtx} {F : Fmt} {k : Nat}

theorem activeIn_iff {sh : Word} : activeIn sh k = true ↔ isActive sh k := by
  simp [activeIn, isActive, shRows, shCols, rowsOf, colsOf, bits, bitsN]

theorem ofFn_val_eq_map {α : Type} (n : Nat) (g : Nat → α) : List.ofFn (fun k : Fin n => g k.val) = (List.range n).map g :=
  List.ext_getElem (by simp) fun i _ _ => by simp

/-! ### What an instruction leaves -/

/-- A result and its flags that fit a lane and have a property. -/
def Fits (r : Nat × Flags) (P : Nat → Flags → Prop) : Prop := r.1 < 2 ^ 32 ∧ P r.1 r.2

theorem Fits.imp {r : Nat × Flags} {P Q : Nat → Flags → Prop} (h : Fits r P) (hPQ : ∀ b fl, P b fl → Q b fl) : Fits r Q :=
  ⟨h.1, hPQ _ _ h.2⟩

/-- The answer of an instruction that leaves one tile. -/
def Leaves (sh : Word) (r : VeAns) (P : Nat → Nat → Flags → Prop) : Prop := ∃ o, r = .ok o ∧ o.second = none ∧ LeavesTile sh o P

/-- `each` leaves in every active lane the element of its function, and sets the flags of those elements (R141, R142). -/
theorem VeCtx.each_leaves {f : Nat → Nat × Flags} {P : Nat → Nat → Flags → Prop}
    (h : ∀ k, k < 1024 → isActive c.e.sh k → Fits (f k) (P k)) : Leaves c.e.sh (c.each f) P := by
  refine ⟨_, rfl, rfl, rfl, fun k => (f k).2, fun k hk => ?_, ?_⟩
  · simp only [VeOut.of, Vector.getElem_map, Vector.getElem_ofFn, activeIn_iff]
    refine ⟨fun ha => ?_, fun ha => ?_⟩
    · obtain ⟨hlt, hP⟩ := h k hk ha
      rwa [if_pos ha, BitVec.toNat_ofNat, Nat.mod_eq_of_lt hlt]
    · rw [if_neg ha]
      rfl
  · simp only [VeOut.of, Vector.toList_ofFn]
    rw [ofFn_val_eq_map 1024 fun k => if activeIn c.e.sh k then f k else (0, 0), List.foldl_map]
    congr 1
    funext acc k
    by_cases ha : isActive c.e.sh k
    · rw [if_pos ha, if_pos (activeIn_iff.2 ha)]
    · rw [if_neg ha, if_neg (mt activeIn_iff.1 ha)]
      exact flags_or_zero acc

theorem Leaves.imp {sh : Word} {r : VeAns} {P Q : Nat → Nat → Flags → Prop} (h : Leaves sh r P)
    (hPQ : ∀ k b fl, k < 1024 → P k b fl → Q k b fl) : Leaves sh r Q := by
  obtain ⟨o, ho, h2, hx, fl, hl, hf⟩ := h
  exact ⟨o, ho, h2, hx, fl, fun k hk => ⟨fun ha => hPQ _ _ _ hk ((hl k hk).1 ha), (hl k hk).2⟩, hf⟩

/-! ### What it works from -/

section
variable (s : State) (e : VeEntry)

theorem veCtx_mode : (s.veCtx e).mode = RM.ofCode e.rm.toNat := rfl

theorem veCtx_fmt (hF : Fmt.ofCode (e.sh.toNat / 2 ^ 16 % 2 ^ 4) = some F) : (s.veCtx e).fmt = F := by
  rw [VeCtx.fmt, shFmt]
  exact congrArg (Option.getD · .fp32) hF

theorem veCtx_convFmt : (s.veCtx e).convFmt = Fmt.ofCode (e.xt.toNat % 16) := by
  simp [VeCtx.convFmt, bits, bitsN, State.veCtx]

theorem veCtx_draw (k : Nat) : (s.veCtx e).draw k = veDraw s e k := by
  rw [VeCtx.draw, veDraw, veCtx_mode]
  simp [stochT, bits, bitsN, State.veCtx]

theorem laneAt_eq {T : Tile} (hk : k < 1024) : laneAt T k = (T.toList.getD k 0).toNat := by
  rw [laneAt, dif_pos hk, List.getD_eq_getElem _ _ (by simpa using hk), Vector.getElem_toList]

theorem laneAt_src (a : VSrc) (hk : k < 1024) : laneAt ((s.veCtx e).src a) k = srcLane s e a k := by
  rw [laneAt_eq hk]
  match a with
  | .v n =>
    simp only [VeCtx.src, srcLane, State.lane, State.veCtx]
    rw [List.getD_eq_getElem _ _ (by simp [n.isLt] : n.val < s.task.v.toList.length)]
    simp
  | .q n => rfl
  | .a n =>
    have hn := n.isLt
    have hr := e.arow.isLt
    simp only [VeCtx.src, srcLane, State.veCtx]
    rw [List.getD_eq_getElem _ _ (by simpa using hk), List.getD_eq_getElem _ _ (by simp; omega)]
    simp only [Vector.getElem_toList, Vector.getElem_ofFn, mul_comm]

/-- An active element of a source is what the statements read there. -/
theorem elem_eq (f : Fmt) (a : VSrc) (hk : k < 1024) (ha : isActive e.sh k) :
    (s.veCtx e).elem f a k = srcLane s e a k % 2 ^ f.width := by
  rw [VeCtx.elem_active _ _ _ (activeIn_iff.2 ha), laneAt_src s e a hk]

end

/-! ### One rounding -/

/-- An element rounded once keeps the flags it comes with (R97, R102). -/
theorem VeCtx.round_fits {x : Num × Flags} (f : Fmt) (k : Nat) (hx : x.1.Clear) :
    Fits (c.round f k x) (Rounds f c.mode (c.draw k) x.1 x.2) :=
  ⟨roundTo_lt f _ _ hx, roundTo_rounds f _ _ _ _⟩

theorem nanOf_spec (hf : F.isInt = false) (sig : Bool) : SpecialTo F (.nan sig) (nanOf F) (if sig then fNV else 0) := by
  cases F <;> simp [Fmt.isInt] at hf <;> cases sig <;> exact ⟨rfl, rfl⟩

theorem nanOf_lt (f : Fmt) : nanOf f < 2 ^ 32 := by cases f <;> decide

theorem pole_fits (hf : F.isInt = false) (neg : Bool) :
    Fits (endBits F neg, fDZ) fun v fl => v = endBits F neg ∧ fl = fDZ := by
  refine ⟨?_, rfl, rfl⟩
  cases F <;> simp [Fmt.isInt] at hf <;> cases neg <;> decide

end Sys2Proof.Machine
end

section
/-! SUPPORT. Elements in floating formats (R92, R148 to R153, R170): each element function against its statement. -/

namespace Sys2Proof.Machine

variable {c : VeCtx} {F : Fmt} {k : Nat}

/-! ### Sums, products and fused forms -/

section
variable (hc : c.fmt = F) (hF : F.isInt = false)
include hc hF

theorem addAt_fits (k x y : Nat) : Fits (c.addAt k x y) fun b fl =>
    ∃ r g, SumSpec c.mode [readNum F x, readNum F y] r g ∧ Rounds F c.mode (c.draw k) r g b fl := by
  subst hc
  rw [VeCtx.addAt, VeCtx.arith2, if_neg (by simp [hF])]
  exact (c.round_fits _ k (sumNum_exact ..).clear).imp fun b fl h => ⟨_, _, sumNum_pair_spec _ (readNum_exact ..) (readNum_exact ..), h⟩

theorem subAt_fits (k x y : Nat) : Fits (c.subAt k x y) fun b fl =>
    ∃ r g, SumSpec c.mode [readNum F x, (readNum F y).negate] r g ∧ Rounds F c.mode (c.draw k) r g b fl := by
  subst hc
  rw [VeCtx.subAt, VeCtx.arith2, if_neg (by simp [hF])]
  exact (c.round_fits _ k (sumNum_exact ..).clear).imp fun b fl h =>
    ⟨_, _, sumNum_pair_spec _ (readNum_exact ..) (Num.exact_negate.2 (readNum_exact ..)), h⟩

theorem mulAt_fits (k x y : Nat) : Fits (c.mulAt k x y) fun b fl =>
    ∃ r g, ProdSpec (readNum F x) (readNum F y) r g ∧ Rounds F c.mode (c.draw k) r g b fl := by
  subst hc
  rw [VeCtx.mulAt, VeCtx.arith2, if_neg (by simp [hF])]
  exact (c.round_fits _ k (mulNum_exact ..).clear).imp fun b fl h => ⟨_, _, mulNum_spec (readNum_exact ..) (readNum_exact ..), h⟩

/-- A fused form; p and q say which of its product and its addend it takes with the other sign. -/
theorem fmaAt_fits (p q : Bool) (k x y z : Nat) : Fits (c.fmaAt p q k x y z) fun b fl =>
    ∃ r g w h, ProdSpec (if p then (readNum F x).negate else readNum F x) (readNum F y) r g
      ∧ SumSpec c.mode [r, if q then (readNum F z).negate else readNum F z] w h ∧ Rounds F c.mode (c.draw k) w (g ||| h) b fl := by
  subst hc
  have signed (n : Bool) (v : Nat) : (if n then (readNum c.fmt v).negate else readNum c.fmt v).Exact := by
    cases n
    · exact readNum_exact ..
    · exact Num.exact_negate.2 (readNum_exact ..)
  rw [VeCtx.fmaAt, if_neg (by simp [hF])]
  obtain ⟨r, g, h, hr, hs, hfl⟩ := fmaNum_spec c.mode (signed p x) (readNum_exact c.fmt y) (signed q z)
  refine (c.round_fits _ k ?_).imp fun b fl hb => ⟨r, g, _, h, hr, hs, hfl ▸ hb⟩
  exact (sumNum_exact ..).clear

end

/-! ### Quotients -/

/-- A quotient delivered in any floating format; a pole is the greatest magnitude where there is no infinity (R92). -/
theorem divTo_fits (hF : F.isInt = false) (mode : RM) (t : Nat) {a b : Num} (ha : a.Exact) (hb : b.Exact) :
    Fits (divTo F mode t a b) (DivSpec F mode t a b) := by
  have hround : (divNum a b).2 ≠ fDZ → divTo F mode t a b =
      ((roundTo F mode t (divNum a b).1).1, (divNum a b).2 ||| (roundTo F mode t (divNum a b).1).2) := by
    intro h
    simp [divTo, h]
  have hspecial : ∀ n, (specialNum n).2 ≠ fDZ := by
    intro n
    match n with
    | .nan sig => cases sig <;> decide
    | .inf _ | .fin _ _ _ _ => exact show (0 : Flags) ≠ fDZ by decide
  have hpole : ∀ neg, divNum a b = (.inf neg, fDZ) → divTo F mode t a b = (endBits F neg, fDZ) := by
    intro neg h
    rw [divTo, h]
    cases F <;> simp [Fmt.isInt] at hF <;> cases neg <;> rfl
  have hshape := divNum_shape ha hb
  refine ⟨(hshape.imp (S' := fun _ => _) (V' := fun _ => _) (P' := fun _ => _) (fun n hn h => ?_) (fun q h => ?_) fun neg h => ?_).const,
    divSpec_iff.2 (hshape.imp (fun n _ h => ?_) (fun q h => ?_) fun neg h => hpole neg h ▸ ⟨rfl, rfl⟩)⟩
  · rw [hround (by rw [h]; exact hspecial n), h]
    exact roundTo_lt _ _ _ (specialNum_clear hn)
  · rw [hround (by rw [h.1]; decide)]
    exact roundTo_lt _ _ _ h.2.clear
  · rw [hpole neg h]
    exact (pole_fits hF neg).1
  · rw [hround (by rw [h]; exact hspecial n), h]
    exact roundTo_specialNum hF ..
  · rw [hround (by rw [h.1]; decide), h.1, flags_zero_or]
    exact roundTo_holds _ _ _ h.2

theorem divAt_fits (hc : c.fmt = F) (hF : F.isInt = false) (k x y : Nat) :
    Fits (c.divAt k x y) (DivSpec F c.mode (c.draw k) (readNum F x) (readNum F y)) := by
  subst hc
  rw [VeCtx.divAt, if_neg (by simp [hF])]
  exact divTo_fits hF _ _ (readNum_exact ..) (readNum_exact ..)

/-! ### Extremes -/

/-- Of two elements that are no NaN, the one that is at most, or at least, the other. -/
theorem pickBits_spec (hF : F.isInt = false) (big : Bool) {x y : Nat} (hx : (readNum F x).Ordered) (hy : (readNum F y).Ordered) :
    (pickBits F big x y).2 = 0 ∧ ((pickBits F big x y).1 = x ∧ (if big then UpTo (readNum F y) (readNum F x) else UpTo (readNum F x) (readNum F y))
      ∨ (pickBits F big x y).1 = y ∧ (if big then UpTo (readNum F x) (readNum F y) else UpTo (readNum F y) (readNum F x))) := by
  have hp : pickBits F big x y = minMaxBits (nanOf F) big (readNum F x) (readNum F y) x y := if_neg (by simp [hF])
  rw [hp, minMaxBits, if_neg (by simp [hx.2, hy.2])]
  by_cases hl : leqSigned (readNum F x) (readNum F y) = true
  · have hup := (leqSigned_iff hx hy).1 hl
    rw [if_pos hl]
    cases big
    · exact ⟨rfl, .inl ⟨rfl, hup⟩⟩
    · exact ⟨rfl, .inr ⟨rfl, hup⟩⟩
  · have hup := (upTo_total hx hy).resolve_left (mt (leqSigned_iff hx hy).2 hl)
    rw [if_neg hl]
    cases big
    · exact ⟨rfl, .inr ⟨rfl, hup⟩⟩
    · exact ⟨rfl, .inl ⟨rfl, hup⟩⟩

/-- b is at least, or at most, x in a format, with −0 below +0. -/
def Beats (F : Fmt) (big : Bool) (b x : Nat) : Prop :=
  if big then UpTo (readNum F x) (readNum F b) else UpTo (readNum F b) (readNum F x)

section
variable {big : Bool} {x y z : Nat}

theorem beats_refl (hx : (readNum F x).Ordered) : Beats F big x x := by cases big <;> exact upTo_refl hx

theorem beats_trans (hx : (readNum F x).Ordered) (hy : (readNum F y).Ordered) (hz : (readNum F z).Ordered) (h1 : Beats F big x y)
    (h2 : Beats F big y z) : Beats F big x z := by
  cases big
  · exact upTo_trans hx hy hz h1 h2
  · exact upTo_trans hz hy hx h2 h1

theorem beats_pickBits (hF : F.isInt = false) (hx : (readNum F x).Ordered) (hy : (readNum F y).Ordered) :
    ((pickBits F big x y).1 = x ∨ (pickBits F big x y).1 = y) ∧ Beats F big (pickBits F big x y).1 x ∧ Beats F big (pickBits F big x y).1 y := by
  obtain ⟨-, h⟩ := pickBits_spec hF big hx hy
  rcases h with ⟨h, hup⟩ | ⟨h, hup⟩ <;> rw [h]
  · exact ⟨.inl rfl, beats_refl hx, hup⟩
  · exact ⟨.inr rfl, hup, beats_refl hy⟩

end

/-- Picking along a list ends with one of its elements that beats them all. -/
theorem foldl_pickBits (hF : F.isInt = false) (big : Bool) (l : List Nat) (x : Nat) (h : ∀ y ∈ x :: l, (readNum F y).Ordered) :
    l.foldl (fun m y => (pickBits F big m y).1) x ∈ x :: l
      ∧ ∀ y ∈ x :: l, Beats F big (l.foldl (fun m y => (pickBits F big m y).1) x) y := by
  induction l generalizing x with
  | nil =>
    refine ⟨by simp, fun y hy => ?_⟩
    rw [List.mem_singleton.1 hy]
    exact beats_refl (h x (by simp))
  | cons z l ih =>
    have hx := h x (by simp)
    have hz := h z (by simp)
    obtain ⟨hmem, hbx, hbz⟩ := beats_pickBits (big := big) hF hx hz
    have hm : (readNum F (pickBits F big x z).1).Ordered := by
      rcases hmem with e | e <;> rw [e] <;> assumption
    obtain ⟨hin, hall⟩ := ih (pickBits F big x z).1 fun y hy => by
      rcases List.mem_cons.1 hy with rfl | hy
      · exact hm
      · exact h y (by simp [hy])
    rw [List.foldl_cons]
    generalize l.foldl (fun m y => (pickBits F big m y).1) (pickBits F big x z).1 = w at hin hall
    have hw : w ∈ x :: z :: l := by
      rcases List.mem_cons.1 hin with rfl | hin
      · rcases hmem with e | e <;> simp [e]
      · simp [hin]
    have hbm := hall _ List.mem_cons_self
    refine ⟨hw, fun y hy => ?_⟩
    rcases List.mem_cons.1 hy with rfl | hy
    · exact beats_trans (h w hw) hm hx hbm hbx
    rcases List.mem_cons.1 hy with rfl | hy
    · exact beats_trans (h w hw) hm hz hbm hbz
    · exact hall y (List.mem_cons_of_mem _ hy)

theorem lt_of_mem_of_width {l : List Nat} {b : Nat} (hl : ∀ x ∈ l, x < 2 ^ F.width) (hb : b ∈ l) : b < 2 ^ 32 := Fmt.lt_of_lt_width (hl b hb)

/-- The extreme of some elements (R148, R170). -/
theorem extremeOf_fits (hc : c.fmt = F) (hF : F.isInt = false) (big : Bool) (k : Nat) {l : List Nat} (hne : l ≠ [])
    (hl : ∀ x ∈ l, x < 2 ^ F.width) : Fits (c.extremeOf big k l) (ExtremeSpec F big l) := by
  subst hc
  obtain ⟨x, l, rfl⟩ := List.exists_cons_of_ne_nil hne
  unfold VeCtx.extremeOf ExtremeSpec
  by_cases hn : ∃ y ∈ x :: l, (readNum c.fmt y).isNaN = true
  · rw [if_pos (by rw [hF]; simpa using hn)]
    refine ⟨nanOf_lt _, ?_⟩
    dsimp only
    rw [if_pos hn]
    exact nanOf_spec hF _
  · have hord : ∀ y ∈ x :: l, (readNum c.fmt y).Ordered := fun y hy =>
      ⟨readNum_exact _ _, Bool.eq_false_iff.2 fun h => hn ⟨y, hy, h⟩⟩
    obtain ⟨hin, hall⟩ := foldl_pickBits hF big l x hord
    rw [if_neg (by rw [hF]; simpa using hn)]
    refine ⟨lt_of_mem_of_width hl hin, ?_⟩
    dsimp only
    rw [if_neg hn]
    refine ⟨rfl, hin, fun y hy => ?_⟩
    have := hall y hy
    cases big <;> exact this

/-- The extreme of two elements is that of their list. -/
theorem pickBits_eq_extremeOf (hc : c.fmt = F) (hF : F.isInt = false) (big : Bool) (k x y : Nat) :
    pickBits F big x y = c.extremeOf big k [x, y] := by
  subst hc
  have hp : pickBits c.fmt big x y = minMaxBits (nanOf c.fmt) big (readNum c.fmt x) (readNum c.fmt y) x y := if_neg (by simp [hF])
  have hany : (!c.fmt.isInt && [x, y].any fun z => (readNum c.fmt z).isNaN) = ((readNum c.fmt x).isNaN || (readNum c.fmt y).isNaN) := by
    simp [hF]
  rw [VeCtx.extremeOf, hany]
  by_cases hn : ((readNum c.fmt x).isNaN || (readNum c.fmt y).isNaN) = true
  · rw [hp, minMaxBits, if_pos hn, if_pos hn]
    simp
  · rw [if_neg hn]
    have ho : (readNum c.fmt x).Ordered ∧ (readNum c.fmt y).Ordered := by
      simp only [Bool.or_eq_true, not_or, Bool.not_eq_true] at hn
      exact ⟨⟨readNum_exact .., hn.1⟩, readNum_exact .., hn.2⟩
    exact Prod.ext rfl (pickBits_spec hF big ho.1 ho.2).1

theorem pickBits_fits (hc : c.fmt = F) (hF : F.isInt = false) (big : Bool) (k : Nat) {x y : Nat} (hx : x < 2 ^ F.width) (hy : y < 2 ^ F.width) :
    Fits (pickBits c.fmt big x y) (ExtremeSpec F big [x, y]) := by
  rw [hc, pickBits_eq_extremeOf hc hF big k]
  exact extremeOf_fits hc hF big k (by simp) (by simp [hx, hy])

end Sys2Proof.Machine
end

section
/-! SUPPORT. Magnitudes, opposites and comparisons of elements (R91, R148, R153), and the element-wise statement. -/

namespace Sys2Proof.Machine

variable {c : VeCtx} {F : Fmt} {k : Nat}

/-! ### Signs -/

/-- A number with a given sign; a NaN has none. -/
def Num.withSign (neg : Bool) : Num → Num
  | .nan s => .nan s
  | .inf _ => .inf neg
  | .fin _ m e s => .fin neg m e s

/-- A code is read with the sign it stands under. -/
theorem FloatFmt.decode_withSign {G : FloatFmt} {b : Nat} (neg : Bool) (hb : b < 2 ^ (G.eb + G.mb)) :
    G.decode (G.signBit neg + b) = (G.decode b).withSign neg := by
  obtain ⟨hs, he, hf, hm⟩ := FloatFmt.signBit_fields (F := G) neg hb
  obtain ⟨-, he', -, hm'⟩ := FloatFmt.signBit_fields (F := G) false hb
  have h0 : G.signBit false + b = b := by simp [FloatFmt.signBit]
  rw [h0] at he' hm'
  have hneg : (neg.toNat == 1) = neg := by cases neg <;> rfl
  unfold FloatFmt.decode
  simp only [hs, he, hf, hm, he', hm', hneg]
  split
  · split <;> rfl
  split
  · rfl
  · split <;> rfl

theorem FloatFmt.neg_decode {G : FloatFmt} {b : Nat} (neg : Bool) (hb : b < 2 ^ (G.eb + G.mb)) (hn : (G.decode (G.signBit neg + b)).isNaN = false) :
    (G.decode (G.signBit neg + b)).neg? = neg := by
  rw [FloatFmt.decode_withSign neg hb] at hn ⊢
  cases h : G.decode b with
  | nan => rw [h] at hn; cases hn
  | inf => rfl
  | fin => rfl

theorem d8_withSign : ∀ x < 256, (d8Decode x).isNaN = false → d8Decode (x % 128) = (d8Decode x).withSign false
    ∧ d8Decode (negateBits .d8 x) = (d8Decode x).withSign (!(d8Decode x).neg? && !(d8Decode x).isZero) := by decide +kernel

theorem readNum_float {G : FloatFmt} (h : floatOf F = some G) (b : Nat) : readNum F b = G.decode (b % 2 ^ G.width) := by
  unfold readNum
  rw [h]

/-- The magnitude and the opposite of an element, read back: only the sign differs; D8 has one zero. -/
theorem readNum_withSign (hF : F.isInt = false) {x : Nat} (hx : x < 2 ^ F.width) (hn : (readNum F x).isNaN = false) :
    readNum F (x % 2 ^ (F.width - 1)) = (readNum F x).withSign false
      ∧ readNum F (negateBits F x) = (readNum F x).withSign (!(readNum F x).neg? && !(F == .d8 && (readNum F x).isZero)) := by
  rcases Fmt.kind F with ⟨G, hG, -, h8, hw⟩ | rfl | ⟨-, h, -⟩
  · obtain ⟨neg, b, hb, rfl⟩ := FloatFmt.exists_code (F := G) (by rwa [hw])
    have hwidth : F.width = G.eb + G.mb + 1 := by rw [← hw, FloatFmt.width]; omega
    have hmod (neg : Bool) : (G.signBit neg + b) % 2 ^ G.width = G.signBit neg + b := Nat.mod_eq_of_lt (FloatFmt.signBit_add_lt neg hb)
    have hlow : (G.signBit neg + b) % 2 ^ (F.width - 1) = G.signBit false + b := by
      rw [hwidth, Nat.add_sub_cancel, (FloatFmt.signBit_fields neg hb).2.2.2]
      simp [FloatFmt.signBit]
    have hopp : negateBits F (G.signBit neg + b) = G.signBit (!neg) + b := by
      have h2 : 2 ^ F.width = 2 ^ (G.eb + G.mb) + 2 ^ (G.eb + G.mb) := by rw [hwidth, pow_succ]; ring
      rw [negateBits, hF, if_neg (by simp), if_neg (by simpa using h8), Nat.mod_eq_of_lt hx, h2, hwidth, Nat.add_sub_cancel]
      cases neg
      · rw [Nat.mod_eq_of_lt] <;> simp [FloatFmt.signBit] <;> omega
      · rw [show G.signBit true + b + 2 ^ (G.eb + G.mb) = b + (2 ^ (G.eb + G.mb) + 2 ^ (G.eb + G.mb)) by simp [FloatFmt.signBit]; ring,
          Nat.add_mod_right, Nat.mod_eq_of_lt (by omega)]
        simp [FloatFmt.signBit]
    have hread (neg : Bool) : readNum F (G.signBit neg + b) = G.decode (G.signBit neg + b) := by rw [readNum_float hG, hmod]
    rw [hread] at hn
    rw [hlow, hopp, hread, hread, hread, FloatFmt.neg_decode neg hb hn, beq_false_of_ne h8]
    simp only [FloatFmt.decode_withSign _ hb]
    cases G.decode b <;> simp [Num.withSign]
  · have hx' : x < 256 := hx
    have hread (b : Nat) (hb : b < 256) : readNum .d8 b = d8Decode b := by
      rw [← Nat.mod_eq_of_lt hb]
      exact congrArg d8Decode (Nat.mod_mod _ _)
    have hneg : negateBits .d8 x < 256 := by
      simp only [negateBits, Fmt.isInt, Bool.false_eq_true, if_false, Nat.mod_eq_of_lt hx, beq_self_eq_true, if_true]
      split <;> omega
    rw [hread x hx'] at hn ⊢
    have h128 : x % 2 ^ (Fmt.d8.width - 1) = x % 128 := rfl
    rw [h128, hread _ (by omega), hread _ hneg]
    exact d8_withSign x hx' hn
  · rw [hF] at h
    cases h

/-- An element that reads as the given one with another sign. -/
theorem signSpec_of_withSign {flip : Bool} {x b : Nat} (hn : (readNum F x).isNaN = false) (hb : b < 2 ^ F.width)
    (h : readNum F b = (readNum F x).withSign ((flip && !(readNum F x).neg?) && !(F == .d8 && (readNum F x).isZero))) :
    SignSpec F flip x b 0 := by
  unfold SignSpec
  dsimp only
  rw [if_neg (by simp [hn])]
  refine ⟨rfl, hb, ?_⟩
  rw [h]
  rcases (readNum_exact F x).cases with ⟨s, hx⟩ | ⟨neg, hx⟩ | ⟨neg, m, e, hx⟩ <;> rw [hx] at hn ⊢
  · cases hn
  · exact ⟨fun _ => by simp [Num.withSign, Num.isZero], fun v hv => by simp [Num.rat] at hv⟩
  · refine ⟨fun h => by simp [Num.rat] at h, fun v hv => ?_⟩
    have hzero : v = 0 ↔ m = 0 := Num.rat_eq_zero_iff hv
    rw [Num.rat_fin, Option.some_inj] at hv
    have hp : (0 : Rat) ≤ m * 2 ^ e := mul_nonneg (Nat.cast_nonneg m) (two_zpow_pos e).le
    constructor
    · rw [Num.withSign, Num.rat_fin, ← hv]
      by_cases hm : m = 0
      · simp [hm, ratMag]
      · have hpos : (0 : Rat) < m * 2 ^ e := mul_pos (Nat.cast_pos.2 (Nat.pos_of_ne_zero hm)) (two_zpow_pos e)
        have hz : (Num.fin neg m e false).isZero = false := Bool.eq_false_iff.2 (mt Num.isZero_iff.1 hm)
        rw [hz, (sign_of_pos neg hpos).2]
        cases flip <;> cases neg <;> simp [Num.neg?]
    · intro h0
      have hz : (Num.fin neg m e false).isZero = true := Num.isZero_iff.2 (hzero.1 h0)
      rw [hz]
      by_cases h8 : F = .d8 <;> simp [Num.withSign, Num.neg?, h8]

theorem nanResult_fits (hF : F.isInt = false) {x : Nat} (hn : (readNum F x).isNaN = true) (flip : Bool) : Fits (nanResult F (readNum F x)) (SignSpec F flip x) := by
  refine ⟨nanOf_lt _, ?_⟩
  unfold SignSpec
  dsimp only
  rw [if_pos hn]
  exact nanOf_spec hF _

section
variable (hc : c.fmt = F) (hF : F.isInt = false) {x y : Nat}
include hc hF

theorem absAt_fits (k : Nat) (hx : x < 2 ^ F.width) : Fits (c.absAt k x) (SignSpec F false x) := by
  subst hc
  rw [VeCtx.absAt, if_neg (by simp [hF])]
  by_cases hn : (readNum c.fmt x).isNaN = true
  · rw [if_pos hn]
    exact nanResult_fits hF hn _
  · rw [Bool.not_eq_true] at hn
    rw [if_neg (by simp [hn])]
    have hb : x % 2 ^ (c.fmt.width - 1) < 2 ^ c.fmt.width := (Nat.mod_le _ _).trans_lt hx
    exact ⟨Fmt.lt_of_lt_width hb, signSpec_of_withSign hn hb (by simpa using (readNum_withSign hF hx hn).1)⟩

theorem negAt_fits (k : Nat) (hx : x < 2 ^ F.width) : Fits (c.negAt k x) (SignSpec F true x) := by
  subst hc
  rw [VeCtx.negAt]
  by_cases hn : (readNum c.fmt x).isNaN = true
  · rw [if_pos (by simp [hF, hn])]
    exact nanResult_fits hF hn _
  · rw [Bool.not_eq_true] at hn
    rw [if_neg (by simp [hn])]
    have hb : negateBits c.fmt x < 2 ^ c.fmt.width := by
      rw [negateBits, hF, if_neg (by simp)]
      split
      · rename_i h8
        rw [beq_iff_eq.1 h8] at hx ⊢
        rw [Nat.mod_eq_of_lt hx]
        split
        · exact hx
        · exact Nat.mod_lt _ (by norm_num)
      · exact Nat.mod_lt _ (by positivity)
    exact ⟨Fmt.lt_of_lt_width hb, signSpec_of_withSign hn hb (by simpa using (readNum_withSign hF hx hn).2)⟩

end

/-! ### Comparisons -/

/-- A condition on two numbers that are no NaN, judged by their order. -/
theorem condNum_iff {a b : Num} (ha : a.Ordered) (hb : b.Ordered) (cond : Cond) : condNum cond a b ↔ Cond.holds cond (a.cmp b) = true := by
  have hlt := Num.cmp_eq_lt ha hb
  have heq := Num.cmp_eq_eq ha hb
  have hgt := Num.cmp_eq_gt ha hb
  unfold condNum
  rw [if_neg (by simp [ha.2, hb.2])]
  cases cond <;> simp only [← hlt, ← heq, ← hgt, Cond.holds] <;> cases a.cmp b <;> decide

/-- A mask is all ones or zero. -/
theorem ones_fits {P : Prop} {b : Bool} (h : P ↔ b = true) {fl : Flags} {Q : Flags → Prop} (hfl : Q fl) :
    Fits ((if b then 2 ^ F.width - 1 else 0 : Nat), fl) fun v g => (P → v = 2 ^ F.width - 1) ∧ (¬ P → v = 0) ∧ Q g := by
  refine ⟨?_, fun hP => if_pos (h.1 hP), fun hP => if_neg (mt h.2 hP), hfl⟩
  have := Fmt.lt_of_lt_width (f := F) (b := 2 ^ F.width - 1) (Nat.sub_lt (by positivity) one_pos)
  dsimp only
  split
  · exact this
  · norm_num

theorem Num.isSignalling_eq_false {n : Num} (h : n.isNaN = false) : n.isSignalling = false := by
  cases n with
  | nan => cases h
  | inf => rfl
  | fin => rfl

theorem cmpAt_fits (hc : c.fmt = F) (hF : F.isInt = false) (cond : Cond) (k x y : Nat) : Fits (c.cmpAt cond k x y) fun b fl =>
    (condNum cond (readNum F x) (readNum F y) → b = 2 ^ F.width - 1) ∧ (¬ condNum cond (readNum F x) (readNum F y) → b = 0)
      ∧ fl = if (readNum F x).isSignalling || (readNum F y).isSignalling
          || (((readNum F x).isNaN || (readNum F y).isNaN) && [Cond.lt, .le, .gt, .ge].contains cond) then fNV else 0 := by
  subst hc
  rw [VeCtx.cmpAt, if_neg (by simp [hF])]
  by_cases hn : ((readNum c.fmt x).isNaN || (readNum c.fmt y).isNaN) = true
  · rw [if_pos hn]
    refine ones_fits ?_ ?_
    · unfold condNum
      rw [if_pos (by simpa using hn)]
      simp
    · rw [hn, Bool.true_and, Bool.or_comm _ ([Cond.lt, .le, .gt, .ge].contains cond)]
      cases cond <;> rfl
  · rw [if_neg hn]
    simp only [Bool.or_eq_true, not_or, Bool.not_eq_true] at hn
    obtain ⟨ha, hb⟩ := hn
    refine ones_fits (condNum_iff ⟨readNum_exact .., ha⟩ ⟨readNum_exact .., hb⟩ cond) ?_
    simp [ha, hb, Num.isSignalling_eq_false ha, Num.isSignalling_eq_false hb]

end Sys2Proof.Machine
end

section
/-! SUPPORT. The element-wise floating instructions of the VE by their lanes (R148, R150, R151, R153). -/

namespace Sys2Proof.Machine

variable {s : State} {e : VeEntry} {F : Fmt} {k : Nat}

/-- The element of a source at an index, as the statements read it. -/
def lowLane (s : State) (e : VeEntry) (f : Fmt) (a : VSrc) (k : Nat) : Nat := srcLane s e a k % 2 ^ f.width

theorem lowLane_lt (f : Fmt) (a : VSrc) (k : Nat) : lowLane s e f a k < 2 ^ f.width := Nat.mod_lt _ (by positivity)

/-! ### Instructions of one, two and three sources -/

/-- An instruction of one source leaves in each active lane what its element function gives there. -/
theorem map1_leaves {a : VSrc} {g : Nat → Nat → Nat × Flags} {P : Nat → Nat → Nat → Flags → Prop} (hF : (s.veCtx e).fmt = F)
    (hg : ∀ k x, x < 2 ^ F.width → Fits (g k x) (P k x)) :
    Leaves e.sh ((s.veCtx e).map1 g a) fun k b fl => P k (lowLane s e F a k) b fl := by
  unfold VeCtx.map1
  refine VeCtx.each_leaves (c := s.veCtx e) fun k hk ha => ?_
  simp only [elem_eq s e _ _ hk ha, hF]
  exact hg k _ (lowLane_lt F a k)

/-- An element-wise instruction leaves what `floatLane` says of it. -/
def LeavesLane (s : State) (e : VeEntry) (F : Fmt) (i : Instr) (r : VeAns) : Prop := Leaves e.sh r fun k b fl =>
  ∀ srcs P, floatLane F (s.veCtx e).mode (veDraw s e k) e.xs.toNat i = some (srcs, P) → P (srcs.map fun a => lowLane s e F a k) b fl

section
variable (hF : (s.veCtx e).fmt = F) {i : Instr} {a b d : VSrc} {Q : Nat → List Nat → Nat → Flags → Prop}
include hF

theorem leaves_map1 {g : Nat → Nat → Nat × Flags} (hi : ∀ t, floatLane F (s.veCtx e).mode t e.xs.toNat i = some ([a], Q t))
    (hg : ∀ k x, x < 2 ^ F.width → Fits (g k x) (Q ((s.veCtx e).draw k) [x])) : LeavesLane s e F i ((s.veCtx e).map1 g a) := by
  refine (map1_leaves hF hg).imp fun k b fl _ h srcs P hP => ?_
  rw [hi, Option.some_inj, Prod.mk.injEq] at hP
  obtain ⟨rfl, rfl⟩ := hP
  rwa [← veCtx_draw]

theorem leaves_map2 {g : Nat → Nat → Nat → Nat × Flags} (hi : ∀ t, floatLane F (s.veCtx e).mode t e.xs.toNat i = some ([a, b], Q t))
    (hg : ∀ k x y, x < 2 ^ F.width → y < 2 ^ F.width → Fits (g k x y) (Q ((s.veCtx e).draw k) [x, y])) :
    LeavesLane s e F i ((s.veCtx e).map2 g a b) := by
  unfold LeavesLane VeCtx.map2
  refine VeCtx.each_leaves (c := s.veCtx e) fun k hk ha => ?_
  simp only [elem_eq s e _ _ hk ha, hF]
  refine (hg k _ _ (lowLane_lt F a k) (lowLane_lt F b k)).imp fun v fl h srcs P hP => ?_
  rw [hi, Option.some_inj, Prod.mk.injEq] at hP
  obtain ⟨rfl, rfl⟩ := hP
  rwa [← veCtx_draw]

theorem leaves_map3 {g : Nat → Nat → Nat → Nat → Nat × Flags} (hi : ∀ t, floatLane F (s.veCtx e).mode t e.xs.toNat i = some ([a, b, d], Q t))
    (hg : ∀ k x y z, Fits (g k x y z) (Q ((s.veCtx e).draw k) [x, y, z])) :
    LeavesLane s e F i ((s.veCtx e).map3 g a b d) := by
  unfold LeavesLane VeCtx.map3
  refine VeCtx.each_leaves (c := s.veCtx e) fun k hk ha => ?_
  simp only [elem_eq s e _ _ hk ha, hF]
  refine (hg k _ _ _).imp fun v fl h srcs P hP => ?_
  rw [hi, Option.some_inj, Prod.mk.injEq] at hP
  obtain ⟨rfl, rfl⟩ := hP
  rwa [← veCtx_draw]

end

/-- The captured scalar, as the statements read it (R151). -/
theorem veCtx_scalar (hF : (s.veCtx e).fmt = F) : (s.veCtx e).scalar = e.xs.toNat % 2 ^ F.width := by
  rw [VeCtx.scalar, hF]
  rfl

/-- The element-wise instructions in a floating format. -/
theorem floatLane_leaves {f : VeCtx → VeAns} {i : Instr} (hF : (s.veCtx e).fmt = F) (hint : F.isInt = false) (hf : i.ve = some f)
    (h : (floatLane F (s.veCtx e).mode 0 0 i).isSome = true) : LeavesLane s e F i (f (s.veCtx e)) := by
  have hx : (s.veCtx e).scalar < 2 ^ F.width := by
    rw [veCtx_scalar hF]
    exact Nat.mod_lt _ (by positivity)
  unfold floatLane at h
  have hs := veCtx_scalar hF
  split at h
  case h_1 d a b =>
    cases hf
    exact leaves_map2 hF (fun _ => rfl) fun k x y _ _ => addAt_fits hF hint k x y
  case h_2 d a b =>
    cases hf
    exact leaves_map2 hF (fun _ => rfl) fun k x y _ _ => subAt_fits hF hint k x y
  case h_3 d a b =>
    cases hf
    exact leaves_map2 hF (fun _ => rfl) fun k x y _ _ => mulAt_fits hF hint k x y
  case h_4 d a r =>
    cases hf
    exact leaves_map1 hF (fun _ => rfl) fun k x _ => hs ▸ addAt_fits hF hint k x _
  case h_5 d a r =>
    cases hf
    exact leaves_map1 hF (fun _ => rfl) fun k x _ => hs ▸ subAt_fits hF hint k x _
  case h_6 d a r =>
    cases hf
    exact leaves_map1 hF (fun _ => rfl) fun k x _ => hs ▸ mulAt_fits hF hint k x _
  case h_7 d a b z =>
    cases hf
    exact leaves_map3 hF (fun _ => rfl) fun k x y z => fmaAt_fits hF hint false false k x y z
  case h_8 d a b z =>
    cases hf
    exact leaves_map3 hF (fun _ => rfl) fun k x y z => fmaAt_fits hF hint false true k x y z
  case h_9 d a b z =>
    cases hf
    exact leaves_map3 hF (fun _ => rfl) fun k x y z => fmaAt_fits hF hint true false k x y z
  case h_10 d a b =>
    cases hf
    exact leaves_map2 hF (fun _ => rfl) fun k x y _ _ => divAt_fits hF hint k x y
  case h_11 d a b =>
    cases hf
    exact leaves_map2 hF (fun _ => rfl) fun k x y hx hy => pickBits_fits hF hint false k hx hy
  case h_12 d a b =>
    cases hf
    exact leaves_map2 hF (fun _ => rfl) fun k x y hx hy => pickBits_fits hF hint true k hx hy
  case h_13 d a r =>
    cases hf
    exact leaves_map1 hF (fun _ => rfl) fun k x hl => hs ▸ pickBits_fits hF hint false k hl hx
  case h_14 d a r =>
    cases hf
    exact leaves_map1 hF (fun _ => rfl) fun k x hl => hs ▸ pickBits_fits hF hint true k hl hx
  case h_15 d a =>
    cases hf
    exact leaves_map1 hF (fun _ => rfl) fun k x hl => absAt_fits hF hint k hl
  case h_16 d a =>
    cases hf
    exact leaves_map1 hF (fun _ => rfl) fun k x hl => negAt_fits hF hint k hl
  case h_17 d a b cond =>
    cases hf
    exact leaves_map2 hF (fun _ => rfl) fun k x y _ _ => cmpAt_fits hF hint cond k x y
  case h_18 => cases h

end Sys2Proof.Machine
end

section
/-! SUPPORT. Conversions, reductions and indices of the VE in floating formats (R155, R160, R161, R170, R171). -/

namespace Sys2Proof.Machine

variable {s : State} {e : VeEntry} {F : Fmt} {k : Nat}

/-! ### Conversions -/

theorem Num.rat_scale {n : Num} {x : Rat} (h : n.rat = some x) (j : Int) : (n.scale j).rat = some (x * scaled 1 j) := by
  obtain ⟨neg, m, e, rfl, rfl⟩ := Num.rat_eq_some h
  rw [scaled_eq, Int.cast_one, one_mul]
  by_cases hm : m = 0
  · rw [Num.scale, if_pos hm, Num.rat_fin, hm]
    simp
  · rw [Num.scale, if_neg hm, Num.rat_fin, two_zpow_add]
    cases neg <;> simp [mul_assoc]

/-- The formats in which VQNT keeps to finite values (R160). -/
def quantLimited (D : Fmt) : Bool := D == .fp32 || D == .bf16 || D == .fp16

/-- The largest finite value of a binary floating format under a sign. -/
def topBits (D : Fmt) (neg : Bool) : Nat := ((floatOf D).map fun G => G.signBit neg + G.maxBits).getD 0

/-- VQNT's last step in any format. -/
def quantBits (D : Fmt) (v : Num) (r : Nat × Flags) : Nat × Flags :=
  match floatOf D with
  | some G => quantised D G v r
  | none => r

section
variable {D : Fmt} {r : Nat × Flags}

theorem quantLimited_iff : quantLimited D = true ↔ D = .fp32 ∨ D = .bf16 ∨ D = .fp16 := by simp [quantLimited, or_assoc]

theorem topBits_lt (neg : Bool) : topBits D neg < 2 ^ 32 := by cases D <;> cases neg <;> decide

theorem quantBits_other (h : quantLimited D = false) (v : Num) : quantBits D v r = r := by
  unfold quantBits quantised
  unfold quantLimited at h
  split
  · rw [if_neg (by simp [h])]
  · rfl

theorem quantBits_inf (h : quantLimited D = true) (neg : Bool) : quantBits D (.inf neg) r = (topBits D neg, fNV) := by
  rcases quantLimited_iff.1 h with rfl | rfl | rfl <;> rfl

/-- An overflow into a limited format becomes the largest finite value. -/
theorem quantBits_num (h : quantLimited D = true) {v : Num} (hv : ∀ neg, v ≠ .inf neg) :
    quantBits D v r = if r.2 &&& fOF != 0 then (topBits D v.neg?, r.2) else r := by
  match v with
  | .inf neg => exact absurd rfl (hv neg)
  | .nan _ | .fin _ _ _ _ => rcases quantLimited_iff.1 h with rfl | rfl | rfl <;> rfl

/-- A number that sets no overflow is left as it is rounded. -/
theorem quantBits_same {v : Num} (hv : ∀ neg, v ≠ .inf neg) (hr : r.2 &&& fOF = 0) : quantBits D v r = r := by
  cases h : quantLimited D
  · exact quantBits_other h v
  · rw [quantBits_num h hv, if_neg (by simp [hr])]

end

/-- VQNT's element (R160). -/
theorem quant_fits (D : Fmt) (m : RM) (t : Nat) {n : Num} (hn : n.Exact) (j : Int) :
    Fits (quantBits D (n.scale j) (roundTo D m t (n.scale j))) (QuantSpec D m t n j) := by
  have hlt : (roundTo D m t (n.scale j)).1 < 2 ^ 32 := roundTo_lt _ _ _ (Num.exact_scale hn).clear
  have hspec := roundTo_special D m t (n.scale j)
  rcases hn.cases with ⟨sig, rfl⟩ | ⟨neg, rfl⟩ | ⟨neg, p, q, rfl⟩
  · have hscale : (Num.nan sig).scale j = .nan sig := rfl
    rw [hscale] at hlt hspec ⊢
    have hfl : (roundTo D m t (.nan sig)).2 &&& fOF = 0 := by
      rw [hspec.2]
      split <;> decide
    rw [quantBits_same (by simp) hfl]
    exact ⟨hlt, hspec⟩
  · have hscale : (Num.inf neg).scale j = .inf neg := rfl
    rw [hscale] at hlt hspec ⊢
    unfold QuantSpec
    cases h : quantLimited D
    · rw [quantBits_other h]
      refine ⟨hlt, fun hl => ?_, fun _ => hspec⟩
      rw [quantLimited_iff.2 hl] at h
      cases h
    · rw [quantBits_inf h]
      exact ⟨topBits_lt _, fun _ => ⟨rfl, rfl⟩, fun hl => absurd (quantLimited_iff.1 h) hl⟩
  · have hfin : ∀ neg', (Num.fin neg p q false).scale j ≠ .inf neg' := by simp [Num.scale]
    have hfit : (quantBits D ((Num.fin neg p q false).scale j) (roundTo D m t ((Num.fin neg p q false).scale j))).1 < 2 ^ 32 := by
      cases h : quantLimited D
      · rwa [quantBits_other h]
      · rw [quantBits_num h hfin]
        split
        · exact topBits_lt _
        · exact hlt
    refine ⟨hfit, fun x hx => ⟨fun h0 => ?_, fun h0 => ?_⟩⟩
    · obtain rfl : p = 0 := (Num.rat_eq_zero_iff hx).1 h0
      rw [Num.scale, if_pos rfl] at hspec ⊢
      obtain ⟨hfl, hb⟩ := hspec rfl rfl
      rw [quantBits_same (by simp) (by rw [hfl]; decide)]
      exact fun _ _ => ⟨hfl, hb⟩
    · have hy := Num.rat_scale hx j
      have hy0 : x * scaled 1 j ≠ 0 := mul_ne_zero h0 (by rw [scaled_eq, Int.cast_one, one_mul]; exact (two_zpow_pos j).ne')
      have hround := roundTo_holds D m t (Num.holds_of_rat hy hy0)
      have hneg : ((Num.fin neg p q false).scale j).neg? = decide (x < 0) := by
        rw [Num.rat_fin, Option.some_inj] at hx
        have hp : (0 : Rat) ≤ p * 2 ^ q := mul_nonneg (Nat.cast_nonneg p) (two_zpow_pos q).le
        cases neg <;> simp [Num.scale, Num.neg?] at hx ⊢
        · linarith
        · rcases (lt_or_eq_of_le hp) with h | h
          · linarith
          · exact absurd (by rw [← hx, ← h, neg_zero]) h0
      cases h : quantLimited D
      · rw [quantBits_other h]
        exact ⟨_, hround, (if_neg (by rw [Bool.and_eq_true]; exact fun hl => by rw [quantLimited, hl.1] at h; cases h)).symm⟩
      · rw [quantBits_num h hfin, hneg]
        have hl : (D == .fp32 || D == .bf16 || D == .fp16) = true := h
        generalize roundTo D m t ((Num.fin neg p q false).scale j) = r at hround
        by_cases hof : (r.2 &&& fOF != 0) = true
        · rw [if_pos hof]
          exact ⟨r.1, hround, (if_pos (by rw [hl]; exact hof)).symm⟩
        · rw [if_neg hof]
          exact ⟨r.1, hround, (if_neg (by rw [hl]; exact hof)).symm⟩

/-- VCVT (R155). -/
theorem veCvt_leaves (hF : (s.veCtx e).fmt = F) (a : VSrc) (D : Fmt) : Leaves e.sh (veCvt a D (s.veCtx e)) fun k b fl =>
    Rounds D (s.veCtx e).mode (veDraw s e k) (readNum F (lowLane s e F a k)) 0 b fl := by
  unfold veCvt
  refine map1_leaves (P := fun k x b fl => Rounds D (s.veCtx e).mode (veDraw s e k) (readNum F x) 0 b fl) hF fun k x _ => ?_
  rw [← veCtx_draw, hF]
  exact VeCtx.round_fits D k (readNum_exact ..).clear

/-- VQNT (R160). -/
theorem veQnt_leaves (hF : (s.veCtx e).fmt = F) (a : VSrc) {D : Fmt} (hD : (s.veCtx e).convFmt = some D) :
    Leaves e.sh (veQnt a (s.veCtx e)) fun k b fl =>
      QuantSpec D (s.veCtx e).mode (veDraw s e k) (readNum F (lowLane s e F a k)) e.xs.toInt b fl := by
  unfold veQnt
  rw [hD]
  refine map1_leaves (P := fun k x b fl => QuantSpec D (s.veCtx e).mode (veDraw s e k) (readNum F x) e.xs.toInt b fl) hF fun k x _ => ?_
  rw [← veCtx_draw, hF]
  have := quant_fits D (s.veCtx e).mode ((s.veCtx e).draw k) (readNum_exact F x) e.xs.toInt
  have hround : (s.veCtx e).round D k ((readNum F x).scale e.xs.toInt, 0)
      = roundTo D (s.veCtx e).mode ((s.veCtx e).draw k) ((readNum F x).scale e.xs.toInt) := Prod.ext rfl (flags_zero_or _)
  rw [← hround] at this
  exact this

/-- VDQ (R161). -/
theorem veDq_leaves (hF : (s.veCtx e).fmt = F) (a : VSrc) {D : Fmt} (hD : (s.veCtx e).convFmt = some D) :
    Leaves e.sh (veDq a (s.veCtx e)) fun k b fl =>
      Rounds F (s.veCtx e).mode (veDraw s e k) ((readNum D (lowLane s e D a k)).scale e.xs.toInt) 0 b fl := by
  unfold veDq
  rw [hD]
  refine VeCtx.each_leaves (c := s.veCtx e) fun k hk ha => ?_
  rw [elem_eq s e D a hk ha, ← veCtx_draw, hF]
  exact VeCtx.round_fits F k (Num.exact_scale (readNum_exact ..)).clear

theorem veQnt_fault {a : VSrc} (h : (s.veCtx e).convFmt = none) : veQnt a (s.veCtx e) = .error ⟨.format, instrWord e.instr⟩ := by
  unfold veQnt
  rw [h]
  rfl

theorem veDq_fault {a : VSrc} (h : (s.veCtx e).convFmt = none) : veDq a (s.veCtx e) = .error ⟨.format, instrWord e.instr⟩ := by
  unfold veDq
  rw [h]
  rfl

/-! ### Reductions -/

theorem shRows_eq (sh : Word) : shRows sh = rowsOf sh := by simp [shRows, rowsOf, bits, bitsN]

theorem shCols_eq (sh : Word) : shCols sh = colsOf sh := by simp [shCols, colsOf, bits, bitsN]

section
variable {a : VSrc} {g : Nat → List Nat → Nat × Flags} {P : Nat → List Nat → Nat → Flags → Prop} (hF : (s.veCtx e).fmt = F)
  (hg : ∀ k l, l ≠ [] → (∀ x ∈ l, x < 2 ^ F.width) → Fits (g k l) (P k l))
include hF hg

/-- A reduction of every active column to row 0. -/
theorem reduceColumns_leaves : Leaves e.sh ((s.veCtx e).reduceColumns a g) fun k b fl =>
    if k / 64 = 0 then P k ((List.range (rowsOf e.sh)).map fun r => lowLane s e F a (64 * r + k)) b fl else b = 0 ∧ fl = 0 := by
  unfold VeCtx.reduceColumns
  refine VeCtx.each_leaves (c := s.veCtx e) fun k hk ha => ?_
  obtain ⟨hr, hcol⟩ : isActive e.sh k := ha
  by_cases h0 : k / 64 = 0
  · simp only [h0, if_true]
    have hl : ((List.range (s.veCtx e).rows).map fun r => (s.veCtx e).elem (s.veCtx e).fmt a (r * 64 + k))
        = (List.range (rowsOf e.sh)).map fun r => lowLane s e F a (64 * r + k) := by
      rw [VeCtx.rows, shRows_eq]
      refine List.map_congr_left fun r hr => ?_
      have hr : r < rowsOf e.sh := List.mem_range.1 hr
      have hrow : rowsOf e.sh ≤ 16 := min_le_left _ _
      rw [hF, mul_comm, elem_eq s e F a (by omega) ⟨by rw [show (64 * r + k) / 64 = r by omega]; exact hr,
        by rw [show (64 * r + k) % 64 = k % 64 by omega]; exact hcol⟩, lowLane]
    rw [hl]
    refine hg k _ (by simp; omega) fun x hx => ?_
    obtain ⟨r, -, rfl⟩ := List.mem_map.1 hx
    exact lowLane_lt _ _ _
  · simp only [h0, if_false]
    exact ⟨by norm_num, rfl, rfl⟩

/-- A reduction of every active row to column 0. -/
theorem reduceRows_leaves : Leaves e.sh ((s.veCtx e).reduceRows a g) fun k b fl =>
    if k % 64 = 0 then P k ((List.range (colsOf e.sh)).map fun c => lowLane s e F a (k + c)) b fl else b = 0 ∧ fl = 0 := by
  unfold VeCtx.reduceRows
  refine VeCtx.each_leaves (c := s.veCtx e) fun k hk ha => ?_
  obtain ⟨hrow, hcol⟩ : isActive e.sh k := ha
  by_cases h0 : k % 64 = 0
  · simp only [h0, if_true]
    have hl : ((List.range (s.veCtx e).cols).map fun j => (s.veCtx e).elem (s.veCtx e).fmt a (k + j))
        = (List.range (colsOf e.sh)).map fun c => lowLane s e F a (k + c) := by
      rw [VeCtx.cols, shCols_eq]
      refine List.map_congr_left fun j hj => ?_
      have hj : j < colsOf e.sh := List.mem_range.1 hj
      have hcols : colsOf e.sh ≤ 64 := min_le_left _ _
      rw [hF, elem_eq s e F a (by omega) ⟨by rw [show (k + j) / 64 = k / 64 by omega]; exact hrow,
        by rw [show (k + j) % 64 = j by omega]; exact hj⟩, lowLane]
    rw [hl]
    refine hg k _ (by simp; omega) fun x hx => ?_
    obtain ⟨r, -, rfl⟩ := List.mem_map.1 hx
    exact lowLane_lt _ _ _
  · simp only [h0, if_false]
    exact ⟨by norm_num, rfl, rfl⟩

end

theorem sumOf_fits {c : VeCtx} (hc : c.fmt = F) (hint : F.isInt = false) (k : Nat) {l : List Nat} (hne : l ≠ []) :
    Fits (c.sumOf k l) fun b fl => ∃ r g, SumSpec c.mode (l.map (readNum F)) r g ∧ Rounds F c.mode (c.draw k) r g b fl := by
  subst hc
  rw [VeCtx.sumOf, if_neg (by simp [hint])]
  refine (c.round_fits _ k (sumNum_exact ..).clear).imp fun b fl h => ⟨_, _, sumNum_spec _ (by simpa using hne) fun t ht => ?_, h⟩
  obtain ⟨x, -, rfl⟩ := List.mem_map.1 ht
  exact readNum_exact ..

/-- A reduction leaves what `floatReduce` says of it. -/
def LeavesReduced (s : State) (e : VeEntry) (F : Fmt) (i : Instr) (r : VeAns) : Prop := Leaves e.sh r fun k b fl =>
  ∀ cols a P, floatReduce F (s.veCtx e).mode (veDraw s e k) i = some (cols, a, P) →
    if cols then if k / 64 = 0 then P ((List.range (rowsOf e.sh)).map fun r => lowLane s e F a (64 * r + k)) b fl else b = 0 ∧ fl = 0
    else if k % 64 = 0 then P ((List.range (colsOf e.sh)).map fun c => lowLane s e F a (k + c)) b fl else b = 0 ∧ fl = 0

section
variable (hF : (s.veCtx e).fmt = F) {i : Instr} {a : VSrc} {g : Nat → List Nat → Nat × Flags} {Q : Nat → List Nat → Nat → Flags → Prop}
  (hg : ∀ k l, l ≠ [] → (∀ x ∈ l, x < 2 ^ F.width) → Fits (g k l) (Q ((s.veCtx e).draw k) l))
include hF hg

theorem leavesReduced_columns (hi : ∀ t, floatReduce F (s.veCtx e).mode t i = some (true, a, Q t)) :
    LeavesReduced s e F i ((s.veCtx e).reduceColumns a g) := by
  refine (reduceColumns_leaves hF hg).imp fun k b fl _ h cols a P hP => ?_
  rw [hi, Option.some_inj, Prod.mk.injEq, Prod.mk.injEq] at hP
  obtain ⟨rfl, rfl, rfl⟩ := hP
  rwa [← veCtx_draw]

theorem leavesReduced_rows (hi : ∀ t, floatReduce F (s.veCtx e).mode t i = some (false, a, Q t)) :
    LeavesReduced s e F i ((s.veCtx e).reduceRows a g) := by
  refine (reduceRows_leaves hF hg).imp fun k b fl _ h cols a P hP => ?_
  rw [hi, Option.some_inj, Prod.mk.injEq, Prod.mk.injEq] at hP
  obtain ⟨rfl, rfl, rfl⟩ := hP
  rwa [← veCtx_draw]

end

/-- The reductions in a floating format (R170). -/
theorem floatReduce_leaves {f : VeCtx → VeAns} {i : Instr} (hF : (s.veCtx e).fmt = F) (hint : F.isInt = false) (hf : i.ve = some f)
    (h : (floatReduce F (s.veCtx e).mode 0 i).isSome = true) : LeavesReduced s e F i (f (s.veCtx e)) := by
  unfold floatReduce at h
  split at h
  case h_1 =>
    cases hf
    exact leavesReduced_columns hF (fun k l hne _ => sumOf_fits hF hint k hne) fun _ => rfl
  case h_2 =>
    cases hf
    exact leavesReduced_rows hF (fun k l hne _ => sumOf_fits hF hint k hne) fun _ => rfl
  case h_3 =>
    cases hf
    exact leavesReduced_columns hF (fun k l hne hl => extremeOf_fits hF hint true k hne hl) fun _ => rfl
  case h_4 =>
    cases hf
    exact leavesReduced_rows hF (fun k l hne hl => extremeOf_fits hF hint true k hne hl) fun _ => rfl
  case h_5 =>
    cases hf
    exact leavesReduced_columns hF (fun k l hne hl => extremeOf_fits hF hint false k hne hl) fun _ => rfl
  case h_6 =>
    cases hf
    exact leavesReduced_rows hF (fun k l hne hl => extremeOf_fits hF hint false k hne hl) fun _ => rfl
  case h_7 => cases h

/-- VIOTA in a floating format (R171). -/
theorem veIota_leaves (hF : (s.veCtx e).fmt = F) (hint : F.isInt = false) : Leaves e.sh (veIota (s.veCtx e)) fun k b fl =>
    Rounds F (s.veCtx e).mode (veDraw s e k) (.ofInt (iotaIndex e.xs k : Nat)) 0 b fl := by
  unfold veIota
  refine VeCtx.each_leaves (c := s.veCtx e) fun k _ _ => ?_
  rw [hF, if_neg (by simp [hint]), ← veCtx_draw]
  exact VeCtx.round_fits F k (Num.Exact.clear rfl)

end Sys2Proof.Machine
end

section
/-! SUPPORT. Values beyond a format's range (R102, R105): a huge value overflows and a tiny one rounds to zero, whatever it is. -/

namespace Sys2Proof.Machine

variable {F : Fmt} {G : FloatFmt} {x : Rat} {b b' : Nat} {fl fl' : Flags} {mode : RM} {t : Nat}

/-- A rounding has one result. -/
theorem floatRounded_unique (hG : G.Sized) (hx : x ≠ 0) (h : FloatRounded G mode t x b fl) (h' : FloatRounded G mode t x b' fl') :
    b = b' ∧ fl = fl' := by
  have hpos : 0 < ratMag x := by rw [ratMag_eq_abs]; exact abs_pos.2 hx
  obtain ⟨top, hlo, hhi⟩ := exists_mem_Ico_zpow hpos (one_lt_two (α := Rat))
  have htop : scaled 1 top ≤ ratMag x ∧ ratMag x < scaled 1 (top + 1) := by
    simp only [scaled_eq, Int.cast_one, one_mul]
    exact ⟨hlo, hhi⟩
  obtain ⟨hover, hfits⟩ := h top htop
  obtain ⟨hover', hfits'⟩ := h' top htop
  rcases lt_or_ge ((G.decode G.maxBits).rat.getD 0) (scaled (unitsSpec mode (decide (x < 0)) t
      (ratMag x / scaled 1 (max (top - G.mb) (G.emin - G.mb)))) (max (top - G.mb) (G.emin - G.mb))) with hlt | hle
  · obtain ⟨h1, h2⟩ := hover hlt
    obtain ⟨h1', h2'⟩ := hover' hlt
    exact ⟨h2.trans h2'.symm, h1.trans h1'.symm⟩
  · obtain ⟨h1, h2, h3, h4⟩ := hfits hle
    obtain ⟨h1', h2', h3', h4'⟩ := hfits' hle
    refine ⟨?_, h4.trans h4'.symm⟩
    have hsign : (if decide (x < 0) = true then 2 ^ (G.eb + G.mb) else 0) = G.signBit (decide (x < 0)) := rfl
    rw [hsign] at h1 h2 h1' h2'
    obtain ⟨c, rfl⟩ := Nat.exists_eq_add_of_le h1
    obtain ⟨c', rfl⟩ := Nat.exists_eq_add_of_le h1'
    rw [Nat.add_sub_cancel_left] at h2 h2'
    have small : ∀ c, c < 2 ^ (G.eb + G.mb) → (G.decode (G.signBit (decide (x < 0)) + c)).rat ≠ none → c ≤ G.maxBits := by
      intro c hc hne
      by_contra hlt
      exact hne (FloatFmt.decode_above _ hc (not_le.1 hlt))
    have hc := small c h2 (by rw [h3]; simp)
    have hc' := small c' h2' (by rw [h3']; simp)
    rw [FloatFmt.rat_decode_signBit_add hG _ hc, ← h3', FloatFmt.rat_decode_signBit_add hG _ hc', Option.some_inj] at h3
    have hval : G.valueOf c = G.valueOf c' := by
      cases hneg : decide (x < 0) <;> rw [hneg] at h3
      · simpa using h3
      · simpa using h3
    rw [G.valueOf_strictMono.injective hval]

/-- The formats of VSF (R156). -/
def VsfFmt (F : Fmt) (G : FloatFmt) : Prop := floatOf F = some G ∧ F ∈ [Fmt.fp32, .bf16, .fp16]

theorem VsfFmt.of_mem (h : F ∈ [Fmt.fp32, .bf16, .fp16]) : ∃ G, VsfFmt F G := by
  simp only [List.mem_cons, List.mem_nil_iff, or_false] at h
  rcases h with rfl | rfl | rfl
  · exact ⟨ff32, rfl, by decide⟩
  · exact ⟨ffBf16, rfl, by decide⟩
  · exact ⟨ff16, rfl, by decide⟩

theorem VsfFmt.cases (h : VsfFmt F G) : (F = .fp32 ∧ G = ff32) ∨ (F = .bf16 ∧ G = ffBf16) ∨ (F = .fp16 ∧ G = ff16) := by
  obtain ⟨hG, hF⟩ := h
  simp only [List.mem_cons, List.mem_nil_iff, or_false] at hF
  rcases hF with rfl | rfl | rfl
  · exact .inl ⟨rfl, (Option.some_inj.1 hG).symm⟩
  · exact .inr (.inl ⟨rfl, (Option.some_inj.1 hG).symm⟩)
  · exact .inr (.inr ⟨rfl, (Option.some_inj.1 hG).symm⟩)

section
variable (h : VsfFmt F G)
include h

theorem VsfFmt.sized : G.Sized := FloatFmt.sized_of_floatOf h.1

theorem VsfFmt.isInt : F.isInt = false := by rcases h.cases with ⟨rfl, -⟩ | ⟨rfl, -⟩ | ⟨rfl, -⟩ <;> rfl

theorem VsfFmt.bounds : 7 ≤ G.mb ∧ G.mb ≤ 23 ∧ -149 ≤ G.emin - G.mb ∧ G.emin ≤ -14 := by
  rcases h.cases with ⟨-, rfl⟩ | ⟨-, rfl⟩ | ⟨-, rfl⟩ <;> decide

theorem VsfFmt.valueOf_maxBits_lt : G.valueOf G.maxBits < 2 ^ (128 : Int) := by
  rcases h.cases with ⟨-, rfl⟩ | ⟨-, rfl⟩ | ⟨-, rfl⟩ <;>
    simp [FloatFmt.valueOf, FloatFmt.mant, FloatFmt.expo, FloatFmt.maxBits, ff32, ffBf16, ff16, FloatFmt.bias] <;> norm_num

theorem VsfFmt.rounded_iff : RoundedTo F mode t x b fl ↔ FloatRounded G mode t x b fl := by
  unfold RoundedTo
  rw [h.1]

/-- A huge value overflows to the infinity. -/
theorem VsfFmt.rounded_huge (hx : 2 ^ (1024 : Int) ≤ x) : RoundedTo F .rne 0 x G.infBits (fOF ||| fNX) := by
  have hx0 : 0 < x := (two_zpow_pos _).trans_le hx
  have hmag : ratMag x = x := by rw [ratMag_eq_abs, abs_of_pos hx0]
  have hneg : decide (x < 0) = false := by simpa using hx0.le
  obtain ⟨hmb, -, -, hemin⟩ := h.bounds
  rw [h.rounded_iff]
  unfold FloatRounded
  simp only [hmag, hneg, scaled_eq, Int.cast_one, one_mul]
  intro top htop
  have htop1 : 1024 < top + 1 := lt_of_two_zpow_lt (hx.trans_lt htop.2)
  have hu : max (top - (G.mb : Int)) (G.emin - G.mb) = top - G.mb := by omega
  rw [hu]
  have hbig : (G.decode G.maxBits).rat.getD 0 = G.valueOf G.maxBits := by
    have := FloatFmt.rat_decode_signBit_add h.sized false le_rfl
    rw [FloatFmt.signBit, if_neg (by simp), zero_add] at this
    rw [this]
    rfl
  have hunits : ((2 ^ G.mb : Nat) : Int) ≤ unitsSpec .rne false 0 (x / 2 ^ (top - (G.mb : Int))) := by
    refine le_unitsSpec (div_pos hx0 (two_zpow_pos _)).le ?_
    rw [le_div_iff₀ (two_zpow_pos _)]
    push_cast
    rw [← zpow_natCast, ← two_zpow_add, add_sub_cancel]
    exact htop.1
  have hy : (2 : Rat) ^ (1024 : Int) ≤ unitsSpec .rne false 0 (x / 2 ^ (top - (G.mb : Int))) * 2 ^ (top - (G.mb : Int)) := by
    calc (2 : Rat) ^ (1024 : Int) ≤ 2 ^ top := two_zpow_le (by omega)
      _ = ((2 ^ G.mb : Nat) : Int) * 2 ^ (top - (G.mb : Int)) := by
        push_cast
        rw [← zpow_natCast, ← two_zpow_add, add_sub_cancel]
      _ ≤ _ := mul_le_mul_of_nonneg_right (Int.cast_le.2 hunits) (two_zpow_pos _).le
  have hover := (h.valueOf_maxBits_lt.trans (two_zpow_lt (by norm_num : (128 : Int) < 1024))).trans_le hy
  rw [hbig]
  refine ⟨fun _ => ⟨trivial, ?_⟩, fun hle => absurd hover (not_lt.2 hle)⟩
  simp [not_lt.2 hmb]

/-- A tiny value rounds to a zero of its sign. -/
theorem VsfFmt.rounded_tiny (neg : Bool) {v : Rat} (hv0 : 0 < v) (hv : v < 2 ^ (-150 : Int)) :
    RoundedTo F .rne 0 (if neg then -v else v) (G.signBit neg) (fUF ||| fNX) := by
  obtain ⟨hs, hmag⟩ := sign_of_pos neg hv0
  have hneg : decide ((if neg = true then -v else v) < 0) = neg := by rw [decide_eq_decide.2 hs, Bool.decide_coe]
  obtain ⟨hmb, hmb', hlow, hemin⟩ := h.bounds
  rw [h.rounded_iff]
  unfold FloatRounded
  simp only [hmag, hneg, scaled_eq, Int.cast_one, one_mul]
  intro top htop
  have htop1 : top < -150 := lt_of_two_zpow_lt (htop.1.trans_lt hv)
  have hu : max (top - (G.mb : Int)) (G.emin - G.mb) = G.emin - G.mb := by omega
  rw [hu]
  have hq0 : 0 < v / 2 ^ (G.emin - (G.mb : Int)) := div_pos hv0 (two_zpow_pos _)
  have hq1 : v / 2 ^ (G.emin - (G.mb : Int)) < 1 / 2 := by
    rw [div_lt_iff₀ (two_zpow_pos _)]
    refine hv.trans_le ?_
    have : (1 / 2 : Rat) = 2 ^ (-1 : Int) := by norm_num
    rw [this, ← two_zpow_add]
    exact two_zpow_le (by omega)
  have hunits : unitsSpec .rne neg 0 (v / 2 ^ (G.emin - (G.mb : Int))) = 0 := by
    have := unitsSpec_of_not_roundsUp (mode := .rne) (neg := neg) (t := 0) (q := 0) hq0 (hq1.trans (by norm_num))
      (by rintro (h | ⟨h, -⟩) <;> linarith)
    rwa [Nat.cast_zero, zero_add] at this
  have hfree : (unitsSpec .rne neg 0 (v / 2 ^ (top - (G.mb : Int))) : Rat) * 2 ^ (top - (G.mb : Int)) < 2 ^ G.emin := by
    have hle : unitsSpec .rne neg 0 (v / 2 ^ (top - (G.mb : Int))) ≤ ((2 ^ (G.mb + 1) : Nat) : Int) := by
      refine unitsSpec_le (div_pos hv0 (two_zpow_pos _)).le ?_
      rw [div_le_iff₀ (two_zpow_pos _)]
      push_cast
      rw [← zpow_natCast, ← two_zpow_add]
      refine htop.2.le.trans (two_zpow_le (by push_cast; omega))
    refine (mul_le_mul_of_nonneg_right (Int.cast_le.2 hle) (two_zpow_pos _).le).trans_lt ?_
    push_cast
    rw [← zpow_natCast, ← two_zpow_add]
    exact two_zpow_lt (by push_cast; omega)
  have hdec := FloatFmt.rat_decode_signBit_add h.sized neg (Nat.zero_le _)
  rw [FloatFmt.valueOf_zero] at hdec
  have hbig : 0 ≤ (G.decode G.maxBits).rat.getD 0 := by
    have := FloatFmt.rat_decode_signBit_add h.sized false le_rfl
    rw [FloatFmt.signBit, if_neg (by simp), zero_add] at this
    rw [this]
    exact mul_nonneg (Nat.cast_nonneg _) (two_zpow_pos _).le
  rw [hunits]
  refine ⟨fun hlt => ?_, fun _ => ⟨le_rfl, ?_, ?_, ?_⟩⟩
  · simp at hlt
    linarith
  · show G.signBit neg - G.signBit neg < _
    rw [Nat.sub_self]
    positivity
  · simpa using hdec
  · rw [if_neg (by simpa using hv0.ne), if_pos hfree]

end

end Sys2Proof.Machine
end

section
/-! SUPPORT. The VSF functions at the values R156 names: NaN, the infinities, zeros, negative operands, and exact results. -/

namespace Sys2Proof.Machine

variable {s : State} {e : VeEntry} {F : Fmt} {G : FloatFmt} {fn : Nat} {n : Num} {b : Nat} {fl : Flags}

/-! ### The statement, by the kind of the operand -/

section
variable (hfn : fn ≠ 2)
include hfn

theorem vsfSpec_nan {sig : Bool} (h : SpecialTo F (.nan sig) b fl) : VsfSpec F fn (.nan sig) b fl :=
  ⟨fun _ => h, fun _ h => (by cases h), fun h => (by cases h), fun h => absurd h hfn, fun _ h => (by cases h), fun _ h => (by cases h)⟩

theorem vsfSpec_inf {neg : Bool} (h : ((fn = 0 ∨ fn = 6) → neg = true → SpecialTo F .zero b fl) ∧ (fn = 0 → neg = false → SpecialTo F (.inf false) b fl)
    ∧ (fn = 6 → neg = false → RoundedTo F .rne 0 1 b fl) ∧ (fn = 5 → RoundedTo F .rne 0 (if neg then -1 else 1) b fl)
    ∧ ((fn = 1 ∨ fn = 3 ∨ fn = 4) → neg = true → SpecialTo F (.nan true) b fl)
    ∧ ((fn = 1 ∨ fn = 4) → neg = false → SpecialTo F (.inf false) b fl) ∧ (fn = 3 → neg = false → SpecialTo F .zero b fl)) :
    VsfSpec F fn (.inf neg) b fl :=
  ⟨fun h => (by cases h), fun _ hn => (by cases hn; exact h), fun h => (by cases h), fun h => absurd h hfn, fun _ h => (by cases h), fun _ h => (by cases h)⟩

theorem vsfSpec_zero {neg : Bool} {q : Int} (h : (fn = 0 → RoundedTo F .rne 0 1 b fl) ∧ (fn = 1 → b = endBits F true ∧ fl = fDZ)
    ∧ (fn = 3 → b = endBits F neg ∧ fl = fDZ) ∧ ((fn = 4 ∨ fn = 5) → SpecialTo F (.exact neg 0 0) b fl)
    ∧ (fn = 6 → RoundedTo F .rne 0 (1 / 2) b fl)) : VsfSpec F fn (.fin neg 0 q false) b fl := by
  have hzero : ∀ x, (Num.fin neg 0 q false).rat = some x → x = 0 := fun x hx => (Num.rat_eq_zero_iff hx).2 rfl
  exact ⟨fun h => (by cases h), fun _ h => (by cases h), fun _ => h, fun h => absurd h hfn, fun x hx hlt => absurd (hzero x hx) hlt.ne,
    fun x hx h0 => absurd (hzero x hx) h0⟩

theorem vsfSpec_value {neg : Bool} {m : Nat} {q : Int} (hm : m ≠ 0)
    (h : ∀ x, (Num.fin neg m q false).rat = some x → (x < 0 → (fn = 1 ∨ fn = 3 ∨ fn = 4) → SpecialTo F (.nan true) b fl)
      ∧ (∀ k : Int, x = (k : Rat) → fn = 0 → RoundedTo F .rne 0 (scaled 1 k) b fl)
      ∧ (∀ k : Int, x = scaled 1 k → fn = 1 → (k ≠ 0 → RoundedTo F .rne 0 k b fl) ∧ (k = 0 → SpecialTo F .zero b fl))
      ∧ (0 < x → (fn = 3 ∨ fn = 4) → (∀ y, 0 < y → (if fn = 4 then y * y = x else y * y * x = 1) → RoundedTo F .rne 0 y b fl)
          ∧ ∃ p q, 0 < p ∧ (if fn = 4 then p * p ≤ x else p * p * x ≤ 1) ∧ (if fn = 4 then x ≤ q * q else 1 ≤ q * q * x) ∧ 0 < q
            ∧ RoundedTo F .rne 0 p b fl ∧ RoundedTo F .rne 0 q b fl)) : VsfSpec F fn (.fin neg m q false) b fl := by
  refine ⟨fun h => (by cases h), fun _ h => (by cases h), fun h0 => absurd (Num.isZero_iff.1 h0) hm, fun h => absurd h hfn,
    fun x hx => (h x hx).1, fun x hx _ => (h x hx).2⟩

end

/-! ### What the lanes hold -/

/-- The result of a special function is the one of its two, or one of them where they differ. -/
def Outcome (r : (Nat × Flags) × (Nat × Flags)) (v : Nat × Flags) : Prop := (v = r.1 ∧ r.1 = r.2) ∨ (r.1 ≠ r.2 ∧ (v = r.1 ∨ v = r.2))

theorem Outcome.settled {v w : Nat × Flags} (h : Outcome (settled w) v) : v = w := by
  rcases h with ⟨h, -⟩ | ⟨-, h | h⟩ <;> exact h

/-- A VSF instruction leaves in each active lane a result of its function (R156). -/
theorem special_leaves {fn : Nat} {g : Fmt → Num → (Nat × Flags) × (Nat × Flags)} {a : VSrc} {P : Num → Nat → Flags → Prop} (hF : (s.veCtx e).fmt = F)
    (hmem : F ∈ [Fmt.fp32, .bf16, .fp16]) (hg : ∀ x v, Outcome (g F (readNum F x)) v → Fits v (P (readNum F x))) :
    Leaves e.sh ((s.veCtx e).special fn g a) fun k b fl => P (readNum F (lowLane s e F a k)) b fl := by
  have hok : (F == .fp32 || F == .bf16 || F == .fp16) = true := by
    simp only [List.mem_cons, List.mem_nil_iff, or_false] at hmem
    rcases hmem with rfl | rfl | rfl <;> rfl
  have hspecial : (s.veCtx e).special fn g a = (s.veCtx e).map1 (fun _ x => if (g F (readNum F x)).1 = (g F (readNum F x)).2 then
      (g F (readNum F x)).1 else if Config.specialSide fn F.code x then (g F (readNum F x)).1 else (g F (readNum F x)).2) a := by
    rw [VeCtx.special, hF]
    exact if_neg (by simp [hok])
  rw [hspecial]
  refine map1_leaves (P := fun _ x => P (readNum F x)) hF fun k x _ => hg x _ ?_
  split
  · exact .inl ⟨rfl, ‹_›⟩
  · split
    · exact .inr ⟨‹_›, .inl rfl⟩
    · exact .inr ⟨‹_›, .inr rfl⟩

/-- In any other format a VSF instruction faults 0x37 (R156). -/
theorem special_fault {fn : Nat} {g : Fmt → Num → (Nat × Flags) × (Nat × Flags)} {a : VSrc} (hF : (s.veCtx e).fmt = F)
    (hmem : F ∉ [Fmt.fp32, .bf16, .fp16]) : (s.veCtx e).special fn g a = .error ⟨.format, instrWord e.instr⟩ := by
  unfold VeCtx.special
  rw [hF, if_pos (by simpa [and_assoc] using hmem)]
  rfl

/-! ### Results that do not depend on bounds -/

section
variable (h : VsfFmt F G)
include h

theorem VsfFmt.roundTo_eq {mode : RM} {t : Nat} : roundTo F mode t n = G.round mode t n := roundTo_float h.1

theorem VsfFmt.nan_fits (sig : Bool) : Fits (nanResult F (.nan sig)) (SpecialTo F (.nan sig)) := ⟨nanOf_lt F, nanOf_spec h.isInt sig⟩

theorem VsfFmt.invalid_fits : Fits (nanOf F, fNV) (SpecialTo F (.nan true)) := ⟨nanOf_lt F, nanOf_spec h.isInt true⟩

omit h in
theorem special_fits (hn : n.Exact) : Fits (roundTo F .rne 0 n) (SpecialTo F n) := ⟨roundTo_lt _ _ _ hn.clear, roundTo_special F .rne 0 n⟩

omit h in
theorem value_fits {x : Rat} (hn : n.Holds x) : Fits (roundTo F .rne 0 n) (RoundedTo F .rne 0 x) := ⟨roundTo_lt _ _ _ hn.clear, roundTo_holds F .rne 0 hn⟩

omit h in
theorem one_holds : (Num.ofInt 1).Holds 1 := Num.holds_of_rat (by rw [Num.rat_ofInt]; simp) one_ne_zero

theorem VsfFmt.pole_fits (neg : Bool) : Fits ((roundTo F .rne 0 (.inf neg)).1, fDZ) fun b fl => b = endBits F neg ∧ fl = fDZ := by
  have hb : (roundTo F .rne 0 (.inf neg)).1 = endBits F neg := by rcases h.cases with ⟨rfl, -⟩ | ⟨rfl, -⟩ | ⟨rfl, -⟩ <;> cases neg <;> rfl
  rw [hb]
  exact Sys2Proof.Machine.pole_fits h.isInt neg

/-! ### Reciprocals and roots -/

/-- VRCP: the quotient of 1 (R156). -/
theorem vsf_rcp (hn : n.Exact) {v : Nat × Flags} (hv : Outcome (rcpBits F n) v) : Fits v (VsfSpec F 2 n) := by
  rw [hv.settled]
  refine (divTo_fits h.isInt .rne 0 (a := .ofInt 1) rfl hn).imp fun b fl hd => ?_
  refine ⟨fun hnan => ?_, fun _ _ => by simp, fun _ => by simp, fun _ => hd, fun _ _ _ h => by simp at h, fun _ _ _ => by simp⟩
  unfold DivSpec at hd
  dsimp only at hd
  rwa [if_pos (.inr hnan)] at hd

/-- VRSQ (R156). -/
theorem vsf_rsq (hn : n.Exact) {v : Nat × Flags} (hv : Outcome (rsqBits F n) v) : Fits v (VsfSpec F 3 n) := by
  rw [hv.settled]
  rcases hn.cases with ⟨sig, rfl⟩ | ⟨neg, rfl⟩ | ⟨neg, m, q, rfl⟩
  · exact (h.nan_fits sig).imp fun _ _ => vsfSpec_nan (by decide)
  · cases neg
    · exact (special_fits (n := .zero) rfl).imp fun _ _ hs => vsfSpec_inf (by decide) (by simpa using hs)
    · exact h.invalid_fits.imp fun _ _ hs => vsfSpec_inf (by decide) (by simpa using hs)
  · by_cases hm : m = 0
    · subst hm
      exact (h.pole_fits neg).imp fun _ _ hs => vsfSpec_zero (by decide) (by simpa using hs)
    cases neg
    · have hbits : (if m = 0 then ((roundTo F .rne 0 (.inf false)).1, fDZ) else if false = true then (nanOf F, fNV) else roundTo F .rne 0 (rsqNum m q))
          = roundTo F .rne 0 (rsqNum m q) := by simp [hm]
      obtain ⟨hroot, y, z, hy, hz, hyx, hxz, hhy, hhz⟩ := rsqNum_root (e := q) hm
      dsimp only
      rw [hbits]
      refine ⟨(value_fits hhy).1, vsfSpec_value (by decide) hm fun x hx => ?_⟩
      rw [Num.rat_fin, if_neg (by simp), Option.some_inj] at hx
      have hpos : 0 < x := hx ▸ mul_pos (Nat.cast_pos.2 (Nat.pos_of_ne_zero hm)) (two_zpow_pos q)
      rw [hx] at hroot hyx hxz
      refine ⟨fun hlt => absurd hpos hlt.not_gt, by simp, by simp, fun _ _ => ⟨fun w hw hww => ?_, y, z, hy, ?_, ?_, hz, ?_, ?_⟩⟩
      · exact (value_fits (hroot w hw (by rw [eq_div_iff hpos.ne']; simpa using hww))).2
      · simpa using (le_div_iff₀ hpos).1 hyx
      · simpa using (div_le_iff₀ hpos).1 hxz
      · exact (value_fits hhy).2
      · exact (value_fits hhz).2
    · have hbits : (if m = 0 then ((roundTo F .rne 0 (.inf true)).1, fDZ) else if true = true then (nanOf F, fNV) else roundTo F .rne 0 (rsqNum m q))
          = (nanOf F, fNV) := by simp [hm]
      dsimp only
      rw [hbits]
      refine h.invalid_fits.imp fun _ _ hs => vsfSpec_value (by decide) hm fun x hx => ?_
      rw [Num.rat_fin, if_pos rfl, Option.some_inj] at hx
      have hneg : x < 0 := hx ▸ neg_neg_of_pos (mul_pos (Nat.cast_pos.2 (Nat.pos_of_ne_zero hm)) (two_zpow_pos q))
      exact ⟨fun _ _ => hs, by simp, by simp, fun hpos => absurd hpos hneg.not_gt⟩

end

end Sys2Proof.Machine
end

section
/-! SUPPORT. VSQRT, and the cases of 2^x and log2 x that R156 names exactly. -/

namespace Sys2Proof.Machine

variable {F : Fmt} {G : FloatFmt} {n : Num} {m : Nat} {q : Int} {neg : Bool}

/-- VSQRT (R156). -/
theorem vsf_sqrt (h : VsfFmt F G) (hn : n.Exact) {v : Nat × Flags} (hv : Outcome (sqrtBits F n) v) : Fits v (VsfSpec F 4 n) := by
  obtain rfl : v = ((roundTo F .rne 0 (sqrtNum n).1).1, (sqrtNum n).2 ||| (roundTo F .rne 0 (sqrtNum n).1).2) := hv.settled
  have hspecial : ∀ n', n'.Exact → sqrtNum n = specialNum n' →
      Fits ((roundTo F .rne 0 (sqrtNum n).1).1, (sqrtNum n).2 ||| (roundTo F .rne 0 (sqrtNum n).1).2) (SpecialTo F n') := by
    intro n' hn' heq
    rw [heq]
    exact ⟨roundTo_lt _ _ _ (specialNum_clear hn'), roundTo_specialNum h.isInt ..⟩
  rcases hn.cases with ⟨sig, rfl⟩ | ⟨neg, rfl⟩ | ⟨neg, m, q, rfl⟩
  · exact (hspecial (.nan sig) trivial rfl).imp fun _ _ => vsfSpec_nan (by decide)
  · cases neg
    · exact (hspecial (.inf false) trivial rfl).imp fun _ _ hs => vsfSpec_inf (by decide) (by simpa using hs)
    · exact (hspecial (.nan true) trivial rfl).imp fun _ _ hs => vsfSpec_inf (by decide) (by simpa using hs)
  · by_cases hm : m = 0
    · subst hm
      refine (hspecial (.exact neg 0 0) rfl (by simp [sqrtNum, specialNum, Num.exact])).imp fun _ _ hs => vsfSpec_zero (by decide) (by simpa using hs)
    cases neg
    · obtain ⟨h0, hroot, y, z, hy, hz, hyx, hxz, hhy, hhz⟩ := sqrtNum_root (e := q) hm
      rw [h0, flags_zero_or]
      refine ⟨(value_fits hhy).1, vsfSpec_value (by decide) hm fun x hx => ?_⟩
      rw [Num.rat_fin, if_neg (by simp), Option.some_inj] at hx
      have hpos : 0 < x := hx ▸ mul_pos (Nat.cast_pos.2 (Nat.pos_of_ne_zero hm)) (two_zpow_pos q)
      rw [hx] at hroot hyx hxz
      refine ⟨fun hlt => absurd hpos hlt.not_gt, by simp, by simp, fun _ _ => ⟨fun w hw hww => ?_, y, z, hy, hyx, hxz, hz, ?_, ?_⟩⟩
      · exact (value_fits (hroot w hw (by simpa using hww))).2
      · exact (value_fits hhy).2
      · exact (value_fits hhz).2
    · refine (hspecial (.nan true) trivial (by simp [sqrtNum, hm, specialNum])).imp fun _ _ hs => vsfSpec_value (by decide) hm fun x hx => ?_
      rw [Num.rat_fin, if_pos rfl, Option.some_inj] at hx
      have hneg : x < 0 := hx ▸ neg_neg_of_pos (mul_pos (Nat.cast_pos.2 (Nat.pos_of_ne_zero hm)) (two_zpow_pos q))
      exact ⟨fun _ _ => hs, by simp, by simp, fun hpos => absurd hpos hneg.not_gt⟩

/-! ### Operands -/

theorem FloatFmt.le_expo_decode {b : Nat} {tail : Bool} (h : G.decode b = .fin neg m q tail) : G.emin - G.mb ≤ q := by
  unfold FloatFmt.decode at h
  dsimp only at h
  split at h
  · split at h <;> cases h
  split at h
  · cases h
  split at h
  · cases h
    exact le_rfl
  · cases h
    unfold FloatFmt.emin
    generalize b / 2 ^ G.mb % 2 ^ G.eb = x at *
    omega

/-- The finite operands of VSF are whole multiples of 2^-149. -/
theorem VsfFmt.le_expo (h : VsfFmt F G) {b : Nat} {tail : Bool} (hr : readNum F b = .fin neg m q tail) : -149 ≤ q := by
  rw [readNum_float h.1] at hr
  have := FloatFmt.le_expo_decode hr
  have := h.bounds.2.2.1
  omega

/-- Fixed point keeps such an operand exactly. -/
theorem fixedOf_eq (m : Nat) (hq : -149 ≤ q) : (fixedOf m q : Rat) = m * 2 ^ q * 2 ^ (320 : Int) := by
  have hle : 0 ≤ q + (spBits : Int) := by unfold spBits; omega
  rw [fixedOf, if_pos hle, Nat.cast_mul, two_zpow_toNat hle, two_zpow_add, mul_assoc]
  rfl

/-! ### Powers of two -/

/-- A magnitude that is a power of two. -/
theorem eq_two_pow_log2 (hm : m ≠ 0) {k : Int} (h : (m : Rat) * 2 ^ q = 2 ^ k) : m = 2 ^ m.log2 ∧ q + m.log2 = k := by
  have hb := (within_false.2 h.symm).binade hm
  have hk : k = q + m.log2 := binade_unique ⟨le_rfl, two_zpow_lt (lt_add_one k)⟩ hb
  refine ⟨?_, hk.symm⟩
  rw [hk, two_zpow_add, mul_comm] at h
  have := mul_left_cancel₀ (two_zpow_pos q).ne' h
  rw [zpow_natCast] at this
  exact_mod_cast this

/-- 2^a in three cases: beyond the range, a whole a, and a bounded fraction. -/
theorem exp2Of_huge (hlt : (2 : Rat) ^ (10 : Int) ≤ m * 2 ^ q) :
    exp2Of F neg m q = settled (roundTo F .rne 0 (.fin false 1 (if neg then -2000 else 2000) true)) := by
  have hcmp : cmpMag m q 1 10 ≠ .lt := by
    rw [cmpMag_eq, ne_eq, compare_lt_iff_lt, Nat.cast_one, one_mul]
    exact not_lt.2 hlt
  rw [exp2Of, if_pos (by simpa using hcmp)]

/-- The operand of 2^a in fixed point, with its sign. -/
def exp2Arg (neg : Bool) (m : Nat) (q : Int) : Int := if neg then -(fixedOf m q : Int) else fixedOf m q

theorem exp2Arg_eq (hq : -149 ≤ q) : (exp2Arg neg m q : Rat) = (if neg then -((m : Rat) * 2 ^ q) else m * 2 ^ q) * 2 ^ (320 : Int) := by
  have := fixedOf_eq m hq
  cases neg <;> simp [exp2Arg, this]

theorem exp2Of_eq (hlt : (m : Rat) * 2 ^ q < 2 ^ (10 : Int)) : exp2Of F neg m q =
    if (exp2Arg neg m q % (spOne : Int)).toNat = 0 then settled (roundTo F .rne 0 (.exact false 1 (exp2Arg neg m q / (spOne : Int))))
    else bounded F false (expOf ((exp2Arg neg m q % (spOne : Int)).toNat * spLn2 / spOne)) (exp2Arg neg m q / (spOne : Int)) := by
  have hcmp : cmpMag m q 1 10 = .lt := by
    rw [cmpMag_eq, compare_lt_iff_lt, Nat.cast_one, one_mul]
    exact hlt
  rw [exp2Of, if_neg (by simp [hcmp])]
  rfl

theorem spOne_pos : 0 < spOne := by
  unfold spOne
  positivity

theorem two_pow_le_spOne {k : Nat} (h : k ≤ 320) : 2 ^ k ≤ spOne := by
  rw [spOne]
  gcongr
  norm_num

theorem spOne_eq : (spOne : Rat) = 2 ^ (320 : Int) := by
  rw [spOne, Nat.cast_pow, Nat.cast_ofNat]
  exact (zpow_natCast 2 320).symm

/-- A whole operand has no fraction. -/
theorem exp2Of_whole (hq : -149 ≤ q) (hlt : (m : Rat) * 2 ^ q < 2 ^ (10 : Int)) {k : Int}
    (hk : (if neg then -((m : Rat) * 2 ^ q) else m * 2 ^ q) = k) : exp2Of F neg m q = settled (roundTo F .rne 0 (.exact false 1 k)) := by
  have harg : exp2Arg neg m q = k * (spOne : Int) := by
    have := exp2Arg_eq (neg := neg) (m := m) hq
    rw [hk, ← spOne_eq] at this
    exact_mod_cast this
  rw [exp2Of_eq hlt, harg, Int.mul_emod_left, Int.mul_ediv_cancel _ (Int.natCast_ne_zero.2 spOne_pos.ne'), Int.toNat_zero, if_pos rfl]

theorem pow_holds (k : Int) : (Num.exact false 1 k).Holds (scaled 1 k) := by
  refine Num.holds_of_rat ?_ ?_
  · rw [Num.exact, Num.rat_fin, scaled_eq]
    simp
  · rw [scaled_eq, Int.cast_one, one_mul]
    exact (two_zpow_pos k).ne'

/-- What 2^a is beyond the range. -/
theorem VsfFmt.exp2_beyond (h : VsfFmt F G) : roundTo F .rne 0 (.fin false 1 2000 true) = (G.infBits, fOF ||| fNX)
    ∧ roundTo F .rne 0 (.fin false 1 (-2000) true) = (0, fUF ||| fNX) := by
  rcases h.cases with ⟨rfl, rfl⟩ | ⟨rfl, rfl⟩ | ⟨rfl, rfl⟩ <;> decide +kernel

end Sys2Proof.Machine
end

section
/-! SUPPORT. VEXP2, VLOG2, VTANH and VSIGM at the values R156 names (R156): the results that hang on no bounds, and that the others fit a lane. -/

namespace Sys2Proof.Machine

variable {F : Fmt} {G : FloatFmt} {n : Num} {m : Nat} {q : Int} {neg : Bool}

/-! ### Bounded results -/

/-- The format sees a tail below a whole number of units of 2^(x - 320) that is large, or whose unit is 2^-320. -/
theorem VsfFmt.sees (h : VsfFmt F G) {x : Int} (hx : x = 0 ∨ 2 ^ 47 ≤ m) : G.Sees m (x - spBits) true := by
  intro _
  obtain ⟨-, hmb, hlow, hemin⟩ := h.bounds
  unfold spBits
  by_cases hm : m.log2 < 47
  · have hx0 : x = 0 := by
      refine hx.resolve_right fun hle => ?_
      have : m ≠ 0 := by omega
      exact absurd ((Nat.log2_lt this).1 hm) (not_lt.2 hle)
    exact .inr (by omega)
  · exact .inl (by omega)

/-- The least and the greatest whole number of units that the bounds allow. -/
def lowUnits (v : Nat) : Nat := max (v - spErr) 1
/-- See `lowUnits`. -/
def highUnits (v : Nat) : Nat := v + spErr - 1

theorem bounded_eq (neg : Bool) (v : Nat) (x : Int) : bounded F neg v x =
    (roundTo F .rne 0 (.fin neg (lowUnits v) (x - spBits) true), roundTo F .rne 0 (.fin neg (highUnits v) (x - spBits) true)) := rfl

theorem lowUnits_ne_zero (v : Nat) : lowUnits v ≠ 0 := by unfold lowUnits; omega

theorem highUnits_ne_zero (v : Nat) : highUnits v ≠ 0 := by
  have : 2 ≤ spErr := by decide
  unfold highUnits
  omega

theorem lowUnits_le_highUnits (v : Nat) : lowUnits v ≤ highUnits v := by
  have : 2 ≤ spErr := by decide
  unfold lowUnits highUnits
  omega

theorem VsfFmt.bounded_lt (h : VsfFmt F G) {v : Nat} {x : Int} (hx : x = 0 ∨ 2 ^ 47 ≤ lowUnits v) {w : Nat × Flags} (hw : Outcome (bounded F neg v x) w) :
    w.1 < 2 ^ 32 := by
  have hlt : ∀ m, m ≠ 0 → (x = 0 ∨ 2 ^ 47 ≤ m) → (roundTo F .rne 0 (.fin neg m (x - spBits) true)).1 < 2 ^ 32 := by
    intro m hm hx
    rw [h.roundTo_eq]
    refine (FloatFmt.round_fin_lt h.sized hm (h.sees hx)).trans_le (Nat.pow_le_pow_right (by norm_num) ?_)
    rcases h.cases with ⟨-, rfl⟩ | ⟨-, rfl⟩ | ⟨-, rfl⟩ <;> decide
  have hlow := hlt _ (lowUnits_ne_zero v) hx
  have hhigh := hlt _ (highUnits_ne_zero v) (hx.imp_right fun hle => hle.trans (lowUnits_le_highUnits v))
  rw [bounded_eq] at hw
  rcases hw with ⟨rfl, -⟩ | ⟨-, rfl | rfl⟩
  · exact hlow
  · exact hlow
  · exact hhigh

theorem spOne_le_expOf (y : Nat) : spOne ≤ expOf y := by
  show spOne ≤ expTerms y (79 + 1) spOne 0
  rw [expTerms]
  exact Nat.le_add_right _ _

theorem le_lowUnits_expOf (y : Nat) : 2 ^ 47 ≤ lowUnits (expOf y) := by
  have h1 := spOne_le_expOf y
  have h2 : 2 ^ 47 + spErr ≤ spOne := by decide +kernel
  unfold lowUnits
  omega

/-! ### The functions -/

theorem VsfFmt.infBits_lt (h : VsfFmt F G) : G.infBits < 2 ^ 32 := by
  rcases h.cases with ⟨-, rfl⟩ | ⟨-, rfl⟩ | ⟨-, rfl⟩ <;> decide

/-- Beyond the range 2^a is the rounding of every huge, or of every tiny, value. -/
theorem VsfFmt.exp2_huge (h : VsfFmt F G) {v : Nat × Flags} (hbig : (2 : Rat) ^ (10 : Int) ≤ m * 2 ^ q) (hv : Outcome (exp2Of F neg m q) v) :
    v.1 < 2 ^ 32 ∧ ∀ y, (if neg then 0 < y ∧ y < 2 ^ (-150 : Int) else (2 : Rat) ^ (1024 : Int) ≤ y) → RoundedTo F .rne 0 y v.1 v.2 := by
  rw [exp2Of_huge hbig] at hv
  have hv := hv.settled
  obtain ⟨hhuge, htiny⟩ := h.exp2_beyond
  cases neg
  · rw [if_neg (by simp), hhuge] at hv
    rw [hv]
    exact ⟨h.infBits_lt, fun y hy => h.rounded_huge (by simpa using hy)⟩
  · rw [if_pos rfl, htiny] at hv
    rw [hv]
    refine ⟨by norm_num, fun y hy => ?_⟩
    obtain ⟨h0, h1⟩ : 0 < y ∧ y < 2 ^ (-150 : Int) := by simpa using hy
    exact h.rounded_tiny false h0 h1

section
variable (h : VsfFmt F G) (hr : ∃ b, readNum F b = n)
include h hr

/-- VEXP2 (R156). -/
theorem vsf_exp2 {v : Nat × Flags} (hv : Outcome (exp2Bits F n) v) : Fits v (VsfSpec F 0 n) := by
  obtain ⟨b, rfl⟩ := hr
  rcases (readNum_exact F b).cases with ⟨sig, hn⟩ | ⟨neg, hn⟩ | ⟨neg, m, q, hn⟩
  · rw [hn] at hv ⊢
    rw [hv.settled]
    exact (h.nan_fits sig).imp fun _ _ => vsfSpec_nan (by decide)
  · rw [hn] at hv ⊢
    rw [hv.settled]
    cases neg
    · exact (special_fits (n := .inf false) trivial).imp fun _ _ hs => vsfSpec_inf (by decide) (by simpa using hs)
    · exact (special_fits (n := .zero) rfl).imp fun _ _ hs => vsfSpec_inf (by decide) (by simpa using hs)
  have hq := h.le_expo hn
  rw [hn] at hv ⊢
  by_cases hm : m = 0
  · subst hm
    rw [Outcome.settled (w := roundTo F .rne 0 (.ofInt 1)) hv]
    exact (value_fits one_holds).imp fun _ _ hs => vsfSpec_zero (by decide) (by simpa using hs)
  have hv : Outcome (exp2Of F neg m q) v := by simpa [exp2Bits, hm] using hv
  have hspec : v.1 < 2 ^ 32 → (∀ k : Int, (if neg then -((m : Rat) * 2 ^ q) else m * 2 ^ q) = k → RoundedTo F .rne 0 (scaled 1 k) v.1 v.2) →
      Fits v (VsfSpec F 0 (.fin neg m q false)) := by
    refine fun hlt hk => ⟨hlt, vsfSpec_value (by decide) hm fun x hx => ⟨by simp, fun k hxk _ => hk k ?_, by simp, by simp⟩⟩
    rwa [Num.rat_fin, Option.some_inj, hxk] at hx
  rcases le_or_gt ((2 : Rat) ^ (10 : Int)) (m * 2 ^ q) with hbig | hsmall
  · obtain ⟨hlt, hround⟩ := h.exp2_huge hbig hv
    refine hspec hlt fun k hk => hround _ ?_
    have h10 : ((2 : Rat) ^ (10 : Int)) = 1024 := by norm_num
    rw [h10] at hbig
    rw [scaled_eq, Int.cast_one, one_mul]
    cases neg
    · rw [if_neg (by simp)] at hk ⊢
      rw [hk] at hbig
      exact two_zpow_le (by exact_mod_cast hbig)
    · rw [if_pos rfl] at hk ⊢
      have hle : ((1024 : Int) : Rat) ≤ ((-k : Int) : Rat) := by
        push_cast
        rw [← hk, neg_neg]
        exact hbig
      have hle : 1024 ≤ -k := Int.cast_le.1 hle
      exact ⟨two_zpow_pos k, two_zpow_lt (by omega)⟩
  · by_cases hwhole : ∃ k : Int, (if neg then -((m : Rat) * 2 ^ q) else m * 2 ^ q) = k
    · obtain ⟨k, hk⟩ := hwhole
      rw [exp2Of_whole hq hsmall hk] at hv
      rw [hv.settled] at hspec ⊢
      obtain ⟨hlt, hround⟩ := value_fits (F := F) (pow_holds k)
      refine hspec hlt fun k' hk' => ?_
      obtain rfl : k = k' := by exact_mod_cast hk.symm.trans hk'
      exact hround
    · refine hspec ?_ fun k hk => absurd ⟨k, hk⟩ hwhole
      rw [exp2Of_eq hsmall] at hv
      split at hv
      · rw [hv.settled]
        exact (value_fits (pow_holds _)).1
      · exact h.bounded_lt (.inr (le_lowUnits_expOf _)) hv

/-- VLOG2 (R156). -/
theorem vsf_log2 {v : Nat × Flags} (hv : Outcome (log2Bits F n) v) : Fits v (VsfSpec F 1 n) := by
  obtain ⟨b, rfl⟩ := hr
  rcases (readNum_exact F b).cases with ⟨sig, hn⟩ | ⟨neg, hn⟩ | ⟨neg, m, q, hn⟩ <;> rw [hn] at hv ⊢
  · rw [hv.settled]
    exact (h.nan_fits sig).imp fun _ _ => vsfSpec_nan (by decide)
  · rw [hv.settled]
    cases neg
    · exact (special_fits (n := .inf false) trivial).imp fun _ _ hs => vsfSpec_inf (by decide) (by simpa using hs)
    · exact h.invalid_fits.imp fun _ _ hs => vsfSpec_inf (by decide) (by simpa using hs)
  by_cases hm : m = 0
  · subst hm
    rw [Outcome.settled (w := ((roundTo F .rne 0 (.inf true)).1, fDZ)) hv]
    exact (h.pole_fits true).imp fun _ _ hs => vsfSpec_zero (by decide) (by simpa using hs)
  cases neg
  · have hv : Outcome (log2Of F m q) v := by simpa [log2Bits, hm] using hv
    have hspec : v.1 < 2 ^ 32 → (∀ k : Int, (m : Rat) * 2 ^ q = 2 ^ k → v = roundTo F .rne 0 (.ofInt k)) →
        Fits v (VsfSpec F 1 (.fin false m q false)) := by
      refine fun hlt hk => ⟨hlt, vsfSpec_value (by decide) hm fun x hx => ?_⟩
      rw [Num.rat_fin, if_neg (by simp), Option.some_inj] at hx
      have hpos : 0 < x := hx ▸ mul_pos (Nat.cast_pos.2 (Nat.pos_of_ne_zero hm)) (two_zpow_pos q)
      refine ⟨fun hneg => absurd hpos hneg.not_gt, by simp, fun k hxk _ => ?_, by simp⟩
      rw [scaled_eq, Int.cast_one, one_mul] at hxk
      rw [hk k (hx.trans hxk)]
      refine ⟨fun h0 => (value_fits (Num.holds_of_rat (Num.rat_ofInt k) (Int.cast_ne_zero.2 h0))).2, fun h0 => ?_⟩
      rw [h0]
      exact (special_fits (n := .zero) rfl).2
    by_cases hpow : m = 2 ^ m.log2
    · rw [log2Of, if_pos hpow] at hv
      refine hspec ?_ fun k hk => ?_
      · rw [hv.settled]
        exact roundTo_lt _ _ _ (Num.Exact.clear rfl)
      · rw [← (eq_two_pow_log2 hm hk).2]
        exact hv.settled
    · rw [log2Of, if_neg hpow] at hv
      exact hspec (h.bounded_lt (.inl rfl) hv) fun k hk => absurd (eq_two_pow_log2 hm hk).1 hpow
  · have hv : v = (nanOf F, fNV) := Outcome.settled (by simpa [log2Bits, hm] using hv)
    rw [hv]
    refine h.invalid_fits.imp fun _ _ hs => vsfSpec_value (by decide) hm fun x hx => ?_
    rw [Num.rat_fin, if_pos rfl, Option.some_inj] at hx
    have hneg : x < 0 := hx ▸ neg_neg_of_pos (mul_pos (Nat.cast_pos.2 (Nat.pos_of_ne_zero hm)) (two_zpow_pos q))
    refine ⟨fun _ _ => hs, by simp, fun k hxk => ?_, by simp⟩
    rw [scaled_eq, Int.cast_one, one_mul] at hxk
    exact absurd (hxk ▸ two_zpow_pos k) hneg.not_gt

/-- VTANH (R156). -/
theorem vsf_tanh {v : Nat × Flags} (hv : Outcome (tanhBits F n) v) : Fits v (VsfSpec F 5 n) := by
  obtain ⟨b, rfl⟩ := hr
  rcases (readNum_exact F b).cases with ⟨sig, hn⟩ | ⟨neg, hn⟩ | ⟨neg, m, q, hn⟩ <;> rw [hn] at hv ⊢
  · rw [hv.settled]
    exact (h.nan_fits sig).imp fun _ _ => vsfSpec_nan (by decide)
  · rw [hv.settled]
    have hone : (Num.exact neg 1 0).Holds (if neg then -1 else 1) := by
      refine Num.holds_of_rat ?_ (by cases neg <;> norm_num)
      rw [Num.exact, Num.rat_fin]
      cases neg <;> simp
    exact (value_fits hone).imp fun _ _ hs => vsfSpec_inf (by decide) (by simpa using hs)
  by_cases hm : m = 0
  · subst hm
    rw [Outcome.settled (w := roundTo F .rne 0 (.exact neg 0 0)) hv]
    exact (special_fits (n := .exact neg 0 0) rfl).imp fun _ _ hs => vsfSpec_zero (by decide) (by simpa using hs)
  · have hv : Outcome (tanhOf F neg m q) v := by simpa [tanhBits, hm] using hv
    exact ⟨h.bounded_lt (.inl rfl) hv, vsfSpec_value (by decide) hm fun _ _ => by simp⟩

/-- VSIGM (R156). -/
theorem vsf_sigm {v : Nat × Flags} (hv : Outcome (sigmBits F n) v) : Fits v (VsfSpec F 6 n) := by
  obtain ⟨b, rfl⟩ := hr
  rcases (readNum_exact F b).cases with ⟨sig, hn⟩ | ⟨neg, hn⟩ | ⟨neg, m, q, hn⟩ <;> rw [hn] at hv ⊢
  · rw [hv.settled]
    exact (h.nan_fits sig).imp fun _ _ => vsfSpec_nan (by decide)
  · rw [hv.settled]
    cases neg
    · exact (value_fits one_holds).imp fun _ _ hs => vsfSpec_inf (by decide) (by simpa using hs)
    · exact (special_fits (n := .zero) rfl).imp fun _ _ hs => vsfSpec_inf (by decide) (by simpa using hs)
  by_cases hm : m = 0
  · subst hm
    rw [Outcome.settled (w := roundTo F .rne 0 (.exact false 1 (-1))) hv]
    have hhalf : (Num.exact false 1 (-1)).Holds (1 / 2) := Num.holds_of_rat (by rw [Num.exact, Num.rat_fin]; norm_num) (by norm_num)
    exact (value_fits hhalf).imp fun _ _ hs => vsfSpec_zero (by decide) (by simpa using hs)
  · have hv : Outcome (sigmOf F neg m q) v := by simpa [sigmBits, hm] using hv
    exact ⟨h.bounded_lt (.inl rfl) hv, vsfSpec_value (by decide) hm fun _ _ => by simp⟩

end

end Sys2Proof.Machine
end

section
/-! SUPPORT. The floating instructions of the VE (R92, R148 to R161, R170, R171): the statement on their results (O38). -/

namespace Sys2Proof.Machine

variable {s : State} {e : VeEntry} {F : Fmt} {G : FloatFmt} {fn : Nat} {a : VSrc}

/-- The function that a VSF code names (R156). -/
def vsfBits : Nat → Fmt → Num → (Nat × Flags) × (Nat × Flags)
  | 0 => exp2Bits
  | 1 => log2Bits
  | 2 => rcpBits
  | 3 => rsqBits
  | 4 => sqrtBits
  | 5 => tanhBits
  | _ => sigmBits

/-- A VSF instruction runs the function of its code on its source. -/
theorem ve_of_specialOf {i : Instr} {f : VeCtx → VeAns} (hi : specialOf i = some (fn, a)) (hf : i.ve = some f) :
    fn ≤ 6 ∧ ∀ c, f c = c.special fn (vsfBits fn) a := by
  unfold specialOf at hi
  split at hi
  case h_8 => cases hi
  all_goals
    cases hi
    cases hf
    exact ⟨by decide, fun _ => rfl⟩

/-- Every VSF function gives what R156 names. -/
theorem VsfFmt.vsf_fits (h : VsfFmt F G) (hfn : fn ≤ 6) (b : Nat) {v : Nat × Flags} (hv : Outcome (vsfBits fn F (readNum F b)) v) :
    Fits v (VsfSpec F fn (readNum F b)) := by
  match fn, hfn with
  | 0, _ => exact vsf_exp2 h ⟨b, rfl⟩ hv
  | 1, _ => exact vsf_log2 h ⟨b, rfl⟩ hv
  | 2, _ => exact vsf_rcp h (readNum_exact ..) hv
  | 3, _ => exact vsf_rsq h (readNum_exact ..) hv
  | 4, _ => exact vsf_sqrt h (readNum_exact ..) hv
  | 5, _ => exact vsf_tanh h ⟨b, rfl⟩ hv
  | 6, _ => exact vsf_sigm h ⟨b, rfl⟩ hv

/-- Settles O38: each instruction maps its active lanes, and each element meets its statement. -/
theorem veFloats : Obligations.VeFloats := by
  intro s e F f hcode hve
  have hF := veCtx_fmt s e hcode
  have hconv := veCtx_convFmt s e
  refine ⟨fun hint hsome => floatLane_leaves hF hint hve hsome, fun d a D hi => ?_, fun d a u x hi => ?_, fun d a u x hi => ?_,
    fun hint hsome => floatReduce_leaves hF hint hve hsome, fun d u x hint hi => ?_, fun fn a hsp => ?_⟩
  · rw [hi] at hve
    cases hve
    exact veCvt_leaves hF a D
  · rw [hi] at hve
    cases hve
    exact ⟨fun h => veQnt_fault (hconv.trans h), fun D hD => veQnt_leaves hF a (hconv.trans hD)⟩
  · rw [hi] at hve
    cases hve
    exact ⟨fun h => veDq_fault (hconv.trans h), fun D hD => veDq_leaves hF a (hconv.trans hD)⟩
  · rw [hi] at hve
    cases hve
    exact veIota_leaves hF hint
  · obtain ⟨hfn, heq⟩ := ve_of_specialOf hsp hve
    refine ⟨fun hmem => (heq _).trans (special_fault hF hmem), fun hmem => ?_⟩
    obtain ⟨G, hG⟩ := VsfFmt.of_mem hmem
    rw [heq]
    exact special_leaves hF hmem fun x v hv => hG.vsf_fits hfn x hv

end Sys2Proof.Machine
end

section
/-! SUPPORT. Fixed point (R156): how far the series of the model lie from the logarithm and the exponential. -/

namespace Sys2Proof.Machine

/-! ### Cutting to whole units -/

theorem floor_div_le (a b : Nat) : ((a / b : Nat) : ℝ) ≤ (a : ℝ) / b := Nat.cast_div_le

theorem sub_one_le_floor_div (a b : Nat) : (a : ℝ) / b - 1 ≤ ((a / b : Nat) : ℝ) := by
  rw [← Nat.floor_div_eq_div (K := ℝ)]
  exact (Nat.sub_one_lt_floor _).le

theorem spOne_real_pos : (0 : ℝ) < spOne := Nat.cast_pos.2 spOne_pos

theorem spOne_real_large : (2 ^ 64 : ℝ) ≤ spOne := by
  have h : 2 ^ 64 ≤ spOne := two_pow_le_spOne (by norm_num)
  exact_mod_cast h

/-! ### The series of the logarithm -/

/-- The terms of z + z³/3 + … from the power P = z^k on. -/
noncomputable def oddSeries (Z P : ℝ) (n k : Nat) : ℝ := ∑ j ∈ Finset.range n, P * (Z * Z) ^ j / ((k : ℝ) + 2 * j)

theorem oddSeries_succ (Z P : ℝ) (n k : Nat) : oddSeries Z P (n + 1) k = P / k + oddSeries Z (P * (Z * Z)) n (k + 2) := by
  unfold oddSeries
  rw [Finset.sum_range_succ', add_comm]
  congr 1
  · simp
  · refine Finset.sum_congr rfl fun j _ => ?_
    push_cast
    ring

/-- Each power of the series loses at most two units, and each term three. -/
theorem atanhTerms_bounds {Z : ℝ} {zz : Nat} (hZ0 : 0 ≤ Z) (hZ : Z ≤ 1 / 3) (hlo : Z * Z * spOne - 2 ≤ zz) (hhi : (zz : ℝ) ≤ Z * Z * spOne) :
    ∀ (n p k : Nat) (P : ℝ), 1 ≤ k → 0 ≤ P → P ≤ 1 / 3 → (p : ℝ) ≤ P * spOne → P * spOne - 2 ≤ p →
      (atanhTerms zz n p k : ℝ) ≤ oddSeries Z P n k * spOne ∧ oddSeries Z P n k * spOne - 3 * n ≤ atanhTerms zz n p k := by
  have hU := spOne_real_pos
  intro n
  induction n with
  | zero => intro p k P _ _ _ _ _; simp [atanhTerms, oddSeries]
  | succ n ih =>
    intro p k P hk hP0 hP hp1 hp2
    have hkr : (1 : ℝ) ≤ k := by exact_mod_cast hk
    have hZZ : Z * Z ≤ 1 / 9 := by nlinarith
    have hZZ0 : 0 ≤ Z * Z := mul_nonneg hZ0 hZ0
    have hp0 : (0 : ℝ) ≤ p := Nat.cast_nonneg p
    have hzz0 : (0 : ℝ) ≤ zz := Nat.cast_nonneg zz
    have hprod1 : ((p * zz / spOne : Nat) : ℝ) ≤ P * (Z * Z) * spOne := by
      refine (floor_div_le _ _).trans ?_
      rw [div_le_iff₀ hU]
      push_cast
      nlinarith [mul_le_mul hp1 hhi hzz0 (by positivity)]
    have hprod2 : P * (Z * Z) * spOne - 2 ≤ ((p * zz / spOne : Nat) : ℝ) := by
      refine le_trans ?_ (sub_one_le_floor_div _ _)
      rw [le_sub_iff_add_le, le_div_iff₀ hU]
      push_cast
      have h1 : (P * spOne - 2) * zz ≤ p * zz := mul_le_mul_of_nonneg_right hp2 hzz0
      have h2 : P * spOne * (Z * Z * spOne - 2) ≤ P * spOne * zz := mul_le_mul_of_nonneg_left hlo (by positivity)
      have h3 : P * spOne ≤ 1 / 3 * spOne := mul_le_mul_of_nonneg_right hP hU.le
      have h4 : Z * Z * spOne ≤ 1 / 9 * spOne := mul_le_mul_of_nonneg_right hZZ hU.le
      nlinarith
    obtain ⟨ih1, ih2⟩ := ih (p * zz / spOne) (k + 2) (P * (Z * Z)) (by omega) (by positivity) (by nlinarith) hprod1 hprod2
    have hq1 : ((p / k : Nat) : ℝ) ≤ P / k * spOne := by
      refine (floor_div_le _ _).trans ?_
      rw [div_mul_eq_mul_div]
      exact div_le_div_of_nonneg_right hp1 (by linarith)
    have hq2 : P / k * spOne - 3 ≤ ((p / k : Nat) : ℝ) := by
      refine le_trans ?_ (sub_one_le_floor_div _ _)
      have h2 : (2 : ℝ) / k ≤ 2 := div_le_self (by norm_num) hkr
      have h3 : (P * spOne - 2) / k ≤ (p : ℝ) / k := div_le_div_of_nonneg_right hp2 (by linarith)
      rw [sub_div, ← div_mul_eq_mul_div] at h3
      linarith
    rw [atanhTerms, oddSeries_succ]
    push_cast
    constructor <;> linarith

theorem two_spOne_le {k : Nat} (h : 321 ≤ k) : 2 * spOne ≤ 2 ^ k := by
  rw [spOne, ← pow_succ']
  gcongr
  norm_num

theorem two_spOne_le_pow : 2 * (spOne : ℝ) ≤ 3 ^ 221 := by
  have h : 2 * spOne ≤ 3 ^ 221 := calc
    2 * spOne ≤ 2 ^ (3 * 110) := two_spOne_le (by norm_num)
    _ = 8 ^ 110 := pow_mul 2 3 110
    _ ≤ 9 ^ 110 := Nat.pow_le_pow_left (by norm_num) 110
    _ = 3 ^ (2 * 110) := (pow_mul 3 2 110).symm
    _ ≤ 3 ^ 221 := Nat.pow_le_pow_right (by norm_num) (by norm_num)
  exact_mod_cast h

theorem two_spOne_le_factorial : 2 * (spOne : ℝ) ≤ Nat.factorial 80 := by
  have h31 : 2 ^ 77 ≤ Nat.factorial 31 := by decide +kernel
  have h : 2 * spOne ≤ Nat.factorial 80 := calc
    2 * spOne ≤ 2 ^ (77 + 5 * 49) := two_spOne_le (by norm_num)
    _ = 2 ^ 77 * 32 ^ 49 := by rw [pow_add, pow_mul]; rfl
    _ ≤ Nat.factorial 31 * 32 ^ 49 := Nat.mul_le_mul_right _ h31
    _ ≤ Nat.factorial (31 + 49) := Nat.factorial_mul_pow_le_factorial
  exact_mod_cast h

/-- The series reaches the logarithm within 2^-320. -/
theorem oddSeries_log {Z : ℝ} (hZ0 : 0 ≤ Z) (hZ : Z ≤ 1 / 3) : 2 * oddSeries Z Z 110 1 ≤ Real.log (1 + Z) - Real.log (1 - Z)
    ∧ (Real.log (1 + Z) - Real.log (1 - Z)) * spOne ≤ 2 * oddSeries Z Z 110 1 * spOne + 1 := by
  have hU := spOne_real_pos
  have hsum := Real.hasSum_log_sub_log_of_abs_lt_one (x := Z) (by rw [abs_of_nonneg hZ0]; linarith)
  have hpart : ∑ k ∈ Finset.range 110, (2 : ℝ) * (1 / (2 * k + 1)) * Z ^ (2 * k + 1) = 2 * oddSeries Z Z 110 1 := by
    rw [oddSeries, Finset.mul_sum]
    refine Finset.sum_congr rfl fun k _ => ?_
    rw [pow_succ, pow_mul, pow_two]
    push_cast
    ring
  constructor
  · rw [← hpart]
    exact sum_le_hasSum _ (fun k _ => by positivity) hsum
  · have htail := (hasSum_nat_add_iff' 110).2 hsum
    rw [hpart] at htail
    have hgeo : HasSum (fun k : Nat => (1 / 3 : ℝ) ^ 221 * (1 / 9) ^ k) ((1 / 3) ^ 221 * (1 - 1 / 9)⁻¹) :=
      (hasSum_geometric_of_lt_one (by norm_num) (by norm_num)).mul_left _
    have hle : ∀ k : Nat, (2 : ℝ) * (1 / (2 * ((k + 110 : Nat) : ℝ) + 1)) * Z ^ (2 * (k + 110) + 1) ≤ (1 / 3) ^ 221 * (1 / 9) ^ k := by
      intro k
      have hpow : Z ^ (2 * (k + 110) + 1) ≤ (1 / 3) ^ 221 * (1 / 9) ^ k := by
        refine (pow_le_pow_left₀ hZ0 hZ _).trans_eq ?_
        rw [show 2 * (k + 110) + 1 = 221 + 2 * k by ring, pow_add, pow_mul]
        norm_num
      have hcoef : (2 : ℝ) * (1 / (2 * ((k + 110 : Nat) : ℝ) + 1)) ≤ 1 := by
        rw [mul_one_div, div_le_one (by positivity)]
        push_cast
        have : (0 : ℝ) ≤ k := Nat.cast_nonneg k
        linarith
      exact (mul_le_of_le_one_left (pow_nonneg hZ0 _) hcoef).trans hpow
    have hdiff := hasSum_le hle htail hgeo
    have hsmall : (1 / 3 : ℝ) ^ 221 * (1 - 1 / 9)⁻¹ * spOne ≤ 1 := by
      have h3 := two_spOne_le_pow
      rw [one_div_pow, show ((1 : ℝ) - 1 / 9)⁻¹ = 9 / 8 by norm_num, div_mul_div_comm, div_mul_eq_mul_div, div_le_one (by positivity)]
      linarith
    nlinarith [mul_le_mul_of_nonneg_right hdiff hU.le]

/-- `lnRatio` is the logarithm of a quotient, short by less than 700 units. -/
theorem lnRatio_bounds {num den : Nat} (hden : 0 < den) (h1 : den ≤ num) (h2 : num ≤ 2 * den) :
    (lnRatio num den : ℝ) ≤ Real.log ((num : ℝ) / den) * spOne ∧ Real.log ((num : ℝ) / den) * spOne - 700 ≤ lnRatio num den := by
  have hU := spOne_real_pos
  have hd : (0 : ℝ) < den := Nat.cast_pos.2 hden
  have h1r : (den : ℝ) ≤ num := by exact_mod_cast h1
  have h2r : (num : ℝ) ≤ 2 * den := by exact_mod_cast h2
  obtain ⟨Z, hZ⟩ : ∃ Z : ℝ, Z = ((num : ℝ) - den) / (num + den) := ⟨_, rfl⟩
  have hZ0 : 0 ≤ Z := hZ ▸ div_nonneg (by linarith) (by linarith)
  have hZ3 : Z ≤ 1 / 3 := by
    rw [hZ, div_le_div_iff₀ (by linarith) (by norm_num)]
    linarith
  have hlog : Real.log ((num : ℝ) / den) = Real.log (1 + Z) - Real.log (1 - Z) := by
    have hs : (num : ℝ) + den ≠ 0 := by linarith
    have hp : 1 + Z = 2 * num / (num + den) := by rw [hZ]; field_simp; ring
    have hm : 1 - Z = 2 * den / (num + den) := by rw [hZ]; field_simp; ring
    rw [← Real.log_div (by linarith) (by linarith), hp, hm, div_div_div_cancel_right₀ hs, mul_div_mul_left _ _ two_ne_zero]
  obtain ⟨z, hz⟩ : ∃ z, z = (num - den) * spOne / (num + den) := ⟨_, rfl⟩
  have hzr : (((num - den) * spOne : Nat) : ℝ) / ((num + den : Nat) : ℝ) = Z * spOne := by
    rw [hZ, Nat.cast_mul, Nat.cast_sub h1, Nat.cast_add]
    ring
  have hz1 : (z : ℝ) ≤ Z * spOne := hzr ▸ hz ▸ floor_div_le _ _
  have hz2 : Z * spOne - 1 ≤ z := hzr ▸ hz ▸ sub_one_le_floor_div _ _
  have hz0 : (0 : ℝ) ≤ z := Nat.cast_nonneg z
  have hzz1 : ((z * z / spOne : Nat) : ℝ) ≤ Z * Z * spOne := by
    refine (floor_div_le _ _).trans ?_
    rw [div_le_iff₀ hU]
    push_cast
    nlinarith [mul_le_mul hz1 hz1 hz0 (by positivity)]
  have hzz2 : Z * Z * spOne - 2 ≤ ((z * z / spOne : Nat) : ℝ) := by
    refine le_trans ?_ (sub_one_le_floor_div _ _)
    rw [le_sub_iff_add_le, le_div_iff₀ hU]
    push_cast
    have ha : (Z * spOne - 1) * z ≤ z * z := mul_le_mul_of_nonneg_right hz2 hz0
    have hb : Z * spOne * (Z * spOne - 1) ≤ Z * spOne * z := mul_le_mul_of_nonneg_left hz2 (by positivity)
    have hc : Z * spOne ≤ 1 / 3 * spOne := mul_le_mul_of_nonneg_right hZ3 hU.le
    nlinarith
  obtain ⟨hs1, hs2⟩ := atanhTerms_bounds hZ0 hZ3 hzz2 hzz1 110 z 1 Z le_rfl hZ0 hZ3 hz1 (by linarith)
  obtain ⟨hl1, hl2⟩ := oddSeries_log hZ0 hZ3
  have hln : (lnRatio num den : ℝ) = 2 * (atanhTerms (z * z / spOne) 110 z 1 : Nat) := by
    rw [lnRatio, ← hz]
    push_cast
    rfl
  rw [hlog, hln]
  have hl3 := mul_le_mul_of_nonneg_right hl1 hU.le
  push_cast at hs2
  constructor <;> linarith

/-- `spLn2` is the logarithm of 2. -/
theorem spLn2_bounds : (spLn2 : ℝ) ≤ Real.log 2 * spOne ∧ Real.log 2 * spOne - 700 ≤ spLn2 := by
  have h := lnRatio_bounds (num := 2) (den := 1) (by norm_num) (by norm_num) (by norm_num)
  rwa [Nat.cast_one, div_one, Nat.cast_ofNat] at h

/-! ### The series of the exponential -/

/-- The terms Y^k / k! from the term T = Y^k / k! on. -/
noncomputable def expSeries (Y : ℝ) (n k : Nat) : ℝ := ∑ j ∈ Finset.range n, Y ^ (k + j) / (k + j).factorial

theorem expSeries_succ (Y : ℝ) (n k : Nat) : expSeries Y (n + 1) k = Y ^ k / k.factorial + expSeries Y n (k + 1) := by
  unfold expSeries
  rw [Finset.sum_range_succ', add_comm]
  congr 1
  refine Finset.sum_congr rfl fun j _ => ?_
  rw [add_right_comm, add_assoc]

/-- Term k of the series loses at most 2k units. -/
theorem expTerms_bounds {y : Nat} (hy : y ≤ spOne) : ∀ n t k : Nat, k + n ≤ 80 →
    (t : ℝ) ≤ ((y : ℝ) / spOne) ^ k / k.factorial * spOne → ((y : ℝ) / spOne) ^ k / k.factorial * spOne - 2 * k ≤ t →
    (expTerms y n t k : ℝ) ≤ expSeries ((y : ℝ) / spOne) n k * spOne ∧ expSeries ((y : ℝ) / spOne) n k * spOne - 160 * n ≤ expTerms y n t k := by
  have hU := spOne_real_pos
  have hY0 : (0 : ℝ) ≤ (y : ℝ) / spOne := div_nonneg (Nat.cast_nonneg y) hU.le
  have hY1 : (y : ℝ) / spOne ≤ 1 := (div_le_one hU).2 (by exact_mod_cast hy)
  intro n
  induction n with
  | zero => intro t k _ _ _; simp [expTerms, expSeries]
  | succ n ih =>
    intro t k hk ht1 ht2
    obtain ⟨Y, hY⟩ : ∃ Y, Y = (y : ℝ) / spOne := ⟨_, rfl⟩
    rw [← hY] at ih ht1 ht2 hY0 hY1 ⊢
    have hkr : (0 : ℝ) ≤ k := Nat.cast_nonneg k
    have hk1 : (0 : ℝ) < k + 1 := by linarith
    have ht0 : (0 : ℝ) ≤ t := Nat.cast_nonneg t
    have hstep : Y ^ (k + 1) / (k + 1).factorial * spOne = Y ^ k / k.factorial * spOne * Y / (k + 1) := by
      rw [Nat.factorial_succ, pow_succ]
      push_cast
      field_simp
    have hty : ((t * y : Nat) : ℝ) / spOne = t * Y := by rw [hY, Nat.cast_mul, mul_div_assoc]
    have hcast : ((k + 1 : Nat) : ℝ) = k + 1 := by push_cast; rfl
    have hu1 : ((t * y / spOne : Nat) : ℝ) ≤ t * Y := hty ▸ floor_div_le _ _
    have hu2 : t * Y - 1 ≤ ((t * y / spOne : Nat) : ℝ) := hty ▸ sub_one_le_floor_div _ _
    have hw1 : ((t * y / spOne / (k + 1) : Nat) : ℝ) ≤ Y ^ (k + 1) / (k + 1).factorial * spOne := by
      refine (floor_div_le _ _).trans ?_
      rw [hstep, hcast]
      refine div_le_div_of_nonneg_right (hu1.trans (mul_le_mul_of_nonneg_right ht1 hY0)) hk1.le
    have hw2 : Y ^ (k + 1) / (k + 1).factorial * spOne - 2 * ((k + 1 : Nat) : ℝ) ≤ ((t * y / spOne / (k + 1) : Nat) : ℝ) := by
      refine le_trans ?_ (sub_one_le_floor_div _ _)
      rw [hstep, hcast, sub_le_iff_le_add, div_le_iff₀ hk1]
      have h1 := mul_le_mul_of_nonneg_right ht2 hY0
      have h2 : 2 * (k : ℝ) * Y ≤ 2 * k := mul_le_of_le_one_right (by linarith) hY1
      have h3 : ((t * y / spOne : Nat) : ℝ) / (k + 1) * (k + 1) = ((t * y / spOne : Nat) : ℝ) := div_mul_cancel₀ _ hk1.ne'
      nlinarith
    obtain ⟨ih1, ih2⟩ := ih (t * y / spOne / (k + 1)) (k + 1) (by omega) hw1 hw2
    rw [expTerms, expSeries_succ]
    have hk80 : (k : ℝ) ≤ 80 := by exact_mod_cast (by omega : k ≤ 80)
    push_cast
    constructor <;> linarith

/-- Eighty terms of the series reach the exponential within 2^-320. -/
theorem expSeries_exp {Y : ℝ} (hY0 : 0 ≤ Y) (hY1 : Y ≤ 1) :
    expSeries Y 80 0 ≤ Real.exp Y ∧ Real.exp Y * spOne ≤ expSeries Y 80 0 * spOne + 1 := by
  have hU := spOne_real_pos
  have hser : expSeries Y 80 0 = ∑ m ∈ Finset.range 80, Y ^ m / m.factorial := by simp only [expSeries, zero_add]
  have htail : Y ^ 80 * ((80 : Nat) + 1) / (Nat.factorial 80 * (80 : Nat)) * spOne ≤ 1 := by
    have hf := two_spOne_le_factorial
    have hp : Y ^ 80 ≤ 1 := pow_le_one₀ hY0 hY1
    rw [div_mul_eq_mul_div, div_le_one (by positivity)]
    push_cast
    nlinarith [mul_le_mul_of_nonneg_right hp hU.le]
  rw [hser]
  refine ⟨Real.sum_le_exp_of_nonneg hY0 80, ?_⟩
  have hexp := mul_le_mul_of_nonneg_right (Real.exp_bound' hY0 hY1 (n := 80) (by norm_num)) hU.le
  rw [add_mul] at hexp
  exact hexp.trans (by gcongr)

/-- `expOf` is the exponential, short by less than 12801 units. -/
theorem expOf_bounds {y : Nat} (hy : y ≤ spOne) : (expOf y : ℝ) ≤ Real.exp ((y : ℝ) / spOne) * spOne
    ∧ Real.exp ((y : ℝ) / spOne) * spOne - 12801 ≤ expOf y := by
  have hU := spOne_real_pos
  have hY0 : (0 : ℝ) ≤ (y : ℝ) / spOne := div_nonneg (Nat.cast_nonneg y) hU.le
  have hY1 : (y : ℝ) / spOne ≤ 1 := (div_le_one hU).2 (by exact_mod_cast hy)
  obtain ⟨h1, h2⟩ := expTerms_bounds hy 80 spOne 0 le_rfl (by simp) (by simp)
  obtain ⟨h3, h4⟩ := expSeries_exp hY0 hY1
  have h5 := mul_le_mul_of_nonneg_right h3 hU.le
  have h80 : (160 : ℝ) * (80 : Nat) = 12800 := by norm_num
  rw [h80] at h2
  exact ⟨h1.trans h5, by rw [expOf]; linarith⟩

end Sys2Proof.Machine
end

section
/-! SUPPORT. Fixed point (R156): how far the model's 2^x, e^-x and log2 x lie from the exact values. -/

namespace Sys2Proof.Machine

variable {m : Nat} {q : Int}

theorem log_two_bounds : 2 / 3 ≤ Real.log 2 ∧ Real.log 2 ≤ 1 :=
  ⟨by linarith [Real.log_two_gt_d9], by linarith [Real.log_two_lt_d9]⟩

theorem spLn2_real : (spLn2 : ℝ) ≤ spOne ∧ (spOne : ℝ) / 2 ≤ spLn2 := by
  obtain ⟨h1, h2⟩ := spLn2_bounds
  obtain ⟨l1, l2⟩ := log_two_bounds
  have hU := spOne_real_large
  constructor
  · nlinarith
  · nlinarith

/-! ### Powers of two -/

/-- The fraction's power is short by less than 15000 units. -/
theorem exp2_bounds {r : Nat} (hr : r < spOne) : (expOf (r * spLn2 / spOne) : ℝ) ≤ (2 : ℝ) ^ ((r : ℝ) / spOne) * spOne
    ∧ (2 : ℝ) ^ ((r : ℝ) / spOne) * spOne - 15000 ≤ expOf (r * spLn2 / spOne) := by
  have hU := spOne_real_pos
  obtain ⟨hl1, hl2⟩ := spLn2_bounds
  obtain ⟨l1, l2⟩ := log_two_bounds
  obtain ⟨hs, -⟩ := spLn2_real
  obtain ⟨ρ, hρ⟩ : ∃ ρ, ρ = (r : ℝ) / spOne := ⟨_, rfl⟩
  have hρ0 : 0 ≤ ρ := hρ ▸ div_nonneg (Nat.cast_nonneg r) hU.le
  have hρ1 : ρ ≤ 1 := hρ ▸ (div_le_one hU).2 (by exact_mod_cast hr.le)
  have hcast : ((r * spLn2 : Nat) : ℝ) / spOne = ρ * spLn2 := by rw [hρ, Nat.cast_mul, div_mul_eq_mul_div]
  have hy1 : ((r * spLn2 / spOne : Nat) : ℝ) ≤ ρ * spLn2 := hcast ▸ floor_div_le _ _
  have hy2 : ρ * spLn2 - 1 ≤ ((r * spLn2 / spOne : Nat) : ℝ) := hcast ▸ sub_one_le_floor_div _ _
  generalize r * spLn2 / spOne = y at *
  have hyU : (y : ℝ) ≤ spOne := by nlinarith
  obtain ⟨h1, h2⟩ := expOf_bounds (y := y) (by exact_mod_cast hyU)
  have hpow : (2 : ℝ) ^ ρ = Real.exp (Real.log 2 * ρ) := Real.rpow_def_of_pos two_pos ρ
  have hle : (y : ℝ) / spOne ≤ Real.log 2 * ρ := by
    rw [div_le_iff₀ hU]
    nlinarith
  have hge : Real.log 2 * ρ * spOne - 701 ≤ y := by nlinarith
  have hgap : Real.log 2 * ρ - y / spOne ≤ 701 / spOne := by
    rw [sub_le_iff_le_add, ← add_div, le_div_iff₀ hU]
    linarith
  have hmono := Real.exp_le_exp.2 hle
  have hexp2 : Real.exp (Real.log 2 * ρ) ≤ 2 := by
    rw [← hpow]
    calc (2 : ℝ) ^ ρ ≤ 2 ^ (1 : ℝ) := Real.rpow_le_rpow_of_exponent_le one_le_two hρ1
      _ = 2 := Real.rpow_one 2
  have hdiff : Real.exp (Real.log 2 * ρ) * spOne - Real.exp ((y : ℝ) / spOne) * spOne ≤ 1402 := by
    have hsplit : Real.exp ((y : ℝ) / spOne) = Real.exp (Real.log 2 * ρ) * Real.exp ((y : ℝ) / spOne - Real.log 2 * ρ) := by
      rw [← Real.exp_add]
      congr 1
      ring
    have hone := Real.add_one_le_exp ((y : ℝ) / spOne - Real.log 2 * ρ)
    have hpos := Real.exp_pos (Real.log 2 * ρ)
    have hd : 1 - Real.exp ((y : ℝ) / spOne - Real.log 2 * ρ) ≤ 701 / spOne := by linarith
    have hd' : (1 - Real.exp ((y : ℝ) / spOne - Real.log 2 * ρ)) * spOne ≤ 701 := by
      rw [← le_div_iff₀ hU]
      exact hd
    rw [hsplit]
    nlinarith
  rw [← hρ, hpow]
  constructor
  · exact h1.trans (mul_le_mul_of_nonneg_right hmono hU.le)
  · linarith

/-! ### Powers of e -/

theorem fixedOf_real (m : Nat) (hq : -149 ≤ q) : (fixedOf m q : ℝ) = (m : ℝ) * 2 ^ q * spOne := by
  have h := fixedOf_eq m hq
  rw [← spOne_eq] at h
  have h := congrArg (Rat.cast (K := ℝ)) h
  push_cast at h
  exact h

/-- The quotient of two fixed-point numbers from the reciprocal of an exponential. -/
theorem recip_expOf_bounds {y : Nat} (hy : y ≤ spOne) : ((spOne * spOne / expOf y : Nat) : ℝ) ≤ Real.exp (-((y : ℝ) / spOne)) * spOne + 12801
    ∧ Real.exp (-((y : ℝ) / spOne)) * spOne - 1 ≤ ((spOne * spOne / expOf y : Nat) : ℝ) := by
  have hU := spOne_real_pos
  obtain ⟨h1, h2⟩ := expOf_bounds hy
  have hE0 : (spOne : ℝ) ≤ expOf y := by exact_mod_cast spOne_le_expOf y
  have hEpos : (0 : ℝ) < expOf y := hU.trans_le hE0
  have hexp := Real.exp_pos ((y : ℝ) / spOne)
  rw [Real.exp_neg]
  generalize Real.exp ((y : ℝ) / spOne) = A at *
  have hinv : A⁻¹ * spOne * (A * spOne) = spOne * spOne := by
    field_simp
  have hinv0 : 0 ≤ A⁻¹ * spOne := by positivity
  have hinvU : A⁻¹ * spOne ≤ spOne := by
    have h1A : 1 ≤ A := le_of_mul_le_mul_right (by linarith) hU
    exact mul_le_of_le_one_left hU.le (inv_le_one_of_one_le₀ h1A)
  constructor
  · refine (floor_div_le _ _).trans ?_
    rw [div_le_iff₀ hEpos]
    push_cast
    nlinarith
  · refine le_trans ?_ (sub_one_le_floor_div _ _)
    rw [sub_le_sub_iff_right, le_div_iff₀ hEpos]
    push_cast
    nlinarith

theorem exp_le_one_add {d : ℝ} (h0 : 0 ≤ d) (h1 : d ≤ 1 / 2) : Real.exp d ≤ 1 + 2 * d := by
  have hinv : Real.exp d * Real.exp (-d) = 1 := by rw [← Real.exp_add, add_neg_cancel, Real.exp_zero]
  have hone := Real.add_one_le_exp (-d)
  have hpos := Real.exp_pos d
  nlinarith

/-- Beyond 2^10 nothing of e^-x is left. -/
theorem expNeg_huge (hbig : (2 : Rat) ^ (10 : Int) ≤ m * 2 ^ q) : expNeg m q = 0 ∧ Real.exp (-((m : ℝ) * 2 ^ q)) * spOne ≤ 1 := by
  constructor
  · rw [expNeg, if_pos]
    rw [cmpMag_eq]
    simpa [compare_lt_iff_lt] using hbig
  · have hx : (320 : ℝ) ≤ (m : ℝ) * 2 ^ q := by
      have h : ((320 : Rat) : ℝ) ≤ ((m * 2 ^ q : Rat) : ℝ) := Rat.cast_le.2 (le_trans (by norm_num) hbig)
      push_cast at h
      exact h
    have hpow : (spOne : ℝ) ≤ Real.exp ((m : ℝ) * 2 ^ q) := calc
      (spOne : ℝ) = 2 ^ 320 := by rw [spOne, Nat.cast_pow, Nat.cast_ofNat]
      _ ≤ Real.exp 1 ^ 320 := pow_le_pow_left₀ (by norm_num) (by linarith [Real.add_one_le_exp (1 : ℝ)]) 320
      _ = Real.exp 320 := by rw [← Real.exp_nat_mul]; norm_num
      _ ≤ _ := Real.exp_le_exp.2 hx
    rw [Real.exp_neg, inv_mul_le_iff₀ (Real.exp_pos _), mul_one]
    exact hpow

/-- Below 2^10 the reciprocal of the remainder's exponential is halved for each ln 2. -/
theorem expNeg_eq (hsmall : (m : Rat) * 2 ^ q < 2 ^ (10 : Int)) :
    expNeg m q = spOne * spOne / expOf (fixedOf m q % spLn2) / 2 ^ (fixedOf m q / spLn2) := by
  rw [expNeg, if_neg]
  rw [cmpMag_eq]
  simpa [compare_lt_iff_lt] using hsmall

/-- The halvings of a value below 2^10, and what their ln 2 falls short by. -/
theorem halvings_bounds (hq : -149 ≤ q) (hsmall : (m : Rat) * 2 ^ q < 2 ^ (10 : Int)) {k : Nat} (hk : k = fixedOf m q / spLn2) :
    0 ≤ (k : ℝ) * (Real.log 2 - spLn2 / spOne) ∧ (k : ℝ) * (Real.log 2 - spLn2 / spOne) * spOne ≤ 2 ^ 21 - 4 := by
  have hU := spOne_real_pos
  obtain ⟨hl1, hl2⟩ := spLn2_bounds
  obtain ⟨-, hs⟩ := spLn2_real
  have hX : (fixedOf m q : ℝ) ≤ 1024 * spOne := by
    rw [fixedOf_real m hq]
    have h : ((m * 2 ^ q : Rat) : ℝ) ≤ ((1024 : Rat) : ℝ) := Rat.cast_le.2 (hsmall.le.trans (by norm_num))
    push_cast at h
    exact mul_le_mul_of_nonneg_right h hU.le
  have hkL : (k : ℝ) * spLn2 ≤ fixedOf m q := by
    rw [hk]
    exact_mod_cast Nat.div_mul_le_self _ _
  have hk0 : (0 : ℝ) ≤ k := Nat.cast_nonneg k
  have hk2 : (k : ℝ) ≤ 2048 := by
    by_contra hlt
    nlinarith
  have hgap : (Real.log 2 - spLn2 / spOne) * spOne = Real.log 2 * spOne - spLn2 := by
    rw [sub_mul, div_mul_cancel₀ _ hU.ne']
  have hgap0 : 0 ≤ Real.log 2 - spLn2 / spOne := by
    rw [sub_nonneg, div_le_iff₀ hU]
    exact hl1
  refine ⟨mul_nonneg hk0 hgap0, ?_⟩
  rw [mul_assoc, hgap]
  nlinarith

/-- e^-x is within 2^22 units, and at most one. -/
theorem expNeg_bounds (hq : -149 ≤ q) : |Real.exp (-((m : ℝ) * 2 ^ q)) * spOne - expNeg m q| ≤ 2 ^ 22 ∧ expNeg m q ≤ spOne := by
  have hU := spOne_real_pos
  have hbigU := spOne_real_large
  have hexp0 : 0 ≤ Real.exp (-((m : ℝ) * 2 ^ q)) * spOne := mul_nonneg (Real.exp_pos _).le hU.le
  rcases le_or_gt ((2 : Rat) ^ (10 : Int)) (m * 2 ^ q) with hbig | hsmall
  · obtain ⟨h0, h1⟩ := expNeg_huge hbig
    rw [h0]
    refine ⟨?_, Nat.zero_le _⟩
    rw [Nat.cast_zero, sub_zero, abs_of_nonneg hexp0]
    linarith
  obtain ⟨k, hk⟩ : ∃ k, k = fixedOf m q / spLn2 := ⟨_, rfl⟩
  obtain ⟨y, hy⟩ : ∃ y, y = fixedOf m q % spLn2 := ⟨_, rfl⟩
  obtain ⟨hd0, hd1⟩ := halvings_bounds hq hsmall hk
  obtain ⟨hs1, hs2⟩ := spLn2_real
  have hL0 : 0 < spLn2 := by
    have : (0 : ℝ) < spLn2 := by linarith
    exact_mod_cast this
  have hyL : y ≤ spOne := by
    have h1 : y < spLn2 := hy ▸ Nat.mod_lt _ hL0
    have h2 : spLn2 ≤ spOne := by exact_mod_cast hs1
    omega
  have hsplit : (fixedOf m q : ℝ) = k * spLn2 + y := by
    rw [hk, hy]
    exact_mod_cast (Nat.div_add_mod' (fixedOf m q) spLn2).symm
  obtain ⟨hr1, hr2⟩ := recip_expOf_bounds hyL
  rw [expNeg_eq hsmall, ← hk, ← hy]
  have hDU : spOne * spOne / expOf y ≤ spOne := Nat.div_le_of_le_mul (Nat.mul_le_mul_right _ (spOne_le_expOf y))
  generalize spOne * spOne / expOf y = D at *
  refine ⟨?_, (Nat.div_le_self _ _).trans hDU⟩
  have hcast : (D : ℝ) / ((2 ^ k : Nat) : ℝ) = D / 2 ^ k := by push_cast; rfl
  have hR1 : ((D / 2 ^ k : Nat) : ℝ) ≤ D / 2 ^ k := hcast ▸ floor_div_le _ _
  have hR2 : (D : ℝ) / 2 ^ k - 1 ≤ ((D / 2 ^ k : Nat) : ℝ) := hcast ▸ sub_one_le_floor_div _ _
  generalize D / 2 ^ k = R at *
  have h2k : (1 : ℝ) ≤ 2 ^ k := one_le_pow₀ one_le_two
  have h2k0 : (0 : ℝ) < 2 ^ k := by positivity
  obtain ⟨d, hd⟩ : ∃ d, d = (k : ℝ) * (Real.log 2 - spLn2 / spOne) := ⟨_, rfl⟩
  obtain ⟨A, hA⟩ : ∃ A, A = Real.exp (-((y : ℝ) / spOne)) := ⟨_, rfl⟩
  rw [← hd] at hd0 hd1
  rw [← hA] at hr1 hr2
  have hA0 : 0 < A := hA ▸ Real.exp_pos _
  have hA1 : A ≤ 1 := by
    rw [hA]
    exact Real.exp_le_one_iff.2 (neg_nonpos.2 (div_nonneg (Nat.cast_nonneg y) hU.le))
  have hvalue : Real.exp (-((m : ℝ) * 2 ^ q)) = A / 2 ^ k * Real.exp d := by
    have hx : (m : ℝ) * 2 ^ q = (k * spLn2 + y) / spOne := by
      rw [← hsplit, fixedOf_real m hq, mul_div_cancel_right₀ _ hU.ne']
    have hpow : (2 : ℝ) ^ k = Real.exp (k * Real.log 2) := by
      rw [Real.exp_nat_mul, Real.exp_log two_pos]
    rw [hpow, hA, ← Real.exp_sub, ← Real.exp_add, hx, hd]
    congr 1
    ring
  have hd2 : d ≤ 1 / 2 := by nlinarith
  have hed := exp_le_one_add hd0 hd2
  have hed0 : 1 ≤ Real.exp d := Real.one_le_exp hd0
  have hB1 : A / 2 ^ k ≤ 1 := (div_le_one h2k0).2 (hA1.trans h2k)
  have hB0 : 0 ≤ A / 2 ^ k := div_nonneg hA0.le h2k0.le
  have hD1 : (D : ℝ) / 2 ^ k ≤ A / 2 ^ k * spOne + 12801 := by
    rw [div_le_iff₀ h2k0, add_mul, div_mul_eq_mul_div, div_mul_cancel₀ _ h2k0.ne']
    linarith [mul_le_mul_of_nonneg_left h2k (by norm_num : (0 : ℝ) ≤ 12801)]
  have hD2 : A / 2 ^ k * spOne - 1 ≤ (D : ℝ) / 2 ^ k := by
    rw [le_div_iff₀ h2k0, sub_mul, div_mul_eq_mul_div, div_mul_cancel₀ _ h2k0.ne']
    linarith
  have hlow : A / 2 ^ k * spOne ≤ A / 2 ^ k * Real.exp d * spOne :=
    mul_le_mul_of_nonneg_right (le_mul_of_one_le_right hB0 hed0) hU.le
  have hhigh : A / 2 ^ k * Real.exp d * spOne ≤ A / 2 ^ k * spOne + 2 * (d * spOne) := by
    have h1 := mul_le_mul_of_nonneg_left hed hB0
    have h2 : A / 2 ^ k * (2 * d) ≤ 2 * d := mul_le_of_le_one_left (by linarith) hB1
    have h3 := mul_le_mul_of_nonneg_right (h1.trans (by linarith : A / 2 ^ k * (1 + 2 * d) ≤ A / 2 ^ k + 2 * d)) hU.le
    linarith
  rw [hvalue, abs_le]
  constructor <;> linarith

end Sys2Proof.Machine
end

section
/-! SUPPORT. Fixed point (R156): how far the model's log2 x, tanh x and 1 / (1 + e^-x) lie from the exact values. -/

namespace Sys2Proof.Machine

variable {m : Nat} {q : Int}

/-! ### Logarithms -/

/-- The base-2 logarithm of a significand, within 2^12 units. -/
theorem log2_fraction_bounds (hm : m ≠ 0) :
    |Real.logb 2 ((m : ℝ) / (2 ^ m.log2 : Nat)) * spOne - (lnRatio m (2 ^ m.log2) * spOne / spLn2 : Nat)| ≤ 2 ^ 12 := by
  have hU := spOne_real_pos
  have hd : 0 < 2 ^ m.log2 := by positivity
  have hlo : 2 ^ m.log2 ≤ m := Nat.log2_self_le hm
  have hhi : m ≤ 2 * 2 ^ m.log2 := by
    have := Nat.lt_log2_self (n := m)
    rw [pow_succ] at this
    omega
  obtain ⟨ha1, ha2⟩ := lnRatio_bounds hd hlo hhi
  obtain ⟨hb1, hb2⟩ := spLn2_bounds
  obtain ⟨-, hs⟩ := spLn2_real
  obtain ⟨l1, -⟩ := log_two_bounds
  have hdr : (0 : ℝ) < (2 ^ m.log2 : Nat) := Nat.cast_pos.2 hd
  have hf1 : 1 ≤ (m : ℝ) / (2 ^ m.log2 : Nat) := (one_le_div hdr).2 (by exact_mod_cast hlo)
  have hf2 : (m : ℝ) / (2 ^ m.log2 : Nat) ≤ 2 := (div_le_iff₀ hdr).2 (by exact_mod_cast hhi)
  have hl0 : 0 ≤ Real.log ((m : ℝ) / (2 ^ m.log2 : Nat)) := Real.log_nonneg hf1
  have hl2 : Real.log ((m : ℝ) / (2 ^ m.log2 : Nat)) ≤ Real.log 2 := Real.log_le_log (by linarith) hf2
  have hlogb : Real.logb 2 ((m : ℝ) / (2 ^ m.log2 : Nat)) * spOne = Real.log ((m : ℝ) / (2 ^ m.log2 : Nat)) * spOne * spOne / (Real.log 2 * spOne) := by
    rw [Real.logb]
    field_simp
  have hB0 : (0 : ℝ) < spLn2 := by linarith
  have hb0 : 0 < Real.log 2 * spOne := by positivity
  have hcast : ((lnRatio m (2 ^ m.log2) * spOne : Nat) : ℝ) / spLn2 = lnRatio m (2 ^ m.log2) * spOne / spLn2 := by push_cast; rfl
  have hw1 : ((lnRatio m (2 ^ m.log2) * spOne / spLn2 : Nat) : ℝ) ≤ lnRatio m (2 ^ m.log2) * spOne / spLn2 := hcast ▸ floor_div_le _ _
  have hw2 : (lnRatio m (2 ^ m.log2) : ℝ) * spOne / spLn2 - 1 ≤ ((lnRatio m (2 ^ m.log2) * spOne / spLn2 : Nat) : ℝ) :=
    hcast ▸ sub_one_le_floor_div _ _
  have hal : Real.log ((m : ℝ) / (2 ^ m.log2 : Nat)) * spOne ≤ Real.log 2 * spOne := mul_le_mul_of_nonneg_right hl2 hU.le
  have hal0 := mul_nonneg hl0 hU.le
  have hbU : (spOne : ℝ) / 2 ≤ Real.log 2 * spOne := by nlinarith
  rw [hlogb]
  generalize lnRatio m (2 ^ m.log2) * spOne / spLn2 = W at *
  generalize lnRatio m (2 ^ m.log2) = A at *
  generalize Real.log ((m : ℝ) / (2 ^ m.log2 : Nat)) * spOne = a at *
  generalize Real.log 2 * spOne = b at *
  generalize (spLn2 : ℝ) = B at *
  have hup : (A : ℝ) * spOne / B ≤ a * spOne / b + 1400 := by
    rw [div_le_iff₀ hB0, add_mul, div_mul_eq_mul_div, ← sub_le_iff_le_add, le_div_iff₀ hb0]
    have h1 : (A : ℝ) * spOne * b ≤ a * spOne * b := by gcongr
    have h2 : a * spOne * (b - B) ≤ b * spOne * 700 := by
      have : 0 ≤ b - B := by linarith
      have h3 : a * spOne ≤ b * spOne := mul_le_mul_of_nonneg_right hal hU.le
      calc a * spOne * (b - B) ≤ b * spOne * (b - B) := mul_le_mul_of_nonneg_right h3 this
        _ ≤ b * spOne * 700 := mul_le_mul_of_nonneg_left (by linarith) (by positivity)
    have h4 : b * spOne * 700 ≤ b * (2 * B) * 700 := by
      have : b * spOne ≤ b * (2 * B) := mul_le_mul_of_nonneg_left (by linarith) hb0.le
      linarith
    nlinarith
  have hdown : a * spOne / b - 1400 ≤ (A : ℝ) * spOne / B := by
    rw [le_div_iff₀ hB0, sub_mul, div_mul_eq_mul_div, sub_le_iff_le_add, div_le_iff₀ hb0]
    have h1 : a * spOne * B ≤ a * spOne * b := mul_le_mul_of_nonneg_left hb1 (by positivity)
    have h2 : (a - 700) * spOne * b ≤ A * spOne * b := by gcongr
    have h3 : (700 : ℝ) * spOne * b ≤ 1400 * B * b := by
      have : (700 : ℝ) * spOne ≤ 1400 * B := by linarith
      exact mul_le_mul_of_nonneg_right this hb0.le
    nlinarith
  rw [abs_le]
  constructor <;> linarith

theorem logb_two_zpow (k : Int) : Real.logb 2 ((2 : ℝ) ^ k) = k := by
  rw [← Real.rpow_intCast]
  exact Real.logb_rpow two_pos (by norm_num)

/-- The base-2 logarithm, split at the binade. -/
theorem logb_binade (hm : m ≠ 0) : Real.logb 2 ((m : ℝ) * 2 ^ q) = (q + m.log2 : Int) + Real.logb 2 ((m : ℝ) / (2 ^ m.log2 : Nat)) := by
  have hd : ((2 ^ m.log2 : Nat) : ℝ) = 2 ^ (m.log2 : Int) := by push_cast; rw [zpow_natCast]
  have hpos : (0 : ℝ) < m := Nat.cast_pos.2 (Nat.pos_of_ne_zero hm)
  rw [hd, Real.logb_mul hpos.ne' (zpow_pos two_pos q).ne', Real.logb_div hpos.ne' (zpow_pos two_pos _).ne', logb_two_zpow, logb_two_zpow]
  push_cast
  ring

/-! ### Quotients of a power of e -/

section
variable {U Q r : ℝ} (hU : 0 < U) (hQ0 : 0 ≤ Q) (hr0 : 0 ≤ r)
include hU hQ0 hr0

theorem half_quotient_near : |(U - Q) * U / (U + Q) - (U - r) * U / (U + r)| ≤ 2 * |Q - r| := by
  have h : (U - Q) * U / (U + Q) - (U - r) * U / (U + r) = 2 * U * U * (r - Q) / ((U + Q) * (U + r)) := by
    field_simp
    ring
  rw [h, abs_div, abs_of_pos (by positivity : 0 < (U + Q) * (U + r)), div_le_iff₀ (by positivity), abs_mul, abs_of_pos (by positivity : 0 < 2 * U * U),
    abs_sub_comm]
  have : U * U ≤ (U + Q) * (U + r) := by nlinarith
  nlinarith [mul_le_mul_of_nonneg_left this (abs_nonneg (Q - r))]

theorem one_quotient_near : |U * U / (U + Q) - U * U / (U + r)| ≤ |Q - r| := by
  have h : U * U / (U + Q) - U * U / (U + r) = U * U * (r - Q) / ((U + Q) * (U + r)) := by
    field_simp
    ring
  rw [h, abs_div, abs_of_pos (by positivity : 0 < (U + Q) * (U + r)), div_le_iff₀ (by positivity), abs_mul, abs_of_pos (by positivity : 0 < U * U),
    abs_sub_comm]
  have : U * U ≤ (U + Q) * (U + r) := by nlinarith
  nlinarith [mul_le_mul_of_nonneg_left this (abs_nonneg (Q - r))]

theorem part_quotient_near : |Q * U / (U + Q) - r * U / (U + r)| ≤ |Q - r| := by
  have h : Q * U / (U + Q) - r * U / (U + r) = U * U * (Q - r) / ((U + Q) * (U + r)) := by
    field_simp
    ring
  rw [h, abs_div, abs_of_pos (by positivity : 0 < (U + Q) * (U + r)), div_le_iff₀ (by positivity), abs_mul, abs_of_pos (by positivity : 0 < U * U)]
  have : U * U ≤ (U + Q) * (U + r) := by nlinarith
  nlinarith [mul_le_mul_of_nonneg_left this (abs_nonneg (Q - r))]

end

theorem near_floor {x : ℝ} {a b : Nat} {δ : ℝ} (h : |x - (a : ℝ) / b| ≤ δ) : |x - (a / b : Nat)| ≤ δ + 1 := by
  have h1 := floor_div_le a b
  have h2 := sub_one_le_floor_div a b
  rw [abs_le] at h ⊢
  constructor <;> linarith

theorem tanh_eq (x : ℝ) : Real.tanh x = (1 - Real.exp (-(2 * x))) / (1 + Real.exp (-(2 * x))) := by
  have h : Real.exp (-(2 * x)) = Real.exp (-x) / Real.exp x := by rw [← Real.exp_sub]; congr 1; ring
  have hx := Real.exp_pos x
  rw [Real.tanh_eq_sinh_div_cosh, Real.sinh_eq, Real.cosh_eq, h]
  field_simp

/-- tanh of a magnitude, within 2^24 - 1 units. -/
theorem tanh_bounds (hq : -149 ≤ q) : |Real.tanh ((m : ℝ) * 2 ^ q) * spOne
    - ((spOne - expNeg m (q + 1)) * spOne / (spOne + expNeg m (q + 1)) : Nat)| ≤ 2 ^ 24 - 1 := by
  have hU := spOne_real_pos
  obtain ⟨hnear, hle⟩ := expNeg_bounds (m := m) (q := q + 1) (by omega)
  have hx : (m : ℝ) * 2 ^ (q + 1) = 2 * (m * 2 ^ q) := by rw [zpow_add₀ two_ne_zero]; ring
  rw [hx] at hnear
  have hQ0 := Real.exp_pos (-(2 * ((m : ℝ) * 2 ^ q)))
  have hhalf := half_quotient_near hU (mul_nonneg hQ0.le hU.le) (Nat.cast_nonneg (expNeg m (q + 1)))
  have hvalue : Real.tanh ((m : ℝ) * 2 ^ q) * spOne = (spOne - Real.exp (-(2 * ((m : ℝ) * 2 ^ q))) * spOne) * spOne
      / (spOne + Real.exp (-(2 * ((m : ℝ) * 2 ^ q))) * spOne) := by
    rw [tanh_eq]
    field_simp
  rw [hvalue]
  refine (near_floor (δ := 2 * 2 ^ 22) ?_).trans (by norm_num)
  push_cast [Nat.cast_sub hle]
  linarith

/-- 1 / (1 + e^-x), within 2^24 - 1 units. -/
theorem sigm_bounds (neg : Bool) (hq : -149 ≤ q) : |1 / (1 + Real.exp (-(if neg then -((m : ℝ) * 2 ^ q) else m * 2 ^ q))) * spOne
    - ((if neg then expNeg m q else spOne) * spOne / (spOne + expNeg m q) : Nat)| ≤ 2 ^ 24 - 1 := by
  have hU := spOne_real_pos
  obtain ⟨hnear, -⟩ := expNeg_bounds (m := m) hq
  have hQ0 := Real.exp_pos (-((m : ℝ) * 2 ^ q))
  refine (near_floor (δ := 2 ^ 22) ?_).trans (by norm_num)
  cases neg
  · have h := one_quotient_near hU (mul_nonneg hQ0.le hU.le) (Nat.cast_nonneg (expNeg m q))
    have hvalue : 1 / (1 + Real.exp (-((m : ℝ) * 2 ^ q))) * spOne = spOne * spOne / (spOne + Real.exp (-((m : ℝ) * 2 ^ q)) * spOne) := by
      field_simp
    rw [if_neg (by simp), if_neg (by simp), hvalue]
    push_cast
    linarith
  · have h := part_quotient_near hU (mul_nonneg hQ0.le hU.le) (Nat.cast_nonneg (expNeg m q))
    have hvalue : 1 / (1 + Real.exp (- -((m : ℝ) * 2 ^ q))) * spOne
        = Real.exp (-((m : ℝ) * 2 ^ q)) * spOne * spOne / (spOne + Real.exp (-((m : ℝ) * 2 ^ q)) * spOne) := by
      have hinv : Real.exp (- -((m : ℝ) * 2 ^ q)) = (Real.exp (-((m : ℝ) * 2 ^ q)))⁻¹ := Real.exp_neg _
      rw [hinv]
      field_simp
      ring
    rw [if_pos rfl, if_pos rfl, hvalue]
    push_cast
    linarith

end Sys2Proof.Machine
end

section
/-! SUPPORT. Bounded results (R156): two values that enclose the exact one and round as the two results do. -/

namespace Sys2Proof.Machine

variable {F : Fmt} {G : FloatFmt} {m : Nat} {q : Int} {neg : Bool}

/-- A result from two values that enclose the exact one: both round to it, or one does and they are near (R156). -/
def Enclosed (F : Fmt) (value : ℝ) (b : Nat) (fl : Flags) : Prop :=
  ∃ p q : Rat, p ≠ 0 ∧ q ≠ 0 ∧ ((p : ℝ) ≤ value ∧ value ≤ q) ∧ (RoundedTo F .rne 0 p b fl ∧ RoundedTo F .rne 0 q b fl
    ∨ (q - p ≤ ratMag p * scaled 1 (-140) ∧ (RoundedTo F .rne 0 p b fl ∨ RoundedTo F .rne 0 q b fl)))

/-- A value that is one of the format's own roundings. -/
theorem enclosed_self {y : Rat} {value : ℝ} {b : Nat} {fl : Flags} (hy : y ≠ 0) (hv : value = y) (h : RoundedTo F .rne 0 y b fl) : Enclosed F value b fl :=
  ⟨y, y, hy, hy, ⟨hv.ge, hv.le⟩, .inl ⟨h, h⟩⟩

/-- The middle of unit n of 2^(x - 320). -/
def midUnit (n : Nat) (x : Int) : Rat := (n + 1 / 2) * 2 ^ (x - (spBits : Int))

theorem midUnit_pos (n : Nat) (x : Int) : 0 < midUnit n x := mul_pos (by positivity) (two_zpow_pos _)

theorem midUnit_within (n : Nat) (x : Int) : Within n (x - spBits) true (midUnit n x) := by
  have hp := two_zpow_pos (x - (spBits : Int))
  rw [within_true]
  unfold midUnit
  constructor <;> refine mul_lt_mul_of_pos_right ?_ hp <;> linarith

theorem midUnit_real (n : Nat) (x : Int) : (midUnit n x : ℝ) = (n + 1 / 2) / spOne * 2 ^ x := by
  have h : (midUnit n x : Rat) = (n + 1 / 2) / spOne * 2 ^ x := by
    rw [midUnit, sub_eq_add_neg, two_zpow_add, zpow_neg, spOne_eq]
    simp only [spBits, Nat.cast_ofNat]
    ring
  rw [h]
  push_cast
  rfl

theorem midUnit_rounded (h : VsfFmt F G) {n : Nat} {x : Int} (hn : n ≠ 0) (hx : x = 0 ∨ 2 ^ 47 ≤ n) :
    RoundedTo F .rne 0 (if neg then -midUnit n x else midUnit n x) (roundTo F .rne 0 (.fin neg n (x - spBits) true)).1
      (roundTo F .rne 0 (.fin neg n (x - spBits) true)).2 := by
  rw [h.rounded_iff, h.roundTo_eq]
  exact FloatFmt.round_rounded h.sized hn (midUnit_within n x) (h.sees hx) .rne neg 0

theorem highUnits_add_one (v : Nat) : highUnits v + 1 = v + 2 ^ 24 := by
  unfold highUnits spErr
  omega

theorem lowUnits_add {v : Nat} (hv : spErr < v) : lowUnits v + 2 ^ 24 = v := by
  unfold lowUnits spErr at *
  omega

theorem highUnits_real (v : Nat) : (highUnits v : ℝ) = v + (2 ^ 24 - 1) := by
  have h : (highUnits v : ℝ) + 1 = v + 2 ^ 24 := by exact_mod_cast highUnits_add_one v
  linarith

theorem lowUnits_real {v : Nat} (hv : spErr < v) : (lowUnits v : ℝ) = v - 2 ^ 24 := by
  have h : (lowUnits v : ℝ) + 2 ^ 24 = v := by exact_mod_cast lowUnits_add hv
  linarith

/-- From 2^168 on the bounds take little of a value. -/
theorem spErr_lt_of_large {v : Nat} (hv : 2 ^ 168 ≤ v) : spErr < v ∧ 2 ^ 167 ≤ lowUnits v := by
  have h1 : spErr < 2 ^ 167 := Nat.pow_lt_pow_right (by norm_num) (by norm_num)
  have h2 : 2 ^ 168 = 2 ^ 167 + 2 ^ 167 := by rw [← two_mul, ← pow_succ']
  rw [h2] at hv
  have h3 : spErr < v := by omega
  have h4 := lowUnits_add h3
  have h5 : spErr = 2 ^ 24 := rfl
  exact ⟨h3, by omega⟩

section
variable {A : ℝ} {v : Nat} (hnear : |A * spOne - v| ≤ 2 ^ 24 - 1)
include hnear

theorem le_midUnit_high (x : Int) : A * 2 ^ x ≤ midUnit (highUnits v) x := by
  have hU := spOne_real_pos
  obtain ⟨-, hhi⟩ := abs_le.1 hnear
  rw [midUnit_real, highUnits_real]
  refine mul_le_mul_of_nonneg_right ?_ (zpow_pos two_pos x).le
  rw [le_div_iff₀ hU]
  linarith

theorem midUnit_low_le (hv : spErr < v) (x : Int) : midUnit (lowUnits v) x ≤ A * 2 ^ x := by
  have hU := spOne_real_pos
  obtain ⟨hlo, -⟩ := abs_le.1 hnear
  rw [midUnit_real, lowUnits_real hv]
  refine mul_le_mul_of_nonneg_right ?_ (zpow_pos two_pos x).le
  rw [div_le_iff₀ hU]
  linarith

end

/-- The bounds of a value that is not tiny are near each other. -/
theorem midUnits_near {v : Nat} (hv : 2 ^ 168 ≤ v) (x : Int) :
    midUnit (highUnits v) x - midUnit (lowUnits v) x ≤ midUnit (lowUnits v) x * scaled 1 (-140) := by
  obtain ⟨herr, hlow⟩ := spErr_lt_of_large hv
  have hhigh : highUnits v ≤ lowUnits v + 2 ^ 25 := by
    have h1 := highUnits_add_one v
    have h2 := lowUnits_add herr
    omega
  have h1 : (2 ^ 167 : Rat) ≤ lowUnits v := by exact_mod_cast hlow
  have h2 : (highUnits v : Rat) ≤ lowUnits v + 2 ^ 25 := by exact_mod_cast hhigh
  unfold midUnit
  rw [← sub_mul, mul_right_comm]
  refine mul_le_mul_of_nonneg_right ?_ (two_zpow_pos _).le
  have h3 : scaled 1 (-140) = 1 / 2 ^ 140 := by
    rw [scaled_eq, zpow_neg]
    norm_num
  have h4 : (2 : Rat) ^ 25 * 2 ^ 140 ≤ 2 ^ 167 := by
    rw [← pow_add]
    exact pow_le_pow_right₀ one_le_two (by norm_num)
  have h5 : ((highUnits v : Rat) - lowUnits v) * 2 ^ 140 ≤ 2 ^ 25 * 2 ^ 140 := mul_le_mul_of_nonneg_right (by linarith only [h2]) (by positivity)
  rw [h3, mul_one_div, le_div_iff₀ (by positivity)]
  linarith only [h1, h4, h5]

theorem midUnit_small {n : Nat} (hn : n ≤ 2 ^ 169) : midUnit n 0 < 2 ^ (-150 : Int) := by
  have hn : (n : Rat) ≤ 2 ^ 169 := by exact_mod_cast hn
  have h1 : (1 : Rat) ≤ 2 ^ 169 := one_le_pow₀ one_le_two
  have h2 : (n : Rat) + 1 / 2 < 2 ^ (170 : Int) := by
    rw [show ((2 : Rat) ^ (170 : Int)) = 2 * 2 ^ 169 from (zpow_natCast 2 170).trans (pow_succ' 2 169)]
    linarith
  have h3 : ((2 : Rat) ^ (-150 : Int)) = 2 ^ (170 : Int) * 2 ^ (0 - (spBits : Int)) := by
    rw [← two_zpow_add]
    rfl
  rw [midUnit, h3]
  exact mul_lt_mul_of_pos_right h2 (two_zpow_pos _)

theorem highUnits_small {v : Nat} (hv : v < 2 ^ 168) : highUnits v ≤ 2 ^ 169 := by
  have h1 : 2 ^ 24 ≤ 2 ^ 168 := Nat.pow_le_pow_right (by norm_num) (by norm_num)
  have h2 : 2 ^ 169 = 2 ^ 168 + 2 ^ 168 := by rw [← two_mul, ← pow_succ']
  have h3 := highUnits_add_one v
  rw [h2]
  omega

theorem midUnit_high_small {v : Nat} (hv : v < 2 ^ 168) : midUnit (highUnits v) 0 < 2 ^ (-150 : Int) := midUnit_small (highUnits_small hv)

/-- Of values that are enclosed by the two results' values, each result is an enclosed one. -/
theorem enclosed_of_outcome {p q : Rat} {value : ℝ} {r s w : Nat × Flags} (hp0 : p ≠ 0) (hq0 : q ≠ 0) (hbetween : (p : ℝ) ≤ value ∧ value ≤ q)
    (hnear : q - p ≤ ratMag p * scaled 1 (-140)) (hp : RoundedTo F .rne 0 p r.1 r.2) (hq : RoundedTo F .rne 0 q s.1 s.2)
    (hw : (w = r ∧ r = s) ∨ w = r ∨ w = s) : Enclosed F value w.1 w.2 := by
  refine ⟨p, q, hp0, hq0, hbetween, ?_⟩
  rcases hw with ⟨rfl, rfl⟩ | rfl | rfl
  · exact .inl ⟨hp, hq⟩
  · exact .inr ⟨hnear, .inl hp⟩
  · exact .inr ⟨hnear, .inr hq⟩

theorem Outcome.cases {r w : (Nat × Flags)} {s : Nat × Flags} (h : Outcome (r, s) w) : (w = r ∧ r = s) ∨ w = r ∨ w = s := by
  rcases h with h | ⟨-, h⟩
  · exact .inl h
  · exact .inr h

section
variable (h : VsfFmt F G) {A : ℝ} {v : Nat} {x : Int} {w : Nat × Flags} (hA : 0 < A) (hnear : |A * spOne - v| ≤ 2 ^ 24 - 1)
  (hw : Outcome (bounded F neg v x) w)
include h hnear hw

/-- A bounded result that is not tiny. -/
theorem VsfFmt.enclosed_normal (hv : 2 ^ 168 ≤ v) : Enclosed F (if neg then -(A * 2 ^ x) else A * 2 ^ x) w.1 w.2 := by
  obtain ⟨herr, hlow⟩ := spErr_lt_of_large hv
  have hlow47 : 2 ^ 47 ≤ lowUnits v := (Nat.pow_le_pow_right (by norm_num) (by norm_num)).trans hlow
  have hle := midUnit_low_le hnear herr x
  have hge := le_midUnit_high hnear x
  have hgap := midUnits_near hv x
  have hlow' := midUnit_rounded (neg := neg) h (lowUnits_ne_zero v) (x := x) (.inr hlow47)
  have hhigh := midUnit_rounded (neg := neg) h (highUnits_ne_zero v) (x := x) (.inr (hlow47.trans (lowUnits_le_highUnits v)))
  have hp1 := midUnit_pos (lowUnits v) x
  have hp2 := midUnit_pos (highUnits v) x
  have h140 : (0 : Rat) < scaled 1 (-140) := by rw [scaled_eq, Int.cast_one, one_mul]; exact two_zpow_pos _
  rw [bounded_eq] at hw
  cases neg
  · rw [if_neg (by simp)] at hlow' hhigh ⊢
    refine enclosed_of_outcome hp1.ne' hp2.ne' ⟨hle, hge⟩ ?_ hlow' hhigh hw.cases
    rwa [ratMag_eq_abs, abs_of_pos hp1]
  · rw [if_pos rfl] at hlow' hhigh ⊢
    refine enclosed_of_outcome (neg_ne_zero.2 hp2.ne') (neg_ne_zero.2 hp1.ne') ⟨?_, ?_⟩ ?_ hhigh hlow' ?_
    · push_cast
      linarith
    · push_cast
      linarith
    · rw [ratMag_eq_abs, abs_neg, abs_of_pos hp2]
      have : midUnit (lowUnits v) x ≤ midUnit (highUnits v) x := by
        have := hle.trans hge
        exact_mod_cast this
      have hscale := mul_le_mul_of_nonneg_right this h140.le
      linarith only [hgap, hscale]
    · rcases hw.cases with ⟨h1, h2⟩ | h1 | h1
      · exact .inl ⟨h1.trans h2, h2.symm⟩
      · exact .inr (.inr h1)
      · exact .inr (.inl h1)

omit hnear in
/-- A tiny bounded result is a zero of its sign. -/
theorem VsfFmt.bounded_tiny (hx : x = 0) (hv : v < 2 ^ 168) : w = (G.signBit neg, fUF ||| fNX) := by
  subst hx
  have hround : ∀ n, n ≠ 0 → n ≤ 2 ^ 169 → roundTo F .rne 0 (.fin neg n (0 - spBits) true) = (G.signBit neg, fUF ||| fNX) := by
    intro n hn hle
    have h1 := midUnit_rounded (neg := neg) h hn (x := 0) (.inl rfl)
    have h2 := h.rounded_tiny neg (midUnit_pos n 0) (midUnit_small hle)
    have hne : (if neg then -midUnit n 0 else midUnit n 0) ≠ 0 := by
      cases neg <;> simp [(midUnit_pos n 0).ne']
    obtain ⟨hb, hf⟩ := floatRounded_unique h.sized hne (h.rounded_iff.1 h1) (h.rounded_iff.1 h2)
    exact Prod.ext hb hf
  have hhigh' := highUnits_small hv
  have hlow := hround _ (lowUnits_ne_zero v) ((lowUnits_le_highUnits v).trans hhigh')
  have hhigh := hround _ (highUnits_ne_zero v) hhigh'
  rw [bounded_eq] at hw
  rcases hw.cases with ⟨h1, -⟩ | h1 | h1
  · exact h1.trans hlow
  · exact h1.trans hlow
  · exact h1.trans hhigh

end

end Sys2Proof.Machine
end

section
/-! SUPPORT. VEXP2, VLOG2, VTANH and VSIGM (R156): the exact value rounded once to nearest even, and the statement on it (O40). -/

namespace Sys2Proof.Machine

variable {F : Fmt} {G : FloatFmt} {m : Nat} {q : Int} {neg : Bool}

/-- Two tiny values enclose a tiny one. -/
theorem VsfFmt.enclosed_tiny (h : VsfFmt F G) {A : ℝ} {u : Rat} (hA : 0 < A) (hAu : A ≤ u) (hu : u < 2 ^ (-150 : Int)) :
    Enclosed F (if neg then -A else A) (G.signBit neg) (fUF ||| fNX) := by
  obtain ⟨l, hl0, hlA⟩ := exists_rat_btwn hA
  have hl0 : 0 < l := by exact_mod_cast hl0
  have hlu : l < u := by exact_mod_cast hlA.trans_le hAu
  have hu0 : 0 < u := hl0.trans hlu
  have hlow := h.rounded_tiny neg hl0 (hlu.trans hu)
  have hhigh := h.rounded_tiny neg hu0 hu
  cases neg
  · exact ⟨l, u, hl0.ne', hu0.ne', ⟨hlA.le, hAu⟩, .inl ⟨hlow, hhigh⟩⟩
  · refine ⟨-u, -l, neg_ne_zero.2 hu0.ne', neg_ne_zero.2 hl0.ne', ⟨?_, ?_⟩, .inl ⟨hhigh, hlow⟩⟩
    · rw [Rat.cast_neg]
      exact neg_le_neg hAu
    · rw [Rat.cast_neg]
      exact neg_le_neg hlA.le

/-- A bounded result comes from two values that enclose the exact one. -/
theorem VsfFmt.bounded_enclosed (h : VsfFmt F G) {A : ℝ} {v : Nat} {x : Int} {w : Nat × Flags} (hA : 0 < A) (hnear : |A * spOne - v| ≤ 2 ^ 24 - 1)
    (hw : Outcome (bounded F neg v x) w) (hx : x = 0 ∨ spOne ≤ v) : Enclosed F (if neg then -(A * 2 ^ x) else A * 2 ^ x) w.1 w.2 := by
  rcases le_or_gt (2 ^ 168) v with hv | hv
  · exact h.enclosed_normal hnear hw hv
  · have hx0 : x = 0 := hx.resolve_right fun hle =>
      absurd (hle.trans_lt hv) (not_lt.2 (two_pow_le_spOne (by norm_num)))
    have hmid := le_midUnit_high hnear x
    rw [h.bounded_tiny hw hx0 hv]
    exact h.enclosed_tiny (mul_pos hA (zpow_pos two_pos x)) hmid (hx0 ▸ midUnit_high_small hv)

/-! ### 2^x -/

/-- The exact operand as a real number. -/
theorem operand_real {x : Rat} (hx : (Num.fin neg m q false).rat = some x) : (x : ℝ) = if neg then -((m : ℝ) * 2 ^ q) else m * 2 ^ q := by
  rw [Num.rat_fin, Option.some_inj] at hx
  rw [← hx]
  cases neg <;> simp

theorem rpow_huge {x : Rat} (hbig : (2 : Rat) ^ (10 : Int) ≤ x) : ((2 ^ (1024 : Int) : Rat) : ℝ) ≤ (2 : ℝ) ^ (x : ℝ) := by
  have hx : ((1024 : Int) : ℝ) ≤ x := by
    have h : ((1024 : Rat) : ℝ) ≤ (x : ℝ) := Rat.cast_le.2 (le_trans (by norm_num) hbig)
    exact_mod_cast h
  rw [Rat.cast_zpow, Rat.cast_ofNat, ← Real.rpow_intCast]
  exact Real.rpow_le_rpow_of_exponent_le one_le_two hx

theorem rpow_tiny {x : Rat} (hbig : (2 : Rat) ^ (10 : Int) ≤ -x) : (2 : ℝ) ^ (x : ℝ) ≤ ((2 ^ (-1024 : Int) : Rat) : ℝ) := by
  have hx : (x : ℝ) ≤ ((-1024 : Int) : ℝ) := by
    have h : ((1024 : Rat) : ℝ) ≤ ((-x : Rat) : ℝ) := Rat.cast_le.2 (le_trans (by norm_num) hbig)
    push_cast at h ⊢
    linarith
  rw [Rat.cast_zpow, Rat.cast_ofNat, ← Real.rpow_intCast]
  exact Real.rpow_le_rpow_of_exponent_le one_le_two hx

/-- Beyond the range every value near 2^x rounds alike. -/
theorem VsfFmt.exp2_huge_enclosed (h : VsfFmt F G) {x : Rat} {w : Nat × Flags} (hx : (Num.fin neg m q false).rat = some x)
    (hbig : (2 : Rat) ^ (10 : Int) ≤ m * 2 ^ q) (hw : Outcome (exp2Of F neg m q) w) : Enclosed F ((2 : ℝ) ^ (x : ℝ)) w.1 w.2 := by
  obtain ⟨-, hround⟩ := h.exp2_huge hbig hw
  rw [Num.rat_fin, Option.some_inj] at hx
  cases neg
  · rw [if_neg (by simp)] at hx
    obtain ⟨u, hu⟩ := exists_rat_gt ((2 : ℝ) ^ (x : ℝ))
    have hlow := rpow_huge (hx ▸ hbig)
    have hle : (2 : Rat) ^ (1024 : Int) ≤ u := by exact_mod_cast hlow.trans hu.le
    exact ⟨2 ^ (1024 : Int), u, (two_zpow_pos _).ne', ((two_zpow_pos _).trans_le hle).ne', ⟨hlow, hu.le⟩,
      .inl ⟨hround _ (by simp), hround _ (by simpa using hle)⟩⟩
  · rw [if_pos rfl] at hx
    have hhigh := rpow_tiny (x := x) (by rw [← hx, neg_neg]; exact hbig)
    have hu : (2 : Rat) ^ (-1024 : Int) < 2 ^ (-150 : Int) := two_zpow_lt (by norm_num)
    have := h.enclosed_tiny (neg := false) (Real.rpow_pos_of_pos two_pos (x : ℝ)) hhigh hu
    rw [exp2Of_huge hbig] at hw
    rw [hw.settled, if_pos rfl, h.exp2_beyond.2]
    exact this

theorem VsfFmt.exp2_enclosed (h : VsfFmt F G) (hq : -149 ≤ q) {x : Rat} {w : Nat × Flags} (hx : (Num.fin neg m q false).rat = some x)
    (hw : Outcome (exp2Of F neg m q) w) : Enclosed F ((2 : ℝ) ^ (x : ℝ)) w.1 w.2 := by
  have hU := spOne_real_pos
  rcases le_or_gt ((2 : Rat) ^ (10 : Int)) (m * 2 ^ q) with hbig | hsmall
  · exact h.exp2_huge_enclosed hx hbig hw
  have harg := exp2Arg_eq (neg := neg) (m := m) hq
  rw [Num.rat_fin, Option.some_inj] at hx
  rw [hx, ← spOne_eq] at harg
  rw [exp2Of_eq hsmall] at hw
  obtain ⟨r, hr⟩ : ∃ r, r = (exp2Arg neg m q % (spOne : Int)).toNat := ⟨_, rfl⟩
  obtain ⟨n, hn⟩ : ∃ n, n = exp2Arg neg m q / (spOne : Int) := ⟨_, rfl⟩
  have hspos : (0 : Int) < spOne := Int.natCast_pos.2 spOne_pos
  have hmod0 := Int.emod_nonneg (exp2Arg neg m q) hspos.ne'
  have hrI : (r : Int) = exp2Arg neg m q % (spOne : Int) := by rw [hr]; exact Int.toNat_of_nonneg hmod0
  have hrlt : r < spOne := by
    have := Int.emod_lt_of_pos (exp2Arg neg m q) hspos
    rw [← hrI] at this
    exact_mod_cast this
  have hsplit : exp2Arg neg m q = n * spOne + r := by
    rw [hrI, hn]
    exact (Int.mul_comm .. ▸ Int.mul_ediv_add_emod (exp2Arg neg m q) spOne).symm
  have hxr : (x : ℝ) = (r : ℝ) / spOne + n := by
    have h1 : (x : Rat) * spOne = n * spOne + r := by
      rw [← harg, hsplit]
      push_cast
      rfl
    have h2 : (x : ℝ) * spOne = n * spOne + r := by exact_mod_cast h1
    rw [← add_right_cancel_iff (a := (0 : ℝ)), add_zero, add_zero, div_add' _ _ _ hU.ne', eq_div_iff hU.ne', h2, add_comm]
  rw [← hr, ← hn] at hw
  by_cases hr0 : r = 0
  · rw [if_pos hr0] at hw
    rw [hw.settled]
    have hv : (2 : ℝ) ^ (x : ℝ) = (scaled 1 n : Rat) := by
      rw [hxr, hr0, scaled_eq]
      push_cast
      rw [zero_div, zero_add, one_mul, Real.rpow_intCast]
    exact enclosed_self (by rw [scaled_eq, Int.cast_one, one_mul]; exact (two_zpow_pos n).ne') hv (value_fits (pow_holds n)).2
  · rw [if_neg hr0] at hw
    obtain ⟨h1, h2⟩ := exp2_bounds hrlt
    have hv : (2 : ℝ) ^ (x : ℝ) = (2 : ℝ) ^ ((r : ℝ) / spOne) * 2 ^ n := by
      rw [hxr, Real.rpow_add two_pos, Real.rpow_intCast]
    rw [hv]
    refine h.bounded_enclosed (neg := false) (Real.rpow_pos_of_pos two_pos _) ?_ hw (.inr (spOne_le_expOf _))
    rw [abs_le]
    constructor <;> linarith

/-! ### Logarithms -/

theorem FloatFmt.decode_lt {b : Nat} {tail : Bool} (h : G.decode b = .fin neg m q tail) : m < 2 ^ (G.mb + 1) := by
  have hlt : b % 2 ^ G.mb < 2 ^ G.mb := Nat.mod_lt _ (by positivity)
  rw [pow_succ]
  unfold FloatFmt.decode at h
  dsimp only at h
  split at h
  · split at h <;> cases h
  split at h
  · cases h
  split at h
  · cases h
    omega
  · cases h
    omega

theorem VsfFmt.operand_lt (h : VsfFmt F G) {b : Nat} {tail : Bool} (hr : readNum F b = .fin neg m q tail) : m < 2 ^ 24 := by
  rw [readNum_float h.1] at hr
  exact (FloatFmt.decode_lt hr).trans_le (Nat.pow_le_pow_right (by norm_num) (by have := h.bounds.2.1; omega))

/-- A significand that is no power of two lies inside its binade, by at least one unit of 24 bits. -/
theorem logb_fraction (hm24 : m < 2 ^ 24) (hm : m ≠ 0) (hpow : m ≠ 2 ^ m.log2) :
    0 < Real.logb 2 ((m : ℝ) / (2 ^ m.log2 : Nat)) ∧ Real.logb 2 ((m : ℝ) / (2 ^ m.log2 : Nat)) ≤ 1 - 1 / 2 ^ 24 := by
  have hlo : 2 ^ m.log2 < m := lt_of_le_of_ne (Nat.log2_self_le hm) (Ne.symm hpow)
  have hhi : m + 1 ≤ 2 * 2 ^ m.log2 := by
    have := Nat.lt_log2_self (n := m)
    rw [pow_succ] at this
    omega
  have hL : 2 ^ m.log2 ≤ 2 ^ 23 := Nat.pow_le_pow_right (by norm_num) (Nat.lt_succ_iff.1 ((Nat.log2_lt hm).2 hm24))
  generalize 2 ^ m.log2 = D at *
  have hD0 : (0 : ℝ) < D := by
    have : 0 < D := by omega
    exact_mod_cast this
  have hlor : (D : ℝ) < m := by exact_mod_cast hlo
  have hhir : (m : ℝ) + 1 ≤ 2 * D := by exact_mod_cast hhi
  have hLr : (D : ℝ) ≤ 2 ^ 23 := by exact_mod_cast hL
  refine ⟨Real.logb_pos one_lt_two ((one_lt_div hD0).2 hlor), ?_⟩
  have hf : (m : ℝ) / D ≤ 2 * (1 - 1 / 2 ^ 24) := by
    rw [div_le_iff₀ hD0]
    linarith
  have hfpos : 0 < (m : ℝ) / D := div_pos (hD0.trans hlor) hD0
  obtain ⟨l1, l2⟩ := log_two_bounds
  have hlog : Real.log ((m : ℝ) / D) ≤ Real.log 2 - 1 / 2 ^ 24 := calc
    Real.log ((m : ℝ) / D) ≤ Real.log (2 * (1 - 1 / 2 ^ 24)) := Real.log_le_log hfpos hf
    _ = Real.log 2 + Real.log (1 - 1 / 2 ^ 24) := Real.log_mul (by norm_num) (by norm_num)
    _ ≤ Real.log 2 - 1 / 2 ^ 24 := by linarith [Real.log_le_sub_one_of_pos (show (0 : ℝ) < 1 - 1 / 2 ^ 24 by norm_num)]
  rw [Real.logb, div_le_iff₀ (by linarith)]
  linarith

theorem VsfFmt.log2_enclosed (h : VsfFmt F G) (hm24 : m < 2 ^ 24) (hm : m ≠ 0) {x : Rat} {w : Nat × Flags}
    (hx : (Num.fin false m q false).rat = some x) (hx1 : x ≠ 1) (hw : Outcome (log2Of F m q) w) : Enclosed F (Real.logb 2 (x : ℝ)) w.1 w.2 := by
  have hU := spOne_real_large
  have hxr := operand_real hx
  rw [if_neg (by simp)] at hxr
  rw [Num.rat_fin, if_neg (by simp), Option.some_inj] at hx
  by_cases hpow : m = 2 ^ m.log2
  · rw [log2Of, if_pos hpow] at hw
    rw [hw.settled]
    have hpowx : x = 2 ^ (q + m.log2 : Int) := by
      rw [← hx, two_zpow_add, mul_comm, zpow_natCast]
      congr 1
      exact_mod_cast hpow
    have hn : (q + m.log2 : Int) ≠ 0 := by
      intro h0
      rw [h0, zpow_zero] at hpowx
      exact hx1 hpowx
    have hv : Real.logb 2 (x : ℝ) = ((q + m.log2 : Int) : Rat) := by
      rw [hpowx, Rat.cast_zpow, Rat.cast_ofNat, logb_two_zpow]
      push_cast
      rfl
    exact enclosed_self (Int.cast_ne_zero.2 hn) hv (value_fits (Num.holds_of_rat (Num.rat_ofInt _) (Int.cast_ne_zero.2 hn))).2
  · rw [log2Of, if_neg hpow] at hw
    dsimp only at hw
    obtain ⟨hf0, hf1⟩ := logb_fraction hm24 hm hpow
    have hbound := log2_fraction_bounds hm
    have hval := logb_binade (q := q) hm
    rw [← hxr] at hval
    generalize Real.logb 2 ((m : ℝ) / (2 ^ m.log2 : Nat)) = L at *
    generalize lnRatio m (2 ^ m.log2) * spOne / spLn2 = W at *
    generalize q + (m.log2 : Int) = n at *
    obtain ⟨t, ht⟩ : ∃ t : Int, t = n * spOne + (W : Int) := ⟨_, rfl⟩
    rw [← ht] at hw
    have htr : (t : ℝ) = n * spOne + W := by rw [ht]; push_cast; rfl
    have hnear : |Real.logb 2 (x : ℝ) * spOne - t| ≤ 2 ^ 12 := by
      rw [hval, htr]
      have : ((n : ℝ) + L) * spOne - (n * spOne + W) = L * spOne - W := by ring
      rwa [this]
    have hsign : (t < 0 ↔ Real.logb 2 (x : ℝ) < 0) ∧ Real.logb 2 (x : ℝ) ≠ 0 := by
      rcases le_or_gt 0 n with hn | hn
      · have hn' : (0 : ℝ) ≤ n := by exact_mod_cast hn
        have hpos : 0 < Real.logb 2 (x : ℝ) := by rw [hval]; linarith
        have ht0 : 0 ≤ t := by rw [ht]; positivity
        exact ⟨iff_of_false (not_lt.2 ht0) (not_lt.2 hpos.le), hpos.ne'⟩
      · have hn' : (n : ℝ) ≤ -1 := by exact_mod_cast (by omega : n ≤ -1)
        have hneg : Real.logb 2 (x : ℝ) ≤ -(1 / 2 ^ 24) := by rw [hval]; linarith
        have ht0 : (t : ℝ) < 0 := by
          have := (abs_le.1 hnear).1
          nlinarith
        have hlt : Real.logb 2 (x : ℝ) < 0 := hneg.trans_lt (by norm_num)
        exact ⟨iff_of_true (by exact_mod_cast ht0) hlt, hlt.ne⟩
    obtain ⟨hiff, hne⟩ := hsign
    have habs : |(|Real.logb 2 (x : ℝ)|) * spOne - (t.natAbs : ℝ)| ≤ 2 ^ 24 - 1 := by
      have h1 : (t.natAbs : ℝ) = |(t : ℝ)| := by rw [Nat.cast_natAbs, Int.cast_abs]
      have h2 : |Real.logb 2 (x : ℝ)| * spOne = |Real.logb 2 (x : ℝ) * spOne| := by rw [abs_mul, abs_of_pos spOne_real_pos]
      rw [h1, h2]
      exact (abs_abs_sub_abs_le_abs_sub _ _).trans (hnear.trans (by norm_num))
    have := h.bounded_enclosed (abs_pos.2 hne) habs hw (.inl rfl)
    rw [zpow_zero, mul_one] at this
    have hv : (if decide (t < 0) = true then -|Real.logb 2 (x : ℝ)| else |Real.logb 2 (x : ℝ)|) = Real.logb 2 (x : ℝ) := by
      by_cases hlt : t < 0
      · rw [if_pos (by simpa using hlt), abs_of_neg (hiff.1 hlt), neg_neg]
      · rw [if_neg (by simpa using hlt), abs_of_nonneg (not_lt.1 (mt hiff.2 hlt))]
    rwa [hv] at this

/-! ### tanh and the sigmoid -/

theorem tanh_pos {x : ℝ} (hx : 0 < x) : 0 < Real.tanh x := by
  rw [Real.tanh_eq_sinh_div_cosh]
  exact div_pos (Real.sinh_pos_iff.2 hx) (Real.cosh_pos x)

theorem VsfFmt.tanh_enclosed (h : VsfFmt F G) (hq : -149 ≤ q) (hm : m ≠ 0) {x : Rat} {w : Nat × Flags} (hx : (Num.fin neg m q false).rat = some x)
    (hw : Outcome (tanhOf F neg m q) w) : Enclosed F (Real.tanh (x : ℝ)) w.1 w.2 := by
  have hpos : 0 < (m : ℝ) * 2 ^ q := mul_pos (Nat.cast_pos.2 (Nat.pos_of_ne_zero hm)) (zpow_pos two_pos q)
  have := h.bounded_enclosed (tanh_pos hpos) (tanh_bounds hq) hw (.inl rfl)
  rw [zpow_zero, mul_one] at this
  rw [operand_real hx]
  cases neg
  · exact this
  · rwa [if_pos rfl, Real.tanh_neg]

theorem VsfFmt.sigm_enclosed (h : VsfFmt F G) (hq : -149 ≤ q) {x : Rat} {w : Nat × Flags} (hx : (Num.fin neg m q false).rat = some x)
    (hw : Outcome (sigmOf F neg m q) w) : Enclosed F (1 / (1 + Real.exp (-(x : ℝ)))) w.1 w.2 := by
  have hpos : 0 < 1 / (1 + Real.exp (-(x : ℝ))) := by positivity
  have hb := sigm_bounds (m := m) neg hq
  rw [← operand_real hx] at hb
  have := h.bounded_enclosed (neg := false) hpos hb hw (.inl rfl)
  rwa [zpow_zero, mul_one] at this

/-! ### The statement -/

/-- The exact value that a VSF code names (R156). -/
noncomputable def vsfValue (fn : Nat) (x : ℝ) : ℝ :=
  match fn with
  | 0 => 2 ^ x
  | 1 => Real.logb 2 x
  | 5 => Real.tanh x
  | _ => 1 / (1 + Real.exp (-x))

theorem encloses_of_between {fn : Nat} (hfn : fn ∈ [0, 1, 5, 6]) {x p q : Rat} (h : (p : ℝ) ≤ vsfValue fn x ∧ vsfValue fn x ≤ q) :
    Encloses fn x p q := by
  simp only [List.mem_cons, List.mem_nil_iff, or_false] at hfn
  rcases hfn with rfl | rfl | rfl | rfl <;> simpa [Encloses, vsfValue] using h

/-- Every such function of a finite operand other than 0 gives the rounding of values that enclose the exact one. -/
theorem VsfFmt.vsf_enclosed (h : VsfFmt F G) {fn : Nat} (hfn : fn ∈ [0, 1, 5, 6]) (b : Nat) {w : Nat × Flags}
    (hw : Outcome (vsfBits fn F (readNum F b)) w) {x : Rat} (hx : (readNum F b).rat = some x) (hx0 : x ≠ 0) (hx1 : fn = 1 → 0 < x ∧ x ≠ 1) :
    Enclosed F (vsfValue fn x) w.1 w.2 := by
  obtain ⟨neg, m, q, hn, hval⟩ := Num.rat_eq_some hx
  have hq := h.le_expo hn
  have hm24 := h.operand_lt hn
  rw [hn] at hw hx
  have hm : m ≠ 0 := fun h0 => hx0 ((Num.rat_eq_zero_iff hx).2 h0)
  simp only [List.mem_cons, List.mem_nil_iff, or_false] at hfn
  rcases hfn with rfl | rfl | rfl | rfl
  · exact h.exp2_enclosed hq hx (by simpa [vsfBits, exp2Bits, hm] using hw)
  · obtain ⟨hpos, hne⟩ := hx1 rfl
    obtain rfl : neg = false := by
      cases neg
      · rfl
      · rw [if_pos rfl] at hval
        have : (0 : Rat) ≤ m * 2 ^ q := mul_nonneg (Nat.cast_nonneg m) (two_zpow_pos q).le
        linarith
    exact h.log2_enclosed hm24 hm hx hne (by simpa [vsfBits, log2Bits, hm] using hw)
  · exact h.tanh_enclosed hq hm hx (by simpa [vsfBits, tanhBits, hm] using hw)
  · exact h.sigm_enclosed hq hx (by simpa [vsfBits, sigmBits, hm] using hw)

/-- Settles O40: the series of the model lie within its bounds, so that two values that round as its results do enclose the exact one. -/
theorem specialFunctions : Obligations.SpecialFunctions := by
  intro s e F f fn a hcode hmem hve hsp hfn
  obtain ⟨hle, heq⟩ := ve_of_specialOf hsp hve
  obtain ⟨G, hG⟩ := VsfFmt.of_mem hmem
  rw [heq]
  obtain ⟨o, ho, -, hleaves⟩ := special_leaves (a := a) (fn := fn) (veCtx_fmt s e hcode) hmem
    (P := fun n b fl => VsfSpec F fn n b fl ∧ ∀ x, n.rat = some x → x ≠ 0 → (fn = 1 → 0 < x ∧ x ≠ 1) → Enclosed F (vsfValue fn x) b fl)
    fun b v hv => ⟨(hG.vsf_fits hle b hv).1, (hG.vsf_fits hle b hv).2, fun x hx hx0 hx1 => hG.vsf_enclosed hfn b hv hx hx0 hx1⟩
  refine ⟨o, ho, ?_⟩
  obtain ⟨hx, fl, hlanes, hflags⟩ := hleaves
  refine ⟨hx, fl, fun k hk => ⟨fun ha => ?_, (hlanes k hk).2⟩, hflags⟩
  obtain ⟨hspec, henc⟩ := (hlanes k hk).1 ha
  refine ⟨hspec, fun x hx hx0 hx1 => ?_⟩
  obtain ⟨p, q, hp, hq, hbetween, hround⟩ := henc x hx hx0 hx1
  exact ⟨p, q, hp, hq, encloses_of_between hfn hbetween, hround⟩

end Sys2Proof.Machine
end
